-- ==== Sys2Proof/Word.lean ====
section
/-! DEFINITION. The word types of the TS-4120 and their plainest arithmetic (R4, R5, R43). -/

namespace Sys2Proof

/-- A 64-bit register value (R43). -/
abbrev Word := BitVec 64

/-- One byte of memory (R5). -/
abbrev Byte := BitVec 8

/-- Bits [hi:lo] of a number, as a number (R5). -/
def bits (n hi lo : Nat) : Nat := n / 2 ^ lo % 2 ^ (hi + 1 - lo)

/-- Bit n of a number (R5). -/
def bit (n i : Nat) : Bool := n / 2 ^ i % 2 == 1

/-- Bits [hi:lo] of a word, as a number (R5). -/
def Word.field (w : Word) (hi lo : Nat) : Nat := bits w.toNat hi lo

/-- Bit i of a word (R5). -/
def Word.flag (w : Word) (i : Nat) : Bool := bit w.toNat i

/-- A number as a word, modulo 2^64. -/
def word (n : Nat) : Word := BitVec.ofNat 64 n

/-- A Bool as 0 or 1. -/
def b2n (b : Bool) : Nat := if b then 1 else 0

/-- The low `w` bits of `n` read as a two's complement integer (R76). -/
def signedOf (w n : Nat) : Int :=
  let m := n % 2 ^ w
  if 2 * m < 2 ^ w then (m : Int) else (m : Int) - (2 ^ w : Nat)

/-- An integer taken modulo 2^w (R76). -/
def wrapTo (w : Nat) (x : Int) : Nat := (x % (2 ^ w : Nat)).toNat

/-- Number ⌈n / d⌉. -/
def ceilDiv (n d : Nat) : Nat := (n + d - 1) / d

end Sys2Proof
end

