-- ==== Sys2Proof/Operand.lean ====
section
/-! DEFINITION. The operand types of the instructions and of the events of the opcode table (R16, R99, R100). -/

namespace Sys2Proof

/-- A scalar register s0 to s31 (R43). -/
abbrev SReg := BitVec 5
/-- A vector name v0 to v63 (R57). -/
abbrev VName := BitVec 6
/-- A mask register m0 to m7 (R65). -/
abbrev MReg := BitVec 3
/-- An FMT slot 0 to 15 (R86). -/
abbrev Slot := BitVec 4

/-- The four IEEE formats (R77), with the codes of R110. -/
inductive FFmt where
  | fp16 | bf16 | fp32 | fp64
  deriving DecidableEq, Repr

/-- The scalar types of FCVT (R110): codes 0 to 7. -/
inductive CvtTy where
  | fp16 | bf16 | fp32 | fp64 | int32 | uint32 | int64 | uint64
  deriving DecidableEq, Repr

/-- Fence scopes (R273, R283). -/
inductive Scope where
  | core | die | pkg | sys
  deriving DecidableEq, Repr

/-- Who writes a device register: the host through its bridge (HOSTS = 1, R388), Barista, or the
resident kernel of a front through a mapping (R235, R423). -/
inductive Src where
  | host | barista | kernel
  deriving DecidableEq, Repr

/-- One message of the fabric (R385). `src` and `host` are SRCP and HOSTS of its flit (R384). -/
structure Msg where
  cls  : Nat
  tag  : Nat
  len  : Nat
  addr : Nat
  data : List Byte
  src  : Nat
  host : Bool
  deriving DecidableEq, Repr

/-- Where a scrubbed value stands: a plane cell, its tag, or a carafe value (R375). -/
inductive Storage where
  | cell | tag | carafe
  deriving DecidableEq, Repr

/-- What the scrubber finds in one value: plane row, or carafe row, and physical lane, and whether SECDED could correct it (R375). -/
structure Found where
  store : Storage
  row   : Nat
  lane  : Nat
  fixed : Bool
  deriving DecidableEq, Repr

/-- A run of physical addresses: the first, and how many. -/
structure ByteRun where
  addr : Nat
  len  : Nat
  deriving DecidableEq, Repr

/-- The bytes of the serial flash as the boot ROM of each of the two Barista cores reads them: a header of 4,096 bytes, and code (R418). -/
structure Image where
  first  : List Byte
  second : List Byte
  deriving DecidableEq, Repr

end Sys2Proof
end

