-- ==== Sys2Proof/Machine/Fp.lean ====
section
/-! DEFINITION. Exact arithmetic and rounding: the IEEE formats (R77, R78), Round (R83, R426), Mix32 (R84), the special cases of
R139 to R142 and R178, and CRC-32C and digest mixing (R98, R246). A real is held exactly, as sign, significand and exponent, with a sticky bit
for what lies strictly between two neighbouring significands. -/

namespace Sys2Proof.Fp

/-- An exact value: NaN (signalling or quiet), infinity, or (−1)^neg × m × 2^e plus, when `sticky`, something strictly
between 0 and 2^e away from zero. -/
inductive Val where
  | nan (sig : Bool)
  | inf (neg : Bool)
  | fin (neg : Bool) (m : Nat) (e : Int) (sticky : Bool)
  deriving DecidableEq, Repr

/-- FFLAGS bits of R81, as a number. -/
abbrev Flags := Nat
def NX : Flags := 1
def UF : Flags := 2
def OF : Flags := 4
def DZ : Flags := 8
def NV : Flags := 16
def SATF : Flags := 32

/-- Width, exponent bits and mantissa bits of an IEEE format (R77). -/
def width : FFmt → Nat
  | .fp16 => 16 | .bf16 => 16 | .fp32 => 32 | .fp64 => 64
def ebits : FFmt → Nat
  | .fp16 => 5 | .bf16 => 8 | .fp32 => 8 | .fp64 => 11
def mbits : FFmt → Nat
  | .fp16 => 10 | .bf16 => 7 | .fp32 => 23 | .fp64 => 52
def bias : FFmt → Int
  | .fp16 => 15 | .bf16 => 127 | .fp32 => 127 | .fp64 => 1023

/-- The canonical NaN of a format (R77, R78). -/
def canonNaN (f : FFmt) : Nat := (2 ^ ebits f - 1) * 2 ^ mbits f + 2 ^ (mbits f - 1)

/-- Infinity of a sign (R77). -/
def infBits (f : FFmt) (neg : Bool) : Nat := b2n neg * 2 ^ (width f - 1) + (2 ^ ebits f - 1) * 2 ^ mbits f

/-- Zero of a sign. -/
def zero (neg : Bool) : Val := .fin neg 0 0 false

/-- The value of a code of an IEEE format (R77, R78). -/
def decode (f : FFmt) (c : Nat) : Val :=
  let s := bit c (width f - 1)
  let e := bits c (width f - 2) (mbits f)
  let m := c % 2 ^ mbits f
  if e = 2 ^ ebits f - 1 then
    if m = 0 then .inf s else .nan (m < 2 ^ (mbits f - 1))
  else if e = 0 then .fin s m (1 - bias f - mbits f) false
  else .fin s (m + 2 ^ mbits f) (e - bias f - mbits f) false

/-- Whether a code is a non-zero subnormal. -/
def isSub (f : FFmt) (c : Nat) : Bool := bits c (width f - 2) (mbits f) == 0 && c % 2 ^ mbits f != 0

/-- FZI: subnormal FP32, BF16 and FP16 operands read as zero of their sign; FP64 is never flushed (R80, R85). -/
def operand (f : FFmt) (fzi : Bool) (c : Nat) : Val :=
  if fzi && f != .fp64 && isSub f c then zero (bit c (width f - 1)) else decode f c

/-- Rounding modes of FCR.RM (R80). -/
inductive Mode where
  | rne | rtz | rup | rdn | dither
  deriving DecidableEq, Repr

/-- FCR.RM decoded; 5 to 7 are never held (R80). -/
def modeOf : Nat → Mode
  | 0 => .rne | 1 => .rtz | 2 => .rup | 3 => .rdn | _ => .dither

/-- Everything Round reads besides the value: the mode, FZI, FZO, and for DITHER the seed and the step (R80, R83, R84). -/
structure Env where
  rm   : Mode
  fzi  : Bool
  fzo  : Bool
  seed : Nat
  step : Nat
  deriving DecidableEq, Repr

/-- Round to nearest even with no flushing: training jobs, collectives (R317, R394). -/
def rneEnv : Env := ⟨.rne, false, false, 0, 0⟩

/-- Mix32 of R84. -/
def mix32 (seed step i j : Nat) : Nat :=
  let M := 2 ^ 32
  let h := Nat.xor (seed % M) (step * 0x9E3779B1 % M)
  let h := Nat.xor (Nat.xor h (i * 0x85EBCA77 % M)) (j * 0xC2B2AE3D % M)
  let h := Nat.xor h (h / 2 ^ 16)
  let h := h * 0x7FEB352D % M
  let h := Nat.xor h (h / 2 ^ 15)
  let h := h * 0x846CA68B % M
  Nat.xor h (h / 2 ^ 16)

/-- Pick of R83: whether the candidate farther from zero is chosen. The value lies `num / den` of the way from the nearer to the
farther candidate (plus the sticky part), 0 < that < 1. -/
def pickAway (env : Env) (neg evenA : Bool) (num den : Nat) (sticky : Bool) (i j : Nat) : Bool :=
  match env.rm with
  | .rne => if 2 * num > den then true else if 2 * num < den then false else sticky || !evenA
  | .rtz => false
  | .rup => !neg
  | .rdn => neg
  | .dither => num * 2 ^ 32 / den + mix32 env.seed (env.step % 2 ^ 32) i j ≥ 2 ^ 32

/-- The value written on a grid of step 2^q: quotient and the remainder as num/den, with room below so that a sticky bit never
changes the first 32 bits of the fraction. -/
def onGrid (m : Nat) (e q : Int) : Nat × Nat × Nat :=
  let e' := min e (q - 40)
  let m' := m * 2 ^ (e - e').toNat
  let den := 2 ^ (q - e').toNat
  (m' / den, m' % den, den)

/-- Exponent of the leading bit of m × 2^e, m > 0. -/
def lead (m : Nat) (e : Int) : Int := (Nat.log2 m : Int) + e

/-- Round of R83 to an IEEE format: the code and its flags. An exact infinity is returned as it is, with no flag (log 13). -/
def round (f : FFmt) (env : Env) (i j : Nat) (x : Val) : Nat × Flags :=
  match x with
  | .nan sig => (canonNaN f, if sig then NV else 0)
  | .inf s => (infBits f s, 0)
  | .fin s m e st =>
    let sb := b2n s * 2 ^ (width f - 1)
    if m = 0 then (sb, 0) else
    let mb : Int := mbits f
    let q := max (lead m e) (1 - bias f) - mb
    let (k, num, den) := onGrid m e q
    let exact := num == 0 && !st
    let k' := if !exact && pickAway env s (k % 2 == 0) num den st i j then k + 1 else k
    let fl := if exact then 0 else NX
    if k' = 0 then (sb, fl) else
    let top := lead k' q
    if top > bias f then
      let away := match env.rm with
        | .rne => true | .dither => true | .rtz => false | .rup => !s | .rdn => s
      (if away then infBits f s else infBits f s - 1, fl ||| OF ||| NX)
    else if top < 1 - bias f then
      let fl := if fl = 0 then 0 else fl ||| UF
      if env.fzo && f != .fp64 then (sb, fl ||| UF ||| NX) else (sb + k', fl)
    else
      let n := k' / 2 ^ (top - mb - q).toNat
      (sb + ((top + bias f).toNat - 1) * 2 ^ mbits f + n, fl)

/-- The invalid result. -/
def invalid : Val × Flags := (.nan false, NV)

/-- NV for signalling NaN operands (R78). -/
def sigFlag : List Val → Flags
  | [] => 0
  | .nan true :: _ => NV
  | _ :: t => sigFlag t

def isNaN : Val → Bool
  | .nan _ => true
  | _ => false

def negate : Val → Val
  | .nan s => .nan s
  | .inf s => .inf (!s)
  | .fin s m e st => .fin (!s) m e st

/-- The exact sum of two signed significands at one exponent; an exact zero is +0, or −0 under RDN, unless both operands have one
sign (R83). -/
def addFin (rm : Mode) (s₁ : Bool) (m₁ : Nat) (e₁ : Int) (s₂ : Bool) (m₂ : Nat) (e₂ : Int) : Val :=
  let e := min e₁ e₂
  let a : Int := (m₁ * 2 ^ (e₁ - e).toNat : Nat)
  let b : Int := (m₂ * 2 ^ (e₂ - e).toNat : Nat)
  let v := (if s₁ then -a else a) + (if s₂ then -b else b)
  if v = 0 then zero (if s₁ == s₂ then s₁ else rm == .rdn)
  else .fin (v < 0) v.natAbs e false

/-- Exact addition (R139). -/
def add (rm : Mode) (x y : Val) : Val × Flags :=
  match x, y with
  | .nan a, y => (.nan false, if a then NV else sigFlag [y])
  | x, .nan b => (.nan false, if b then NV else sigFlag [x])
  | .inf a, .inf b => if a == b then (.inf a, 0) else invalid
  | .inf a, .fin .. => (.inf a, 0)
  | .fin .., .inf b => (.inf b, 0)
  | .fin s₁ m₁ e₁ _, .fin s₂ m₂ e₂ _ => (addFin rm s₁ m₁ e₁ s₂ m₂ e₂, 0)

/-- Exact multiplication (R139). -/
def mul (x y : Val) : Val × Flags :=
  match x, y with
  | .nan a, y => (.nan false, if a then NV else sigFlag [y])
  | x, .nan b => (.nan false, if b then NV else sigFlag [x])
  | .inf a, .inf b => (.inf (a != b), 0)
  | .inf a, .fin b m _ _ => if m = 0 then invalid else (.inf (a != b), 0)
  | .fin a m _ _, .inf b => if m = 0 then invalid else (.inf (a != b), 0)
  | .fin s₁ m₁ e₁ _, .fin s₂ m₂ e₂ _ => (.fin (s₁ != s₂) (m₁ * m₂) (e₁ + e₂) false, 0)

/-- x × y + d, exact: inf × 0 gives NV whatever d holds (R139, R178). -/
def fma (rm : Mode) (x y d : Val) : Val × Flags :=
  let (p, f₁) := mul x y
  let (r, f₂) := add rm p d
  (r, f₁ ||| f₂)

/-- Extra bits carried by quotients and roots. -/
def extra : Nat := 160

/-- x / y (R139). -/
def div (x y : Val) : Val × Flags :=
  match x, y with
  | .nan a, y => (.nan false, if a then NV else sigFlag [y])
  | x, .nan b => (.nan false, if b then NV else sigFlag [x])
  | .inf _, .inf _ => invalid
  | .inf a, .fin b _ _ _ => (.inf (a != b), 0)
  | .fin a _ _ _, .inf b => (zero (a != b), 0)
  | .fin s₁ m₁ e₁ _, .fin s₂ m₂ e₂ _ =>
    if m₂ = 0 then (if m₁ = 0 then invalid else (.inf (s₁ != s₂), DZ))
    else if m₁ = 0 then (zero (s₁ != s₂), 0)
    else
      let k := extra + Nat.log2 m₂
      let n := m₁ * 2 ^ k
      (.fin (s₁ != s₂) (n / m₂) (e₁ - e₂ - k) (n % m₂ != 0), 0)

/-- Newton's iteration for the integer square root, from above, `fuel` steps. -/
def isqrtLoop (n : Nat) : Nat → Nat → Nat
  | 0, x => x
  | fuel + 1, x =>
    let y := (x + n / x) / 2
    if y < x then isqrtLoop n fuel y else x

/-- ⌊√n⌋. -/
def isqrt (n : Nat) : Nat := if n = 0 then 0 else isqrtLoop n (Nat.log2 n + 2) (2 ^ (Nat.log2 n / 2 + 1))

/-- √x (R139). -/
def sqrt (x : Val) : Val × Flags :=
  match x with
  | .nan a => (.nan false, if a then NV else 0)
  | .inf s => if s then invalid else (.inf false, 0)
  | .fin s m e _ =>
    if m = 0 then (zero s, 0) else if s then invalid else
    let k := 2 * extra + (if (e - 2 * extra) % 2 = 0 then 0 else 1)
    let n := m * 2 ^ k
    let r := isqrt n
    (.fin false r ((e - k) / 2) (r * r != n), 0)

/-- 1 / √x (R178). -/
def rsqrt (x : Val) : Val × Flags :=
  match x with
  | .nan a => (.nan false, if a then NV else 0)
  | .inf s => if s then invalid else (zero false, 0)
  | .fin s m e _ =>
    if m = 0 then (.inf s, DZ) else if s then invalid else
    let k := 2 * (extra + Nat.log2 m) + (if e % 2 = 0 then 0 else 1)
    let n := 2 ^ k
    let y := n / m
    let r := isqrt y
    (.fin false r (-(e + k) / 2) (r * r != y || n % m != 0), 0)

/-- Fixed-point precision of the transcendental functions (log 14). -/
def prec : Nat := 1400

/-- Σ terms of the series for ln((1+z)/(1-z)) / 2, z = z / 2^prec, `fuel` odd terms. -/
def atanhLoop (z2 : Nat) : Nat → Nat → Nat → Nat → Nat
  | 0, _, _, acc => acc
  | fuel + 1, n, t, acc => atanhLoop z2 fuel (n + 2) (t * z2 / 2 ^ prec) (acc + t / n)

/-- ln(m / 2^b) × 2^prec for 2^b ≤ m < 2^(b+1). -/
def lnFix (m b : Nat) : Nat :=
  let one := 2 ^ b
  let z := (m - one) * 2 ^ prec / (m + one)
  2 * atanhLoop (z * z / 2 ^ prec) 460 1 z 0

/-- ln 2 × 2^prec, as ln(4/3) + ln(3/2) = 2 atanh(1/7) + 2 atanh(1/5). -/
def ln2Fix : Nat :=
  2 * atanhLoop (2 ^ prec / 49) 460 1 (2 ^ prec / 7) 0 + 2 * atanhLoop (2 ^ prec / 25) 460 1 (2 ^ prec / 5) 0

/-- Σ terms of exp(y), y = y / 2^prec, `fuel` terms. -/
def expLoop (y : Nat) : Nat → Nat → Nat → Nat → Nat
  | 0, _, _, acc => acc
  | fuel + 1, n, t, acc =>
    let t' := t * y / 2 ^ prec / n
    expLoop y fuel (n + 1) t' (acc + t')

/-- 2^x, correctly rounded by the caller (R178, log 14). -/
def exp2 (x : Val) : Val × Flags :=
  match x with
  | .nan a => (.nan false, if a then NV else 0)
  | .inf s => (if s then zero false else .inf false, 0)
  | .fin s m e _ =>
    if m = 0 then (.fin false 1 0 false, 0)
    else if lead m e > 14 then (.fin false 1 (if s then -70000 else 70000) true, 0)
    else
      let (k, num, den) := onGrid m e 0
      if num = 0 then (.fin false 1 (if s then -(k : Int) else k) false, 0)
      else
        let (n, fr) : Int × Nat := if s then (-(k : Int) - 1, den - num) else (k, num)
        let y := fr * ln2Fix / den
        (.fin false (expLoop y 260 1 (2 ^ prec) (2 ^ prec)) (n - prec) true, 0)

/-- log2 x, correctly rounded by the caller (R178, log 14). -/
def log2 (x : Val) : Val × Flags :=
  match x with
  | .nan a => (.nan false, if a then NV else 0)
  | .inf s => if s then invalid else (.inf false, 0)
  | .fin s m e _ =>
    if m = 0 then (.inf true, DZ) else if s then invalid else
    let b := Nat.log2 m
    let n : Int := (b : Int) + e
    if m = 2 ^ b then
      (if n = 0 then zero false else .fin (n < 0) n.natAbs 0 false, 0)
    else
      let fr : Int := (lnFix m b * 2 ^ prec / ln2Fix : Nat)
      let v := n * (2 ^ prec : Nat) + fr
      (.fin (v < 0) v.natAbs (-(prec : Int)) true, 0)

/-- Comparison of two finite or infinite values; −0 equals +0 here. -/
def cmp (x y : Val) : Option Ordering :=
  match x, y with
  | .nan _, _ => none
  | _, .nan _ => none
  | .inf a, .inf b => some (if a == b then .eq else if a then .lt else .gt)
  | .inf a, .fin .. => some (if a then .lt else .gt)
  | .fin .., .inf b => some (if b then .gt else .lt)
  | .fin s₁ m₁ e₁ _, .fin s₂ m₂ e₂ _ =>
    let e := min e₁ e₂
    let a : Int := (m₁ * 2 ^ (e₁ - e).toNat : Nat)
    let b : Int := (m₂ * 2 ^ (e₂ - e).toNat : Nat)
    some (compare (if s₁ then -a else a) (if s₂ then -b else b))

/-- FZI applied to a code that is returned unrounded (R140). -/
def flushCode (f : FFmt) (fzi : Bool) (c : Nat) : Nat :=
  if fzi && f != .fp64 && isSub f c then b2n (bit c (width f - 1)) * 2 ^ (width f - 1) else c

/-- FMIN and FMAX of R140 on codes; −0 is less than +0. -/
def minMax (f : FFmt) (fzi isMax : Bool) (a b : Nat) : Nat × Flags :=
  let a := flushCode f fzi (a % 2 ^ width f)
  let b := flushCode f fzi (b % 2 ^ width f)
  let x := decode f a
  let y := decode f b
  let fl := sigFlag [x, y]
  match isNaN x, isNaN y with
  | true, true => (canonNaN f, fl)
  | true, false => (b, fl)
  | false, true => (a, fl)
  | false, false =>
    let aLess := match cmp x y with
      | some .lt => true
      | some .gt => false
      | _ => bit a (width f - 1)
    (if aLess != isMax then a else b, fl)

/-- Bit reversal of n within w bits. -/
def reflect (w n : Nat) : Nat := (List.range w).foldl (fun a i => a * 2 + n / 2 ^ i % 2) 0

/-- One byte of the reflected CRC-32C (R246). -/
def crcByte (c : Nat) (b : Byte) : Nat :=
  (List.range 8).foldl (fun c _ => if c % 2 = 1 then Nat.xor (c / 2) 0x82F63B78 else c / 2) (Nat.xor c b.toNat)

/-- CRC-32C of a list of bytes (R246); 0x82F6_3B78 is 0x1EDC_6F41 reflected. -/
def crc32c (bs : List Byte) : Nat := Nat.xor (bs.foldl crcByte 0xFFFFFFFF) 0xFFFFFFFF

/-- Mix64 of R98. -/
def mix64 (z : Nat) : Nat :=
  let M := 2 ^ 64
  let z := Nat.xor z (z / 2 ^ 30) * 0xBF58476D1CE4E5B9 % M
  let z := Nat.xor z (z / 2 ^ 27) * 0x94D049BB133111EB % M
  Nat.xor z (z / 2 ^ 31)

/-- DigestTerms of R98: (hi, lo). -/
def digestTerms (b crc : Nat) : Nat × Nat :=
  let M := 2 ^ 64
  let lo := mix64 ((Nat.xor (b * 2 ^ 32 % M) crc + 0x9E3779B97F4A7C15) % M)
  let hi := mix64 (Nat.xor (Nat.xor (crc * 2 ^ 32 % M) (b % M)) 0xD6E8FEB86659FD93)
  (hi, lo)

end Sys2Proof.Fp
end

