-- ==== Sys2Proof/Machine/Narrow.lean ====
section
/-! DEFINITION. FMT slots (R86, R87), narrow codes (R89), Sat (R91), bit planes (R92), and the fixed formats by id (R62, R79). -/

namespace Sys2Proof.Machine
open Fp (Val Flags Env)

/-! ### Fields of an FMT slot (R86) -/

def nW (f : Word) : Nat := f.field 3 0
def nSign (f : Word) : Bool := f.flag 4
def nE (f : Word) : Nat := f.field 8 5
def nM (f : Word) : Nat := f.field 12 9
def nBias (f : Word) : Int := signedOf 8 (f.field 20 13)
def nInf (f : Word) : Bool := f.flag 21
def nNan (f : Word) : Nat := f.field 23 22
def nCode (f : Word) : Nat := f.field 31 24
def nMask (f : Word) : Nat := f.field 39 32
def nDnz (f : Word) : Bool := f.flag 40
def nSat (f : Word) : Bool := f.flag 41
def nBlock (f : Word) : Nat := f.field 43 42
/-- Elements of a block (R93). -/
def blockLen (f : Word) : Nat := if nBlock f = 1 then 16 else 32

/-- A reserved code (R89). -/
def nReserved (f : Word) (c : Nat) : Bool := nMask f != 0 && Nat.land c (nMask f) == Nat.land (nCode f) (nMask f)

/-- A slot value that MTC accepts (R87); bits above the map read as zero before the check. -/
def slotValid (f : Word) : Bool :=
  if nW f = 0 then f.field 43 4 == 0
  else
    decide (2 ≤ nW f ∧ nW f ≤ 8) && b2n (nSign f) + nE f + nM f == nW f &&
    (nE f != 0 || (nBias f == 0 && !nInf f && !nDnz f && (nNan f == 0 || nNan f == 2))) &&
    (!nInf f || (decide (2 ≤ nE f) && (nNan f != 1 || decide (1 ≤ nM f)))) &&
    (nNan f != 2 || nSign f) && nNan f != 3 && nBlock f != 3 &&
    nCode f / 2 ^ nW f == 0 && nMask f / 2 ^ nW f == 0 && !nReserved f 0

/-- The magnitude part of a code: exponent and mantissa bits. -/
def nMag (f : Word) (c : Nat) : Nat := c % 2 ^ (nE f + nM f)

/-- The value of a code (R89); `none` where the code is reserved. A NaN code is quiet: it raises no NV by itself (DEDUCED, log 70). -/
def nDecode (f : Word) (c : Nat) : Option Val :=
  let em := nMag f c
  let e := em / 2 ^ nM f
  let m := em % 2 ^ nM f
  let s := nSign f && bit c (nW f - 1)
  if nReserved f c then none
  else if nNan f = 1 ∧ em = 2 ^ (nE f + nM f) - 1 then some (.nan false)
  else if nNan f = 2 ∧ c = 2 ^ (nW f - 1) then some (.nan false)
  else if nInf f ∧ e = 2 ^ nE f - 1 ∧ m = 0 then some (.inf s)
  else if nE f = 0 then
    let v := if nSign f then signedOf (nW f) c else (c : Int)
    some (.fin (v < 0) v.natAbs 0 false)
  else if e = 0 then some (if nDnz f then Fp.zero s else .fin s m (1 - nBias f - nM f) false)
  else some (.fin s (2 ^ nM f + m) (e - nBias f - nM f) false)

/-! ### Sat (R91) -/

/-- What Sat returns: the code, the offender bit and the flags. -/
structure SatRes where
  code  : Nat
  off   : Bool
  flags : Flags
  deriving DecidableEq, Repr

/-- The next integer toward zero whose code is not reserved. -/
def stepInt (rsv : Int → Bool) (y : Int) (fuel : Nat) : Int × Bool :=
  match fuel with
  | 0 => (0, true)
  | n + 1 => if rsv y then ((stepInt rsv (if y < 0 then y + 1 else y - 1) n).1, true) else (y, false)

/-- The integer branch of Sat, to codes of `w` bits from `lo` to `hi`. -/
def satInt (env : Env) (w : Nat) (lo hi : Int) (rsv : Int → Bool) (nanCode : Option Nat) (i j : Nat) (x : Val) : SatRes :=
  match x with
  | .nan sig =>
    match nanCode with
    | some c => ⟨c, false, if sig then Fp.NV else 0⟩
    | none => ⟨0, true, Fp.NV ||| Fp.SATF⟩
  | .inf s => ⟨wrapTo w (if s then lo else hi), true, Fp.NV ||| Fp.SATF⟩
  | .fin s m e st =>
    let (k, num, den) := Fp.onGrid m e 0
    let exact := num == 0 && !st
    let k := if !exact && Fp.pickAway env s (k % 2 == 0) num den st i j then k + 1 else k
    let y : Int := if s then -(k : Int) else k
    if y < lo then ⟨wrapTo w lo, true, Fp.NV ||| Fp.SATF⟩
    else if hi < y then ⟨wrapTo w hi, true, Fp.NV ||| Fp.SATF⟩
    else
      let (z, off) := stepInt rsv y 257
      ⟨wrapTo w z, off, (if exact then 0 else Fp.NX) ||| (if off then Fp.SATF else 0)⟩

/-- Sat to INTw or UINTw. -/
def satFixed (env : Env) (w : Nat) (signed : Bool) (i j : Nat) (x : Val) : SatRes :=
  if signed then satInt env w (-(2 ^ (w - 1) : Nat)) ((2 ^ (w - 1) : Nat) - 1) (fun _ => false) none i j x
  else satInt env w 0 ((2 ^ w : Nat) - 1) (fun _ => false) none i j x

/-- The integer values of the codes of a slot with E = 0 that are neither reserved nor the NaN code. -/
def intVals (f : Word) : List Int :=
  (List.range (2 ^ nW f)).filterMap fun c =>
    match nDecode f c with
    | some (.fin s m _ _) => some (if s then -(m : Int) else m)
    | _ => none

/-- The finite magnitudes of a floating slot: (code without sign, value in units of 2^(1 − BIAS − M)), rising. Reserved codes are on
the grid; NaN and infinity codes are not. -/
def magGrid (f : Word) : List (Nat × Nat) :=
  (List.range (2 ^ (nE f + nM f))).filterMap fun c =>
    let e := c / 2 ^ nM f
    let m := c % 2 ^ nM f
    if nNan f = 1 ∧ c = 2 ^ (nE f + nM f) - 1 then none
    else if nInf f ∧ e = 2 ^ nE f - 1 ∧ m = 0 then none
    else some (c, if e = 0 then m else (2 ^ nM f + m) * 2 ^ (e - 1))

/-- The largest magnitude whose positive code is not reserved: max of R89, in the units of `magGrid`. -/
def magMax (f : Word) : Nat × Nat :=
  (magGrid f).foldl (fun a p => if nReserved f p.1 || (nDnz f && p.2 != 0 && decide (p.2 < 2 ^ nM f)) then a else p) (0, 0)

/-- The neighbours of `k` on the grid: the last pair at or below it, and the value of the next. DESIGN CHOICE (log
62): the value after the largest one is one unit of the top binade above it. -/
def gridFind (step : Nat) (a : Nat × Nat) (g : List (Nat × Nat)) (k : Nat) : (Nat × Nat) × Nat :=
  match g with
  | [] => (a, a.2 + step)
  | p :: r => if p.2 ≤ k then gridFind step p r k else (a, p.2)

/-- The code of the magnitude `v` on the grid. -/
def gridCode (g : List (Nat × Nat)) (v : Nat) : Option Nat := (g.find? fun p => p.2 == v).map (·.1)

/-- From the magnitude `v` toward zero to a code that is not reserved, ending at code 0; subnormals count as zero under DNZ. -/
def stepMag (f : Word) (sb : Nat) (down : List (Nat × Nat)) (v : Nat) : Nat × Bool :=
  match down with
  | [] => (0, true)
  | (c, g) :: r =>
    if g > v then stepMag f sb r v
    else if nDnz f ∧ 0 < g ∧ g < 2 ^ nM f then stepMag f sb r v
    else
      let code := if g = 0 ∧ nNan f = 2 then 0 else sb + c
      if nReserved f code then ((stepMag f sb r v).1, true) else (code, false)

/-- Sat to a floating narrow slot. DESIGN CHOICE (log 61): of an RNE tie whose candidates are both odd, across the infinity of a slot, the
farther one is taken. -/
def satFloat (f : Word) (env : Env) (i j : Nat) (x : Val) : SatRes :=
  let g := magGrid f
  let mx := magMax f
  let top := g.getLastD (0, 0)
  let step := 2 ^ (top.1 / 2 ^ nM f - 1)
  let ge : Int := 1 - nBias f - nM f
  let sbOf (s : Bool) : Nat := if nSign f && s then 2 ^ (nW f - 1) else 0
  let infCode := (2 ^ nE f - 1) * 2 ^ nM f
  let maxCode (s : Bool) : Nat := if mx.2 = 0 ∧ nNan f = 2 then 0 else sbOf s + mx.1
  match x with
  | .nan sig =>
    let fl := if sig then Fp.NV else 0
    if nNan f = 1 then ⟨2 ^ (nE f + nM f) - 1, false, fl⟩
    else if nNan f = 2 then ⟨2 ^ (nW f - 1), false, fl⟩
    else ⟨mx.1, true, Fp.NV ||| Fp.SATF⟩
  | .inf s =>
    if s && !nSign f then ⟨0, true, Fp.SATF⟩
    else if nInf f then ⟨sbOf s + infCode, false, 0⟩ else ⟨maxCode s, true, Fp.SATF⟩
  | .fin s m e st =>
    if s && !nSign f then (if m = 0 ∧ !st then ⟨0, false, 0⟩ else ⟨0, true, Fp.SATF⟩)
    else
      let (k, num, den) := Fp.onGrid m e ge
      let (a, b) := gridFind step (0, 0) g k
      let beyond := decide (a = top ∧ b ≤ k)
      let exact := a.2 == k && num == 0 && !st
      let away := beyond || (!exact && Fp.pickAway env s (a.1 % 2 == 0) ((k - a.2) * den + num) ((b - a.2) * den) st i j)
      let y := if away then b else a.2
      let fl := if exact then 0 else Fp.NX
      let fl := if !exact && y != 0 && decide (y < 2 ^ nM f) then fl ||| Fp.UF else fl
      let flush := nDnz f && y != 0 && decide (y < 2 ^ nM f)
      let y := if flush then 0 else y
      let fl := if flush then fl ||| Fp.UF ||| Fp.NX else fl
      if mx.2 < y then
        if !nSat f && nInf f then ⟨sbOf s + infCode, true, fl ||| Fp.OF ||| Fp.NX⟩
        else ⟨maxCode s, true, fl ||| Fp.OF ||| Fp.NX ||| Fp.SATF⟩
      else
        let (c, off) := stepMag f (sbOf s) g.reverse y
        ⟨c, off, fl ||| (if off then Fp.SATF else 0)⟩

/-- Sat to an FMT slot (R91). -/
def satSlot (f : Word) (env : Env) (i j : Nat) (x : Val) : SatRes :=
  if nE f = 0 then
    let vs := intVals f
    let code (y : Int) : Nat := wrapTo (nW f) y
    satInt env (nW f) (vs.foldl min 0) (vs.foldl max 0) (fun y => nReserved f (code y))
      (if nNan f = 2 then some (2 ^ (nW f - 1)) else none) i j x
  else satFloat f env i j x

/-! ### Bit planes (R92) -/

/-- The planes of a code width: element width, lowest code bit, PART. -/
def planesOf (w : Nat) : List (Nat × Nat × Nat) :=
  match w with
  | 3 => [(2, 1, 2), (1, 0, 3)]
  | 5 => [(4, 1, 1), (1, 0, 3)]
  | 6 => [(4, 2, 1), (2, 0, 2)]
  | 7 => [(4, 3, 1), (2, 1, 2), (1, 0, 3)]
  | _ => [(w, 0, 0)]

/-! ### Fixed formats by id (R62) -/

/-- The IEEE format of a fixed id 9 to 12. -/
def idFloat (id : Nat) : Option FFmt :=
  if id = 9 then some .fp16 else if id = 10 then some .bf16 else if id = 11 then some .fp32 else if id = 12 then some .fp64 else none

/-- The width of a fixed id. -/
def idWidth (id : Nat) : Nat :=
  if id ≤ 2 ∨ id = 13 then 8 else if id ≤ 4 ∨ id = 9 ∨ id = 10 then 16 else if id ≤ 6 ∨ id = 11 then 32 else 64

/-- Signed integer ids are odd (R62). -/
def idSigned (id : Nat) : Bool := id % 2 == 1

/-- The value of an E8 code (R79). -/
def e8Val (c : Nat) : Val := .fin false 1 ((c : Int) - 127) false

/-- An integer as an exact value. -/
def intVal (x : Int) : Val := .fin (x < 0) x.natAbs 0 false

/-- The value of a code of a fixed id, after FZI (R80, R184). -/
def idVal (id : Nat) (fzi : Bool) (c : Nat) : Val :=
  match idFloat id with
  | some f => Fp.operand f fzi c
  | none => if id = 13 then e8Val c else intVal (if idSigned id then signedOf (idWidth id) c else (c : Int))

/-- The tag check of a fixed id: integers of one width are interchangeable (R64). -/
def idTagOk (id t : Nat) : Bool :=
  if 1 ≤ id ∧ id ≤ 8 then decide ((t + 1) / 2 = (id + 1) / 2 ∧ 1 ≤ t ∧ t ≤ 8) else t == id

/-- A value in units: multiplied by 2^k, exactly. -/
def scaleVal (x : Val) (k : Int) : Val :=
  match x with
  | .fin s m e st => .fin s m (e + k) st
  | y => y

end Sys2Proof.Machine
end

