-- ==== Sys2Proof/Machine/Flags.lean ====
section
/-! DEFINITION. Floating-point operations on codes, each with its result code and its FFLAGS bits (R81, R138 to R142, R177 to R181). -/

namespace Sys2Proof.Machine
open Fp (Val Flags Env)

/-- An exact value, rounded once to a format, with the flags of both (R83). -/
def roundRes (fmt : FFmt) (env : Env) (i j : Nat) (r : Val × Flags) : Nat × Flags :=
  let (c, fl) := Fp.round fmt env i j r.1
  (c, fl ||| r.2)

/-- An operation on up to three operand codes: va's, vb's and the destination's old one. -/
abbrev FloatOp := FFmt → Env → Nat → Nat → Nat → Nat → Nat × Flags

/-- A code as an operand, after FZI (R85). -/
def arg (fmt : FFmt) (env : Env) (c : Nat) : Val := Fp.operand fmt env.fzi (c % 2 ^ Fp.width fmt)

def fpAdd : FloatOp := fun fmt env i x y _ => roundRes fmt env i 0 (Fp.add env.rm (arg fmt env x) (arg fmt env y))
def fpSub : FloatOp := fun fmt env i x y _ => roundRes fmt env i 0 (Fp.add env.rm (arg fmt env x) (Fp.negate (arg fmt env y)))
def fpMul : FloatOp := fun fmt env i x y _ => roundRes fmt env i 0 (Fp.mul (arg fmt env x) (arg fmt env y))
def fpDiv : FloatOp := fun fmt env i x y _ => roundRes fmt env i 0 (Fp.div (arg fmt env x) (arg fmt env y))
/-- x × y + d. -/
def fpFma : FloatOp := fun fmt env i x y d => roundRes fmt env i 0 (Fp.fma env.rm (arg fmt env x) (arg fmt env y) (arg fmt env d))
/-- x × y − d. -/
def fpFms : FloatOp := fun fmt env i x y d =>
  roundRes fmt env i 0 (Fp.fma env.rm (arg fmt env x) (arg fmt env y) (Fp.negate (arg fmt env d)))
/-- d − x × y. -/
def fpFnma : FloatOp := fun fmt env i x y d =>
  roundRes fmt env i 0 (Fp.fma env.rm (Fp.negate (arg fmt env x)) (arg fmt env y) (arg fmt env d))
def fpSqrt : FloatOp := fun fmt env i x _ _ => roundRes fmt env i 0 (Fp.sqrt (arg fmt env x))
def fpRcp : FloatOp := fun fmt env i x _ _ => roundRes fmt env i 0 (Fp.div (.fin false 1 0 false) (arg fmt env x))
def fpRsq : FloatOp := fun fmt env i x _ _ => roundRes fmt env i 0 (Fp.rsqrt (arg fmt env x))
def fpExp2 : FloatOp := fun fmt env i x _ _ => roundRes fmt env i 0 (Fp.exp2 (arg fmt env x))
def fpLog2 : FloatOp := fun fmt env i x _ _ => roundRes fmt env i 0 (Fp.log2 (arg fmt env x))
def fpMin : FloatOp := fun fmt env _ x y _ => Fp.minMax fmt env.fzi false x y
def fpMax : FloatOp := fun fmt env _ x y _ => Fp.minMax fmt env.fzi true x y
/-- The sign bit cleared or inverted, the other bits copied (R179). -/
def fpAbs : FloatOp := fun fmt _ _ x _ _ => (x % 2 ^ (Fp.width fmt - 1), 0)
def fpNeg : FloatOp := fun fmt _ _ x _ _ => (Nat.xor (x % 2 ^ Fp.width fmt) (2 ^ (Fp.width fmt - 1)), 0)

/-- The class mask of a code (R180). -/
def fpClass (fmt : FFmt) (c : Nat) : Nat :=
  let s := bit c (Fp.width fmt - 1)
  match Fp.decode fmt c with
  | .nan sig => if sig then 2 ^ 8 else 2 ^ 9
  | .inf _ => if s then 2 ^ 0 else 2 ^ 7
  | .fin _ m _ _ =>
    if m = 0 then (if s then 2 ^ 3 else 2 ^ 4)
    else if Fp.isSub fmt c then (if s then 2 ^ 2 else 2 ^ 5) else (if s then 2 ^ 1 else 2 ^ 6)

/-- FCMP: one bit of four (R141). -/
def fpCompare (fmt : FFmt) (env : Env) (x y : Nat) : Nat × Flags :=
  let a := arg fmt env x
  let b := arg fmt env y
  (match Fp.cmp a b with
    | some .eq => 1 | some .lt => 2 | some .gt => 4 | none => 8, Fp.sigFlag [a, b])

/-- Conditions of VFCMP (R181). -/
inductive FCond where
  | eq | lt | le | un
  deriving DecidableEq, Repr

/-- VFCMP: LT and LE set NV for any NaN, EQ and UN for a signalling one (R181). -/
def fpCond (c : FCond) (fmt : FFmt) (env : Env) (x y : Nat) : Bool × Flags :=
  let a := arg fmt env x
  let b := arg fmt env y
  let o := Fp.cmp a b
  let sig := Fp.sigFlag [a, b]
  let quiet := if o.isNone then Fp.NV else 0
  match c with
  | .eq => (o == some .eq, sig)
  | .un => (o.isNone, sig)
  | .lt => (o == some .lt, quiet)
  | .le => (o == some .lt || o == some .eq, quiet)

/-- A value converted to a fixed id other than E8 (R142, R184): Round for the floating formats, Sat for the integers. -/
def toFixed (env : Env) (id i : Nat) (x : Val) : SatRes :=
  match idFloat id with
  | some fmt =>
    let (c, fl) := Fp.round fmt env i 0 x
    ⟨c, false, fl⟩
  | none => satFixed env (idWidth id) (idSigned id) i 0 x

end Sys2Proof.Machine
end

