-- ==== Sys2Proof/Syntax.lean ====
section
/-! DEFINITION. The instructions of the TS-4120 as data: one constructor for each row of spec/opcode_table.json, the encoded
instructions first (R99 to R131), then the operations and events that have no encoding (95_what_each_step_holds.md). -/

namespace Sys2Proof

/-- The instructions and events. Fields carry the widths of R99; event operands name units of the package by number. -/
inductive Instr where
  /-- ADD (R133). -/
  | add (d a b : SReg)
  /-- SUB (R133). -/
  | sub (d a b : SReg)
  /-- MUL (R133). -/
  | mul (d a b : SReg)
  /-- MULH (R133). -/
  | mulh (d a b : SReg)
  /-- MULHU (R133). -/
  | mulhu (d a b : SReg)
  /-- DIV (R134). -/
  | div (d a b : SReg)
  /-- DIVU (R134). -/
  | divu (d a b : SReg)
  /-- REM (R134). -/
  | rem (d a b : SReg)
  /-- REMU (R134). -/
  | remu (d a b : SReg)
  /-- AND (R133). -/
  | and (d a b : SReg)
  /-- OR (R133). -/
  | or (d a b : SReg)
  /-- XOR (R133). -/
  | xor (d a b : SReg)
  /-- ANDN (R133). -/
  | andn (d a b : SReg)
  /-- SHL (R133). -/
  | shl (d a b : SReg)
  /-- SHR (R133). -/
  | shr (d a b : SReg)
  /-- SRA (R133). -/
  | sra (d a b : SReg)
  /-- SLT (R133). -/
  | slt (d a b : SReg)
  /-- SLTU (R133). -/
  | sltu (d a b : SReg)
  /-- MIN (R133). -/
  | min (d a b : SReg)
  /-- MAX (R133). -/
  | max (d a b : SReg)
  /-- MINU (R133). -/
  | minu (d a b : SReg)
  /-- MAXU (R133). -/
  | maxu (d a b : SReg)
  /-- CLZ (R133). -/
  | clz (d a : SReg)
  /-- CTZ (R133). -/
  | ctz (d a : SReg)
  /-- POPC (R133). -/
  | popc (d a : SReg)
  /-- SEXTB (R133). -/
  | sextb (d a : SReg)
  /-- SEXTH (R133). -/
  | sexth (d a : SReg)
  /-- SEXTW (R133). -/
  | sextw (d a : SReg)
  /-- SHLI (R135). -/
  | shli (d a : SReg) (n : BitVec 6)
  /-- SHRI (R135). -/
  | shri (d a : SReg) (n : BitVec 6)
  /-- SRAI (R135). -/
  | srai (d a : SReg) (n : BitVec 6)
  /-- FADD (R139). -/
  | fadd (d a b : SReg) (fmt : FFmt)
  /-- FSUB (R139). -/
  | fsub (d a b : SReg) (fmt : FFmt)
  /-- FMUL (R139). -/
  | fmul (d a b : SReg) (fmt : FFmt)
  /-- FDIV (R139). -/
  | fdiv (d a b : SReg) (fmt : FFmt)
  /-- FMA (R139). -/
  | fma (d a b : SReg) (fmt : FFmt)
  /-- FSQRT (R139). -/
  | fsqrt (d a : SReg) (fmt : FFmt)
  /-- FMIN (R140). -/
  | fmin (d a b : SReg) (fmt : FFmt)
  /-- FMAX (R140). -/
  | fmax (d a b : SReg) (fmt : FFmt)
  /-- FCMP (R141). -/
  | fcmp (d a b : SReg) (fmt : FFmt)
  /-- FCVT_TO_FLOAT (R142). -/
  | fcvtToFloat (d a : SReg) (dst : FFmt) (src : CvtTy)
  /-- FCVT_TO_INT (R142). -/
  | fcvtToInt (d a : SReg) (dst : CvtTy) (src : FFmt)
  /-- JALR (R147). -/
  | jalr (d a : SReg) (off : BitVec 9)
  /-- ADDI (R136). -/
  | addi (d a : SReg) (imm : BitVec 16)
  /-- ANDI (R136). -/
  | andi (d a : SReg) (imm : BitVec 16)
  /-- ORI (R136). -/
  | ori (d a : SReg) (imm : BitVec 16)
  /-- XORI (R136). -/
  | xori (d a : SReg) (imm : BitVec 16)
  /-- SLTI (R136). -/
  | slti (d a : SReg) (imm : BitVec 16)
  /-- SLTIU (R136). -/
  | sltiu (d a : SReg) (imm : BitVec 16)
  /-- LIS (R137). -/
  | lis (d : SReg) (imm : BitVec 16) (hw : BitVec 2)
  /-- LIH (R137). -/
  | lih (d : SReg) (imm : BitVec 16) (hw : BitVec 2)
  /-- JAL (R146). -/
  | jal (d : SReg) (disp : BitVec 21)
  /-- BEQ (R146). -/
  | beq (a b : SReg) (disp : BitVec 16)
  /-- BNE (R146). -/
  | bne (a b : SReg) (disp : BitVec 16)
  /-- BLT (R146). -/
  | blt (a b : SReg) (disp : BitVec 16)
  /-- BGE (R146). -/
  | bge (a b : SReg) (disp : BitVec 16)
  /-- BLTU (R146). -/
  | bltu (a b : SReg) (disp : BitVec 16)
  /-- BGEU (R146). -/
  | bgeu (a b : SReg) (disp : BitVec 16)
  /-- LDB (R143). -/
  | ldb (d a : SReg) (off : BitVec 13)
  /-- LDBU (R143). -/
  | ldbu (d a : SReg) (off : BitVec 13)
  /-- LDH (R143). -/
  | ldh (d a : SReg) (off : BitVec 13)
  /-- LDHU (R143). -/
  | ldhu (d a : SReg) (off : BitVec 13)
  /-- LDW (R143). -/
  | ldw (d a : SReg) (off : BitVec 13)
  /-- LDWU (R143). -/
  | ldwu (d a : SReg) (off : BitVec 13)
  /-- LDD (R143). -/
  | ldd (d a : SReg) (off : BitVec 13)
  /-- STB (R143). -/
  | stb (a b : SReg) (off : BitVec 13)
  /-- STH (R143). -/
  | sth (a b : SReg) (off : BitVec 13)
  /-- STW (R143). -/
  | stw (a b : SReg) (off : BitVec 13)
  /-- STD (R143). -/
  | std (a b : SReg) (off : BitVec 13)
  /-- AMOADD (R259). -/
  | amoadd (d a b : SReg) (w64 : Bool)
  /-- AMOMIN (R259). -/
  | amomin (d a b : SReg) (w64 uns : Bool)
  /-- AMOMAX (R259). -/
  | amomax (d a b : SReg) (w64 uns : Bool)
  /-- AMOAND (R259). -/
  | amoand (d a b : SReg) (w64 : Bool)
  /-- AMOOR (R259). -/
  | amoor (d a b : SReg) (w64 : Bool)
  /-- AMOXOR (R259). -/
  | amoxor (d a b : SReg) (w64 : Bool)
  /-- AMOSWAP (R259). -/
  | amoswap (d a b : SReg) (w64 : Bool)
  /-- AMOCAS (R259). -/
  | amocas (d a b : SReg) (w64 : Bool)
  /-- MFC (R148). -/
  | mfc (d : SReg) (cr : BitVec 12)
  /-- MTC (R148). -/
  | mtc (cr : BitVec 12) (a : SReg)
  /-- TRAP (R150). -/
  | trap (n : BitVec 12)
  /-- KRET (R74). -/
  | kret
  /-- EXIT (R152). -/
  | exit
  /-- FSV (R284). -/
  | fsv (scope : Scope)
  /-- FVS (R285). -/
  | fvs (scope : Scope)
  /-- FVV (R286). -/
  | fvv (scope : Scope)
  /-- BRK (R411). -/
  | brk (code : BitVec 7)
  /-- BRK_ANY (R411). -/
  | brkAny (code : BitVec 7) (m : MReg)
  /-- BRK_ALL (R411). -/
  | brkAll (code : BitVec 7) (m : MReg)
  /-- PCAPS (R409). -/
  | pcaps (a : SReg)
  /-- PCAPE (R409). -/
  | pcape
  /-- VADD (R169). -/
  | vadd (vd va vb : VName) (sm : BitVec 2)
  /-- VSUB (R169). -/
  | vsub (vd va vb : VName) (sm : BitVec 2)
  /-- VMUL (R169). -/
  | vmul (vd va vb : VName) (sm : BitVec 2)
  /-- VMULH (R169). -/
  | vmulh (vd va vb : VName) (sm : BitVec 2)
  /-- VMIN (R169). -/
  | vmin (vd va vb : VName) (sm : BitVec 2)
  /-- VMAX (R169). -/
  | vmax (vd va vb : VName) (sm : BitVec 2)
  /-- VMINU (R169). -/
  | vminu (vd va vb : VName) (sm : BitVec 2)
  /-- VMAXU (R169). -/
  | vmaxu (vd va vb : VName) (sm : BitVec 2)
  /-- VAND (R169). -/
  | vand (vd va vb : VName) (sm : BitVec 2)
  /-- VOR (R169). -/
  | vor (vd va vb : VName) (sm : BitVec 2)
  /-- VXOR (R169). -/
  | vxor (vd va vb : VName) (sm : BitVec 2)
  /-- VSHL (R169). -/
  | vshl (vd va vb : VName) (sm : BitVec 2)
  /-- VSHR (R169). -/
  | vshr (vd va vb : VName) (sm : BitVec 2)
  /-- VSRA (R169). -/
  | vsra (vd va vb : VName) (sm : BitVec 2)
  /-- VSADD (R169). -/
  | vsadd (vd va vb : VName) (sm : BitVec 2)
  /-- VSSUB (R169). -/
  | vssub (vd va vb : VName) (sm : BitVec 2)
  /-- VMERGE (R170). -/
  | vmerge (vd va vb : VName) (sm : BitVec 2)
  /-- VMV (R170). -/
  | vmv (vd va : VName)
  /-- VSADD_U (R169). -/
  | vsaddU (vd va vb : VName) (sm : BitVec 2)
  /-- VSSUB_U (R169). -/
  | vssubU (vd va vb : VName) (sm : BitVec 2)
  /-- VSPLAT (R171). -/
  | vsplat (vd : VName) (b : SReg)
  /-- VMVSX (R171). -/
  | vmvsx (vd : VName) (b : SReg)
  /-- VMVXS (R172). -/
  | vmvxs (b : SReg) (va : VName)
  /-- MSET (R167). -/
  | mset (md : MReg) (b : SReg)
  /-- VSLIDEUP_IMM (R189). -/
  | vslideupImm (vd va : VName) (n : BitVec 8)
  /-- VSLIDEDN_IMM (R189). -/
  | vslidednImm (vd va : VName) (n : BitVec 8)
  /-- VSHL_IMM (R169). -/
  | vshlImm (vd va : VName) (n : BitVec 8)
  /-- VSHR_IMM (R169). -/
  | vshrImm (vd va : VName) (n : BitVec 8)
  /-- VSRA_IMM (R169). -/
  | vsraImm (vd va : VName) (n : BitVec 8)
  /-- VSPLAT_IMM (R171). -/
  | vsplatImm (vd : VName) (n : BitVec 8)
  /-- VCMP_EQ (R166). -/
  | vcmpEq (md : MReg) (va vb : VName) (sm : BitVec 2)
  /-- VCMP_NE (R166). -/
  | vcmpNe (md : MReg) (va vb : VName) (sm : BitVec 2)
  /-- VCMP_LT (R166). -/
  | vcmpLt (md : MReg) (va vb : VName) (sm : BitVec 2)
  /-- VCMP_GE (R166). -/
  | vcmpGe (md : MReg) (va vb : VName) (sm : BitVec 2)
  /-- VCMP_LTU (R166). -/
  | vcmpLtu (md : MReg) (va vb : VName) (sm : BitVec 2)
  /-- VCMP_GEU (R166). -/
  | vcmpGeu (md : MReg) (va vb : VName) (sm : BitVec 2)
  /-- MAND (R167). -/
  | mand (md ma mb : MReg)
  /-- MOR (R167). -/
  | mor (md ma mb : MReg)
  /-- MXOR (R167). -/
  | mxor (md ma mb : MReg)
  /-- MNOT (R167). -/
  | mnot (md ma : MReg)
  /-- MPOPC (R168). -/
  | mpopc (d : SReg) (ma : MReg)
  /-- MFIRST (R168). -/
  | mfirst (d : SReg) (ma : MReg)
  /-- VFADD (R178). -/
  | vfadd (vd va vb : VName) (sm : BitVec 2) (bf : Bool)
  /-- VFSUB (R178). -/
  | vfsub (vd va vb : VName) (sm : BitVec 2) (bf : Bool)
  /-- VFMUL (R178). -/
  | vfmul (vd va vb : VName) (sm : BitVec 2) (bf : Bool)
  /-- VFMA (R178). -/
  | vfma (vd va vb : VName) (sm : BitVec 2) (bf : Bool)
  /-- VFMS (R178). -/
  | vfms (vd va vb : VName) (sm : BitVec 2) (bf : Bool)
  /-- VFNMA (R178). -/
  | vfnma (vd va vb : VName) (sm : BitVec 2) (bf : Bool)
  /-- VFDIV (R178). -/
  | vfdiv (vd va vb : VName) (sm : BitVec 2) (bf : Bool)
  /-- VFSQRT (R178). -/
  | vfsqrt (vd va : VName) (bf : Bool)
  /-- VFRCP (R178). -/
  | vfrcp (vd va : VName) (bf : Bool)
  /-- VFRSQ (R178). -/
  | vfrsq (vd va : VName) (bf : Bool)
  /-- VFMIN (R178). -/
  | vfmin (vd va vb : VName) (sm : BitVec 2) (bf : Bool)
  /-- VFMAX (R178). -/
  | vfmax (vd va vb : VName) (sm : BitVec 2) (bf : Bool)
  /-- VFABS (R179). -/
  | vfabs (vd va : VName) (bf : Bool)
  /-- VFNEG (R179). -/
  | vfneg (vd va : VName) (bf : Bool)
  /-- VFEXP2 (R178). -/
  | vfexp2 (vd va : VName) (bf : Bool)
  /-- VFLOG2 (R178). -/
  | vflog2 (vd va : VName) (bf : Bool)
  /-- VFCLASS (R180). -/
  | vfclass (vd va : VName) (bf : Bool)
  /-- VFCMP_EQ (R181). -/
  | vfcmpEq (md : MReg) (va vb : VName) (sm : BitVec 2) (bf : Bool)
  /-- VFCMP_LT (R181). -/
  | vfcmpLt (md : MReg) (va vb : VName) (sm : BitVec 2) (bf : Bool)
  /-- VFCMP_LE (R181). -/
  | vfcmpLe (md : MReg) (va vb : VName) (sm : BitVec 2) (bf : Bool)
  /-- VFCMP_UN (R181). -/
  | vfcmpUn (md : MReg) (va vb : VName) (sm : BitVec 2) (bf : Bool)
  /-- VCVT (R184). -/
  | vcvt (vd va : VName) (dst src : BitVec 6)
  /-- VNARROW (R184). -/
  | vnarrow (vd va : VName) (n : Slot) (src : BitVec 6)
  /-- VWIDEN (R184). -/
  | vwiden (vd va : VName) (dst : BitVec 6) (n : Slot)
  /-- VSPLITB (R186). -/
  | vsplitb (vd va : VName) (n : Slot)
  /-- VJOINB (R186). -/
  | vjoinb (vd va : VName) (n : Slot)
  /-- VSCALEB (R187). -/
  | vscaleb (vd va : VName) (n : Slot)
  /-- VPERM (R189). -/
  | vperm (vd va vb : VName)
  /-- VCOMPRESS (R190). -/
  | vcompress (vd va : VName)
  /-- VEXPAND (R190). -/
  | vexpand (vd va : VName)
  /-- VREDSUM (R192). -/
  | vredsum (vd va : VName) (ty : BitVec 2)
  /-- VREDMAX (R192). -/
  | vredmax (vd va : VName) (ty : BitVec 2)
  /-- VREDMIN (R192). -/
  | vredmin (vd va : VName) (ty : BitVec 2)
  /-- VSCAN (R193). -/
  | vscan (vd va : VName) (ty : BitVec 2)
  /-- VSLIDEUP (R189). -/
  | vslideup (vd va : VName) (b : SReg)
  /-- VSLIDEDN (R189). -/
  | vslidedn (vd va : VName) (b : SReg)
  /-- VBCAST (R189). -/
  | vbcast (vd va : VName) (b : SReg)
  /-- VTOPK (R194). -/
  | vtopk (vd va : VName) (b : SReg) (ty : BitVec 2)
  /-- VHIST (R195). -/
  | vhist (vd va : VName) (b : SReg)
  /-- CARVE (R158). -/
  | carve (vd : VName) (b : SReg)
  /-- CARVEQ (R159). -/
  | carveq (vd va : VName) (b : SReg)
  /-- UNCARVE (R160). -/
  | uncarve (vd : VName)
  /-- PLZERO (R163). -/
  | plzero (vd : VName)
  /-- PLSAVE (R164). -/
  | plsave (vd : VName) (b : SReg)
  /-- PLLOAD (R165). -/
  | plload (vd : VName) (b : SReg)
  /-- SETVL (R161). -/
  | setvl (vd : VName) (b : SReg)
  /-- LPREQ (R202). -/
  | lpreq (b : SReg)
  /-- SETVLI (R161). -/
  | setvli (vd : VName) (n : BitVec 8)
  /-- RETAG (R163). -/
  | retag (vd : VName) (tag : BitVec 8)
  /-- MMA (R220). -/
  | mma (va vb : VName) (f : BitVec 4)
  /-- MMAN (R220). -/
  | mman (va vb : VName) (n : Slot)
  /-- MMAS (R220). -/
  | mmas (va vb vc : VName) (n : Slot)
  /-- MZERO (R222). -/
  | mzero
  /-- MRD (R223). -/
  | mrd (va : VName) (b : SReg) (f : BitVec 4)
  /-- MWR (R223). -/
  | mwr (va : VName) (b : SReg) (f : BitVec 4)
  /-- MWAIT (R224). -/
  | mwait
  /-- VLD (R173). -/
  | vld (vd : VName) (a : SReg)
  /-- VST (R173). -/
  | vst (vd : VName) (a : SReg)
  /-- VLDS (R173). -/
  | vlds (vd : VName) (a : SReg)
  /-- VSTS (R173). -/
  | vsts (vd : VName) (a : SReg)
  /-- VLDX (R255). -/
  | vldx (vd : VName) (a : SReg) (vx : VName)
  /-- VSTX (R255). -/
  | vstx (vd : VName) (a : SReg) (vx : VName)
  /-- VSCADD (R256). -/
  | vscadd (vd : VName) (a : SReg) (vx : VName) (ty : BitVec 5)
  /-- VLDZ (R261). -/
  | vldz (vd : VName) (a : SReg) (vx : VName)
  /-- VSTZ (R261). -/
  | vstz (vd : VName) (a : SReg) (vx : VName)
  /-- VSTPAIR (R263). -/
  | vstpair (vd : VName) (a : SReg) (vx : VName)
  /-- VLDW (R270). -/
  | vldw (vd : VName) (a : SReg) (vx : VName)
  /-- SBIND (R264). -/
  | sbind (vd : VName) (a : SReg) (vx : VName) (store : Bool)
  /-- SUNBIND (R268). -/
  | sunbind (vd : VName)
  /-- AGLD (R314). -/
  | agld (vd : VName) (a : SReg) (aw32 : Bool)
  /-- AGST (R314). -/
  | agst (vd : VName) (a : SReg) (aw32 : Bool)
  /-- AGADD (R314). -/
  | agadd (vd : VName) (a : SReg) (aw32 : Bool)
  /-- AGMERGE (R315). -/
  | agmerge (vd : VName) (a : SReg) (aw32 : Bool)
  /-- XCOPY (R299). -/
  | xcopy (a b c : SReg) (ord : Bool)
  /-- XGATH (R300). -/
  | xgath (a b c : SReg) (vn : VName) (ord : Bool)
  /-- XFILL (R301). -/
  | xfill (a b c : SReg) (ord : Bool)
  /-- XQUERY (R302). -/
  | xquery (a b : SReg)
  /-- XCANCEL (R303). -/
  | xcancel (a : SReg)
  /-- WAITW (R304). -/
  | waitw (a b c : SReg)
  /-- TAKE (R346). -/
  | take (a b c : SReg)
  /-- TENQ (R344). -/
  | tenq (a b c : SReg)
  /-- TDONE (R347). -/
  | tdone (a b : SReg)
  /-- TCANCEL (R348). -/
  | tcancel (a b : SReg)
  /-- CLAIM (R350). -/
  | claim (a b c : SReg)
  /-- CLAIMP (R351). -/
  | claimp (a b c : SReg)
  /-- AGSWEEP (R318). -/
  | agsweep (a b c : SReg) (ord : Bool)
  /-- STEP (R310). -/
  | step (a : SReg)
  /-- UNORM (R321). -/
  | unorm (a b c : SReg) (ord : Bool)
  /-- UAPPLY (R322). -/
  | uapply (a b c : SReg) (ord : Bool)
  /-- RSBEGIN (R327). -/
  | rsbegin (a b : SReg)
  /-- RSNEXT (R327). -/
  | rsnext (a b : SReg)
  /-- RSVISIT (R328). -/
  | rsvisit (a b c : SReg)
  /-- RSREAD (R329). -/
  | rsread (a b : SReg)
  /-- RSEND (R327). -/
  | rsend (a b : SReg)
  /-- CXRED (R394). -/
  | cxred (a b c : SReg) (cup : Bool)
  /-- CXGATH (R395). -/
  | cxgath (a b c : SReg)
  /-- CXA2A (R396). -/
  | cxa2a (a b c : SReg)
  /-- CXBAR (R397). -/
  | cxbar (a b c : SReg)
  /-- CUPCLR (R398). -/
  | cupclr (n : BitVec 2)
  /-- CUPADD (R398). -/
  | cupadd (n : BitVec 2) (a b : SReg)
  /-- ILLEGAL_WORD (R103). -/
  | illegalWord (w : BitVec 32)
  /-- INSTRUCTION_ISSUE (R208). -/
  | instructionIssue (f k n : Nat)
  /-- TRAP_ENTRY (R73). -/
  | trapEntry (f : Nat)
  /-- SINGLE_STEP_STOP (R412). -/
  | singleStepStop (f : Nat)
  /-- WATCHDOG (R379). -/
  | watchdog (f : Nat)
  /-- PAGE_WALK (R238). -/
  | pageWalk (die : Nat)
  /-- STREAM_FILL (R266). -/
  | streamFill (f i : Nat)
  /-- JOB_RELEASE (R297). -/
  | jobRelease (f h : Nat)
  /-- JOB_END (R290). -/
  | jobEnd (f h : Nat)
  /-- COLLECTIVE_CALL_END (R392). -/
  | collectiveCallEnd (gid : Nat)
  /-- WAITW_MONITOR_FIRE (R305). -/
  | waitwMonitorFire (f : Nat)
  /-- WAITW_TIMEOUT (R304). -/
  | waitwTimeout (f : Nat)
  /-- TAKE_WAKE (R346). -/
  | takeWake (f : Nat)
  /-- LANE_TAKE (R203). -/
  | laneTake (f : Nat)
  /-- FRONT_START (R228). -/
  | frontStart (f : Nat)
  /-- WQ_DOORBELL (R330). -/
  | wqDoorbell (q : Nat) (tail : BitVec 32)
  /-- LOPEN (R332). -/
  | lopen (q : Nat)
  /-- SLOT_BIND (R336). -/
  | slotBind (f asid lid : Nat)
  /-- SLOT_UNBIND (R335). -/
  | slotUnbind (f : Nat)
  /-- LAUNCH_END (R338). -/
  | launchEnd (lid : Nat)
  /-- TINVC_PAGE (R241). -/
  | tinvcPage (asid : BitVec 14)
  /-- TINVC_ASID (R241). -/
  | tinvcAsid (asid : BitVec 14)
  /-- TINVC_ALL (R241). -/
  | tinvcAll
  /-- TINVC_DONE (R241). -/
  | tinvcDone
  /-- PRECTL_SAVE (R370). -/
  | prectlSave (die core : Nat)
  /-- PRECTL_SAVE_DONE (R370). -/
  | prectlSaveDone (die : Nat)
  /-- PRECTL_DISCARD (R370). -/
  | prectlDiscard (die core : Nat)
  /-- RSTCTL_RESTORE (R371). -/
  | rstctlRestore (die core lid : Nat)
  /-- SCRUB_PASS (R375). -/
  | scrubPass (core : Nat) (found : List Found)
  /-- LANE_RETIRE (R377). -/
  | laneRetire (core : Nat)
  /-- POWER_ON (R413). -/
  | powerOn
  /-- RSTREQ (R413). -/
  | rstreq (src : Src)
  /-- FIRMWARE_CHECK_DONE (R418). -/
  | firmwareCheckDone (img : Image)
  /-- DIE_ADMITTED (R415). -/
  | dieAdmitted (die : Nat)
  /-- HBM_TRAINED (R415). -/
  | hbmTrained (stack : Nat)
  /-- HBM_TRAIN_FAIL (R415). -/
  | hbmTrainFail (stack : Nat)
  /-- LINK_TRAINED (R415). -/
  | linkTrained (link : Nat)
  /-- LINK_TRAIN_TIMEOUT (R415). -/
  | linkTrainTimeout (link : Nat)
  /-- ATTCTL_QUOTE (R419). -/
  | attctlQuote
  /-- ATTCTL_QUOTE_DONE (R419). -/
  | attctlQuoteDone
  /-- THERMAL_TRIP (R421). -/
  | thermalTrip (hot : BitVec 8)
  /-- POWER_CAP_STEP (R421). -/
  | powerCapStep (now : BitVec 12)
  /-- PWRCAP_WRITE (R421). -/
  | pwrcapWrite (src : Src) (v : Word)
  /-- STWBASE_WRITE (R420). -/
  | stwbaseWrite (src : Src) (v : Word)
  /-- STEWARD_ACCESS (R420). -/
  | stewardAccess (store : Bool) (run : ByteRun) (v : Word)
  /-- FABID_WRITE (R425). -/
  | fabidWrite (src : Src) (v : Word)
  /-- ROUTE_WRITE (R425). -/
  | routeWrite (src : Src) (d : Nat) (v : Word)
  /-- DBGCTL_WRITE (R410). -/
  | dbgctlWrite (src : Src) (f : Nat) (v : Word)
  /-- FLIT_RECEIVE (R386). -/
  | flitReceive (link : Nat) (flit : List Byte)
  /-- FLIT_REPLAY (R386). -/
  | flitReplay (link : Nat)
  /-- MSG_WRITE (R385). -/
  | msgWrite (m : Msg)
  /-- MSG_READ_REQUEST (R385). -/
  | msgReadRequest (m : Msg)
  /-- MSG_READ_RESPONSE (R385). -/
  | msgReadResponse (m : Msg)
  /-- MSG_ATOMIC (R385). -/
  | msgAtomic (m : Msg)
  /-- MSG_ATOMIC_RESPONSE (R385). -/
  | msgAtomicResponse (m : Msg)
  /-- MSG_COLLECTIVE (R385). -/
  | msgCollective (m : Msg)
  /-- MSG_REGISTER_ACCESS (R388). -/
  | msgRegisterAccess (m : Msg)
  /-- MSG_REGISTER_RESPONSE (R385). -/
  | msgRegisterResponse (m : Msg)
  /-- MSG_MONITOR_WAKE (R385). -/
  | msgMonitorWake (m : Msg)
  /-- REGISTER_WRITE (R7). -/
  | registerWrite (src : Src) (addr : Nat) (v : Word)
  /-- INSTRUCTION_COMPLETE (R69). -/
  | instructionComplete (f : Nat)
  /-- WAITW_RECHECK (R305). -/
  | waitwRecheck (f : Nat)
  deriving DecidableEq, Repr

end Sys2Proof
end

