-- ==== Sys2Proof/Machine/State.lean ====
section
/-! DEFINITION. The state of one TS-4120 package, as plain data, and the state after reset (R413). Every collection that is sparse
is a list of (key, value) pairs in rising key order with no default values; Machine/Sparse.lean reads and writes it. -/

namespace Sys2Proof.Machine

/-- What ends a step with a fault. -/
inductive Fault where
  /-- Raised by `step` alone: the next move of `State.turns` names a unit that the package does not have, or a word that is no
  event. Safe: no such move exists on the hardware. -/
  | noSuchUnit
  deriving DecidableEq, Repr

/-- What ends a step with a refusal. -/
inductive Refusal where
  /-- Raised by an arm of `exec` whose instruction has no meaning in this model. Safe: nothing is then said of it. -/
  | notModelled (mnemonic : String)
  deriving DecidableEq, Repr

/-- A trap that an instruction has met and that has not been taken (R72, R73), with the physical address of an error in memory or
the key of a cell in error (R376, R377). -/
structure TrapRec where
  cause : Nat
  sub   : Nat
  elem  : Nat
  addr  : Nat
  phys  : Nat
  deriving DecidableEq, Repr

/-- What a push captures (R70, R88, R154, R183, R265, R309). -/
structure Capture where
  (vl vmc vst vstart fcr gstep spbase : Word)
  /-- Pushed in kernel mode. R70 names no mode: that the instruction accesses memory in the mode of its push, also after a restore, is DEDUCED
  (log 25). -/
  kern    : Bool
  /-- PLWIN.FIRST and PLWIN.WIDTH. -/
  first   : Nat
  width   : Nat
  /-- Scalar operand fields, in field order; VSTPAIR adds s(a+1). -/
  scalars : List Word
  /-- Carve entries and generation counts of the name fields, in field order; a strip stands in place of its name's entry (R366). -/
  names   : List Word
  gens    : List (BitVec 16)
  /-- The names of each narrow group, first name included (R183, R218). -/
  groups  : List (List Word)
  fmt     : Word
  decay   : List Word
  /-- LOAD rows popped: binding, and rows popped before. -/
  pops    : List (Nat × Nat)
  /-- The STORE bindings whose strips are destinations, and the ring row and the pattern position of each strip. -/
  stores  : List (Nat × Nat × Nat)
  deriving DecidableEq, Repr

/-- An instruction in the vector queue or in a suspend set (R69, R356, R358, R366). -/
structure QEntry where
  instr    : Instr
  vsn      : BitVec 32
  handle   : BitVec 32
  issued   : Bool
  progress : Nat
  done     : Bool
  trap     : Option TrapRec
  cap      : Capture
  /-- Running value, or count of applied groups (R358). -/
  aux      : Nat
  /-- VSCADD: the flags of the groups applied (R256). -/
  flags    : Nat
  /-- A STORE strip's writer: p and k have advanced (R267); it is at its stores; and the element at which they go on once it has written. -/
  advanced : Bool
  storing  : Bool
  stored   : Nat
  /-- The elements, and the elements of its strips, below these have been counted in the counters of their pages (R244). -/
  (counted countedS : Nat)
  /-- The clock of its push, which a reissue renews (R208, R360), and that of its first push (R205). -/
  (pushed born : Int)
  /-- The layout record read at issue (R252); of SBIND and SUNBIND, the number of their binding. -/
  record   : List Word
  deriving DecidableEq, Repr

/-- A stream binding (R264, R265, R367). The cursor k is `count` modulo the ring's rows, and the rows filled so far are `fillPos`
divided by the ring's NELEM (R266). -/
structure Binding where
  name   : Nat
  store  : Bool
  /-- Pops, or appends, so far. -/
  count  : Nat
  /-- Pattern position p, and the next fill position. -/
  pos    : Nat
  fillPos : Nat
  base   : Word
  ring   : Word
  /-- The window, the scratchpad window and the mode captured at SBIND; that the filler accesses memory in this mode is DEDUCED (log 25). -/
  first  : Nat
  spbase : Word
  kern   : Bool
  record : List Word
  /-- The record has been read, at issue (R252). -/
  ready  : Bool
  /-- A SUNBIND of it has been pushed (R268). -/
  closing : Bool
  /-- The fault that the filler met, at an element of its next row (R266). -/
  fault  : Option TrapRec
  deriving DecidableEq, Repr

/-- Where an access goes: a physical address, a device register, or an address in a peer's map (R230, R237). -/
inductive Loc where
  | mem (a : Nat)
  | dev (a : Nat)
  | peer (pkg a : Nat)
  deriving DecidableEq, Repr

/-- What a front at an instruction waits for. -/
inductive Wait where
  /-- It does not wait. -/
  | no
  /-- It executes the instruction again, in every other clock (log 3). -/
  | retry
  /-- WAITW: the clock at which it began and its timeout (R304). -/
  | waitw (start limit : Nat)
  /-- TAKE on a descriptor, asleep, and awake again after a request on it has been applied (R346). -/
  | take (desc : Word)
  | woken
  /-- An atomic that waits for a peer: the instruction, which is fetched no more (R356). -/
  | atomic (instr : Instr)
  /-- CLAIM or CLAIMP whose atomic access a peer has been asked for: the instruction, its cap, the name's entry and the place (R350, R356). -/
  | claim (instr : Instr) (cap : Nat) (entry : Word) (at_ : Loc)
  /-- A task or rated-set instruction that waits for a peer, on the descriptor at a place: the other fronts' instructions on it wait until it has
  been applied (R326, R342). -/
  | serial (at_ : Loc)
  /-- SETVL: lanes (R203). -/
  | lanes
  deriving DecidableEq, Repr

/-- Why a resident front does not run. -/
inductive Halt where
  | no
  /-- Stopped by a double fault of a cause, until Barista discards it (R359). -/
  | doubleFault (cause : Nat)
  /-- Stopped at a precise stop by a save that is not yet done (R370). -/
  | saving
  /-- The same by a discard, with the cause of its double fault, if it has met one. -/
  | discarding (cause : Option Nat)
  deriving DecidableEq, Repr

/-- The state of one front (R43 to R75, R337, R359, R406). -/
structure Front where
  regs    : List (Nat × Word)
  pc      : Word
  kernel  : Bool
  (vl vmc vst vstart : Word)
  (vsn vcp : BitVec 32)
  (fcr fflags : Word)
  dirty   : BitVec 512
  dirtyIx : Nat
  cdirty  : Bool
  gstep   : Word
  decay   : List (Nat × Word)
  fmt     : List (Nat × Word)
  spbase  : Word
  (trapcause trappc trapvsn trapelem trapaddr trapvec utrapvec deleg : Word)
  masks   : List (Nat × BitVec 256)
  carve   : List (Nat × Word)
  gens    : List (Nat × BitVec 16)
  (queue userSet kernelSet : List QEntry)
  binds   : List (Nat × Binding)
  (asid lid rank : Nat)
  /-- The task held: descriptor and the two doublewords of its record (R346). -/
  task    : Option (Word × Word × Word)
  /-- The handle of the front's previous engine job (R278). -/
  lastJob : Option (BitVec 32)
  wait    : Wait
  halt    : Halt
  /-- A STEP stop is due (R412). -/
  stepDue : Bool
  counters : List (Nat × Word)
  dbgctl  : Word
  /-- Clocks without progress (R379). -/
  idle    : Nat
  /-- In this clock: completed an instruction at the front; issued a first beat (R407). -/
  didFront : Bool
  didIssue : Bool
  deriving DecidableEq, Repr

/-- A slot record (R334). -/
structure SlotRec where
  state : Nat
  asid  : Nat
  lid   : Nat
  lane  : Word
  rank  : Nat
  deriving DecidableEq, Repr

/-- A TLB entry (R240, R244). The micro-TLBs leave the counters at zero. -/
structure Tlb where
  asid : Nat
  base : Nat
  size : Nat
  leaf : Nat
  (unit stride index : Nat)
  deriving DecidableEq, Repr

/-- The state of one core (R55, R199, R214, R240, R374 to R377). Cell (r, c) has key 64 r + c, carafe value (m, c) key 64 m + c. -/
structure Core where
  plane   : List (Nat × BitVec 32)
  tags    : List (Nat × Byte)
  carafe  : List (Nat × BitVec 32)
  (target own0 own1 : Nat)
  lock    : Bool
  /-- The idle columns that front 0, and that front 1, released last (R203, R206, R363). -/
  (freed0 freed1 : BitVec 64)
  lanemap : BitVec 64
  pending : BitVec 64
  /-- Corrections of each physical lane in this scrub pass (R375). -/
  corrections : List (Nat × Nat)
  (badCells badTags badCarafe : List (Nat × Bool))
  /-- Cells whose uncorrectable error has been reported and that have been written since (R377). -/
  rewritten : List (Nat × Bool)
  reported  : List (Nat × Bool)
  utlb    : List Tlb
  /-- The launch whose data the plane, carafe and scratchpad hold, for the clearing of R370. -/
  owner   : Option Nat
  deriving DecidableEq, Repr

/-- The registers of a record ring (R245, R376). -/
structure RecRing where
  (base ctl head tail drop : Word)
  deriving DecidableEq, Repr

/-- A translation that waits for a walker: address space, page and core, and the access that asks for it: in user mode, and whether it reads
or writes (R240). -/
structure Walk where
  asid : Nat
  va   : Nat
  core : Nat
  (user rd wr : Bool)
  deriving DecidableEq, Repr

/-- The registers of one compute die (R245, R336, R369, R376, R379). -/
structure Die where
  (hot err : RecRing)
  (binderr kvec prectl presave0 presave1 rstctl rstsrc0 rstsrc1 faultst wdlim : Word)
  walks   : List Walk
  deriving DecidableEq, Repr

/-- A host work queue (R330). -/
structure WorkQueue where
  (base ctl head tail age err : Word)
  deriving DecidableEq, Repr

/-- An entry of the launch table (R332, R338). -/
structure Launch where
  isOpen  : Bool
  desc    : List Word
  (bound started saved : Nat)
  (cause sub : Nat)
  cups    : List (Nat × List (Word × Word))
  deriving DecidableEq, Repr

/-- The translations that a UAPPLY makes before its first write: the pages, and the lowest element of which one fails (R323). -/
structure Plan where
  pages : List Tlb
  stop  : Option (Nat × TrapRec)
  deriving DecidableEq, Repr

/-- An accepted engine job that has not ended (R294 to R298). -/
structure Job where
  /-- The front that pushed it: its number then, and its launch and rank, which stay its own after a restore (R370). -/
  fid  : Nat
  rank : Nat
  handle : BitVec 32
  (lid asid core : Nat)
  /-- Pushed in user mode. -/
  user : Bool
  instr : Instr
  card : List Word
  /-- The completion pair's address, and where it stands (R294). -/
  pair : Word
  pairAt : Loc
  /-- A page translated it, and not the scratchpad window (R241). -/
  pairPaged : Bool
  value : Word
  /-- Released to its engine (R297). -/
  running : Bool
  /-- Its payload has ended, with the status below. -/
  moved : Bool
  (cause sub prog : Nat)
  /-- The positions that it has certainly performed, its writes to peers included (R302, log 4). -/
  sure : Nat
  /-- How many words of its completion pair it has written (R290). -/
  stage : Nat
  /-- Collectives: it has told every member that it succeeds (R392); and where its CUPRES words then go (R400). -/
  agreed : Bool
  cupAt  : List Loc
  /-- The job that must have ended before it under ORD (R278). -/
  after : Option (BitVec 32)
  gstep : Word
  decay : List Word
  /-- Sums and counts so far of a training job; of XGATH, the first element (R300, R318, R321). -/
  acc : List Nat
  /-- XGATH: the index of each row, `none` where the element is inactive (R300). -/
  rows : List (Option Int)
  /-- Collectives: the group table, the call's number, and the regions cupped (R389, R390, R399). -/
  group : List Word
  call : Nat
  cup : List (Word × Word)
  /-- UAPPLY: its translations, once it has made them. -/
  plan : Option Plan
  deriving DecidableEq, Repr

/-- The front that holds a collective group, by its launch and rank, and its next call number (R390). -/
structure CollGroup where
  (gid rank lid calls : Nat)
  deriving DecidableEq, Repr

/-- What is pending for a front, by its launch and rank: a DIVERGENCE fault with its SUB and TRAPADDR (R401), or the MEMERR of a job whose
completion pair, at `addr`, could not be written (R293, R374). -/
structure Pending where
  (lid rank : Nat)
  diverge : Bool
  (sub addr : Nat)
  deriving DecidableEq, Repr

/-- Bytes that another member has contributed to a call (R385, R393). -/
structure Contrib where
  (gid call src : Nat)
  data : List Byte
  deriving DecidableEq, Repr

/-- A task held, with its footprint: for each used region its base, its length, RD and WR (R340, R345). -/
structure Held where
  lid  : Nat
  (desc lo hi : Word)
  foot : List (Nat × Nat × Bool × Bool)
  deriving DecidableEq, Repr

/-- A record that TCANCEL has cancelled, by its launch, descriptor, queue and position (R348). -/
structure Cancelled where
  (lid desc queue pos : Nat)
  deriving DecidableEq, Repr

/-- A monitor armed at the home agent of a doubleword (R305): for a front, by its number, or for package fid − 1024, whose fronts' checks
reach this package as reads (log 9). -/
structure Monitor where
  fid   : Nat
  unit  : Nat
  fired : Bool
  deriving DecidableEq, Repr

/-- Who makes a request to a peer package: the instruction at a front, a queued one, a filler, a job, a restore, or nobody any more. -/
inductive Agent where
  | front (f : Nat)
  | entry (f : Nat) (vsn : BitVec 32)
  | filler (f k : Nat)
  | job (lid rank : Nat) (handle : BitVec 32)
  /-- A restore: core, launch, and the records' addresses (R371). -/
  | restore (core lid src0 src1 : Nat)
  /-- The save that runs on a die (R370). -/
  | save (d : Nat)
  | gone
  deriving DecidableEq, Repr

/-- A request to a peer package that waits for its response, or whose response has arrived (R385). -/
structure Remote where
  agent : Agent
  (tag pkg addr len cls : Nat)
  /-- The bytes that the request carries. -/
  data : List Byte
  /-- The response's data; `some []` for a refusal. -/
  answer : Option (List Byte)
  deriving DecidableEq, Repr

/-- One link of the fabric (R384, R386, R415). -/
structure Link where
  (up failed : Bool)
  (tries replays : Nat)
  (sendSeq recvSeq : BitVec 32)
  /-- Flits sent and not acknowledged, oldest first, and for each who sent each of its messages (R285, R290, R338). -/
  unacked : List (List Byte)
  owners  : List (List Agent)
  /-- The youngest of them still takes messages (R385). -/
  filling : Bool
  deriving DecidableEq, Repr

/-- Management registers and package registers (R241, R332, R387, R414, R420, R421). -/
structure Package where
  (level dieup hbmup hbmfail booterr : Nat)
  version : BitVec 32
  (pwrcap pwrnow hot : Nat)
  /-- Steps by which the power cap has lowered the clock (R421). -/
  slow : Nat
  /-- Held in reset after a thermal trip (R421). -/
  tripped : Bool
  attBusy : Bool
  nonce : List (Nat × Byte)
  quote : List Byte
  /-- The image that runs (R418, R419). -/
  image : List Byte
  (stwbase stwerr : Word)
  /-- What Barista's last load returned (R420). -/
  stwload : Word
  (asidt tinva : Word)
  (tinvAsid tinvScope : Nat)
  tinvBusy : Bool
  /-- The running invalidation: its address, address space and scope, as they stood at GO (R241). -/
  (goVa goAsid goScope : Nat)
  (lresLid lresErr : Nat)
  (agelim lderr : Word)
  fabid : Nat
  routes : List (Nat × Word)
  resets : Nat
  deriving DecidableEq, Repr

/-- Which agent moves: a front, or an event of the hardware or of the outside world. -/
inductive Move where
  | front (f : Nat)
  | event (i : Instr)
  deriving DecidableEq, Repr

/-- The state of the package. Fronts, slots and binding records are numbered 2k + f for front f of core k. -/
structure State where
  turns   : List Move
  cur     : Nat
  freeCtr : Nat
  clock   : Nat
  mem     : List Host.Cell
  memErr  : List (Nat × Bool)
  badBlk  : List (Nat × Bool)
  fronts  : List (Nat × Front)
  slots   : List (Nat × SlotRec)
  cores   : List (Nat × Core)
  l2      : List (Nat × List Tlb)
  dies    : List (Nat × Die)
  queues  : List (Nat × WorkQueue)
  launches : List (Nat × Launch)
  jobs    : List Job
  groups  : List CollGroup
  contribs : List Contrib
  pendings : List Pending
  held    : List Held
  cancelled : List Cancelled
  monitors : List Monitor
  remotes : List Remote
  links   : List (Nat × Link)
  pkg     : Package
  deriving DecidableEq, Repr

/-- A front that no launch has bound: every register 0 (R45 to R54, R337; log 6). -/
def Front.reset : Front where
  regs := []
  pc := 0
  kernel := false
  vl := 0
  vmc := 0
  vst := 0
  vstart := 0
  vsn := 0
  vcp := 0
  fcr := 0
  fflags := 0
  dirty := 0
  dirtyIx := 0
  cdirty := false
  gstep := 0
  decay := []
  fmt := []
  spbase := 0
  trapcause := 0
  trappc := 0
  trapvsn := 0
  trapelem := 0
  trapaddr := 0
  trapvec := 0
  utrapvec := 0
  deleg := 0
  masks := []
  carve := []
  gens := []
  queue := []
  userSet := []
  kernelSet := []
  binds := []
  asid := 0
  lid := 0
  rank := 0
  task := none
  lastJob := none
  wait := .no
  halt := .no
  stepDue := false
  counters := []
  dbgctl := 0
  idle := 0
  didFront := false
  didIssue := false

/-- A free slot record (R334). -/
def SlotRec.reset : SlotRec := ⟨0, 0, 0, 0, 0⟩

/-- A core after reset: plane, tags and carafe zero (R413); LPART 0 until a bind (R199; log 6). -/
def Core.reset : Core where
  plane := []
  tags := []
  carafe := []
  target := 0
  own0 := 0
  own1 := 0
  lock := false
  freed0 := 0
  freed1 := 0
  lanemap := 0
  pending := 0
  corrections := []
  badCells := []
  badTags := []
  badCarafe := []
  rewritten := []
  reported := []
  utlb := []
  owner := none

def RecRing.reset : RecRing := ⟨0, 0, 0, 0, 0⟩

/-- The registers of a die after reset (R245, R336, R369, R376, R379). -/
def Die.reset : Die := ⟨RecRing.reset, RecRing.reset, 0, 0, 0, 0, 0, 0, 0, 0, 0, 0, []⟩

def WorkQueue.reset : WorkQueue := ⟨0, 0, 0, 0, 0, 0⟩

def Launch.reset : Launch := ⟨false, [], 0, 0, 0, 0, 0, []⟩

def Link.reset : Link := ⟨false, false, 0, 0, 0, 0, [], [], false⟩

/-- The package registers after reset (R241, R332, R387, R414, R420). -/
def Package.reset : Package where
  level := 0
  dieup := 0
  hbmup := 0
  hbmfail := 0
  booterr := 0
  version := 0
  pwrcap := 2100
  pwrnow := 0
  hot := 0
  slow := 0
  tripped := false
  attBusy := false
  nonce := []
  quote := List.replicate 512 0
  image := []
  stwbase := 0
  stwerr := 0
  stwload := 0
  asidt := 0
  tinva := 0
  tinvAsid := 0
  tinvScope := 0
  tinvBusy := false
  goVa := 0
  goAsid := 0
  goScope := 0
  lresLid := 0
  lresErr := 0
  agelim := 85000000
  lderr := 0
  fabid := 0
  routes := []
  resets := 0

/-- The package right after reset (R413). -/
def State.reset : State where
  turns := []
  cur := 0
  freeCtr := 0
  clock := 0
  mem := []
  memErr := []
  badBlk := []
  fronts := []
  slots := []
  cores := []
  l2 := []
  dies := []
  queues := []
  launches := []
  jobs := []
  groups := []
  contribs := []
  pendings := []
  held := []
  cancelled := []
  monitors := []
  remotes := []
  links := []
  pkg := Package.reset

end Sys2Proof.Machine
end

