-- ==== Sys2Proof/Machine/Pipes.lean ====
section
/-! DEFINITION. The pipes of pushed instructions (R208). -/

namespace Sys2Proof.Machine

/-- The memory pipe: vector loads and stores, the other vector memory instructions, aged words, engine jobs and cupping requests. -/
def isMemPipe (i : Instr) : Bool :=
  match i with
  | .plsave .. => true
  | .plload .. => true
  | .vld .. => true
  | .vst .. => true
  | .vlds .. => true
  | .vsts .. => true
  | .vldx .. => true
  | .vstx .. => true
  | .vscadd .. => true
  | .vldz .. => true
  | .vstz .. => true
  | .vstpair .. => true
  | .vldw .. => true
  | .sbind .. => true
  | .sunbind .. => true
  | .agld .. => true
  | .agst .. => true
  | .agadd .. => true
  | .agmerge .. => true
  | .xcopy .. => true
  | .xgath .. => true
  | .xfill .. => true
  | .agsweep .. => true
  | .unorm .. => true
  | .uapply .. => true
  | .cxred .. => true
  | .cxgath .. => true
  | .cxa2a .. => true
  | .cxbar .. => true
  | .cupclr .. => true
  | .cupadd .. => true
  | _ => false

/-- The matrix pipe. -/
def isMatrixPipe (i : Instr) : Bool :=
  match i with
  | .mma .. => true
  | .mman .. => true
  | .mmas .. => true
  | .mzero => true
  | .mrd .. => true
  | .mwr .. => true
  | .mwait => true
  | _ => false

/-- The products, which a STEP stop leaves in the queue (R412). -/
def isProduct (i : Instr) : Bool :=
  match i with
  | .mma .. => true
  | .mman .. => true
  | .mmas .. => true
  | _ => false

def isFvv (i : Instr) : Bool :=
  match i with
  | .fvv .. => true
  | _ => false

def isMwait (i : Instr) : Bool :=
  match i with
  | .mwait => true
  | _ => false

def isCxbar (i : Instr) : Bool :=
  match i with
  | .cxbar .. => true
  | _ => false

/-- An instruction whose operands always take the right-hand column of R211; that VSCALEB, whose elements are blocks, does is DEDUCED (log 28). -/
def isSerial (i : Instr) : Bool :=
  match i with
  | .vslideup .. => true
  | .vslidedn .. => true
  | .vslideupImm .. => true
  | .vslidednImm .. => true
  | .vbcast .. => true
  | .vperm .. => true
  | .vcompress .. => true
  | .vexpand .. => true
  | .vredsum .. => true
  | .vredmax .. => true
  | .vredmin .. => true
  | .vtopk .. => true
  | .vhist .. => true
  | .vscan .. => true
  | .vscaleb .. => true
  | .retag .. => true
  | .plzero .. => true
  | .plload .. => true
  | .plsave .. => true
  | .vscadd .. => true
  | .sbind .. => true
  | .xgath .. => true
  | _ => false

/-- The instructions that write a name whatever the captured VSTART is (R71). -/
def ignoresStart (i : Instr) : Bool :=
  match i with
  | .vcompress .. => true
  | .vexpand .. => true
  | .retag .. => true
  | .plzero .. => true
  | .plload .. => true
  | _ => false

/-- The entry has events of the vector stream still to come: a memory-pipe instruction, or the writer of a STORE strip (R267, R285). -/
def QEntry.memPending (e : QEntry) : Bool := !e.done && (isMemPipe e.instr || !e.cap.stores.isEmpty)

end Sys2Proof.Machine
end

