-- ==== Sys2Proof/Machine/Sparse.lean ====
section
/-! DEFINITION. Sparse maps from numbers, as lists of (key, value) pairs with rising keys in which no value is the default. -/

namespace Sys2Proof.Machine

/-- The value at key `k`; `d` where no pair lists it. -/
def spGet {α : Type} (d : α) (m : List (Nat × α)) (k : Nat) : α :=
  match m with
  | [] => d
  | (j, v) :: r => if j = k then v else spGet d r k

/-- The map without key `k`. -/
def spErase {α : Type} (m : List (Nat × α)) (k : Nat) : List (Nat × α) := m.filter fun p => p.1 != k

/-- The map with the pair (k, v) put before the first greater key. -/
def spInsert {α : Type} (m : List (Nat × α)) (k : Nat) (v : α) : List (Nat × α) :=
  match m with
  | [] => [(k, v)]
  | (j, w) :: r => if k < j then (k, v) :: (j, w) :: r else (j, w) :: spInsert r k v

/-- The map with value `v` at key `k`. -/
def spSet {α : Type} [DecidableEq α] (d : α) (m : List (Nat × α)) (k : Nat) (v : α) : List (Nat × α) :=
  if v = d then spErase m k else spInsert (spErase m k) k v

/-- The canonical form: keys strictly rising, no default listed. -/
def spWf {α : Type} [DecidableEq α] (d : α) (m : List (Nat × α)) : Bool :=
  match m with
  | [] => true
  | [(_, v)] => v != d
  | (j, v) :: (k, w) :: r => v != d && decide (j < k) && spWf d ((k, w) :: r)

/-- The keys of `l` removed. -/
def spEraseAll {α : Type} (m : List (Nat × α)) (p : Nat → Bool) : List (Nat × α) := m.filter fun x => !p x.1

end Sys2Proof.Machine
end

