-- ==== Sys2Proof/Machine/Ops.lean ====
section
/-! DEFINITION. The named operations over registers, memory and the units of the package; taking a trap (R72, R73, R359) and returning
from one (R74, R360). Every change of State goes through the primitives of this file. -/

namespace Sys2Proof.Machine

/-- The outcome of one instruction or step. -/
abbrev Out := Host.Outcome State Fault Refusal

/-- Bits [hi:lo] of a word, in place. -/
def keep (v : Word) (hi lo : Nat) : Word := word (v.field hi lo * 2 ^ lo)

/-! ### Units of the package -/

def State.front (s : State) (f : Nat) : Front := spGet Front.reset s.fronts f
def State.setFront (s : State) (f : Nat) (x : Front) : State := { s with fronts := spSet Front.reset s.fronts f x }
def State.modFront (s : State) (f : Nat) (g : Front → Front) : State := s.setFront f (g (s.front f))
def State.core (s : State) (k : Nat) : Core := spGet Core.reset s.cores k
def State.setCore (s : State) (k : Nat) (x : Core) : State := { s with cores := spSet Core.reset s.cores k x }
def State.modCore (s : State) (k : Nat) (g : Core → Core) : State := s.setCore k (g (s.core k))
def State.die (s : State) (d : Nat) : Die := spGet Die.reset s.dies d
def State.modDie (s : State) (d : Nat) (g : Die → Die) : State := { s with dies := spSet Die.reset s.dies d (g (s.die d)) }
def State.slot (s : State) (f : Nat) : SlotRec := spGet SlotRec.reset s.slots f
def State.setSlot (s : State) (f : Nat) (x : SlotRec) : State := { s with slots := spSet SlotRec.reset s.slots f x }
def State.queue (s : State) (q : Nat) : WorkQueue := spGet WorkQueue.reset s.queues q
def State.setQueue (s : State) (q : Nat) (x : WorkQueue) : State := { s with queues := spSet WorkQueue.reset s.queues q x }
def State.launch (s : State) (l : Nat) : Launch := spGet Launch.reset s.launches l
def State.setLaunch (s : State) (l : Nat) (x : Launch) : State := { s with launches := spSet Launch.reset s.launches l x }
def State.link (s : State) (j : Nat) : Link := spGet Link.reset s.links j
def State.setLink (s : State) (j : Nat) (x : Link) : State := { s with links := spSet Link.reset s.links j x }
def State.tlb2 (s : State) (c : Nat) : List Tlb := spGet [] s.l2 c
def State.setTlb2 (s : State) (c : Nat) (x : List Tlb) : State := { s with l2 := spSet [] s.l2 c x }
def State.modPkg (s : State) (g : Package → Package) : State := { s with pkg := g s.pkg }

/-- Front number f of the package belongs to core f div 2, which lies on die (f div 2) div 64 and in cluster (f div 2) div 8 (R213, R230). -/
def coreOf (f : Nat) : Nat := f / 2
def dieOf (f : Nat) : Nat := f / 128
def clusterOf (f : Nat) : Nat := f / 16
/-- The other front of the core. -/
def partner (f : Nat) : Nat := if f % 2 = 0 then f + 1 else f - 1

/-- Resident: BOUND or RESIDENT in its slot record (R197). -/
def State.resident (s : State) (f : Nat) : Bool := (s.slot f).state == 1 || (s.slot f).state == 2
/-- An agent's atomic access of a peer that the peer has been asked for and has not refused. -/
def State.inAtomic (s : State) (a : Agent) : Bool := s.remotes.any fun r => r.agent == a && r.cls == 3 && r.answer != some []

/-- Where such an access goes. -/
def State.asking (s : State) (a : Agent) : Option Loc :=
  (s.remotes.find? fun r => r.agent == a && r.cls == 3 && r.answer != some []).map fun r => .peer r.pkg r.addr

/-- Stopped by a save or a discard that is not yet done. -/
def Halt.stopping (h : Halt) : Bool :=
  match h with
  | .saving => true
  | .discarding _ => true
  | _ => false

/-- A front that a save or a discard has stopped in the middle of an atomic access, which it completes first (R370). -/
def State.closing (s : State) (f : Nat) : Bool :=
  (s.front f).halt.stopping && (s.inAtomic (.front f) || (s.front f).queue.any fun e => s.inAtomic (.entry f e.vsn))

/-- Started and not stopped. -/
def State.runs (s : State) (f : Nat) : Bool :=
  (s.slot f).state == 2 && ((s.front f).halt == .no || s.closing f) && !s.pkg.tripped

/-! ### Registers (R43) -/

/-- A scalar register: s0 reads as zero. -/
def Front.reg (x : Front) (r : SReg) : Word := if r = 0 then 0 else spGet 0 x.regs r.toNat
/-- A scalar register written: a write to s0 is discarded. -/
def Front.setReg (x : Front) (r : SReg) (v : Word) : Front :=
  if r = 0 then x else { x with regs := spSet 0 x.regs r.toNat v }

/-- The front that executes. -/
def State.me (s : State) : Front := s.front s.cur
def State.reg (s : State) (r : SReg) : Word := s.me.reg r
def State.setReg (s : State) (r : SReg) (v : Word) : State := s.modFront s.cur fun x => x.setReg r v

def Front.mask (x : Front) (m : Nat) : BitVec 256 := spGet 0 x.masks m
def Front.setMask (x : Front) (m : Nat) (v : BitVec 256) : Front := { x with masks := spSet 0 x.masks m v }
def Front.entry (x : Front) (v : Nat) : Word := spGet 0 x.carve v
def Front.gen (x : Front) (v : Nat) : BitVec 16 := spGet 0 x.gens v
/-- A carve entry written: its generation count advances (R58). -/
def Front.setEntry (x : Front) (v : Nat) (e : Word) : Front :=
  { x with carve := spSet 0 x.carve v e, gens := spSet 0 x.gens v (x.gen v + 1) }
def Front.slotReg (x : Front) (n : Nat) : Word := spGet 0 x.fmt n
def Front.decayReg (x : Front) (n : Nat) : Word := spGet 0 x.decay n
def Front.counter (x : Front) (n : Nat) : Word := spGet 0 x.counters n
def Front.addCounter (x : Front) (n k : Nat) : Front :=
  { x with counters := spSet 0 x.counters n (x.counter n + word k) }

/-- DELEG.UBUSY (R54). -/
def Front.ubusy (x : Front) : Bool := x.deleg.flag 31

/-- Flags ORed into FFLAGS (R82). -/
def Front.orFlags (x : Front) (n : Nat) : Front := { x with fflags := x.fflags ||| word n }

/-- The instruction at the front is complete and the next one is at `pc`; a STEP stop falls due under R412. -/
def Front.complete (x : Front) (pc : Word) : Front :=
  { x with pc := pc, wait := .no, idle := 0, didFront := true
           stepDue := x.dbgctl.flag 0 && !x.kernel && !x.ubusy }

def State.completeAt (s : State) (pc : Word) : State := s.modFront s.cur fun x => x.complete pc
/-- PC ← PC + 4 (R132). -/
def State.advance (s : State) : State := s.completeAt (s.me.pc + 4)
/-- The instruction at the front waits and runs again (R71, R82). -/
def State.blocked (s : State) (w : Wait) : State := s.modFront s.cur fun x => { x with wait := w }

/-! ### Memory: the bytes of the physical map (R5, R230) -/

/-- What an unlisted address reads as (log 2). -/
def emptyByte : Byte := 0

/-- One byte of memory. -/
def State.byte (s : State) (a : Nat) : Byte := spGet emptyByte s.mem a

/-- The canonical form of memory. -/
abbrev Memory.wf (m : List Host.Cell) : Bool := spWf emptyByte m

/-- The bytes of memory from address `a`. -/
def State.bytes (s : State) (a n : Nat) : List Byte := (List.range n).map fun i => s.byte (a + i)

/-- Bytes as a number, lowest address first (R5). -/
def leNat (bs : List Byte) : Nat := bs.foldr (fun b n => b.toNat + 256 * n) 0

/-- A number as `n` bytes, lowest address first (R5). -/
def leBytes (n v : Nat) : List Byte := (List.range n).map fun i => BitVec.ofNat 8 (v / 256 ^ i)

/-- `n` bytes of memory as a number. -/
def State.read (s : State) (a n : Nat) : Nat := leNat (s.bytes a n)

def putBytes (m : List Host.Cell) (a : Nat) (bs : List Byte) : List Host.Cell :=
  match bs with
  | [] => m
  | b :: r => putBytes (spSet emptyByte m a b) (a + 1) r

/-- Bytes written at their home agent: the memory, the errors and bad marks that whole units and blocks clear (R247, R374), and the
monitors of the doublewords touched (R305). -/
def State.write (s : State) (a : Nat) (bs : List Byte) : State :=
  let e := a + bs.length
  { s with
    mem := putBytes s.mem a bs
    memErr := spEraseAll s.memErr fun u => decide (a ≤ 8 * u ∧ 8 * u + 8 ≤ e)
    badBlk := spEraseAll s.badBlk fun b => decide (a ≤ 256 * b ∧ 256 * b + 256 ≤ e)
    monitors := s.monitors.map fun m => if a < 8 * m.unit + 8 ∧ 8 * m.unit < e then { m with fired := true } else m }

/-- The monitors of the doubleword that holds an address fire (R305). -/
def State.woken (s : State) (a : Nat) : State :=
  { s with monitors := s.monitors.map fun m => if m.unit = a / 8 then { m with fired := true } else m }

def State.write64 (s : State) (a : Nat) (v : Nat) : State := s.write a (leBytes 8 v)

/-- Some unit of the bytes holds an uncorrectable error (R374). -/
def State.errAt (s : State) (a n : Nat) : Bool := s.memErr.any fun p => p.2 && decide (a < 8 * p.1 + 8 ∧ 8 * p.1 < a + n)
/-- Some block of the bytes is marked bad (R247). -/
def State.badAt (s : State) (a n : Nat) : Bool := s.badBlk.any fun p => p.2 && decide (a < 256 * p.1 + 256 ∧ 256 * p.1 < a + n)

/-! ### Traps -/

/-- Causes (R52). -/
def ILLEGAL : Nat := 0x01
def PRIV : Nat := 0x02
def EDGE : Nat := 0x03
def CAPACITY : Nat := 0x04
def FORMAT : Nat := 0x05
def RESERVED_CODE : Nat := 0x06
def ALIGN : Nat := 0x07
def PAGE : Nat := 0x08
def ACCESS : Nat := 0x09
def MEMERR : Nat := 0x0A
def INTEGRITY : Nat := 0x0B
def DIVERGENCE : Nat := 0x0C
def BREAK : Nat := 0x0D
def STEP : Nat := 0x0E
def TASKERR : Nat := 0x10
def FIT : Nat := 0x11
def PREEMPT : Nat := 0x12
def WATCHDOG : Nat := 0x13

/-- The causes that DELEG has a bit for (R54). -/
def delegable (c : Nat) : Bool := decide (3 ≤ c ∧ c ≤ 6) || c == BREAK

/-- A double fault: the front stops and the die's FAULTST records it; the queue stays as it stands (R359, R369). -/
def doubleFault (s : State) (f cause : Nat) : State :=
  let s := s.modFront f fun x => { x with halt := .doubleFault cause, wait := .no, stepDue := false }
  s.modDie (dieOf f) fun d => { d with faultst := word (f / 2 % 64 + f % 2 * 2 ^ 6 + cause * 2 ^ 8 + 2 ^ 31) }

/-- The queue as a suspend set: only the faulting instruction, at its head, keeps its trap (R356, R359). -/
def suspend (q : List QEntry) : List QEntry :=
  match q with
  | [] => []
  | e :: r => { e with issued := false } :: r.map fun y => { y with trap := none, issued := false }

/-- The front after TakeTrap, when it is no double fault (R73): the trap registers, the element-start, the mode and the handler's
address, and the suspended instructions (R359), after which VCP = VSN. -/
def Front.trapped (x : Front) (t : TrapRec) (pc : Word) (vsn : BitVec 32) : Front :=
  let deleg := !x.kernel && delegable t.cause && x.deleg.flag t.cause && !x.ubusy
  let y := { x with
    trapcause := word (t.cause % 256 + b2n x.kernel * 2 ^ 8 + b2n deleg * 2 ^ 9 + t.sub % 256 * 2 ^ 16)
    trappc := pc
    trapvsn := word vsn.toNat
    trapelem := word (t.elem % 512)
    trapaddr := word t.addr
    vstart := word (t.elem % 512)
    queue := []
    vcp := x.vsn
    wait := .no
    stepDue := false }
  if deleg then
    { y with deleg := y.deleg ||| word (2 ^ 31), pc := y.utrapvec, userSet := y.userSet ++ suspend x.queue }
  else
    { y with kernel := true, pc := y.trapvec, kernelSet := y.kernelSet ++ suspend x.queue }

/-- TakeTrap (R73): a double fault in kernel mode, but for BREAK and STEP. -/
def takeTrap (s : State) (f : Nat) (t : TrapRec) (pc : Word) (vsn : BitVec 32) : State :=
  let x := s.front f
  if x.kernel && t.cause != BREAK && t.cause != STEP then doubleFault s f t.cause
  else s.setFront f (x.trapped t pc vsn)

/-- The further state that an instruction keeps into its reissue at element `p` (R358): a STORE strip's writer goes on with its stores, after
it has written the elements again where it writes them one by one (R267, log 35); and no layout record, which is read again at issue (R252). -/
def QEntry.again (e : QEntry) (p : Nat) : QEntry :=
  { e with
    storing := e.storing && isSerial e.instr
    stored := if e.storing then p else min e.stored p
    record := match e.instr with
      | .sbind .. => e.record
      | .sunbind .. => e.record
      | _ => [] }

/-- Group size of a product of codes of `w` bits (R95). -/
def groupOf (w : Nat) : Nat := if w ≤ 4 then 4 else 2

/-- The k-steps of a group of a product; one element of any other instruction. -/
def QEntry.groupLen (e : QEntry) : Nat :=
  match e.instr with
  | .mman .. => groupOf (e.cap.fmt.field 3 0)
  | .mmas .. => groupOf (e.cap.fmt.field 3 0)
  | _ => 1

/-- Where a reissued instruction starts: the faulting one at VSTART, any other at its progress (R360); a product at its group's first k-step (R220), with no new
check of R217's SUB 11 (DEDUCED, log 35). -/
def QEntry.restart (e : QEntry) (start : Nat) : Nat :=
  let p := if e.trap.isSome then start else e.progress
  if p < e.cap.vl.field 8 0 then p / e.groupLen * e.groupLen else p

/-- A reissued instruction: it is pushed in this clock and takes a new number (R208, R360). -/
def reissue (clock : Nat) (set : List QEntry) (vsn : BitVec 32) (start : Nat) : List QEntry :=
  match set with
  | [] => []
  | e :: r =>
    if e.done then reissue clock r vsn start
    else
      let p := e.restart start
      { e.again p with vsn := vsn, trap := none, issued := false, progress := p, pushed := clock, cap := { e.cap with vstart := word p } } ::
        reissue clock r (vsn + 1) start

/-- A front after KRET at its own level, in a clock (R74, R360). A reissued instruction is pushed again, and a push writes VSTART to 0 (R70). The fillers
retry where they have failed (R266). -/
def Front.kreted (clock : Nat) (x : Front) : Front :=
  let set := if x.kernel then x.kernelSet else x.userSet
  let q := reissue clock set x.vsn (x.vstart.field 8 0)
  let y := { x with pc := x.trappc, queue := x.queue ++ q, vsn := x.vsn + BitVec.ofNat 32 q.length
                    vstart := if q.isEmpty then x.vstart else 0
                    binds := x.binds.map fun (p : Nat × Binding) => (p.1, { p.2 with fault := none })
                    wait := .no, idle := 0, didFront := true, stepDue := false }
  if x.kernel then { y with kernel := x.trapcause.flag 8, kernelSet := [] }
  else { y with deleg := y.deleg &&& ~~~(word (2 ^ 31)), userSet := [] }

/-! ### Operations that may stop -/

/-- Why an operation stops before its end: a trap, or a wait, with the request that it sends to a peer package, if any. -/
inductive Stop where
  | trap (t : TrapRec)
  | wait (r : Option Remote)
  deriving Repr

/-- Operations over the state that may stop. What they changed before a stop is discarded. -/
abbrev M := StateT State (Except Stop)

def raise {α : Type} (cause sub elem addr : Nat) : M α := throw (.trap ⟨cause, sub, elem, addr, 0⟩)
def waitMore {α : Type} : M α := throw (.wait none)

/-- The same operation, with its traps reported at element `i`. -/
def atElem {α : Type} (i : Nat) (m : M α) : M α := fun s =>
  match m s with
  | .error (.trap t) => .error (.trap { t with elem := i })
  | r => r

end Sys2Proof.Machine
end

