-- ==== Sys2Proof/Machine/Fabric.lean ====
section
/-! DEFINITION. The physical map (R230). The Linenurn fabric: messages and flits as bytes (R384, R385), sending (R386, R387), and requests to peer packages. -/

namespace Sys2Proof.Machine

/-! ### The physical map (R230) -/

def inHbm (a : Nat) : Bool := decide (a < 0x6000000000)
def inVault (a : Nat) : Bool := decide (0x6000000000 ≤ a ∧ a < 0x6080000000)
def inScratch (a : Nat) : Bool :=
  decide (0x6100000000 ≤ a ∧ a < 0x6110000000) && decide ((a - 0x6100000000) % 0x80000 < 0x50000)
def inDevice (a : Nat) : Bool := decide (0x6200000000 ≤ a ∧ a < 0x6300000000)
def inCxl (a : Nat) : Bool := decide (0x1000000000000 ≤ a ∧ a < 0x3000000000000)
/-- Some range of R230 holds the address. -/
def isMapped (a : Nat) : Bool := inHbm a || inVault a || inScratch a || inDevice a || inCxl a

/-- First byte of the scratchpad of core k (R230). -/
def scratchBase (k : Nat) : Nat := 0x6100000000 + k * 0x80000

/-! ### Messages and flits -/

/-- The virtual channel of a class of messages (R384, R385). -/
def vchOf (cls : Nat) : Nat :=
  if cls = 2 ∨ cls = 4 ∨ cls = 8 then 1 else if cls = 5 then 2 else if cls = 6 ∨ cls = 7 then 3 else 0

/-- Zero bytes. -/
def zeros (n : Nat) : List Byte := List.replicate n 0

/-- A message as bytes, a whole number of 16-byte units, at least 4 of them (R385). -/
def msgBytes (cls tag len addr : Nat) (data : List Byte) : List Byte :=
  let units := max 4 (ceilDiv (16 + data.length) 16)
  let head := leBytes 1 (units % 16 + cls % 16 * 16) ++ leBytes 1 tag ++ leBytes 2 len ++ zeros 4 ++ leBytes 8 addr
  head ++ data ++ zeros (16 * units - 16 - data.length)

/-- DEST, VCH and HOSTD of a flit. -/
def flitRoute (dest : Nat) (hostd : Bool) (vch : Nat) : Nat := dest % 1024 + vch * 2 ^ 10 + b2n hostd * 2 ^ 13

/-- A flit of `n` messages (R384). -/
def flitBytes (route src : Nat) (seq ack : BitVec 32) (n : Nat) (msgs : List Byte) : List Byte :=
  let head := leBytes 2 route ++ leBytes 2 (src % 1024) ++ leBytes 4 seq.toNat ++ leBytes 4 (n + ack.toNat % 2 ^ 24 * 2 ^ 8)
  let payload := msgs ++ zeros (240 - msgs.length)
  head ++ leBytes 4 (Fp.crc32c (head ++ payload)) ++ payload

/-- The messages of a payload, as bytes, `n` of them (R385). -/
def cutMsgs (n : Nat) (bs : List Byte) : List (List Byte) :=
  match n with
  | 0 => []
  | k + 1 =>
    let len := 16 * (leNat (bs.take 1) % 16)
    bs.take len :: cutMsgs k (bs.drop len)

/-- The messages of a flit. -/
def flitMsgs (flit : List Byte) : List (List Byte) := cutMsgs (leNat ((flit.drop 8).take 1) % 4) (flit.drop 16)

/-- The youngest flit of a link still takes a message of this route: it has a place and the bytes for it (R385, log 8). -/
def Link.takes (l : Link) (route : Nat) (msg : List Byte) : Bool :=
  let f := l.unacked.getLastD []
  l.filling && leNat (f.take 2) == route && decide ((flitMsgs f).length < 3 ∧ (flitMsgs f).flatten.length + msg.length ≤ 240)

/-- A message put on a link, in its youngest flit or a new one, to be kept until it is acknowledged (R385, R386). -/
def State.sendRaw (s : State) (j : Nat) (dest : Nat) (hostd : Bool) (vch : Nat) (msg : List Byte) (who : Agent := .gone) : State :=
  let l := s.link j
  let r := flitRoute dest hostd vch
  let flit (seq : BitVec 32) (ms : List (List Byte)) : List Byte := flitBytes r s.pkg.fabid seq (l.recvSeq - 1) ms.length ms.flatten
  if l.takes r msg then
    s.setLink j { l with
      unacked := l.unacked.dropLast ++ [flit (l.sendSeq - 1) (flitMsgs (l.unacked.getLastD []) ++ [msg])]
      owners := l.owners.dropLast ++ [l.owners.getLastD [] ++ [who]] }
  else
    s.setLink j { l with sendSeq := l.sendSeq + 1, unacked := l.unacked ++ [flit l.sendSeq [msg]], owners := l.owners ++ [[who]], filling := true }

def State.sendOn (s : State) (j : Nat) (dest : Nat) (hostd : Bool) (cls tag len addr : Nat) (data : List Byte) (who : Agent := .gone) : State :=
  s.sendRaw j dest hostd (vchOf cls) (msgBytes cls tag len addr data) who

/-- The live links that may carry traffic to package `d`, in increasing number (R387). -/
def State.liveLinks (s : State) (d : Nat) : List Nat :=
  (List.range 18).filter fun j => (s.link j).up && (spGet 0 s.pkg.routes d).flag j

/-- The one of some live links that carries a message with an address: by bits 49:8 of it (R387). -/
def linkFor (ls : List Nat) (addr : Nat) : Nat := ls.getD (bits addr 49 8 % ls.length) 0

/-- A message of an agent to package `d` on the link that R387 picks; `none` when no live link reaches it (R386). -/
def State.send (s : State) (d cls tag len addr : Nat) (data : List Byte) (who : Agent := .gone) : Option State :=
  let ls := s.liveLinks d
  if ls.isEmpty then none else some (s.sendOn (linkFor ls addr) d false cls tag len addr data who)

/-- A transfer cut into messages of at most 224 data bytes (R385); `fuel` bounds their number. -/
def State.sendData (s : State) (d cls tag addr : Nat) (data : List Byte) (fuel : Nat) (who : Agent := .gone) : Option State :=
  match fuel with
  | 0 => some s
  | n + 1 =>
    if data.length ≤ 224 then s.send d cls tag data.length addr data who
    else (s.send d cls tag 224 addr (data.take 224) who).bind fun t => t.sendData d cls tag (addr + 224) (data.drop 224) n who

/-- The lowest tag that no outstanding request holds, if there is one. -/
def State.freeTag (s : State) : Option Nat := (List.range 256).find? fun t => !(s.remotes.any fun r => r.tag == t && r.answer.isNone)

/-- A message is a write. A read, or an atomic, is performed once its value is fixed, and so with its answer (R283). -/
def isWrite (m : List Byte) : Bool := leNat (m.take 1) / 16 == 0

/-- A write to a peer is in a flit that has not been acknowledged: it may not have been performed (R284 to R287). -/
def State.posted (s : State) : Bool := s.links.any fun p => p.2.unacked.any fun f => (flitMsgs f).any isWrite

/-- Such a write of some agents, whatever others have posted (R285, R290). -/
def State.postedBy (s : State) (mine : Agent → Bool) : Bool :=
  s.links.any fun p => (p.2.unacked.zip p.2.owners).any fun q => ((flitMsgs q.1).zip q.2).any fun m => isWrite m.1 && mine m.2

/-- A queued instruction of front `f`, or one of its fillers. -/
def Agent.queuedOn (f : Nat) (a : Agent) : Bool :=
  match a with
  | .entry g _ => g == f
  | .filler g _ => g == f
  | _ => false

/-- The instruction at front `f`, or one of those. -/
def Agent.ofFront (f : Nat) (a : Agent) : Bool := a == .front f || a.queuedOn f

/-- A fill of binding `k` of a front, or of any binding of it, is in flight to a peer (R268, R285). -/
def State.filling (s : State) (f : Nat) (k : Option Nat) : Bool :=
  s.remotes.any fun r => r.answer.isNone && match r.agent with
    | .filler g j => g == f && (k.getD j == j)
    | _ => false

/-- The scope of a fence is SYS, and posted writes of some agents to peers are outstanding: of the scalar instructions for FSV (R284), of the
queued ones for FVS, FVV and CXBAR (R285, R286, R393), whose jobs are waited for as such (log 4). -/
def State.sysWaits (s : State) (mine : Agent → Bool) (scope : Scope) : Bool := scope == .sys && s.postedBy mine

/-- Some front's own. -/
def Agent.ofFronts (a : Agent) : Bool :=
  match a with
  | .front _ => true
  | .entry _ _ => true
  | .filler _ _ => true
  | _ => false

/-- Every access of a peer has been performed. -/
def State.peersQuiet (s : State) : Bool := !s.posted && s.remotes.all fun r => r.answer.isSome

/-- The answer to a request of `agent` to package `d`: taken when it has arrived, asked for when it has not been, awaited
otherwise (R385, R386); with no tag free, none is asked for yet. An atomic is asked for once, whatever has become of its operands since
(R356). A response without data is a failed check where the peer serves such
requests (R248, log 9), and else a refusal, ACCESS with SUB 6 (R388); no live link is ACCESS with SUB 8. -/
def askPeer (agent : Agent) (d addr n cls va : Nat) (data : List Byte) : M (List Byte) := do
  let s ← get
  match s.remotes.find? (fun r => r.agent == agent && r.cls == cls && (r.cls == 3 || r.pkg == d && r.addr == addr && r.len == n && r.data == data)) with
  | some r =>
    match r.answer with
    | none => waitMore
    | some b =>
      set { s with remotes := s.remotes.erase r }
      if !b.isEmpty then pure b
      else if inHbm addr || inVault addr then throw (.trap ⟨INTEGRITY, 0, 0, va, addr⟩) else raise ACCESS 6 0 va
  | none =>
    if (s.liveLinks d).isEmpty then raise ACCESS 8 0 va
    else
      match s.freeTag with
      | some t => throw (.wait (some ⟨agent, t, d, addr, n, cls, data, none⟩))
      | none => waitMore

/-- The end of the atomic access that an agent has asked a peer for (R356). -/
def finishAtomic (agent : Agent) (va : Nat) : M Unit := do
  let _ ← askPeer agent 0 0 0 3 va []
  pure ()

/-- A request recorded and sent (R385). -/
def State.request (s : State) (r : Remote) : State :=
  (({ s with remotes := s.remotes ++ [r] }).send r.pkg r.cls r.tag r.len r.addr r.data r.agent).getD s

end Sys2Proof.Machine
end

