-- ==== Sys2Proof/Machine/Mem.lean ====
section
/-! DEFINITION. Translation and the TLBs (R233 to R245), single accesses with their block checks and errors
(R247, R248, R374, R378), and the record rings (R245, R376). -/

namespace Sys2Proof.Machine

/-! ### Record rings (R245, R376) -/

/-- Memory that is served at the level of the package (R416). -/
def State.serves (s : State) (a : Nat) : Bool := inVault a || inScratch a || ((inHbm a || inCxl a) && s.pkg.level == 3)

/-- A record appended to a ring: dropped, and counted, when the ring is disabled or full (R245). Where its memory is not served, its bytes go
nowhere (R416, log 59). -/
def ringAppend (s : State) (r : RecRing) (rec : List Byte) : State × RecRing :=
  let n := r.ctl.field 4 0
  let size := 2 ^ n
  let h := r.head.field 31 0
  if n = 0 ∨ (h + 2 ^ 32 - r.tail.field 31 0) % 2 ^ 32 = size then
    (s, { r with drop := word ((r.drop.field 31 0 + 1) % 2 ^ 32) })
  else
    let a := r.base.field 49 12 * 4096 + 32 * (h % size)
    (if s.serves a then s.write a rec else s, { r with head := word ((h + 1) % 2 ^ 32) })

def hotAppend (s : State) (d : Nat) (rec : List Byte) : State :=
  let (t, r) := ringAppend s (s.die d).hot rec
  t.modDie d fun x => { x with hot := r }

def errAppend (s : State) (d : Nat) (rec : List Byte) : State :=
  let (t, r) := ringAppend s (s.die d).err rec
  t.modDie d fun x => { x with err := r }

/-- An error record (R376). -/
def errRecord (s : State) (d va phys asid kind core front seq : Nat) : State :=
  errAppend s d (leBytes 8 va ++ leBytes 8 phys ++
    leBytes 8 (asid % 2 ^ 14 + kind * 2 ^ 16 + core % 64 * 2 ^ 24 + front % 2 * 2 ^ 32) ++ leBytes 8 (seq % 2 ^ 32))

/-- The compute die whose memory holds an address (R230); host memory counts as die 0's (log 59). -/
def homeDie (a : Nat) : Nat :=
  if inHbm a then a / 0xC00000000 else if inVault a then (a - 0x6000000000) / 0x2000000 / 8
  else if inScratch a then (a - 0x6100000000) / 0x80000 / 64 else 0

/-- The record of an error that an access from outside the fronts meets in `n` bytes of memory (R376). -/
def logMem (s : State) (a n : Nat) : State :=
  if s.errAt a n then errRecord s (homeDie a) 0 a 0 1 0 0 0 else if s.badAt a n then errRecord s (homeDie a) 0 a 0 5 0 0 0 else s

/-! ### TLBs (R240, R241, R244) -/

/-- Bytes of a page by its SZ (R237). -/
def pageBytes (sz : Nat) : Nat := if sz = 0 then 2 ^ 16 else if sz = 1 then 2 ^ 21 else 2 ^ 30

/-- The entry covers the address in the address space. -/
def Tlb.hit (t : Tlb) (asid va : Nat) : Bool := t.asid == asid && va / pageBytes t.size * pageBytes t.size == t.base

/-- The hotness record of an entry that leaves the second level (R245). -/
def hotRecord (die cluster : Nat) (t : Tlb) : List Byte :=
  leBytes 8 (t.base / 2 ^ 16 * 2 ^ 16 + t.size) ++ leBytes 2 t.asid ++ leBytes 1 die ++ leBytes 1 cluster ++ zeros 4 ++
    leBytes 4 t.unit ++ leBytes 4 t.stride ++ leBytes 4 t.index ++ zeros 4

/-- An entry evicted or invalidated: a record when a counter is not zero (R245). -/
def dropTlb2 (s : State) (c : Nat) (t : Tlb) : State :=
  if t.unit = 0 ∧ t.stride = 0 ∧ t.index = 0 then s else hotAppend s (c / 8) (hotRecord (c / 8) c t)

/-- A new entry in the core's micro-TLB of 48 entries; the oldest gives way (log 10). -/
def fillUtlb (s : State) (k : Nat) (t : Tlb) : State :=
  s.modCore k fun x => { x with utlb := (if x.utlb.length < 48 then x.utlb else x.utlb.drop 1) ++ [t] }

/-- A new entry in the cluster's TLB of 2,048 entries; the oldest gives way (log 10). -/
def fillTlb2 (s : State) (c : Nat) (t : Tlb) : State :=
  match s.tlb2 c with
  | [] => s.setTlb2 c [t]
  | o :: r => if r.length + 1 < 2048 then s.setTlb2 c ((o :: r) ++ [t]) else (dropTlb2 s c o).setTlb2 c (r ++ [t])

/-- An element counted: 0 UNIT, 1 STRIDE, 2 INDEX. -/
def Tlb.count (which : Nat) (t : Tlb) : Tlb :=
  let up (n : Nat) : Nat := min (n + 1) (2 ^ 32 - 1)
  if which = 0 then { t with unit := up t.unit } else if which = 1 then { t with stride := up t.stride } else { t with index := up t.index }

/-- The entry that an access of an address goes through: of the micro-TLB, which a translation has filled, or else of the cluster's TLB. -/
def usedEntry (s : State) (f asid va : Nat) : Option Tlb :=
  ((s.core (coreOf f)).utlb.find? (·.hit asid va)).or ((s.tlb2 (clusterOf f)).find? (·.hit asid va))

/-- The same page in the same address space. -/
def Tlb.samePage (t u : Tlb) : Bool := t.asid == u.asid && t.base == u.base && t.size == u.size

/-- An element counted in the second-level entry of the page that it was performed through (R244), and in that one alone where translations of
overlapping pages stand beside it (R241); in none where the entry has left the second level meanwhile (DESIGN CHOICE, log 10). -/
def countHot (s : State) (f which asid va : Nat) : State :=
  match usedEntry s f asid va with
  | none => s
  | some t => s.setTlb2 (clusterOf f) ((s.tlb2 (clusterOf f)).map fun u => if t.samePage u then u.count which else u)

/-! ### The walk (R236 to R239) -/

/-- What a walk returns: a TLB entry, or the SUB of a PAGE fault. -/
abbrev WalkRes := Except Nat Tlb

/-- A table may stand here: HBM at FULL, or a vault (R238 SUB 5, R416). -/
def tableOk (s : State) (a : Nat) : Bool := inVault a || (inHbm a && s.pkg.level == 3)

/-- The reserved bits of an entry with V = 1, and the forms that its level excludes (R238 SUB 4). -/
def entryBad (lvl e : Nat) : Bool :=
  if bit e 1 then
    let sz := bits e 7 6
    bits e 15 10 != 0 || bits e 63 60 != 0 || lvl == 1 || sz == 3 || bits e 9 8 ≥ 2 ||
      (lvl == 2 && sz != 2) || (lvl == 3 && sz == 2) || bits e 49 16 * 2 ^ 16 % pageBytes sz != 0
  else bits e 14 2 != 0 || bits e 63 50 != 0 || lvl == 3

/-- The index of a level (R236). -/
def vaIndex (lvl va : Nat) : Nat :=
  if lvl = 1 then bits va 51 40 else if lvl = 2 then bits va 39 28 else bits va 27 16

/-- The levels from `lvl` on, `fuel` of them, with the table at `table`. An entry in error or in a bad block is taken as it stands, and recorded
(DESIGN CHOICE, log 71). -/
def walkFrom (s : State) (asid va lvl table fuel : Nat) : WalkRes :=
  match fuel with
  | 0 => .error 4
  | n + 1 =>
    if !tableOk s table then .error 5
    else
      let e := s.read (table + 8 * vaIndex lvl va) 8
      if !bit e 0 then .error lvl
      else if entryBad lvl e then .error 4
      else if bit e 1 then
        let sz := bits e 7 6
        .ok { asid := asid, base := va / pageBytes sz * pageBytes sz, size := sz, leaf := e, unit := 0, stride := 0, index := 0 }
      else walkFrom s asid va (lvl + 1) (bits e 49 15 * 2 ^ 15) n

/-- The walk of an address (R238): the ASID entry, then one entry at each level. -/
def walk (s : State) (asid va : Nat) : WalkRes :=
  let a := s.pkg.asidt.field 49 15 * 2 ^ 15 + 16 * asid
  let e := s.read a 16
  if !tableOk s a then .error 5
  else if !bit e 0 then .error 0
  else if bits e 14 1 != 0 || bits e 127 50 != 0 then .error 4
  else walkFrom s asid va 1 (bits e 49 15 * 2 ^ 15) 3

/-- The doublewords of the tables that a walk reads from a level on. -/
def tableReads (s : State) (va lvl table fuel : Nat) : List Nat :=
  match fuel with
  | 0 => []
  | n + 1 =>
    if !tableOk s table then []
    else
      let a := table + 8 * vaIndex lvl va
      let e := s.read a 8
      a :: if !bit e 0 || entryBad lvl e || bit e 1 then [] else tableReads s va (lvl + 1) (bits e 49 15 * 2 ^ 15) n

/-- The doublewords that the walk of an address reads. -/
def walkReads (s : State) (asid va : Nat) : List Nat :=
  let a := s.pkg.asidt.field 49 15 * 2 ^ 15 + 16 * asid
  let e := s.read a 16
  if !tableOk s a then []
  else [a, a + 8] ++ if !bit e 0 || bits e 14 1 != 0 || bits e 127 50 != 0 then [] else tableReads s va 1 (bits e 49 15 * 2 ^ 15) 3

/-- The error records of a walk for a front of die `d`: one for each doubleword in error, or in a bad block, that it reads (R376). -/
def logWalk (s : State) (d core front asid va : Nat) : State :=
  (walkReads s asid va).foldl (fun (t : State) a =>
    if s.errAt a 8 then errRecord t d 0 a asid 1 core front 0 else if s.badAt a 8 then errRecord t d 0 a asid 5 core front 0 else t) s

/-- The records of a front's walk. -/
def State.walked (s : State) (f asid va : Nat) : State := logWalk s (dieOf f) (f / 2 % 64) (f % 2) asid va

/-- The records of the walk that an access of a front has made, if neither its scratchpad window nor a TLB serves the address. -/
def State.missed (s : State) (f va : Nat) : State :=
  let x := s.front f
  let base := x.spbase.field 51 20 * 2 ^ 20
  if decide (base ≤ va ∧ va < base + 327680) || (usedEntry s f x.asid va).isSome then s else s.walked f x.asid va

/-- The error records of a trap: of the walk of an access that a fault, or an error of its data, ends, and of an error in storage (R374, R376, R378).
That of a completion pair was made when its job ended. -/
def logTrap (s : State) (f : Nat) (t : TrapRec) (seq : Nat) : State :=
  let kind := if t.cause = INTEGRITY then 5 else if t.cause = MEMERR ∧ t.sub ≠ 3 then t.sub + 1 else 0
  let inCore := kind == 2 || kind == 3
  let s := if kind = 2 then s.modCore (coreOf f) fun x =>
      { x with reported := spSet false x.reported t.phys true, rewritten := spSet false x.rewritten t.phys false } else s
  let s := if kind = 1 ∨ kind = 5 ∨ t.cause = PAGE ∨ (t.cause = ACCESS ∧ t.sub ≠ 1) then s.missed f t.addr else s
  if kind = 0 then s
  else errRecord s (dieOf f) (if inCore then 0 else t.addr) (if inCore then 0 else t.phys) (s.front f).asid kind (f / 2 % 64)
    (f % 2) seq

/-! ### Translation -/

/-- Who accesses: the front, its address space and mode, and its scratchpad window (R234, R236). -/
structure Ctx where
  agent  : Agent
  fid    : Nat
  asid   : Nat
  user   : Bool
  spbase : Nat
  deriving DecidableEq, Repr

/-- What an access needs of its page (R238). -/
inductive Need where
  | read | write | both | fetch
  deriving DecidableEq, Repr

/-- The checks of R238 on a leaf, from ACCESS 2 down: the location, or the SUB of an ACCESS fault. -/
def leafCheck (s : State) (user : Bool) (need : Need) (t : Tlb) (va : Nat) : Except Nat Loc :=
  let e := t.leaf
  let pa := bits e 49 16 * 2 ^ 16 / pageBytes t.size * pageBytes t.size + va % pageBytes t.size
  let peer := bits e 9 8 == 1
  if (need == .read || need == .both) && !bit e 2 then .error 2
  else if (need == .write || need == .both) && !bit e 3 then .error 3
  else if need == .fetch && !bit e 4 then .error 4
  else if user && bit e 5 then .error 5
  else if peer then
    if !(inHbm pa || inVault pa) then .error 6
    else if s.pkg.level != 3 then .error 9 else .ok (.peer (bits e 59 50) pa)
  else if !isMapped pa || (user && (inScratch pa || inDevice pa)) then .error 6
  else if (inHbm pa || inCxl pa) && s.pkg.level != 3 then .error 9
  else if inDevice pa then .ok (.dev pa) else .ok (.mem pa)

/-- The TLB entry of a page: from the micro-TLB, the cluster's TLB, or a walk, with the TLBs as they are then (R240). -/
def tlbFor (s : State) (f asid va : Nat) : Except Nat (Tlb × State) :=
  match (s.core (coreOf f)).utlb.find? (·.hit asid va) with
  | some t => .ok (t, s)
  | none =>
    match (s.tlb2 (clusterOf f)).find? (·.hit asid va) with
    | some t => .ok (t, fillUtlb s (coreOf f) { t with unit := 0, stride := 0, index := 0 })
    | none =>
      match walk s asid va with
      | .ok t => .ok (t, fillUtlb (fillTlb2 (s.walked f asid va) (clusterOf f) t) (coreOf f) t)
      | .error e => .error e

/-- An access's need, by what it does. -/
def needOf (rd wr : Bool) : Need := if rd && wr then .both else if wr then .write else .read

/-- A queued walk: it fills the TLBs unless it ends in a fault, one of R238's checks on the leaf included (R240, R380). -/
def pageWalk (s : State) (d : Nat) : State :=
  match (s.die d).walks with
  | [] => s
  | w :: r =>
    let s := s.modDie d fun x => { x with walks := r }
    match tlbFor s (2 * w.core) w.asid w.va with
    | .ok (t, u) =>
      if (leafCheck s w.user (needOf w.rd w.wr) t w.va).toOption.isSome then u
      else if (usedEntry s (2 * w.core) w.asid w.va).isSome then s else s.walked (2 * w.core) w.asid w.va
    | .error _ => s.walked (2 * w.core) w.asid w.va

/-- A virtual address to a location (R234, R236, R238). TRAPADDR is the virtual address. -/
def translate (c : Ctx) (va : Nat) (need : Need) : M Loc := do
  if c.spbase ≤ va ∧ va < c.spbase + 327680 then
    return .mem (scratchBase (coreOf c.fid) + (va - c.spbase))
  else if va ≥ 2 ^ 52 then raise ACCESS 1 0 va
  else
    match tlbFor (← get) c.fid c.asid va with
    | .error sub => raise PAGE sub 0 va
    | .ok (t, s') =>
      set s'
      match leafCheck s' c.user need t va with
      | .error sub => raise ACCESS sub 0 va
      | .ok l => return l

/-! ### Single accesses of memory (R144, R247, R248, R374, R378) -/

/-- The checks of a read: MEMERR or INTEGRITY where a unit or block fails. -/
def checkRead (a n va : Nat) : M Unit := do
  let s ← get
  if s.errAt a n then throw (.trap ⟨MEMERR, 0, 0, va, a⟩)
  if s.badAt a n then throw (.trap ⟨INTEGRITY, 0, 0, va, a⟩)

/-- A read for a register or the plane. -/
def readMem (a n va : Nat) : M Nat := do
  checkRead a n va
  return (← get).read a n

/-- A write covers a unit in error, or a bad block, only in part (R374, R378). -/
def State.partErr (s : State) (a n : Nat) : Bool :=
  s.memErr.any fun p => p.2 && decide (a < 8 * p.1 + 8 ∧ 8 * p.1 < a + n) && !decide (a ≤ 8 * p.1 ∧ 8 * p.1 + 8 ≤ a + n)
def State.partBad (s : State) (a n : Nat) : Bool :=
  s.badBlk.any fun p => p.2 && decide (a < 256 * p.1 + 256 ∧ 256 * p.1 < a + n) &&
    !decide (a ≤ 256 * p.1 ∧ 256 * p.1 + 256 ≤ a + n)

/-- A store: MEMERR or INTEGRITY with SUB 1 where it would have to merge. -/
def checkWrite (a n va : Nat) : M Unit := do
  let s ← get
  if s.partErr a n then throw (.trap ⟨MEMERR, 0, 0, va, a⟩)
  if s.partBad a n then throw (.trap ⟨INTEGRITY, 1, 0, va, a⟩)

def writeMem (a n v va : Nat) : M Unit := do
  checkWrite a n va
  modify fun s => s.write a (leBytes n v)

end Sys2Proof.Machine
end

