-- ==== Sys2Proof/Machine/Plane.lean ====
section
/-! DEFINITION. Lanes and windows (R197 to R206), carve entries and their checks (R56 to R61), elements and tags of the Crema plane (R55,
R59 to R63), the carafe (R214), and the errors of both (R374, R377). -/

namespace Sys2Proof.Machine

/-! ### Lanes and windows -/

/-- Number of one bits of a 64-bit word. -/
def popc64 (w : BitVec 64) : Nat := ((List.range 64).filter fun i => w.getLsbD i).length

/-- The live width of a core (R377). -/
def Core.live (x : Core) : Nat := 64 - popc64 x.lanemap

/-- PLWIN.FIRST and PLWIN.WIDTH of front `f` on a core (R198, R201). -/
def Core.window (x : Core) (f : Nat) : Nat × Nat :=
  if f % 2 = 0 then (0, min x.own0 x.live)
  else if x.own1 = 0 then (0, 0) else (64 - x.own1, x.live - (64 - x.own1))

def State.window (s : State) (f : Nat) : Nat × Nat := (s.core (coreOf f)).window f

/-- A valid TARGET (R200, R201), when the fronts named are resident. -/
def targetOk (live t : Nat) (res0 res1 : Bool) : Bool :=
  t % 8 == 0 && decide (t ≤ 64) &&
  (!(res0 && res1) || decide (8 ≤ t ∧ t ≤ (56 - (64 - live)) / 8 * 8)) &&
  (live == 64 || ((!res0 || decide (8 ≤ min t live)) && (!res1 || decide (8 ≤ live - t))))

/-! ### Carve entries (R57) -/

def dKind (e : Word) : Nat := e.field 1 0
def dRow0 (e : Word) : Nat := e.field 10 2
def dEpos (e : Word) : Nat := e.field 21 11
def dEw (e : Word) : Nat := e.field 24 22
/-- A counted field, in which 0 stands for the largest count. -/
def counted (n top : Nat) : Nat := if n = 0 then top else n
def dRows (e : Word) : Nat := counted (e.field 33 25) 512
def dNelem (e : Word) : Nat := counted (e.field 44 34) 2048
def dStep (e : Word) : Nat := counted (e.field 47 45) 8
def dWrap (e : Word) : Bool := e.flag 48
def dValid (e : Word) : Bool := e.flag 49

/-- Element width in bits (R57). -/
def dW (e : Word) : Nat := 2 ^ dEw e
/-- Capacity (R58). -/
def dCap (e : Word) : Nat := if dKind e = 0 then dRows e * dNelem e else dNelem e

/-- EPW(w) (R56). -/
def epw (width w : Nat) : Nat := if w = 64 then width / 2 else width * 32 / w
/-- VLMAX(w) (R67). -/
def vlmax (width w : Nat) : Nat := min 256 (4 * width * 32 / w)

def dLastPos (e : Word) : Nat := if dKind e = 2 then dEpos e else dEpos e + dNelem e - 1
def dLastRow (e : Word) : Nat :=
  if dKind e = 0 then dRow0 e + dRows e - 1 else if dKind e = 1 then dRow0 e else dRow0 e + (dNelem e - 1) * dStep e

/-- The check of R61 from subcode 2: the lowest that applies. -/
def edgeBody (e : Word) (width : Nat) : Option Nat :=
  if dEw e = 7 ∨ e.field 63 50 ≠ 0 then some 2
  else if epw width (dW e) ≤ dLastPos e then some 3
  else if 511 < dLastRow e ∧ !dWrap e then some 4
  else if 512 ≤ dLastRow e - dRow0 e then some 5 else none

/-- The check of R61 at push, with subcode 1. -/
def edgeCheck (e : Word) (width : Nat) : Option Nat := if !dValid e then some 1 else edgeBody e width

/-- Place (R59): row and element position. -/
def place (e : Word) (i : Nat) : Nat × Nat :=
  let k := dKind e
  let row := if k = 0 then dRow0 e + i / dNelem e else if k = 1 then dRow0 e else dRow0 e + i * dStep e
  let pos := if k = 0 then dEpos e + i % dNelem e else if k = 2 then dEpos e else dEpos e + i
  (if dWrap e then row % 512 else row, pos)

/-- The plane cells that element i touches, low cell first (R59). A cell has key 64 × row + column. -/
def elemCells (e : Word) (first i : Nat) : List Nat :=
  let (row, pos) := place e i
  if dW e = 64 then [row * 64 + first + 2 * pos, row * 64 + first + 2 * pos + 1] else [row * 64 + first + pos * dW e / 32]

/-- The offset of the element's bits in its cell (R59). -/
def elemOff (e : Word) (i : Nat) : Nat := if dW e = 64 then 0 else (place e i).2 * dW e % 32

def Core.cell (x : Core) (key : Nat) : BitVec 32 := spGet 0 x.plane key
def Core.tag (x : Core) (key : Nat) : Byte := spGet 0 x.tags key
def Core.car (x : Core) (key : Nat) : BitVec 32 := spGet 0 x.carafe key

/-- Elem (R59). -/
def Core.elem (x : Core) (e : Word) (first i : Nat) : Nat :=
  match elemCells e first i with
  | [a, b] => (x.cell a).toNat + (x.cell b).toNat * 2 ^ 32
  | a :: _ => (x.cell a).toNat / 2 ^ elemOff e i % 2 ^ dW e
  | [] => 0

/-- A cell's bits replaced, with its error cleared when all 32 bits are written (R374, R377). -/
def Core.setCell (x : Core) (key : Nat) (v : BitVec 32) (whole : Bool) : Core :=
  { x with
    plane := spSet 0 x.plane key v
    badCells := if whole then spSet false x.badCells key false else x.badCells
    rewritten := if whole && spGet false x.reported key then spSet false x.rewritten key true else x.rewritten }

/-- A cell's tag replaced. -/
def Core.setTag (x : Core) (key : Nat) (t : Byte) : Core :=
  { x with tags := spSet 0 x.tags key t, badTags := spSet false x.badTags key false }

/-- The tags of a list of cells, where one is given. -/
def Core.setTags (x : Core) (cells : List Nat) (tags : List (Option Byte)) : Core :=
  match cells, tags with
  | c :: cs, some t :: ts => (x.setTag c t).setTags cs ts
  | _ :: cs, none :: ts => x.setTags cs ts
  | _, _ => x

/-- The bits of an element replaced (R60). -/
def Core.setElem (x : Core) (e : Word) (first i v : Nat) : Core :=
  match elemCells e first i with
  | [a, b] => (x.setCell a (BitVec.ofNat 32 v) true).setCell b (BitVec.ofNat 32 (v / 2 ^ 32)) true
  | a :: _ =>
    let w := dW e
    let o := elemOff e i
    let old := (x.cell a).toNat
    let new := old - old / 2 ^ o % 2 ^ w * 2 ^ o + v % 2 ^ w * 2 ^ o
    x.setCell a (BitVec.ofNat 32 new) (w == 32)
  | [] => x

/-- The rows of cells marked in the front's dirty map (R362, R363). -/
def Front.markRows (x : Front) (cells : List Nat) : Front :=
  { x with dirty := cells.foldl (fun d c => d ||| BitVec.ofNat 512 (2 ^ (c / 64))) x.dirty }

/-! ### Elements of front `f`, whose window starts at `first` -/

/-- The error of a plane cell as MEMERR SUB 1 (R374), reported for R377. -/
def planeErr (first key : Nat) : TrapRec :=
  ⟨MEMERR, 1, 0, key / 64 + (key % 64 - first) * 2 ^ 9 + 2 ^ 63, key⟩

/-- Some cell of the element holds an uncorrectable error. -/
def badCell? (x : Core) (cells : List Nat) (tags : Bool) : Option Nat :=
  cells.find? fun c => spGet false x.badCells c || (tags && spGet false x.badTags c)

/-- The bits of element i (R59); an uncorrectable cell raises MEMERR. -/
def getElem' (f first : Nat) (e : Word) (i : Nat) : M Nat := do
  let x := (← get).core (coreOf f)
  match badCell? x (elemCells e first i) false with
  | some c => throw (.trap (planeErr first c))
  | none => return x.elem e first i

/-- The tags of the cells of element i, low cell first. -/
def getTags (f first : Nat) (e : Word) (i : Nat) : M (List Byte) := do
  let x := (← get).core (coreOf f)
  match badCell? x (elemCells e first i) true with
  | some c => throw (.trap (planeErr first c))
  | none => return (elemCells e first i).map x.tag

/-- Element i written with the tags given, one for each cell (R60, R63); its rows become dirty (R363). A write that covers part of a
cell in error raises MEMERR (R374). -/
def putElem (f first : Nat) (e : Word) (i v : Nat) (tags : List (Option Byte)) : M Unit := do
  let cells := elemCells e first i
  let x := (← get).core (coreOf f)
  match (if dW e < 32 then badCell? x cells false else none) with
  | some c => throw (.trap (planeErr first c))
  | none =>
    modify fun s => (s.modCore (coreOf f) fun x => (x.setElem e first i v).setTags cells tags).modFront f fun y => y.markRows cells

/-- One tag for every cell of the element. -/
def putTagged (f first : Nat) (e : Word) (i v : Nat) (tag : Nat) : M Unit :=
  putElem f first e i v [some (BitVec.ofNat 8 tag), some (BitVec.ofNat 8 tag)]

/-- The element's bits written, its cells' tags kept. -/
def putKeep (f first : Nat) (e : Word) (i v : Nat) : M Unit := putElem f first e i v [none, none]

/-! ### The carafe (R214) -/

/-- C(m, n) of a front whose window starts at `first`. -/
def getCar (f first m n : Nat) : M Nat := do
  let x := (← get).core (coreOf f)
  let key := m * 64 + first + n
  if spGet false x.badCarafe key then throw (.trap ⟨MEMERR, 2, 0, m + n * 2 ^ 8 + 2 ^ 63, key⟩)
  return (x.car key).toNat

/-- A carafe value written; the carafe flag is set (R363). -/
def putCar (f first m n v : Nat) : M Unit :=
  modify fun s =>
    (s.modCore (coreOf f) fun x =>
      { x with carafe := spSet 0 x.carafe (m * 64 + first + n) (BitVec.ofNat 32 v)
               badCarafe := spSet false x.badCarafe (m * 64 + first + n) false }).modFront f fun y => { y with cdirty := true }

/-! ### Tags (R62, R64, R92) -/

/-- The integer tags of a width: INTw and UINTw. -/
def intTag (w : Nat) : Nat := if w = 8 then 1 else if w = 16 then 3 else if w = 32 then 5 else if w = 64 then 7 else 0
def uintTag (w : Nat) : Nat := if intTag w = 0 then 0 else intTag w + 1
def isIntTag (w t : Nat) : Bool := intTag w != 0 && (t == intTag w || t == uintTag w)
/-- The tag of an IEEE format. -/
def fpTag : FFmt → Nat
  | .fp16 => 9 | .bf16 => 10 | .fp32 => 11 | .fp64 => 12
def e8Tag : Nat := 13
/-- The tag of a whole code, or of a plane of 4, 2 or 1 bits, of slot n (R92). -/
def slotTag (n part : Nat) : Nat := part * 64 + 32 + n

/-- The tag check of R64. -/
def checkTags (f first : Nat) (e : Word) (i : Nat) (ok : Nat → Bool) : M Unit := do
  let ts ← getTags f first e i
  if ts.all fun t => ok t.toNat then pure () else raise FORMAT 0 i 0

/-- The same, but for cells and tags in error: their MEMERR is found with the access (R243). -/
def checkTagsSeen (f first : Nat) (e : Word) (i : Nat) (ok : Nat → Bool) : M Unit := do
  let x := (← get).core (coreOf f)
  if (elemCells e first i).all fun c => spGet false x.badTags c || ok (x.tag c).toNat then pure () else raise FORMAT 0 i 0

end Sys2Proof.Machine
end

