-- ==== Sys2Proof/Machine/Vec.lean ====
section
/-! DEFINITION. Instructions at the front (R72, R132), the push of a vector instruction with its checks in the order of R422 and its
captures (R69, R70, R155, R156, R183, R265), and how a queued instruction runs (R66, R71, R208). -/

namespace Sys2Proof.Machine
open Fp (Env)

/-! ### The front -/

/-- A trap that the instruction at the front raises. It is taken once no older queued instruction is left, which may itself trap first
(R72); until then the front waits. An error in storage is logged (R376). -/
def frontTrap (s : State) (t : TrapRec) : State :=
  let x := s.me
  if x.queue.isEmpty then takeTrap (logTrap s s.cur t x.vsn.toNat) s.cur t x.pc x.vsn else s.blocked .retry

/-- An operation of the instruction at the front that may trap or wait, as `w`; when it does neither, it has its whole effect. -/
def atFrontIn (w : Wait) (m : M Unit) (s : State) : Out :=
  match m s with
  | .ok (_, t) => .next t
  | .error (.trap t) => .next (frontTrap s t)
  | .error (.wait none) => .next (s.blocked w)
  | .error (.wait (some r)) => .next ((s.request r).blocked w)

/-- One whose waits hold up no other front. -/
def atFront (m : M Unit) (s : State) : Out := atFrontIn .retry m s

/-- Such an operation, followed by PC ← PC + 4. -/
def atFrontNext (m : M Unit) (s : State) : Out := atFront (do m; modify State.advance) s

/-- The translation context of the instruction at the front. -/
def Front.ctx (x : Front) (f : Nat) : Ctx := ⟨.front f, f, x.asid, !x.kernel, x.spbase.field 51 20 * 2 ^ 20⟩
def State.ctx (s : State) : Ctx := s.me.ctx s.cur

/-- The rounding environment of the front's FCR and GSTEP (R80, R138). -/
def envOf (fcr gstep : Word) : Env := ⟨Fp.modeOf (fcr.field 2 0), fcr.flag 3, fcr.flag 4, fcr.field 63 32, gstep.field 31 0⟩

/-! ### Captured state -/

def QEntry.vl (e : QEntry) : Nat := e.cap.vl.field 8 0
def QEntry.start (e : QEntry) : Nat := e.cap.vstart.field 8 0
def QEntry.mode (e : QEntry) : Nat := e.cap.vmc.field 4 3
def QEntry.act (e : QEntry) : Nat := e.cap.vmc.field 2 0
def QEntry.off (e : QEntry) : Nat := e.cap.vmc.field 7 5
def QEntry.offen (e : QEntry) : Bool := e.cap.vmc.flag 8
def QEntry.name (e : QEntry) (k : Nat) : Word := e.cap.names.getD k 0
def QEntry.scal (e : QEntry) (k : Nat) : Word := e.cap.scalars.getD k 0
def QEntry.group (e : QEntry) (k : Nat) : List Word := e.cap.groups.getD k []
def QEntry.env (e : QEntry) : Env := envOf e.cap.fcr e.cap.gstep

/-- Element i is active under the captured VMC (R65). -/
def activeIn (mode : Nat) (m : BitVec 256) (i : Nat) : Bool := mode == 0 || m.getLsbD i

/-! ### The push -/

/-- One vector name of an instruction: its roles, and which checks of R155 and R67 it takes (R156). -/
structure NameUse where
  v   : VName
  src : Bool
  dst : Bool
  ew  : Bool
  cap : Bool
  vmx : Bool

def asSrc (v : VName) : NameUse := ⟨v, true, false, true, true, true⟩
def asDst (v : VName) : NameUse := ⟨v, false, true, true, true, true⟩
def asBoth (v : VName) : NameUse := ⟨v, true, true, true, true, true⟩
/-- A name that is checked under R61 alone, but for its entry's own rules. -/
def NameUse.bare (u : NameUse) : NameUse := { u with ew := false, cap := false, vmx := false }
def NameUse.anyEw (u : NameUse) : NameUse := { u with ew := false }

/-- What the push of an instruction checks and captures, beyond what is common to all. `groups` names, by its place in `uses`, the first
name of each narrow group, and says whether a scale name follows when the slot has one. `width` gives the cause and SUB of a failed width
check, `caps` the capacities that replace R67's, and `own` the checks of the instruction's entry. -/
structure PushSpec where
  uses   : List NameUse
  regs   : List SReg
  slot   : Option Slot
  groups : List (Nat × Bool)
  width  : Capture → Option (Nat × Nat)
  caps   : Capture → List (Word × Nat)
  own    : Capture → Option TrapRec

/-- The checks that every pushed instruction has, for names alone. -/
def PushSpec.plain (uses : List NameUse) (regs : List SReg) : PushSpec :=
  ⟨uses, regs, none, [], fun _ => none, fun _ => [], fun _ => none⟩

/-- The binding of a name (R264). -/
def Front.bindOf (x : Front) (v : Nat) : Option (Nat × Binding) := x.binds.find? fun p => p.2.name == v && !p.2.closing

/-- The strip of a ring at row k: a row run of the ring's EPOS0, EW and NELEM (R265). -/
def stripOf (ring : Word) (k : Nat) : Word :=
  let row := (place ring (k * dNelem ring)).1
  word (1 + row * 2 ^ 2 + dEpos ring * 2 ^ 11 + dEw ring * 2 ^ 22 + ring.field 44 34 * 2 ^ 34 + 2 ^ 49)

/-- The entry of a name: of a bound one the entry that its binding captured, since a later CARVE of it takes effect only after its SUNBIND
(R264). -/
def Front.effective (x : Front) (v : Nat) : Word := ((x.bindOf v).map fun p => p.2.ring).getD (x.entry v)

/-- The entry that an operand captures: its strip when the name is bound the right way, and else its effective entry (R264,
R265). -/
def Front.operandEntry (x : Front) (u : NameUse) : Word :=
  match x.bindOf u.v.toNat with
  | some (_, b) =>
    if (!b.store && u.src && !u.dst) || (b.store && u.dst && !u.src) then stripOf b.ring (b.count % dRows b.ring) else x.effective u.v.toNat
  | none => x.effective u.v.toNat

/-- A LOAD name used as a destination, or a STORE name used as a source (R265). -/
def Front.misused (x : Front) (u : NameUse) : Bool :=
  match x.bindOf u.v.toNat with
  | some (_, b) => (!b.store && u.dst) || (b.store && u.src)
  | none => false

/-- The first of the checks that fails. -/
def firstFail (l : List (Option TrapRec)) : Option TrapRec := (l.find? (·.isSome)).getD none

/-- How many names a group has: its planes, and its scale name (R183, R218). -/
def groupSize (fmt : Word) (scale : Bool) : Nat :=
  (planesOf (nW fmt)).length + (if scale && nBlock fmt != 0 then 1 else 0)

/-- The further names of each group: planes have the role of the first name, a scale name is read (R183, R185, R218). -/
def PushSpec.further (p : PushSpec) (fmt : Word) : List (List NameUse) :=
  p.groups.map fun g =>
    let u := p.uses.getD g.1 (asSrc 0)
    (List.range (groupSize fmt g.2 - 1)).map fun j =>
      let v := BitVec.ofNat 6 (u.v.toNat + j + 1)
      if j + 1 < (planesOf (nW fmt)).length then { u with v := v } else asSrc v

/-- The value of the FMT slot that an instruction names. -/
def Front.specFmt (x : Front) (p : PushSpec) : Word :=
  match p.slot with
  | some n => x.slotReg n.toNat
  | none => 0

/-- Every name that an instruction uses. -/
def Front.allUses (x : Front) (p : PushSpec) : List NameUse := p.uses ++ (p.further (x.specFmt p)).flatten

/-- What the push captures (R70, R88, R183, R265). -/
def Front.capture (x : Front) (win : Nat × Nat) (p : PushSpec) : Capture :=
  let names := p.uses.map x.operandEntry
  let uses := x.allUses p
  let pops := (uses.filterMap fun u =>
    match x.bindOf u.v.toNat with
    | some (k, b) => if !b.store && u.src then some (k, b.count) else none
    | none => none).eraseDups
  let stores := (uses.filterMap fun u =>
    match x.bindOf u.v.toNat with
    | some (k, b) => if b.store && u.dst then some (k, b.count, b.pos) else none
    | none => none).eraseDups
  { vl := x.vl, vmc := x.vmc, vst := x.vst, vstart := x.vstart, fcr := x.fcr, gstep := x.gstep, spbase := x.spbase
    kern := x.kernel, first := win.1, width := win.2
    scalars := p.regs.map x.reg
    names := names
    gens := p.uses.map fun u => x.gen u.v.toNat
    groups := (p.groups.zip (p.further (x.specFmt p))).map fun g => names.getD g.1.1 0 :: g.2.map x.operandEntry
    fmt := x.specFmt p
    decay := (List.range 16).map x.decayReg
    pops := pops
    stores := stores }

/-- The push checks of R422, in its order. Where it gives none, it is DEDUCED that widths which differ come before a width that the entry does not
take, and the misuse of a bound name after the entry's own checks (log 67). -/
def Front.pushCheck (x : Front) (c : Capture) (p : PushSpec) : Option TrapRec :=
  let vs := c.vstart.field 8 0
  let vl := c.vl.field 8 0
  let edge (e : Word) : Option TrapRec := (edgeCheck e c.width).map fun sub => ⟨EDGE, sub, vs, 0, 0⟩
  let at_ (cause sub elem : Nat) : TrapRec := ⟨cause, sub, elem, 0, 0⟩
  let pairs := p.uses.zip c.names
  let commons := (pairs.filter fun q => q.1.ew).map fun q => dEw q.2
  let capFail (e : Word) (n : Nat) : Option TrapRec := if dCap e < n then some (at_ CAPACITY 1 (dCap e)) else none
  let vmFail (e : Word) : Option TrapRec :=
    if vlmax c.width (dW e) < vl then some (at_ CAPACITY 2 (vlmax c.width (dW e))) else none
  let further := p.groups.zip c.groups
  firstFail (
    c.names.map edge ++
    [if p.slot.isSome ∧ nW c.fmt = 0 then some (at_ FORMAT 2 vs) else none] ++
    p.groups.map (fun g =>
      if 64 < (p.uses.getD g.1 (asSrc 0)).v.toNat + groupSize c.fmt g.2 then some (at_ FORMAT 6 vs) else none) ++
    (c.groups.map fun g => firstFail ((g.drop 1).map edge)) ++
    [if commons.any (fun w => w != commons.headD 0) then some (at_ FORMAT 3 vs) else none,
     (p.width c).map fun q => at_ q.1 q.2 vs] ++
    pairs.map (fun q => if q.1.cap then capFail q.2 vl else none) ++
    (p.caps c).map (fun q => capFail q.1 q.2) ++
    pairs.zipIdx.flatMap (fun q => (if q.1.1.vmx then vmFail q.1.2 else none) ::
      (further.filter (fun g => g.1.1 == q.2)).flatMap fun g =>
        ((g.2.take (planesOf (nW c.fmt)).length).drop 1).map vmFail) ++
    [p.own c, if (x.allUses p).any x.misused then some (at_ CAPACITY 16 vs) else none])

/-- The bindings after the pops and appends of a push (R265). -/
def Front.advanceBinds (x : Front) (c : Capture) : Front :=
  let y := c.pops.foldl (fun (y : Front) p =>
    { y with binds := y.binds.map fun q => if q.1 = p.1 then (q.1, { q.2 with count := q.2.count + 1 }) else q }) x
  c.stores.foldl (fun (y : Front) p =>
    { y with binds := y.binds.map fun q =>
        if q.1 = p.1 then (q.1, { q.2 with count := q.2.count + 1, pos := q.2.pos + c.vl.field 8 0 }) else q }) y

/-- The entry that a push makes (R69, R70). -/
def newEntry (i : Instr) (vsn : BitVec 32) (c : Capture) : QEntry :=
  { instr := i, vsn := vsn, handle := vsn, issued := false, progress := c.vstart.field 8 0, done := false, trap := none, cap := c
    aux := 0, flags := 0, advanced := false, storing := false, stored := 0, counted := 0, countedS := 0, pushed := 0, born := 0, record := [] }

/-- The push itself, in a clock: a number, VSTART written to 0, and the next instruction (R69, R70, R208). -/
def Front.pushed (x : Front) (i : Instr) (clock : Nat) (c : Capture) : Front :=
  let y := { x.advanceBinds c with queue := x.queue ++ [{ newEntry i x.vsn c with pushed := clock, born := clock }], vsn := x.vsn + 1, vstart := 0 }
  y.complete (x.pc + 4)

/-- A pushed instruction at the front: it waits at a full queue (R69), traps under R422, or is pushed. -/
def push (i : Instr) (p : PushSpec) (s : State) : Out :=
  let x := s.me
  let c := x.capture (s.window s.cur) p
  if 64 ≤ x.queue.length then .next (s.blocked .retry)
  else
    match x.pushCheck c p with
    | some t => .next (frontTrap s t)
    | none => .next (s.setFront s.cur (x.pushed i s.clock c))

/-! ### Running a queued instruction -/

/-- How a queued instruction runs: by elements, or groups of `unit` of them, from its progress; whole; in steps that keep what they have
done at a stop, though the instruction begins again (R165, R257); or in one piece that reaches a state, a progress and perhaps a stop, and goes
no further than a bound, if there is one. -/
inductive Run where
  | elems (stop unit : Nat) (body : Nat → M Unit)
  | whole (m : M Unit)
  | steps (check : M Unit) (n : Nat) (body : Nat → M Unit)
  | part (m : Option Nat → State → State × Nat × Option Stop)

/-- The entry of a queue with number `vsn` changed. -/
def Front.modEntry (x : Front) (vsn : BitVec 32) (g : QEntry → QEntry) : Front :=
  { x with queue := x.queue.map fun e => if e.vsn = vsn then g e else e }

/-- The entry of a running instruction changed. -/
def setEntryM (f : Nat) (e : QEntry) (g : QEntry → QEntry) : M Unit := modify fun s => s.modFront f fun x => x.modEntry e.vsn g

/-- The further state of an entry (R358). -/
def setAux (f : Nat) (e : QEntry) (v : Nat) : M Unit := setEntryM f e fun y => { y with aux := v }

def orFlagsM (f fl : Nat) : M Unit := modify fun s => s.modFront f fun x => x.orFlags fl

/-- Offender bit i set, when the instruction was pushed with OFFEN = 1 (R66). -/
def offend (f : Nat) (e : QEntry) (i : Nat) : M Unit :=
  if e.offen then modify fun s => s.modFront f fun x => x.setMask e.off (x.mask e.off ||| BitVec.ofNat 256 (2 ^ i)) else pure ()

/-- Whether element i is active, by the mask as it stands (R65). -/
def isActive (f : Nat) (e : QEntry) (i : Nat) : M Bool := do
  return activeIn e.mode ((← get).front f |>.mask e.act) i

/-- The bodies of `i`, `i + unit` and so on, at most `fuel` of them, until one stops; with `own`, traps are reported at the body's number. -/
def bodyLoop (own : Bool) (unit : Nat) (body : Nat → M Unit) (fuel i : Nat) (s : State) : State × Nat × Option Stop :=
  match fuel with
  | 0 => (s, i, none)
  | n + 1 =>
    match (if own then atElem i (body i) else body i) s with
    | .ok (_, t) => bodyLoop own unit body n (i + unit) t
    | .error st => (s, i, some st)

/-- An operation that reads an earlier state and changes nothing. -/
def readAt {α : Type} (s₀ : State) (m : M α) : M α := fun s =>
  match m s₀ with
  | .ok (v, _) => .ok (v, s)
  | .error st => .error st

/-- Operations `i` to `i + n − 1`, one after another. -/
def forUp (n i : Nat) (body : Nat → M Unit) : M Unit :=
  match n with
  | 0 => pure ()
  | k + 1 => do
    body i
    forUp k (i + 1) body

/-- Values at `n` rising places. -/
def readRun {α : Type} (n i : Nat) (g : Nat → M α) : M (List α) :=
  match n with
  | 0 => pure []
  | k + 1 => do
    let v ← g i
    return v :: (← readRun k (i + 1) g)

end Sys2Proof.Machine
end

