-- ==== Sys2Proof/Machine/VecInt.lean ====
section
/-! DEFINITION. Vector integer instructions: arithmetic, bitwise operations, moves and splats (R157, R169 to R171), compares and mask
operations (R166, R167). -/

namespace Sys2Proof.Machine

/-- The source index of an operand with a modifier (R68): `none` where the operand delivers zero. -/
def modIndex (sm : BitVec 2) (vl i : Nat) : Option Nat :=
  match sm.toNat with
  | 0 => some i
  | 1 => if i + 1 < vl then some (i + 1) else none
  | 2 => if 1 ≤ i ∧ i ≤ vl then some (i - 1) else none
  | _ => if 0 < vl then some 0 else none

/-- The value of a source read through a modifier, after its tag check when one is asked for (R64, R68). An element that the modifier selects for an active
one is checked also where it is itself masked off or below VSTART (DEDUCED, log 76). -/
def modSource (f : Nat) (e : QEntry) (k : Nat) (sm : BitVec 2) (i : Nat) (ok : Nat → Bool) (check : Bool) : M Nat :=
  match modIndex sm e.vl i with
  | none => pure 0
  | some j => do
    if check then atElem i (checkTags f e.cap.first (e.name k) j ok)
    getElem' f e.cap.first (e.name k) j

/-- The tags of a source element, for a destination that copies them (R63). -/
def sourceTags (f : Nat) (e : QEntry) (k i : Nat) : M (List (Option Byte)) := do
  return (← getTags f e.cap.first (e.name k) i).map some

/-- R66 for an inactive element: zero with the tags given under MODE = 2, unchanged under MODE = 1. -/
def inactive (f : Nat) (e : QEntry) (k i : Nat) (tags : M (List (Option Byte))) : M Unit := do
  if e.mode = 2 then putElem f e.cap.first (e.name k) i 0 (← tags) else pure ()

def sameTag (t : Nat) : M (List (Option Byte)) := pure [some (BitVec.ofNat 8 t), some (BitVec.ofNat 8 t)]

/-! ### Arithmetic on integers of width w (R169): the result, and whether it saturated -/

/-- An operation of R169 on elements of a width. -/
abbrev IntOp := Nat → Nat → Nat → Nat × Bool

def sgn (w x : Nat) : Int := signedOf w x
def clampTo (w : Nat) (lo hi x : Int) : Nat × Bool :=
  if x < lo then (wrapTo w lo, true) else if hi < x then (wrapTo w hi, true) else (wrapTo w x, false)

def ivAdd : IntOp := fun w x y => ((x + y) % 2 ^ w, false)
def ivSub : IntOp := fun w x y => (wrapTo w ((x : Int) - y), false)
def ivMul : IntOp := fun w x y => (x * y % 2 ^ w, false)
def ivMulh : IntOp := fun w x y => (wrapTo w (sgn w x * sgn w y / (2 ^ w : Nat)), false)
def ivMin : IntOp := fun w x y => (if sgn w x ≤ sgn w y then x else y, false)
def ivMax : IntOp := fun w x y => (if sgn w x ≤ sgn w y then y else x, false)
def ivMinu : IntOp := fun _ x y => (if x ≤ y then x else y, false)
def ivMaxu : IntOp := fun _ x y => (if x ≤ y then y else x, false)
def ivAnd : IntOp := fun _ x y => (Nat.land x y, false)
def ivOr : IntOp := fun _ x y => (Nat.lor x y, false)
def ivXor : IntOp := fun _ x y => (Nat.xor x y, false)
def ivShl : IntOp := fun w x y => (x * 2 ^ (y % w) % 2 ^ w, false)
def ivShr : IntOp := fun w x y => (x / 2 ^ (y % w), false)
def ivSra : IntOp := fun w x y => (wrapTo w (sgn w x / (2 ^ (y % w) : Nat)), false)
def ivSadd : IntOp := fun w x y => clampTo w (-(2 ^ (w - 1) : Nat)) ((2 ^ (w - 1) : Nat) - 1) (sgn w x + sgn w y)
def ivSsub : IntOp := fun w x y => clampTo w (-(2 ^ (w - 1) : Nat)) ((2 ^ (w - 1) : Nat) - 1) (sgn w x - sgn w y)
def ivSaddU : IntOp := fun w x y => clampTo w 0 ((2 ^ w : Nat) - 1) ((x : Int) + y)
def ivSsubU : IntOp := fun w x y => clampTo w 0 ((2 ^ w : Nat) - 1) ((x : Int) - y)

/-- One active element of an arithmetic instruction: tag checks, the result with the tags of va's cells, the offender bit (R157, R169).
An inactive one that is zeroed takes RAW at widths 1, 2 and 4, which is DEDUCED (log 65). -/
def intElem (op : IntOp) (f : Nat) (e : QEntry) (i : Nat) (y : M Nat) : M Unit := do
  let d := e.name 0
  let w := dW d
  if ← isActive f e i then
    checkTags f e.cap.first (e.name 1) i (isIntTag w)
    let v ← y
    let (r, sat) := op w (← getElem' f e.cap.first (e.name 1) i) v
    putElem f e.cap.first d i r (← sourceTags f e 1 i)
    if sat then offend f e i
  else inactive f e 0 i (sameTag (intTag w))

def intRun (op : IntOp) (sm : BitVec 2) (e : QEntry) (f : Nat) : Run :=
  .elems e.vl 1 fun i => intElem op f e i (modSource f e 2 sm i (isIntTag (dW (e.name 0))) true)

/-- A bitwise operation: no tag check, the tags of va's cells copied (R157, R169). -/
def bitRun (op : IntOp) (sm : BitVec 2) (e : QEntry) (f : Nat) : Run :=
  .elems e.vl 1 fun i => do
    if ← isActive f e i then
      let x ← getElem' f e.cap.first (e.name 1) i
      let y ← modSource f e 2 sm i (fun _ => true) false
      putElem f e.cap.first (e.name 0) i (op (dW (e.name 0)) x y).1 (← sourceTags f e 1 i)
    else inactive f e 0 i (sourceTags f e 1 i)

/-- A shift by an immediate: the count is n mod w (R169). -/
def shiftImmRun (op : IntOp) (n : BitVec 8) (e : QEntry) (f : Nat) : Run :=
  .elems e.vl 1 fun i => intElem op f e i (pure n.toNat)

/-- VMERGE (R170). -/
def mergeRun (sm : BitVec 2) (e : QEntry) (f : Nat) : Run :=
  .elems e.vl 1 fun i => do
    let d := e.name 0
    if ((← get).front f |>.mask e.act).getLsbD i then
      putElem f e.cap.first d i (← getElem' f e.cap.first (e.name 1) i) (← sourceTags f e 1 i)
    else
      match modIndex sm e.vl i with
      | none => putKeep f e.cap.first d i 0
      | some j => putElem f e.cap.first d i (← getElem' f e.cap.first (e.name 2) j) (← sourceTags f e 2 j)

/-- VMV (R170). -/
def moveRun (e : QEntry) (f : Nat) : Run :=
  .elems e.vl 1 fun i => do
    if ← isActive f e i then
      putElem f e.cap.first (e.name 0) i (← getElem' f e.cap.first (e.name 1) i) (← sourceTags f e 1 i)
    else inactive f e 0 i (sourceTags f e 1 i)

/-- VSPLAT of a value (R171): INTw from 8 bits up, RAW below. -/
def splatRun (v : Nat) (e : QEntry) (f : Nat) : Run :=
  .elems e.vl 1 fun i => do
    let t := intTag (dW (e.name 0))
    if ← isActive f e i then putTagged f e.cap.first (e.name 0) i v t else inactive f e 0 i (sameTag t)

/-- VMVSX: VSPLAT on element 0 alone (R171). -/
def splat0Run (v : Nat) (e : QEntry) (f : Nat) : Run :=
  .elems (min e.vl 1) 1 fun i => do
    let t := intTag (dW (e.name 0))
    if ← isActive f e i then putTagged f e.cap.first (e.name 0) i v t else inactive f e 0 i (sameTag t)

/-- Two sources and a destination. -/
def binSpec (vd va vb : VName) : PushSpec := .plain [asDst vd, asSrc va, asSrc vb] []
/-- One source and a destination. -/
def unSpec (vd va : VName) : PushSpec := .plain [asDst vd, asSrc va] []
/-- A destination and a scalar. -/
def scalSpec (vd : VName) (b : SReg) : PushSpec := .plain [asDst vd] [b]

/-! ### Compares and masks (R166, R167) -/

/-- Mask bit i of front `f` written. -/
def putMaskBit (f m i : Nat) (b : Bool) : M Unit :=
  modify fun s => s.modFront f fun x =>
    let bitI := BitVec.ofNat 256 (2 ^ i)
    x.setMask m (if b then x.mask m ||| bitI else x.mask m &&& ~~~bitI)

/-- A compare writes one mask bit for each element (R166). -/
def cmpRun (c : Nat → Nat → Nat → Bool) (md : MReg) (sm : BitVec 2) (e : QEntry) (f : Nat) : Run :=
  .elems e.vl 1 fun i => do
    let w := dW (e.name 0)
    if ← isActive f e i then
      checkTags f e.cap.first (e.name 0) i (isIntTag w)
      let y ← modSource f e 1 sm i (isIntTag w) true
      putMaskBit f md.toNat i (c w (← getElem' f e.cap.first (e.name 0) i) y)
    else if e.mode = 2 then putMaskBit f md.toNat i false else pure ()

def cmpSpec (va vb : VName) : PushSpec := .plain [asSrc va, asSrc vb] []

def icEq (_ x y : Nat) : Bool := x == y
def icNe (_ x y : Nat) : Bool := x != y
def icLt (w x y : Nat) : Bool := decide (sgn w x < sgn w y)
def icGe (w x y : Nat) : Bool := decide (sgn w y ≤ sgn w x)
def icLtu (_ x y : Nat) : Bool := decide (x < y)
def icGeu (_ x y : Nat) : Bool := decide (y ≤ x)

/-- An operation on whole mask registers (R167). -/
def maskRun (md : MReg) (g : Front → BitVec 256) (f : Nat) : Run :=
  .whole (modify fun s => s.modFront f fun x => x.setMask md.toNat (g x))

def noSpec (regs : List SReg) : PushSpec := .plain [] regs

/-! ### The pushes -/

/-- VADD (R169). -/
def execVadd (vd va vb : VName) (sm : BitVec 2) (s : State) : Out := push (.vadd vd va vb sm) (binSpec vd va vb) s
/-- VSUB (R169). -/
def execVsub (vd va vb : VName) (sm : BitVec 2) (s : State) : Out := push (.vsub vd va vb sm) (binSpec vd va vb) s
/-- VMUL (R169). -/
def execVmul (vd va vb : VName) (sm : BitVec 2) (s : State) : Out := push (.vmul vd va vb sm) (binSpec vd va vb) s
/-- VMULH (R169). -/
def execVmulh (vd va vb : VName) (sm : BitVec 2) (s : State) : Out := push (.vmulh vd va vb sm) (binSpec vd va vb) s
/-- VMIN (R169). -/
def execVmin (vd va vb : VName) (sm : BitVec 2) (s : State) : Out := push (.vmin vd va vb sm) (binSpec vd va vb) s
/-- VMAX (R169). -/
def execVmax (vd va vb : VName) (sm : BitVec 2) (s : State) : Out := push (.vmax vd va vb sm) (binSpec vd va vb) s
/-- VMINU (R169). -/
def execVminu (vd va vb : VName) (sm : BitVec 2) (s : State) : Out := push (.vminu vd va vb sm) (binSpec vd va vb) s
/-- VMAXU (R169). -/
def execVmaxu (vd va vb : VName) (sm : BitVec 2) (s : State) : Out := push (.vmaxu vd va vb sm) (binSpec vd va vb) s
/-- VAND (R169). -/
def execVand (vd va vb : VName) (sm : BitVec 2) (s : State) : Out := push (.vand vd va vb sm) (binSpec vd va vb) s
/-- VOR (R169). -/
def execVor (vd va vb : VName) (sm : BitVec 2) (s : State) : Out := push (.vor vd va vb sm) (binSpec vd va vb) s
/-- VXOR (R169). -/
def execVxor (vd va vb : VName) (sm : BitVec 2) (s : State) : Out := push (.vxor vd va vb sm) (binSpec vd va vb) s
/-- VSHL (R169). -/
def execVshl (vd va vb : VName) (sm : BitVec 2) (s : State) : Out := push (.vshl vd va vb sm) (binSpec vd va vb) s
/-- VSHR (R169). -/
def execVshr (vd va vb : VName) (sm : BitVec 2) (s : State) : Out := push (.vshr vd va vb sm) (binSpec vd va vb) s
/-- VSRA (R169). -/
def execVsra (vd va vb : VName) (sm : BitVec 2) (s : State) : Out := push (.vsra vd va vb sm) (binSpec vd va vb) s
/-- VSADD (R169). -/
def execVsadd (vd va vb : VName) (sm : BitVec 2) (s : State) : Out := push (.vsadd vd va vb sm) (binSpec vd va vb) s
/-- VSSUB (R169). -/
def execVssub (vd va vb : VName) (sm : BitVec 2) (s : State) : Out := push (.vssub vd va vb sm) (binSpec vd va vb) s
/-- VMERGE (R170). -/
def execVmerge (vd va vb : VName) (sm : BitVec 2) (s : State) : Out := push (.vmerge vd va vb sm) (binSpec vd va vb) s
/-- VSADD_U (R169). -/
def execVsaddU (vd va vb : VName) (sm : BitVec 2) (s : State) : Out := push (.vsaddU vd va vb sm) (binSpec vd va vb) s
/-- VSSUB_U (R169). -/
def execVssubU (vd va vb : VName) (sm : BitVec 2) (s : State) : Out := push (.vssubU vd va vb sm) (binSpec vd va vb) s
/-- VMV (R170). -/
def execVmv (vd va : VName) (s : State) : Out := push (.vmv vd va) (unSpec vd va) s
/-- VSPLAT of a scalar (R171). -/
def execVsplat (vd : VName) (b : SReg) (s : State) : Out := push (.vsplat vd b) (scalSpec vd b) s
/-- VMVSX (R171). -/
def execVmvsx (vd : VName) (b : SReg) (s : State) : Out := push (.vmvsx vd b) (scalSpec vd b) s
/-- VSPLAT of an immediate (R171). -/
def execVsplatImm (vd : VName) (n : BitVec 8) (s : State) : Out := push (.vsplatImm vd n) (.plain [asDst vd] []) s
/-- VSHL by an immediate (R169). -/
def execVshlImm (vd va : VName) (n : BitVec 8) (s : State) : Out := push (.vshlImm vd va n) (unSpec vd va) s
/-- VSHR by an immediate (R169). -/
def execVshrImm (vd va : VName) (n : BitVec 8) (s : State) : Out := push (.vshrImm vd va n) (unSpec vd va) s
/-- VSRA by an immediate (R169). -/
def execVsraImm (vd va : VName) (n : BitVec 8) (s : State) : Out := push (.vsraImm vd va n) (unSpec vd va) s
/-- VCMP, EQ (R166). -/
def execVcmpEq (md : MReg) (va vb : VName) (sm : BitVec 2) (s : State) : Out := push (.vcmpEq md va vb sm) (cmpSpec va vb) s
/-- VCMP, NE (R166). -/
def execVcmpNe (md : MReg) (va vb : VName) (sm : BitVec 2) (s : State) : Out := push (.vcmpNe md va vb sm) (cmpSpec va vb) s
/-- VCMP, LT (R166). -/
def execVcmpLt (md : MReg) (va vb : VName) (sm : BitVec 2) (s : State) : Out := push (.vcmpLt md va vb sm) (cmpSpec va vb) s
/-- VCMP, GE (R166). -/
def execVcmpGe (md : MReg) (va vb : VName) (sm : BitVec 2) (s : State) : Out := push (.vcmpGe md va vb sm) (cmpSpec va vb) s
/-- VCMP, LTU (R166). -/
def execVcmpLtu (md : MReg) (va vb : VName) (sm : BitVec 2) (s : State) : Out := push (.vcmpLtu md va vb sm) (cmpSpec va vb) s
/-- VCMP, GEU (R166). -/
def execVcmpGeu (md : MReg) (va vb : VName) (sm : BitVec 2) (s : State) : Out := push (.vcmpGeu md va vb sm) (cmpSpec va vb) s
/-- MAND (R167). -/
def execMand (md ma mb : MReg) (s : State) : Out := push (.mand md ma mb) (noSpec []) s
/-- MOR (R167). -/
def execMor (md ma mb : MReg) (s : State) : Out := push (.mor md ma mb) (noSpec []) s
/-- MXOR (R167). -/
def execMxor (md ma mb : MReg) (s : State) : Out := push (.mxor md ma mb) (noSpec []) s
/-- MNOT (R167). -/
def execMnot (md ma : MReg) (s : State) : Out := push (.mnot md ma) (noSpec []) s
/-- MSET (R167). -/
def execMset (md : MReg) (b : SReg) (s : State) : Out := push (.mset md b) (noSpec [b]) s

end Sys2Proof.Machine
end

