-- ==== Sys2Proof/Machine/VecFloat.lean ====
section
/-! DEFINITION. Vector floating point (R177 to R181). -/

namespace Sys2Proof.Machine
open Fp (Flags)

/-- The format of a width under fn[5] (R121, R177). -/
def fmtOf (w : Nat) (bf : Bool) : FFmt := if w = 16 then (if bf then .bf16 else .fp16) else if w = 32 then .fp32 else .fp64

/-- Widths that hold no floating format raise FORMAT with SUB 5 (R177). -/
def fpWidth (c : Capture) : Option (Nat × Nat) :=
  let w := dW (c.names.headD 0)
  if w = 16 ∨ w = 32 ∨ w = 64 then none else some (FORMAT, 5)

def fpSpec3 (vd va vb : VName) : PushSpec := { PushSpec.plain [asBoth vd, asSrc va, asSrc vb] [] with width := fpWidth }
def fpSpec2 (vd va vb : VName) : PushSpec := { binSpec vd va vb with width := fpWidth }
def fpSpec1 (vd va : VName) : PushSpec := { unSpec vd va with width := fpWidth }
def fpCmpSpec (va vb : VName) : PushSpec := { cmpSpec va vb with width := fpWidth }

/-- An element of an operation of two or three sources (R177). The cells and tags of va come first, then those of vb and of vd, and the first that fails
is reported (DESIGN CHOICE, log 76). -/
def fpElem (op : FloatOp) (bf three : Bool) (y : Nat → M Nat) (e : QEntry) (f : Nat) (tag : Option Nat) : Run :=
  .elems e.vl 1 fun i => do
    let d := e.name 0
    let fmt := fmtOf (dW d) bf
    let t := tag.getD (fpTag fmt)
    if ← isActive f e i then
      checkTags f e.cap.first (e.name 1) i (· == fpTag fmt)
      let yv ← y i
      if three then checkTags f e.cap.first d i (· == fpTag fmt)
      let x ← getElem' f e.cap.first (e.name 1) i
      let old ← if three then getElem' f e.cap.first d i else pure 0
      let (r, fl) := op fmt e.env i x yv old
      putTagged f e.cap.first d i r t
      orFlagsM f fl
    else inactive f e 0 i (sameTag t)

/-- Two sources, the second through the modifier. -/
def fpRun2 (op : FloatOp) (sm : BitVec 2) (bf : Bool) (e : QEntry) (f : Nat) : Run :=
  fpElem op bf false (fun i => modSource f e 2 sm i (· == fpTag (fmtOf (dW (e.name 0)) bf)) true) e f none
/-- Two sources and the destination's old element. -/
def fpRun3 (op : FloatOp) (sm : BitVec 2) (bf : Bool) (e : QEntry) (f : Nat) : Run :=
  fpElem op bf true (fun i => modSource f e 2 sm i (· == fpTag (fmtOf (dW (e.name 0)) bf)) true) e f none
/-- One source. -/
def fpRun1 (op : FloatOp) (bf : Bool) (e : QEntry) (f : Nat) : Run := fpElem op bf false (fun _ => pure 0) e f none
/-- VFCLASS: an unsigned integer of the width, no flush and no flag (R180). -/
def classRun (bf : Bool) (e : QEntry) (f : Nat) : Run :=
  fpElem (fun fmt _ _ x _ _ => (fpClass fmt x, 0)) bf false (fun _ => pure 0) e f (some (uintTag (dW (e.name 0))))

/-- VFCMP (R181). -/
def fpCmpRun (c : FCond) (md : MReg) (sm : BitVec 2) (bf : Bool) (e : QEntry) (f : Nat) : Run :=
  .elems e.vl 1 fun i => do
    let fmt := fmtOf (dW (e.name 0)) bf
    if ← isActive f e i then
      checkTags f e.cap.first (e.name 0) i (· == fpTag fmt)
      let y ← modSource f e 1 sm i (· == fpTag fmt) true
      let (b, fl) := fpCond c fmt e.env (← getElem' f e.cap.first (e.name 0) i) y
      putMaskBit f md.toNat i b
      orFlagsM f fl
    else if e.mode = 2 then putMaskBit f md.toNat i false else pure ()

/-- VFADD (R178). -/
def execVfadd (vd va vb : VName) (sm : BitVec 2) (bf : Bool) (s : State) : Out := push (.vfadd vd va vb sm bf) (fpSpec2 vd va vb) s
/-- VFSUB (R178). -/
def execVfsub (vd va vb : VName) (sm : BitVec 2) (bf : Bool) (s : State) : Out := push (.vfsub vd va vb sm bf) (fpSpec2 vd va vb) s
/-- VFMUL (R178). -/
def execVfmul (vd va vb : VName) (sm : BitVec 2) (bf : Bool) (s : State) : Out := push (.vfmul vd va vb sm bf) (fpSpec2 vd va vb) s
/-- VFDIV (R178). -/
def execVfdiv (vd va vb : VName) (sm : BitVec 2) (bf : Bool) (s : State) : Out := push (.vfdiv vd va vb sm bf) (fpSpec2 vd va vb) s
/-- VFMIN (R178). -/
def execVfmin (vd va vb : VName) (sm : BitVec 2) (bf : Bool) (s : State) : Out := push (.vfmin vd va vb sm bf) (fpSpec2 vd va vb) s
/-- VFMAX (R178). -/
def execVfmax (vd va vb : VName) (sm : BitVec 2) (bf : Bool) (s : State) : Out := push (.vfmax vd va vb sm bf) (fpSpec2 vd va vb) s
/-- VFMA (R178). -/
def execVfma (vd va vb : VName) (sm : BitVec 2) (bf : Bool) (s : State) : Out := push (.vfma vd va vb sm bf) (fpSpec3 vd va vb) s
/-- VFMS (R178). -/
def execVfms (vd va vb : VName) (sm : BitVec 2) (bf : Bool) (s : State) : Out := push (.vfms vd va vb sm bf) (fpSpec3 vd va vb) s
/-- VFNMA (R178). -/
def execVfnma (vd va vb : VName) (sm : BitVec 2) (bf : Bool) (s : State) : Out := push (.vfnma vd va vb sm bf) (fpSpec3 vd va vb) s
/-- VFSQRT (R178). -/
def execVfsqrt (vd va : VName) (bf : Bool) (s : State) : Out := push (.vfsqrt vd va bf) (fpSpec1 vd va) s
/-- VFRCP (R178). -/
def execVfrcp (vd va : VName) (bf : Bool) (s : State) : Out := push (.vfrcp vd va bf) (fpSpec1 vd va) s
/-- VFRSQ (R178). -/
def execVfrsq (vd va : VName) (bf : Bool) (s : State) : Out := push (.vfrsq vd va bf) (fpSpec1 vd va) s
/-- VFABS (R179). -/
def execVfabs (vd va : VName) (bf : Bool) (s : State) : Out := push (.vfabs vd va bf) (fpSpec1 vd va) s
/-- VFNEG (R179). -/
def execVfneg (vd va : VName) (bf : Bool) (s : State) : Out := push (.vfneg vd va bf) (fpSpec1 vd va) s
/-- VFEXP2 (R178). -/
def execVfexp2 (vd va : VName) (bf : Bool) (s : State) : Out := push (.vfexp2 vd va bf) (fpSpec1 vd va) s
/-- VFLOG2 (R178). -/
def execVflog2 (vd va : VName) (bf : Bool) (s : State) : Out := push (.vflog2 vd va bf) (fpSpec1 vd va) s
/-- VFCLASS (R180). -/
def execVfclass (vd va : VName) (bf : Bool) (s : State) : Out := push (.vfclass vd va bf) (fpSpec1 vd va) s
/-- VFCMP, EQ (R181). -/
def execVfcmpEq (md : MReg) (va vb : VName) (sm : BitVec 2) (bf : Bool) (s : State) : Out :=
  push (.vfcmpEq md va vb sm bf) (fpCmpSpec va vb) s
/-- VFCMP, LT (R181). -/
def execVfcmpLt (md : MReg) (va vb : VName) (sm : BitVec 2) (bf : Bool) (s : State) : Out :=
  push (.vfcmpLt md va vb sm bf) (fpCmpSpec va vb) s
/-- VFCMP, LE (R181). -/
def execVfcmpLe (md : MReg) (va vb : VName) (sm : BitVec 2) (bf : Bool) (s : State) : Out :=
  push (.vfcmpLe md va vb sm bf) (fpCmpSpec va vb) s
/-- VFCMP, UN (R181). -/
def execVfcmpUn (md : MReg) (va vb : VName) (sm : BitVec 2) (bf : Bool) (s : State) : Out :=
  push (.vfcmpUn md va vb sm bf) (fpCmpSpec va vb) s

end Sys2Proof.Machine
end

