-- ==== Sys2Proof/Machine/Lanes.lean ====
section
/-! DEFINITION. Cross-lane instructions: movements, compress and expand (R188 to R190), reductions (R96, R191, R192), scans (R97, R193),
VTOPK and VHIST (R194, R195). -/

namespace Sys2Proof.Machine
open Fp (Env Flags)

/-! ### Movements (R188, R189) -/

/-- Src(j) as bits and tags: zero bits and no tag outside 0 to VL.LEN − 1 (R188). -/
def crossSrc (f : Nat) (e : QEntry) (j : Nat) : M (Nat × List (Option Byte)) :=
  if j < e.vl then do return (← getElem' f e.cap.first (e.name 1) j, ← sourceTags f e 1 j) else pure (0, [none, none])

/-- Element i of a movement whose source index is `src i`; `none` leaves the element as it is. Sources are read in the state `s₀` from
which the instruction starts. -/
def moveBody (src : Nat → M (Option Nat)) (e : QEntry) (f : Nat) (s₀ : State) (i : Nat) : M Unit := do
  match ← readAt s₀ (src i) with
  | none => pure ()
  | some j =>
    if ← readAt s₀ (isActive f e i) then
      let (v, tags) ← readAt s₀ (crossSrc f e j)
      putElem f e.cap.first (e.name 0) i v tags
    else if e.mode = 2 then putKeep f e.cap.first (e.name 0) i 0
    else pure ()

/-- Elements from the progress on, up to VL or a bound, element by element. -/
def partUp (e : QEntry) (body : State → Nat → M Unit) : Run :=
  .part fun bound s => bodyLoop true 1 (body s) (min e.vl (bound.getD e.vl) - e.progress) e.progress s

/-- A movement of the elements from the progress on. One that goes on after a trap reads its sources as they then stand (DEDUCED, log 28). -/
def slideRun (src : Nat → Option Nat) (e : QEntry) (f : Nat) : Run :=
  partUp e (moveBody (fun i => pure (src i)) e f)

/-- VSLIDEUP: elements below n are not written. -/
def slideUp (n : Nat) (i : Nat) : Option Nat := if n ≤ i then some (i - n) else none
/-- VSLIDEDN. -/
def slideDown (n : Nat) (i : Nat) : Option Nat := some (i + n)

/-- The tags and values of a name's active elements among i to i + k − 1; a tag that does not match raises FORMAT at the captured VSTART,
with the element's index in TRAPADDR (R191). -/
def gatherChecked (f : Nat) (e : QEntry) (v : Word) (ok : Nat → Bool) (k i : Nat) : M (List (Nat × Nat)) :=
  match k with
  | 0 => pure []
  | j + 1 => do
    if ← isActive f e i then
      let ts ← getTags f e.cap.first v i
      if ts.any fun t => !ok t.toNat then raise FORMAT 0 e.start i
      let x ← getElem' f e.cap.first v i
      return (i, x) :: (← gatherChecked f e v ok j (i + 1))
    else gatherChecked f e v ok j (i + 1)

/-- The active elements from the captured VSTART on, checked whole. -/
def wholeSource (f : Nat) (e : QEntry) (v : Word) (ok : Nat → Bool) : M (List (Nat × Nat)) :=
  gatherChecked f e v ok (e.vl - e.start) e.start

/-- A whole-result instruction: it has its whole effect or none, and an error in a cell it reads is reported at the captured VSTART
(R191). -/
def wholeResult (e : QEntry) (m : M Unit) : Run := .whole (if e.start < e.vl then atElem e.start m else pure ())

/-- VPERM: the index elements are checked whole. -/
def permRun (e : QEntry) (f : Nat) : Run :=
  wholeResult e do
    let ix ← wholeSource f e (e.name 2) (isIntTag (dW (e.name 0)))
    let src (i : Nat) : Option Nat := ((ix.find? fun p => p.1 == i).map (·.2)).orElse fun _ => some 0
    let s ← get
    forUp (e.vl - e.start) e.start (moveBody (fun i => pure (src i)) e f s)

/-! ### Compress and expand (R190) -/

/-- The indices of the active elements of i to i + k − 1. -/
def activeList (f : Nat) (e : QEntry) (k i : Nat) : M (List Nat) :=
  match k with
  | 0 => pure []
  | j + 1 => do
    if ← isActive f e i then return i :: (← activeList f e j (i + 1)) else activeList f e j (i + 1)

/-- The sources of a list of moves read. An error in a source cell is reported at the element that the move writes (DEDUCED, log 27). -/
def readMoves (f : Nat) (e : QEntry) (l : List (Nat × Nat)) : M (List (Nat × Nat × List (Option Byte))) :=
  match l with
  | [] => pure []
  | (i, j) :: r => do
    let (v, tags) ← atElem i (crossSrc f e j)
    return (i, v, tags) :: (← readMoves f e r)

/-- The elements of a list of moves written. An error in a destination cell that is written in part is reported at its element (R374). -/
def writeMoves (f : Nat) (e : QEntry) (l : List (Nat × Nat × List (Option Byte))) : M Unit :=
  match l with
  | [] => pure ()
  | (i, v, tags) :: r => do
    atElem i (putElem f e.cap.first (e.name 0) i v tags)
    writeMoves f e r

/-- VCOMPRESS. -/
def compressRun (e : QEntry) (f : Nat) : Run :=
  .whole do
    let act ← activeList f e e.vl 0
    writeMoves f e (← readMoves f e (act.zipIdx.map fun p => (p.2, p.1)))

/-- VEXPAND. -/
def expandRun (e : QEntry) (f : Nat) : Run :=
  .whole do
    let act ← activeList f e e.vl 0
    let moves ← readMoves f e act.zipIdx
    let idle := if e.mode = 2 then (List.range e.vl).filter fun i => !act.contains i else []
    writeMoves f e (moves ++ idle.map fun i => (i, 0, [none, none]))

/-! ### Types (R124, R177) -/

/-- The format of a type code at a width: none for integers. -/
def tyFmt (ty : BitVec 2) (w : Nat) : Option FFmt := if ty = 0 then none else some (fmtOf w (ty == 2))
/-- The tag check of a type. -/
def tyOk (ty : BitVec 2) (w t : Nat) : Bool :=
  match tyFmt ty w with
  | none => isIntTag w t
  | some f => t == fpTag f
/-- The tag of a result of a type; RAW for an integer of 1, 2 or 4 bits, which is DEDUCED (log 65). -/
def tyTag (ty : BitVec 2) (w : Nat) : Nat :=
  match tyFmt ty w with
  | none => intTag w
  | some f => fpTag f

/-- A floating type needs a width of R177; VTOPK and VHIST need 8 bits or more. -/
def tyWidth (ty : BitVec 2) (min8 : Bool) (c : Capture) : Option (Nat × Nat) :=
  if ty ≠ 0 then fpWidth c else if min8 && decide (dW (c.names.headD 0) < 8) then some (FORMAT, 5) else none

/-! ### Reductions (R96, R192) -/

/-- One level of the tree: adjacent slots combined, an absent one passing the other through. -/
def pairUp (g : Nat → Nat → Nat × Flags) (l : List (Option Nat)) : List (Option Nat) × Flags :=
  match l with
  | some a :: some b :: r =>
    let (v, fl) := g a b
    let (q, fl') := pairUp g r
    (some v :: q, fl ||| fl')
  | a :: b :: r =>
    let (q, fl) := pairUp g r
    ((if a.isSome then a else b) :: q, fl)
  | l => (l, 0)

/-- The tree of `n` levels. -/
def treeOf (g : Nat → Nat → Nat × Flags) (n : Nat) (l : List (Option Nat)) : Option Nat × Flags :=
  match n with
  | 0 => (l.headD none, 0)
  | k + 1 =>
    let (q, fl) := pairUp g l
    let (r, fl') := treeOf g k q
    (r, fl ||| fl')

/-- What a reduction combines. -/
inductive RedOp where
  | sum | max | min
  deriving DecidableEq, Repr

/-- Combine of R96, or R140's rule; FZI and FZO act at each combining step, which is DEDUCED (log 63). -/
def combine (op : RedOp) (ty : BitVec 2) (w : Nat) (env : Env) (a b : Nat) : Nat × Flags :=
  match tyFmt ty w, op with
  | none, .sum => ((a + b) % 2 ^ w, 0)
  | none, .max => (ivMax w a b).1 |> fun v => (v, 0)
  | none, .min => (ivMin w a b).1 |> fun v => (v, 0)
  | some f, .sum => fpAdd f { env with rm := .rne } 0 a b 0
  | some f, .max => fpMax f env 0 a b 0
  | some f, .min => fpMin f env 0 a b 0

/-- An element as an operand of a reduction: FZI flushes it, and a NaN becomes the canonical one, a signalling one with NV,
which is DEDUCED (R78, R85, R96, log 63). -/
def redLeaf (ty : BitVec 2) (w : Nat) (env : Env) (x : Nat) : Nat × Flags :=
  match tyFmt ty w with
  | none => (x, 0)
  | some f => if Fp.isNaN (Fp.decode f x) then (Fp.canonNaN f, Fp.sigFlag [Fp.decode f x]) else (Fp.flushCode f env.fzi x, 0)

/-- VREDSUM, VREDMAX, VREDMIN. -/
def redRun (op : RedOp) (ty : BitVec 2) (e : QEntry) (f : Nat) : Run :=
  wholeResult e do
    let va := e.name 1
    let w := dW va
    let src ← wholeSource f e va (tyOk ty w)
    let leaves := src.map fun p => (p.1, redLeaf ty w e.env p.2)
    let slots := (List.range 256).map fun i => (leaves.find? fun p => p.1 == i).map (·.2.1)
    let (r, fl) := treeOf (combine op ty w e.env) 8 slots
    putTagged f e.cap.first (e.name 0) 0 (r.getD 0) (tyTag ty w)
    orFlagsM f (leaves.foldl (fun fl p => fl ||| p.2.2) fl)

/-! ### Scans (R97, R193) -/

/-- A running value with a next element; the first active element gives Round of itself. FZI acts on the element alone (R97,
log 63). -/
def scanStep (ty : BitVec 2) (w : Nat) (env : Env) (i : Nat) (run : Option Nat) (x : Nat) : Nat × Flags :=
  match tyFmt ty w, run with
  | none, none => (x, 0)
  | none, some r => ((r + x) % 2 ^ w, 0)
  | some f, none => Fp.round f env i 0 (arg f env x)
  | some f, some r => roundRes f env i 0 (Fp.add env.rm (Fp.decode f r) (arg f env x))

/-- Element i of VSCAN. The running value is kept in the entry's further state, with 2^64 added once there is one. -/
def scanBody (ty : BitVec 2) (e : QEntry) (f : Nat) (s₀ : State) (i : Nat) : M Unit := do
  let w := dW (e.name 1)
  let tag := tyTag ty w
  if ← readAt s₀ (isActive f e i) then
    readAt s₀ (checkTags f e.cap.first (e.name 1) i (tyOk ty w))
    let x ← readAt s₀ (getElem' f e.cap.first (e.name 1) i)
    let aux := ((((← get).front f).queue.find? fun y => y.vsn == e.vsn).map (·.aux)).getD 0
    let (r, fl) := scanStep ty w e.env i (if aux < 2 ^ 64 then none else some (aux % 2 ^ 64)) x
    putTagged f e.cap.first (e.name 0) i r tag
    orFlagsM f fl
    setAux f e (r + 2 ^ 64)
  else inactive f e 0 i (sameTag tag)

/-- VSCAN. -/
def scanRun (ty : BitVec 2) (e : QEntry) (f : Nat) : Run := partUp e (scanBody ty e f)

/-! ### VTOPK (R194) -/

/-- k and G of VTOPK's scalar. -/
def topkK (b : Word) : Nat := b.field 8 0
def topkG (b : Word) (vl : Nat) : Nat := if b.field 24 16 = 0 then vl else b.field 24 16

/-- A candidate put before the first that it precedes. -/
def insertBy (before : Nat → Nat → Bool) (p : Nat × Nat) (l : List (Nat × Nat)) : List (Nat × Nat) :=
  match l with
  | [] => [p]
  | q :: r => if before p.2 q.2 then p :: q :: r else q :: insertBy before p r

/-- Value a is larger than value b. -/
def larger (ty : BitVec 2) (w : Nat) (env : Env) (a b : Nat) : Bool :=
  match tyFmt ty w with
  | none => decide (signedOf w b < signedOf w a)
  | some f => Fp.cmp (arg f env a) (arg f env b) == some .gt

/-- The flags of the candidates, and whether a candidate can be chosen. -/
def topkNaN (ty : BitVec 2) (w : Nat) (env : Env) (a : Nat) : Bool × Flags :=
  match tyFmt ty w with
  | none => (false, 0)
  | some f => (Fp.isNaN (arg f env a), Fp.sigFlag [arg f env a])

/-- The outputs of one group: indices within it, in the order of R194. -/
def topkGroup (ty : BitVec 2) (w : Nat) (env : Env) (src : List (Nat × Nat)) (k g j : Nat) : List Nat :=
  let mine := src.filter fun p => decide (j * g ≤ p.1 ∧ p.1 < j * g + g) && !(topkNaN ty w env p.2).1
  let order := mine.foldl (fun l p => insertBy (larger ty w env) p l) []
  (List.range k).map fun t => ((order[t]?).map fun p => p.1 - j * g).getD (2 ^ w - 1)

/-- VTOPK. -/
def topkRun (ty : BitVec 2) (e : QEntry) (f : Nat) : Run :=
  wholeResult e do
    let w := dW (e.name 0)
    let k := topkK (e.scal 0)
    let g := topkG (e.scal 0) e.vl
    let src ← wholeSource f e (e.name 1) (tyOk ty w)
    let outs := (List.range (e.vl / g)).flatMap (topkGroup ty w e.env src k g)
    forUp outs.length 0 fun i => putTagged f e.cap.first (e.name 0) i (outs.getD i 0) (uintTag w)
    orFlagsM f (src.foldl (fun fl p => fl ||| (topkNaN ty w e.env p.2).2) 0)

/-! ### VHIST (R195) -/

/-- Offender bits of a list of elements. -/
def offendAll (f : Nat) (e : QEntry) (l : List Nat) : M Unit :=
  match l with
  | [] => pure ()
  | i :: r => do
    offend f e i
    offendAll f e r

/-- VHIST. FORMAT with SUB 0 for a tag of va is raised here, before any write, and not at the push, which raises SUB 5 (DEDUCED, log 77). -/
def histRun (e : QEntry) (f : Nat) : Run :=
  wholeResult e do
    let w := dW (e.name 0)
    let nb := (e.scal 0).toNat
    let src ← wholeSource f e (e.name 1) (isIntTag w)
    forUp nb 0 fun b =>
      putTagged f e.cap.first (e.name 0) b ((src.filter fun p => p.2 == b).length % 2 ^ w) (uintTag w)
    offendAll f e ((src.filter fun p => decide (nb ≤ p.2)).map (·.1))

/-! ### Push checks -/

/-- A destination that R67's checks do not cover (R156). -/
def NameUse.noCap (u : NameUse) : NameUse := { u with cap := false, vmx := false }

def redSpec (vd va : VName) (ty : BitVec 2) : PushSpec :=
  { PushSpec.plain [(asDst vd).noCap, asSrc va] [] with width := tyWidth ty false }
def scanSpec (vd va : VName) (ty : BitVec 2) : PushSpec := { unSpec vd va with width := tyWidth ty false }

/-- A trap of a push's own check. -/
def pushTrap (bad : Bool) (cause sub elem addr : Nat) : Option TrapRec := if bad then some ⟨cause, sub, elem, addr, 0⟩ else none

/-- VTOPK (R194). -/
def topkSpec (vd va : VName) (b : SReg) (ty : BitVec 2) : PushSpec :=
  { PushSpec.plain [(asDst vd).noCap, asSrc va] [b] with
    width := tyWidth ty true
    own := fun c =>
      let vl := c.vl.field 8 0
      let k := topkK (c.scalars.getD 0 0)
      let g := topkG (c.scalars.getD 0 0) vl
      pushTrap (k == 0 || decide (g < k) || decide (256 < g) || vl % g != 0 || decide (dCap (c.names.getD 0 0) < vl / g * k))
        CAPACITY 3 (c.vstart.field 8 0) 0 }

/-- VHIST (R195). -/
def histSpec (vd va : VName) (b : SReg) : PushSpec :=
  { PushSpec.plain [(asDst vd).noCap, asSrc va] [b] with
    width := tyWidth 0 true
    own := fun c =>
      let n := min (dCap (c.names.getD 0 0)) 256
      pushTrap (decide (n < (c.scalars.getD 0 0).toNat)) CAPACITY 4 n 0 }

/-! ### The pushes -/

/-- VSLIDEUP by an immediate (R189). -/
def execVslideupImm (vd va : VName) (n : BitVec 8) (s : State) : Out := push (.vslideupImm vd va n) (unSpec vd va) s
/-- VSLIDEDN by an immediate (R189). -/
def execVslidednImm (vd va : VName) (n : BitVec 8) (s : State) : Out := push (.vslidednImm vd va n) (unSpec vd va) s
/-- VSLIDEUP (R189). -/
def execVslideup (vd va : VName) (b : SReg) (s : State) : Out := push (.vslideup vd va b) (.plain [asDst vd, asSrc va] [b]) s
/-- VSLIDEDN (R189). -/
def execVslidedn (vd va : VName) (b : SReg) (s : State) : Out := push (.vslidedn vd va b) (.plain [asDst vd, asSrc va] [b]) s
/-- VBCAST (R189). -/
def execVbcast (vd va : VName) (b : SReg) (s : State) : Out := push (.vbcast vd va b) (.plain [asDst vd, asSrc va] [b]) s
/-- VPERM (R189). -/
def execVperm (vd va vb : VName) (s : State) : Out := push (.vperm vd va vb) (binSpec vd va vb) s
/-- VCOMPRESS (R190). -/
def execVcompress (vd va : VName) (s : State) : Out := push (.vcompress vd va) (unSpec vd va) s
/-- VEXPAND (R190). -/
def execVexpand (vd va : VName) (s : State) : Out := push (.vexpand vd va) (unSpec vd va) s
/-- VREDSUM (R192). -/
def execVredsum (vd va : VName) (ty : BitVec 2) (s : State) : Out := push (.vredsum vd va ty) (redSpec vd va ty) s
/-- VREDMAX (R192). -/
def execVredmax (vd va : VName) (ty : BitVec 2) (s : State) : Out := push (.vredmax vd va ty) (redSpec vd va ty) s
/-- VREDMIN (R192). -/
def execVredmin (vd va : VName) (ty : BitVec 2) (s : State) : Out := push (.vredmin vd va ty) (redSpec vd va ty) s
/-- VSCAN (R193). -/
def execVscan (vd va : VName) (ty : BitVec 2) (s : State) : Out := push (.vscan vd va ty) (scanSpec vd va ty) s
/-- VTOPK (R194). -/
def execVtopk (vd va : VName) (b : SReg) (ty : BitVec 2) (s : State) : Out := push (.vtopk vd va b ty) (topkSpec vd va b ty) s
/-- VHIST (R195). -/
def execVhist (vd va : VName) (b : SReg) (s : State) : Out := push (.vhist vd va b) (histSpec vd va b) s

end Sys2Proof.Machine
end

