-- ==== Sys2Proof/Config.lean ====
section
/-! DEFINITION. The free values: what the spec leaves open or keeps out of reach. Each is a constant with no body, so
nothing can be proved of its value. -/

namespace Sys2Proof.Config

/-- FREE. FWVER.MINVER, the value fused at manufacture (R414; log 12). -/
opaque minver : BitVec 32

/-- FREE. Byte k of IDCERT, fused at manufacture (R414; log 12). -/
opaque idcert : Nat → Byte

/-- FREE. Byte k of the RSASSA-PSS signature of the quoted bytes with the identity key, which no source can read (R419; log 12). -/
opaque quote : List Byte → Nat → Byte

/-- FREE. Byte k of the fused root hash, which no source can read (R418, R420; log 12). -/
opaque rootHash : Nat → Byte

/-- FREE. The lower bound that XQUERY reports for a running job, reduced by the model to the job's progress (R302; log 7). -/
opaque queryBound : Nat → Nat

/-- FREE. What an atomic message makes of the old word at its home agent, or nothing: the spec gives the message's header and not its
operation or operands (R385; log 9). -/
opaque atomicEffect : Msg → Nat → Option Nat

/-- FREE. Whether a register-access message writes: the spec gives no field for it (R385, R388; log 9). -/
opaque registerMsgWrites : Msg → Bool

/-- FREE. The payload bytes with which this package asks a peer's home agent for an atomic (R385; log 9). -/
opaque atomicPayload : Nat → Nat → Nat → List Byte

/-- FREE. Byte k of HBM stacks after a package reset, by the number of the reset (R413; log 2). -/
opaque hbmAfterReset : Nat → Nat → Byte

/-- FREE. The cause that a launch's status carries for a discarded front that met no fault (R370; log 7). -/
opaque discardCause : Nat → Nat

/-- FREE. floor(log2(max)) of an FMT slot whose max is 0, which R187 takes of every slot and R89 lets be 0 (log 16). -/
opaque log2OfNoMax : BitVec 64 → Int

/-- FREE. What a load of Barista returns from a memory unit in error or a bad block, by a counter (R376, R420; log 59). -/
opaque lostWord : Nat → BitVec 64

/-- FREE. A byte that a member of a CXGATH did not send, where the members' ES differ, which R390 does not match (R395; log 7). -/
opaque gatherByte : Nat → Nat → Byte

end Sys2Proof.Config
end

