-- ==== Sys2Proof/WellFormed.lean ====
section
/-! DEFINITION. Which terms of `Instr` stand for an instruction word (R103 to R131) or for an event of a unit that exists (R2, R230). -/

namespace Sys2Proof

/-- The control-register numbers of R45. -/
def isCr (n : Nat) : Bool :=
  decide (0x10 ≤ n ∧ n ≤ 0x15) || n == 0x20 || n == 0x21 || decide (0x30 ≤ n ∧ n ≤ 0x32) || n == 0x40 ||
  decide (0x50 ≤ n ∧ n ≤ 0x70) || decide (0x100 ≤ n ∧ n ≤ 0x107)

/-- Codes 4 to 7 of R110. -/
def CvtTy.isInt : CvtTy → Bool
  | .int32 | .uint32 | .int64 | .uint64 => true
  | .fp16 | .bf16 | .fp32 | .fp64 => false

/-- A fixed format code of R105: ids 1 to 13. -/
def fixedCode (n : Nat) : Bool := decide (1 ≤ n ∧ n ≤ 13)

/-- The pairs of codes that VCVT accepts (R122, R182): E8 only as the source, with FP32 or FP64 as the destination. -/
def cvtCodes (dst src : Nat) : Bool :=
  fixedCode dst && fixedCode src && dst != 13 && (src != 13 || dst == 11 || dst == 12)

/-- Source codes of VNARROW: FP16, BF16, FP32 (R122). -/
def narrowSrc (n : Nat) : Bool := decide (9 ≤ n ∧ n ≤ 11)

/-- Destination codes of VWIDEN: FP16, BF16, FP32, INT32 (R122). -/
def widenDst (n : Nat) : Bool := n == 5 || decide (9 ≤ n ∧ n ≤ 11)

/-- The tag bytes that may be written (R62, R127, R165). -/
def tagOk (t : Nat) : Bool :=
  if t / 32 % 2 = 0 then t / 64 == 0 && decide (t % 32 ≤ 13) else decide (t % 32 ≤ 15)

/-- The types of VSCADD, as fixed ids (R129). -/
def scaddTy (n : Nat) : Bool := decide (5 ≤ n ∧ n ≤ 8) || decide (10 ≤ n ∧ n ≤ 12)

/-- A message that R384 and R385 can carry. -/
def Msg.ok (m : Msg) : Bool :=
  decide (m.cls < 16 ∧ m.tag < 256 ∧ m.len ≤ 224 ∧ m.addr < 2 ^ 64 ∧ m.src < 1024 ∧ m.data.length ≤ 224)

/-- Whether a term stands for an instruction word of R99 to R131, or for an event of a unit that the package has. -/
def Instr.wf : Instr → Bool
  | .fcvtToInt _ _ dst _ => dst.isInt
  | .mfc _ cr => isCr cr.toNat
  | .mtc cr _ => isCr cr.toNat
  | .vshlImm _ _ n => decide (n.toNat < 64)
  | .vshrImm _ _ n => decide (n.toNat < 64)
  | .vsraImm _ _ n => decide (n.toNat < 64)
  | .vcvt _ _ dst src => cvtCodes dst.toNat src.toNat
  | .vnarrow _ _ _ src => narrowSrc src.toNat
  | .vwiden _ _ dst _ => widenDst dst.toNat
  | .vredsum _ _ ty => decide (ty.toNat < 3)
  | .vredmax _ _ ty => decide (ty.toNat < 3)
  | .vredmin _ _ ty => decide (ty.toNat < 3)
  | .vscan _ _ ty => decide (ty.toNat < 3)
  | .vtopk _ _ _ ty => decide (ty.toNat < 3)
  | .retag _ tag => tagOk tag.toNat
  | .mma _ _ f => decide (f.toNat < 3)
  | .mrd _ _ f => decide (f.toNat < 3)
  | .mwr _ _ f => decide (f.toNat < 3)
  | .vscadd _ _ _ ty => scaddTy ty.toNat
  | .vstpair _ a _ => decide (1 ≤ a.toNat ∧ a.toNat ≤ 30)
  | .instructionIssue f k _ => decide (f < 1024 ∧ k < 64)
  | .trapEntry f => decide (f < 1024)
  | .singleStepStop f => decide (f < 1024)
  | .watchdog f => decide (f < 1024)
  | .pageWalk die => decide (die < 8)
  | .streamFill f i => decide (f < 1024 ∧ i < 4)
  | .jobRelease f h => decide (f < 1024 ∧ h < 2 ^ 32)
  | .jobEnd f h => decide (f < 1024 ∧ h < 2 ^ 32)
  | .collectiveCallEnd gid => decide (gid < 65536)
  | .waitwMonitorFire f => decide (f < 1024)
  | .waitwTimeout f => decide (f < 1024)
  | .takeWake f => decide (f < 1024)
  | .laneTake f => decide (f < 1024)
  | .frontStart f => decide (f < 1024)
  | .wqDoorbell q _ => decide (q < 32768)
  | .lopen q => decide (q < 32768)
  | .slotBind f asid lid => decide (f < 1024 ∧ asid < 16384 ∧ lid < 16384)
  | .slotUnbind f => decide (f < 1024)
  | .launchEnd lid => decide (lid < 16384)
  | .prectlSave die core => decide (die < 8 ∧ core < 64)
  | .prectlSaveDone die => decide (die < 8)
  | .prectlDiscard die core => decide (die < 8 ∧ core < 64)
  | .rstctlRestore die core lid => decide (die < 8 ∧ core < 64 ∧ lid < 16384)
  | .scrubPass core found => decide (core < 512) && found.all fun x => decide (x.row < (if x.store = .carafe then 128 else 512) ∧ x.lane < 64)
  | .laneRetire core => decide (core < 512)
  | .dieAdmitted die => decide (die < 8)
  | .hbmTrained stack => decide (stack < 8)
  | .hbmTrainFail stack => decide (stack < 8)
  | .linkTrained link => decide (link < 18)
  | .linkTrainTimeout link => decide (link < 18)
  | .stewardAccess _ r _ => decide (1 ≤ r.len ∧ r.len ≤ 8 ∧ r.addr < 2 ^ 50)
  | .routeWrite _ d _ => decide (d < 1024)
  | .dbgctlWrite _ f _ => decide (f < 1024)
  | .flitReceive link flit => decide (link < 18 ∧ flit.length = 256)
  | .flitReplay link => decide (link < 18)
  | .msgWrite m => m.ok
  | .msgReadRequest m => m.ok
  | .msgReadResponse m => m.ok
  | .msgAtomic m => m.ok
  | .msgAtomicResponse m => m.ok
  | .msgCollective m => m.ok
  | .msgRegisterAccess m => m.ok
  | .msgRegisterResponse m => m.ok
  | .msgMonitorWake m => m.ok
  | .registerWrite _ addr _ => decide (0x6200000000 ≤ addr ∧ addr < 0x6300000000)
  | .instructionComplete f => decide (f < 1024)
  | .waitwRecheck f => decide (f < 1024)
  | .add .. | .sub .. | .mul .. | .mulh .. | .mulhu .. | .div .. | .divu .. | .rem .. | .remu .. | .and .. | .or .. | .xor ..
  | .andn .. | .shl .. | .shr .. | .sra .. | .slt .. | .sltu .. | .min .. | .max .. | .minu .. | .maxu .. | .clz .. | .ctz ..
  | .popc .. | .sextb .. | .sexth .. | .sextw .. | .shli .. | .shri .. | .srai .. | .fadd .. | .fsub .. | .fmul .. | .fdiv ..
  | .fma .. | .fsqrt .. | .fmin .. | .fmax .. | .fcmp .. | .fcvtToFloat .. | .jalr .. | .addi .. | .andi .. | .ori .. | .xori ..
  | .slti .. | .sltiu .. | .lis .. | .lih .. | .jal .. | .beq .. | .bne .. | .blt .. | .bge .. | .bltu .. | .bgeu .. | .ldb ..
  | .ldbu .. | .ldh .. | .ldhu .. | .ldw .. | .ldwu .. | .ldd .. | .stb .. | .sth .. | .stw .. | .std .. | .amoadd ..
  | .amomin .. | .amomax .. | .amoand .. | .amoor .. | .amoxor .. | .amoswap .. | .amocas .. | .trap .. | .kret | .exit | .fsv ..
  | .fvs .. | .fvv .. | .brk .. | .brkAny .. | .brkAll .. | .pcaps .. | .pcape | .vadd .. | .vsub .. | .vmul .. | .vmulh ..
  | .vmin .. | .vmax .. | .vminu .. | .vmaxu .. | .vand .. | .vor .. | .vxor .. | .vshl .. | .vshr .. | .vsra .. | .vsadd ..
  | .vssub .. | .vmerge .. | .vmv .. | .vsaddU .. | .vssubU .. | .vsplat .. | .vmvsx .. | .vmvxs .. | .mset .. | .vslideupImm ..
  | .vslidednImm .. | .vsplatImm .. | .vcmpEq .. | .vcmpNe .. | .vcmpLt .. | .vcmpGe .. | .vcmpLtu .. | .vcmpGeu .. | .mand ..
  | .mor .. | .mxor .. | .mnot .. | .mpopc .. | .mfirst .. | .vfadd .. | .vfsub .. | .vfmul .. | .vfma .. | .vfms .. | .vfnma ..
  | .vfdiv .. | .vfsqrt .. | .vfrcp .. | .vfrsq .. | .vfmin .. | .vfmax .. | .vfabs .. | .vfneg .. | .vfexp2 .. | .vflog2 ..
  | .vfclass .. | .vfcmpEq .. | .vfcmpLt .. | .vfcmpLe .. | .vfcmpUn .. | .vsplitb .. | .vjoinb .. | .vscaleb .. | .vperm ..
  | .vcompress .. | .vexpand .. | .vslideup .. | .vslidedn .. | .vbcast .. | .vhist .. | .carve .. | .carveq .. | .uncarve ..
  | .plzero .. | .plsave .. | .plload .. | .setvl .. | .lpreq .. | .setvli .. | .mman .. | .mmas .. | .mzero | .mwait | .vld ..
  | .vst .. | .vlds .. | .vsts .. | .vldx .. | .vstx .. | .vldz .. | .vstz .. | .vldw .. | .sbind .. | .sunbind .. | .agld ..
  | .agst .. | .agadd .. | .agmerge .. | .xcopy .. | .xgath .. | .xfill .. | .xquery .. | .xcancel .. | .waitw .. | .take ..
  | .tenq .. | .tdone .. | .tcancel .. | .claim .. | .claimp .. | .agsweep .. | .step .. | .unorm .. | .uapply .. | .rsbegin ..
  | .rsnext .. | .rsvisit .. | .rsread .. | .rsend .. | .cxred .. | .cxgath .. | .cxa2a .. | .cxbar .. | .cupclr .. | .cupadd ..
  | .illegalWord .. | .tinvcPage .. | .tinvcAsid .. | .tinvcAll | .tinvcDone | .powerOn | .rstreq .. | .firmwareCheckDone ..
  | .attctlQuote | .attctlQuoteDone | .thermalTrip .. | .powerCapStep .. | .pwrcapWrite .. | .stwbaseWrite .. | .fabidWrite .. => true

/-- Whether a term is an event, with no encoding (95_what_each_step_holds.md). -/
def Instr.isEvent : Instr → Bool
  | .illegalWord .. | .instructionIssue .. | .trapEntry .. | .singleStepStop .. | .watchdog .. | .pageWalk .. | .streamFill ..
  | .jobRelease .. | .jobEnd .. | .collectiveCallEnd .. | .waitwMonitorFire .. | .waitwTimeout .. | .takeWake .. | .laneTake ..
  | .frontStart .. | .wqDoorbell .. | .lopen .. | .slotBind .. | .slotUnbind .. | .launchEnd .. | .tinvcPage .. | .tinvcAsid ..
  | .tinvcAll | .tinvcDone | .prectlSave .. | .prectlSaveDone .. | .prectlDiscard .. | .rstctlRestore .. | .scrubPass ..
  | .laneRetire .. | .powerOn | .rstreq .. | .firmwareCheckDone .. | .dieAdmitted .. | .hbmTrained .. | .hbmTrainFail ..
  | .linkTrained .. | .linkTrainTimeout .. | .attctlQuote | .attctlQuoteDone | .thermalTrip .. | .powerCapStep ..
  | .pwrcapWrite .. | .stwbaseWrite .. | .stewardAccess .. | .fabidWrite .. | .routeWrite .. | .dbgctlWrite .. | .flitReceive ..
  | .flitReplay .. | .msgWrite .. | .msgReadRequest .. | .msgReadResponse .. | .msgAtomic .. | .msgAtomicResponse ..
  | .msgCollective .. | .msgRegisterAccess .. | .msgRegisterResponse .. | .msgMonitorWake .. | .registerWrite ..
  | .instructionComplete .. | .waitwRecheck .. => true
  | .add .. | .sub .. | .mul .. | .mulh .. | .mulhu .. | .div .. | .divu .. | .rem .. | .remu .. | .and .. | .or .. | .xor ..
  | .andn .. | .shl .. | .shr .. | .sra .. | .slt .. | .sltu .. | .min .. | .max .. | .minu .. | .maxu .. | .clz .. | .ctz ..
  | .popc .. | .sextb .. | .sexth .. | .sextw .. | .shli .. | .shri .. | .srai .. | .fadd .. | .fsub .. | .fmul .. | .fdiv ..
  | .fma .. | .fsqrt .. | .fmin .. | .fmax .. | .fcmp .. | .fcvtToFloat .. | .fcvtToInt .. | .jalr .. | .addi .. | .andi ..
  | .ori .. | .xori .. | .slti .. | .sltiu .. | .lis .. | .lih .. | .jal .. | .beq .. | .bne .. | .blt .. | .bge .. | .bltu ..
  | .bgeu .. | .ldb .. | .ldbu .. | .ldh .. | .ldhu .. | .ldw .. | .ldwu .. | .ldd .. | .stb .. | .sth .. | .stw .. | .std ..
  | .amoadd .. | .amomin .. | .amomax .. | .amoand .. | .amoor .. | .amoxor .. | .amoswap .. | .amocas .. | .mfc .. | .mtc ..
  | .trap .. | .kret | .exit | .fsv .. | .fvs .. | .fvv .. | .brk .. | .brkAny .. | .brkAll .. | .pcaps .. | .pcape | .vadd ..
  | .vsub .. | .vmul .. | .vmulh .. | .vmin .. | .vmax .. | .vminu .. | .vmaxu .. | .vand .. | .vor .. | .vxor .. | .vshl ..
  | .vshr .. | .vsra .. | .vsadd .. | .vssub .. | .vmerge .. | .vmv .. | .vsaddU .. | .vssubU .. | .vsplat .. | .vmvsx ..
  | .vmvxs .. | .mset .. | .vslideupImm .. | .vslidednImm .. | .vshlImm .. | .vshrImm .. | .vsraImm .. | .vsplatImm ..
  | .vcmpEq .. | .vcmpNe .. | .vcmpLt .. | .vcmpGe .. | .vcmpLtu .. | .vcmpGeu .. | .mand .. | .mor .. | .mxor .. | .mnot ..
  | .mpopc .. | .mfirst .. | .vfadd .. | .vfsub .. | .vfmul .. | .vfma .. | .vfms .. | .vfnma .. | .vfdiv .. | .vfsqrt ..
  | .vfrcp .. | .vfrsq .. | .vfmin .. | .vfmax .. | .vfabs .. | .vfneg .. | .vfexp2 .. | .vflog2 .. | .vfclass .. | .vfcmpEq ..
  | .vfcmpLt .. | .vfcmpLe .. | .vfcmpUn .. | .vcvt .. | .vnarrow .. | .vwiden .. | .vsplitb .. | .vjoinb .. | .vscaleb ..
  | .vperm .. | .vcompress .. | .vexpand .. | .vredsum .. | .vredmax .. | .vredmin .. | .vscan .. | .vslideup .. | .vslidedn ..
  | .vbcast .. | .vtopk .. | .vhist .. | .carve .. | .carveq .. | .uncarve .. | .plzero .. | .plsave .. | .plload .. | .setvl ..
  | .lpreq .. | .setvli .. | .retag .. | .mma .. | .mman .. | .mmas .. | .mzero | .mrd .. | .mwr .. | .mwait | .vld .. | .vst ..
  | .vlds .. | .vsts .. | .vldx .. | .vstx .. | .vscadd .. | .vldz .. | .vstz .. | .vstpair .. | .vldw .. | .sbind ..
  | .sunbind .. | .agld .. | .agst .. | .agadd .. | .agmerge .. | .xcopy .. | .xgath .. | .xfill .. | .xquery .. | .xcancel ..
  | .waitw .. | .take .. | .tenq .. | .tdone .. | .tcancel .. | .claim .. | .claimp .. | .agsweep .. | .step .. | .unorm ..
  | .uapply .. | .rsbegin .. | .rsnext .. | .rsvisit .. | .rsread .. | .rsend .. | .cxred .. | .cxgath .. | .cxa2a .. | .cxbar ..
  | .cupclr .. | .cupadd .. => false

end Sys2Proof
end

