-- ==== Sys2Proof/Decode.lean ====
section
/-! DEFINITION. The decoder of R99 to R131 and R103, total on words, and after it the encoder, from the same tables. -/

namespace Sys2Proof

/-- Codes of the four IEEE formats (R110). -/
def FFmt.code : FFmt → Nat
  | .fp16 => 0 | .bf16 => 1 | .fp32 => 2 | .fp64 => 3
/-- Codes of the types of FCVT (R110). -/
def CvtTy.code : CvtTy → Nat
  | .fp16 => 0 | .bf16 => 1 | .fp32 => 2 | .fp64 => 3 | .int32 => 4 | .uint32 => 5 | .int64 => 6 | .uint64 => 7
/-- Codes of the fence scopes (R115). -/
def Scope.code : Scope → Nat
  | .core => 0 | .die => 1 | .pkg => 2 | .sys => 3

/-- The IEEE format of a code (R110). -/
def ffmtOf (n : Nat) : FFmt := if n = 0 then .fp16 else if n = 1 then .bf16 else if n = 2 then .fp32 else .fp64
/-- The type of a code (R110). -/
def cvtTyOf (n : Nat) : CvtTy :=
  if n = 0 then .fp16 else if n = 1 then .bf16 else if n = 2 then .fp32 else if n = 3 then .fp64
  else if n = 4 then .int32 else if n = 5 then .uint32 else if n = 6 then .int64 else .uint64
/-- The scope of a code (R115). -/
def scopeOf (n : Nat) : Scope := if n = 0 then .core else if n = 1 then .die else if n = 2 then .pkg else .sys

/-- A scalar register field (R100). -/
def sr (n : Nat) : SReg := BitVec.ofNat 5 n
/-- A vector-name field (R100). -/
def vn (n : Nat) : VName := BitVec.ofNat 6 n
/-- A mask field (R100). -/
def mk (n : Nat) : MReg := BitVec.ofNat 3 n
/-- An FMT slot field (R105). -/
def sl (n : Nat) : Slot := BitVec.ofNat 4 n
/-- A source-modifier field (R99). -/
def m2 (n : Nat) : BitVec 2 := BitVec.ofNat 2 n

/-- A reading that the checks of R103 allow. -/
def need (c : Bool) (i : Instr) : Option Instr := if c then some i else none

/-- Opcode 0x01, class 0 (R109). -/
def decInt (d a b fn : Nat) : Option Instr :=
  match fn with
  | 0 => some (.add (sr d) (sr a) (sr b))
  | 1 => some (.sub (sr d) (sr a) (sr b))
  | 2 => some (.mul (sr d) (sr a) (sr b))
  | 3 => some (.mulh (sr d) (sr a) (sr b))
  | 4 => some (.mulhu (sr d) (sr a) (sr b))
  | 5 => some (.div (sr d) (sr a) (sr b))
  | 6 => some (.divu (sr d) (sr a) (sr b))
  | 7 => some (.rem (sr d) (sr a) (sr b))
  | 8 => some (.remu (sr d) (sr a) (sr b))
  | 9 => some (.and (sr d) (sr a) (sr b))
  | 10 => some (.or (sr d) (sr a) (sr b))
  | 11 => some (.xor (sr d) (sr a) (sr b))
  | 12 => some (.andn (sr d) (sr a) (sr b))
  | 13 => some (.shl (sr d) (sr a) (sr b))
  | 14 => some (.shr (sr d) (sr a) (sr b))
  | 15 => some (.sra (sr d) (sr a) (sr b))
  | 16 => some (.slt (sr d) (sr a) (sr b))
  | 17 => some (.sltu (sr d) (sr a) (sr b))
  | 18 => some (.min (sr d) (sr a) (sr b))
  | 19 => some (.max (sr d) (sr a) (sr b))
  | 20 => some (.minu (sr d) (sr a) (sr b))
  | 21 => some (.maxu (sr d) (sr a) (sr b))
  | 22 => need (b == 0) (.clz (sr d) (sr a))
  | 23 => need (b == 0) (.ctz (sr d) (sr a))
  | 24 => need (b == 0) (.popc (sr d) (sr a))
  | 25 => need (b == 0) (.sextb (sr d) (sr a))
  | 26 => need (b == 0) (.sexth (sr d) (sr a))
  | 27 => need (b == 0) (.sextw (sr d) (sr a))
  | _ => none

/-- Opcode 0x01, class 1 (R109). -/
def decShiftImm (d a b fn : Nat) : Option Instr :=
  match fn % 8 with
  | 0 => need (b == 0) (.shli (sr d) (sr a) (BitVec.ofNat 6 (fn / 8)))
  | 1 => need (b == 0) (.shri (sr d) (sr a) (BitVec.ofNat 6 (fn / 8)))
  | 2 => need (b == 0) (.srai (sr d) (sr a) (BitVec.ofNat 6 (fn / 8)))
  | _ => none

/-- Opcode 0x01, class 2 (R110). -/
def decFp (d a b fn : Nat) : Option Instr :=
  let f := ffmtOf (fn / 8 % 4)
  let aux := fn % 8
  match fn / 32 with
  | 0 => need (aux == 0) (.fadd (sr d) (sr a) (sr b) f)
  | 1 => need (aux == 0) (.fsub (sr d) (sr a) (sr b) f)
  | 2 => need (aux == 0) (.fmul (sr d) (sr a) (sr b) f)
  | 3 => need (aux == 0) (.fdiv (sr d) (sr a) (sr b) f)
  | 4 => need (aux == 0) (.fma (sr d) (sr a) (sr b) f)
  | 5 => need (aux == 0 && b == 0) (.fsqrt (sr d) (sr a) f)
  | 6 => need (aux == 0) (.fmin (sr d) (sr a) (sr b) f)
  | 7 => need (aux == 0) (.fmax (sr d) (sr a) (sr b) f)
  | 8 => need (aux == 0) (.fcmp (sr d) (sr a) (sr b) f)
  | 9 => need (b == 0) (.fcvtToFloat (sr d) (sr a) f (cvtTyOf aux))
  | 10 => need (b == 0 && decide (4 ≤ aux)) (.fcvtToInt (sr d) (sr a) (cvtTyOf aux) f)
  | _ => none

/-- Opcode 0x01 (R108). -/
def dec01 (d a b fn : Nat) : Option Instr :=
  match fn / 512 with
  | 0 => decInt d a b (fn % 512)
  | 1 => decShiftImm d a b (fn % 512)
  | 2 => decFp d a b (fn % 512)
  | 3 => need (b == 0) (.jalr (sr d) (sr a) (BitVec.ofNat 9 fn))
  | _ => none

/-- Opcodes 0x02 to 0x07 (R111). -/
def decImm (op d a imm : Nat) : Option Instr :=
  match op with
  | 2 => some (.addi (sr d) (sr a) (BitVec.ofNat 16 imm))
  | 3 => some (.andi (sr d) (sr a) (BitVec.ofNat 16 imm))
  | 4 => some (.ori (sr d) (sr a) (BitVec.ofNat 16 imm))
  | 5 => some (.xori (sr d) (sr a) (BitVec.ofNat 16 imm))
  | 6 => some (.slti (sr d) (sr a) (BitVec.ofNat 16 imm))
  | 7 => some (.sltiu (sr d) (sr a) (BitVec.ofNat 16 imm))
  | _ => none

/-- Opcode 0x08 (R111). -/
def dec08 (d a imm : Nat) : Option Instr :=
  match a / 4 with
  | 0 => some (.lis (sr d) (BitVec.ofNat 16 imm) (m2 a))
  | 1 => some (.lih (sr d) (BitVec.ofNat 16 imm) (m2 a))
  | _ => none

/-- Opcodes 0x0A to 0x0F (R107, R111). -/
def decBranch (op a b disp : Nat) : Option Instr :=
  match op with
  | 10 => some (.beq (sr a) (sr b) (BitVec.ofNat 16 disp))
  | 11 => some (.bne (sr a) (sr b) (BitVec.ofNat 16 disp))
  | 12 => some (.blt (sr a) (sr b) (BitVec.ofNat 16 disp))
  | 13 => some (.bge (sr a) (sr b) (BitVec.ofNat 16 disp))
  | 14 => some (.bltu (sr a) (sr b) (BitVec.ofNat 16 disp))
  | 15 => some (.bgeu (sr a) (sr b) (BitVec.ofNat 16 disp))
  | _ => none

/-- Opcode 0x20 (R112). -/
def decLoad (d a imm : Nat) : Option Instr :=
  let o := BitVec.ofNat 13 imm
  match imm / 8192 with
  | 0 => some (.ldb (sr d) (sr a) o)
  | 1 => some (.ldbu (sr d) (sr a) o)
  | 2 => some (.ldh (sr d) (sr a) o)
  | 3 => some (.ldhu (sr d) (sr a) o)
  | 4 => some (.ldw (sr d) (sr a) o)
  | 5 => some (.ldwu (sr d) (sr a) o)
  | 6 => some (.ldd (sr d) (sr a) o)
  | _ => none

/-- Opcode 0x21 (R112). -/
def decStore (a b imm : Nat) : Option Instr :=
  let o := BitVec.ofNat 13 imm
  match imm / 8192 with
  | 0 => some (.stb (sr a) (sr b) o)
  | 1 => some (.sth (sr a) (sr b) o)
  | 2 => some (.stw (sr a) (sr b) o)
  | 3 => some (.std (sr a) (sr b) o)
  | _ => none

/-- Opcode 0x22 (R113). -/
def decAtomic (d a b fn : Nat) : Option Instr :=
  let w := fn / 8 % 2 == 1
  let u := fn / 16 % 2 == 1
  if fn / 32 = 0 then
    match fn % 8 with
    | 0 => need (!u) (.amoadd (sr d) (sr a) (sr b) w)
    | 1 => some (.amomin (sr d) (sr a) (sr b) w u)
    | 2 => some (.amomax (sr d) (sr a) (sr b) w u)
    | 3 => need (!u) (.amoand (sr d) (sr a) (sr b) w)
    | 4 => need (!u) (.amoor (sr d) (sr a) (sr b) w)
    | 5 => need (!u) (.amoxor (sr d) (sr a) (sr b) w)
    | 6 => need (!u) (.amoswap (sr d) (sr a) (sr b) w)
    | 7 => need (!u) (.amocas (sr d) (sr a) (sr b) w)
    | _ => none
  else none

/-- Opcode 0x3A (R114). -/
def dec3A (d a imm : Nat) : Option Instr :=
  let x := imm % 4096
  match imm / 4096 with
  | 0 => need (a == 0 && isCr x) (.mfc (sr d) (BitVec.ofNat 12 x))
  | 1 => need (d == 0 && isCr x) (.mtc (BitVec.ofNat 12 x) (sr a))
  | 2 => need (d == 0 && a == 0) (.trap (BitVec.ofNat 12 x))
  | 3 => need (d == 0 && a == 0 && x == 0) .kret
  | 4 => need (d == 0 && a == 0 && x == 0) .exit
  | _ => none

/-- Opcode 0x3B (R115). -/
def dec3B (d a b fn : Nat) : Option Instr :=
  let s := scopeOf (fn / 4 % 4)
  if d = 0 ∧ a = 0 ∧ b = 0 ∧ fn / 16 = 0 then
    match fn % 4 with
    | 1 => some (.fsv s)
    | 2 => some (.fvs s)
    | 3 => some (.fvv s)
    | _ => none
  else none

/-- Opcode 0x3C (R116). -/
def dec3C (d a imm : Nat) : Option Instr :=
  let x := imm % 4096
  let code := BitVec.ofNat 7 imm
  match imm / 4096 with
  | 0 =>
    if d = 0 ∧ a = 0 then
      match x / 1024 with
      | 0 => need (x / 128 == 0) (.brk code)
      | 1 => some (.brkAny code (mk (x / 128)))
      | 2 => some (.brkAll code (mk (x / 128)))
      | _ => none
    else none
  | 1 => need (d == 0 && x == 0) (.pcaps (sr a))
  | 2 => need (d == 0 && a == 0 && x == 0) .pcape
  | _ => none

/-- Opcode 0x10 (R117). -/
def dec10 (vd va vb sm fn : Nat) : Option Instr :=
  match fn with
  | 0 => some (.vadd (vn vd) (vn va) (vn vb) (m2 sm))
  | 1 => some (.vsub (vn vd) (vn va) (vn vb) (m2 sm))
  | 2 => some (.vmul (vn vd) (vn va) (vn vb) (m2 sm))
  | 3 => some (.vmulh (vn vd) (vn va) (vn vb) (m2 sm))
  | 4 => some (.vmin (vn vd) (vn va) (vn vb) (m2 sm))
  | 5 => some (.vmax (vn vd) (vn va) (vn vb) (m2 sm))
  | 6 => some (.vminu (vn vd) (vn va) (vn vb) (m2 sm))
  | 7 => some (.vmaxu (vn vd) (vn va) (vn vb) (m2 sm))
  | 8 => some (.vand (vn vd) (vn va) (vn vb) (m2 sm))
  | 9 => some (.vor (vn vd) (vn va) (vn vb) (m2 sm))
  | 10 => some (.vxor (vn vd) (vn va) (vn vb) (m2 sm))
  | 11 => some (.vshl (vn vd) (vn va) (vn vb) (m2 sm))
  | 12 => some (.vshr (vn vd) (vn va) (vn vb) (m2 sm))
  | 13 => some (.vsra (vn vd) (vn va) (vn vb) (m2 sm))
  | 14 => some (.vsadd (vn vd) (vn va) (vn vb) (m2 sm))
  | 15 => some (.vssub (vn vd) (vn va) (vn vb) (m2 sm))
  | 16 => some (.vmerge (vn vd) (vn va) (vn vb) (m2 sm))
  | 17 => need (sm == 0 && vb == 0) (.vmv (vn vd) (vn va))
  | 18 => some (.vsaddU (vn vd) (vn va) (vn vb) (m2 sm))
  | 19 => some (.vssubU (vn vd) (vn va) (vn vb) (m2 sm))
  | _ => none

/-- Opcode 0x11 (R118). -/
def dec11 (vd va sb fn : Nat) : Option Instr :=
  match fn with
  | 0 => need (va == 0) (.vsplat (vn vd) (sr sb))
  | 1 => need (va == 0) (.vmvsx (vn vd) (sr sb))
  | 2 => need (vd == 0) (.vmvxs (sr sb) (vn va))
  | 3 => need (va == 0 && decide (vd < 8)) (.mset (mk vd) (sr sb))
  | _ => none

/-- Opcode 0x12 (R119). -/
def dec12 (vd va imm fn : Nat) : Option Instr :=
  let n := BitVec.ofNat 8 imm
  match fn with
  | 0 => some (.vslideupImm (vn vd) (vn va) n)
  | 1 => some (.vslidednImm (vn vd) (vn va) n)
  | 2 => need (decide (imm < 64)) (.vshlImm (vn vd) (vn va) n)
  | 3 => need (decide (imm < 64)) (.vshrImm (vn vd) (vn va) n)
  | 4 => need (decide (imm < 64)) (.vsraImm (vn vd) (vn va) n)
  | 5 => need (va == 0) (.vsplatImm (vn vd) n)
  | _ => none

/-- Opcode 0x13 (R120). -/
def dec13 (vd va vb sm fn : Nat) : Option Instr :=
  let m3 := sm == 0 && decide (vd < 8 ∧ va < 8 ∧ vb < 8)
  let m1 := sm == 0 && decide (va < 8) && vb == 0
  match fn with
  | 0 => need (decide (vd < 8)) (.vcmpEq (mk vd) (vn va) (vn vb) (m2 sm))
  | 1 => need (decide (vd < 8)) (.vcmpNe (mk vd) (vn va) (vn vb) (m2 sm))
  | 2 => need (decide (vd < 8)) (.vcmpLt (mk vd) (vn va) (vn vb) (m2 sm))
  | 3 => need (decide (vd < 8)) (.vcmpGe (mk vd) (vn va) (vn vb) (m2 sm))
  | 4 => need (decide (vd < 8)) (.vcmpLtu (mk vd) (vn va) (vn vb) (m2 sm))
  | 5 => need (decide (vd < 8)) (.vcmpGeu (mk vd) (vn va) (vn vb) (m2 sm))
  | 8 => need m3 (.mand (mk vd) (mk va) (mk vb))
  | 9 => need m3 (.mor (mk vd) (mk va) (mk vb))
  | 10 => need m3 (.mxor (mk vd) (mk va) (mk vb))
  | 11 => need (m1 && decide (vd < 8)) (.mnot (mk vd) (mk va))
  | 12 => need (m1 && decide (vd < 32)) (.mpopc (sr vd) (mk va))
  | 13 => need (m1 && decide (vd < 32)) (.mfirst (sr vd) (mk va))
  | _ => none

/-- Opcode 0x14 (R121). -/
def dec14 (vd va vb sm fn : Nat) : Option Instr :=
  let bf := fn / 32 == 1
  let u := sm == 0 && vb == 0
  match fn % 32 with
  | 0 => some (.vfadd (vn vd) (vn va) (vn vb) (m2 sm) bf)
  | 1 => some (.vfsub (vn vd) (vn va) (vn vb) (m2 sm) bf)
  | 2 => some (.vfmul (vn vd) (vn va) (vn vb) (m2 sm) bf)
  | 3 => some (.vfma (vn vd) (vn va) (vn vb) (m2 sm) bf)
  | 4 => some (.vfms (vn vd) (vn va) (vn vb) (m2 sm) bf)
  | 5 => some (.vfnma (vn vd) (vn va) (vn vb) (m2 sm) bf)
  | 6 => some (.vfdiv (vn vd) (vn va) (vn vb) (m2 sm) bf)
  | 10 => some (.vfmin (vn vd) (vn va) (vn vb) (m2 sm) bf)
  | 11 => some (.vfmax (vn vd) (vn va) (vn vb) (m2 sm) bf)
  | 7 => need u (.vfsqrt (vn vd) (vn va) bf)
  | 8 => need u (.vfrcp (vn vd) (vn va) bf)
  | 9 => need u (.vfrsq (vn vd) (vn va) bf)
  | 12 => need u (.vfabs (vn vd) (vn va) bf)
  | 13 => need u (.vfneg (vn vd) (vn va) bf)
  | 14 => need u (.vfexp2 (vn vd) (vn va) bf)
  | 15 => need u (.vflog2 (vn vd) (vn va) bf)
  | 16 => need u (.vfclass (vn vd) (vn va) bf)
  | 17 => need (decide (vd < 8)) (.vfcmpEq (mk vd) (vn va) (vn vb) (m2 sm) bf)
  | 18 => need (decide (vd < 8)) (.vfcmpLt (mk vd) (vn va) (vn vb) (m2 sm) bf)
  | 19 => need (decide (vd < 8)) (.vfcmpLe (mk vd) (vn va) (vn vb) (m2 sm) bf)
  | 20 => need (decide (vd < 8)) (.vfcmpUn (mk vd) (vn va) (vn vb) (m2 sm) bf)
  | _ => none

/-- The fixed code in a 6-bit field (R105). -/
def c6 (n : Nat) : BitVec 6 := BitVec.ofNat 6 n

/-- Opcodes 0x15, 0x16 and 0x17 (R122). -/
def decConv (op vd va vb sm fn : Nat) : Option Instr :=
  match op with
  | 0x15 => need (sm == 0 && cvtCodes fn vb) (.vcvt (vn vd) (vn va) (c6 fn) (c6 vb))
  | 0x16 => need (sm == 0 && fn / 16 == 2 && narrowSrc vb) (.vnarrow (vn vd) (vn va) (sl fn) (c6 vb))
  | 0x17 => need (sm == 0 && vb / 16 == 2 && widenDst fn) (.vwiden (vn vd) (vn va) (c6 fn) (sl vb))
  | _ => none

/-- Opcode 0x18 (R123). -/
def dec18 (vd va vb sm fn : Nat) : Option Instr :=
  let u := sm == 0 && vb == 0
  match fn / 16 with
  | 0 => need u (.vsplitb (vn vd) (vn va) (sl fn))
  | 1 => need u (.vjoinb (vn vd) (vn va) (sl fn))
  | 2 => need u (.vscaleb (vn vd) (vn va) (sl fn))
  | _ => none

/-- Opcode 0x19 (R124). -/
def dec19 (vd va vb sm fn : Nat) : Option Instr :=
  let ty := fn / 16
  let i := sm == 0 && ty == 0
  let u := sm == 0 && vb == 0 && decide (ty < 3)
  match fn % 16 with
  | 0 => need i (.vperm (vn vd) (vn va) (vn vb))
  | 1 => need (i && vb == 0) (.vcompress (vn vd) (vn va))
  | 2 => need (i && vb == 0) (.vexpand (vn vd) (vn va))
  | 3 => need u (.vredsum (vn vd) (vn va) (m2 ty))
  | 4 => need u (.vredmax (vn vd) (vn va) (m2 ty))
  | 5 => need u (.vredmin (vn vd) (vn va) (m2 ty))
  | 6 => need u (.vscan (vn vd) (vn va) (m2 ty))
  | _ => none

/-- Opcode 0x1A (R125). -/
def dec1A (vd va sb fn : Nat) : Option Instr :=
  let ty := fn / 64
  match fn % 64 with
  | 0 => need (ty == 0) (.vslideup (vn vd) (vn va) (sr sb))
  | 1 => need (ty == 0) (.vslidedn (vn vd) (vn va) (sr sb))
  | 2 => need (ty == 0) (.vbcast (vn vd) (vn va) (sr sb))
  | 3 => need (decide (ty < 3)) (.vtopk (vn vd) (vn va) (sr sb) (m2 ty))
  | 4 => need (ty == 0) (.vhist (vn vd) (vn va) (sr sb))
  | _ => none

/-- Opcode 0x23 (R129). -/
def dec23 (vd a vx fn : Nat) : Option Instr :=
  let x := fn / 16
  let z := x == 0
  match fn % 16 with
  | 0 => need (z && vx == 0) (.vld (vn vd) (sr a))
  | 1 => need (z && vx == 0) (.vst (vn vd) (sr a))
  | 2 => need (z && vx == 0) (.vlds (vn vd) (sr a))
  | 3 => need (z && vx == 0) (.vsts (vn vd) (sr a))
  | 4 => need z (.vldx (vn vd) (sr a) (vn vx))
  | 5 => need z (.vstx (vn vd) (sr a) (vn vx))
  | 6 => need (scaddTy x) (.vscadd (vn vd) (sr a) (vn vx) (BitVec.ofNat 5 x))
  | 7 => need z (.vldz (vn vd) (sr a) (vn vx))
  | 8 => need z (.vstz (vn vd) (sr a) (vn vx))
  | 9 => need (z && decide (1 ≤ a ∧ a ≤ 30)) (.vstpair (vn vd) (sr a) (vn vx))
  | 10 => need z (.vldw (vn vd) (sr a) (vn vx))
  | 11 => need (decide (x < 2)) (.sbind (vn vd) (sr a) (vn vx) (x == 1))
  | 12 => need (z && a == 0 && vx == 0) (.sunbind (vn vd))
  | _ => none

/-- Opcode 0x28 (R126). -/
def dec28 (vd va sb fn : Nat) : Option Instr :=
  match fn with
  | 0 => need (va == 0) (.carve (vn vd) (sr sb))
  | 1 => some (.carveq (vn vd) (vn va) (sr sb))
  | 2 => need (va == 0 && sb == 0) (.uncarve (vn vd))
  | 3 => need (va == 0 && sb == 0) (.plzero (vn vd))
  | 4 => need (va == 0) (.plsave (vn vd) (sr sb))
  | 5 => need (va == 0) (.plload (vn vd) (sr sb))
  | 6 => need (va == 0) (.setvl (vn vd) (sr sb))
  | 7 => need (vd == 0 && va == 0) (.lpreq (sr sb))
  | _ => none

/-- Opcode 0x29 (R127). -/
def dec29 (vd va imm fn : Nat) : Option Instr :=
  match fn with
  | 0 => need (va == 0) (.setvli (vn vd) (BitVec.ofNat 8 imm))
  | 1 => need (va == 0 && tagOk imm) (.retag (vn vd) (BitVec.ofNat 8 imm))
  | _ => none

/-- Opcode 0x2A (R128). -/
def dec2A (va vb vc fn : Nat) : Option Instr :=
  let f := fn / 16
  match fn % 16 with
  | 0 => need (vc == 0 && decide (f < 3)) (.mma (vn va) (vn vb) (sl f))
  | 1 => need (vc == 0) (.mman (vn va) (vn vb) (sl f))
  | 2 => some (.mmas (vn va) (vn vb) (vn vc) (sl f))
  | 3 => need (va == 0 && vb == 0 && vc == 0 && f == 0) .mzero
  | 4 => need (vc == 0 && decide (vb < 32) && decide (f < 3)) (.mrd (vn va) (sr vb) (sl f))
  | 5 => need (vc == 0 && decide (vb < 32) && decide (f < 3)) (.mwr (vn va) (sr vb) (sl f))
  | 6 => need (va == 0 && vb == 0 && vc == 0 && f == 0) .mwait
  | _ => none

/-- Opcode 0x2E (R131). -/
def dec2E (a b c fn : Nat) : Option Instr :=
  let ord := fn / 16 % 2 == 1
  let v := fn / 32
  match fn % 16 with
  | 0 => need (v == 0) (.xcopy (sr a) (sr b) (sr c) ord)
  | 1 => some (.xgath (sr a) (sr b) (sr c) (vn v) ord)
  | 2 => need (v == 0) (.xfill (sr a) (sr b) (sr c) ord)
  | 3 => need (v == 0 && !ord && c == 0) (.xquery (sr a) (sr b))
  | 4 => need (v == 0 && !ord && c == 0 && b == 0) (.xcancel (sr a))
  | 5 => need (v == 0 && !ord) (.waitw (sr a) (sr b) (sr c))
  | _ => none

/-- Opcode 0x2F (R131). -/
def dec2F (a b c fn : Nat) : Option Instr :=
  match fn with
  | 0 => some (.take (sr a) (sr b) (sr c))
  | 1 => some (.tenq (sr a) (sr b) (sr c))
  | 2 => need (c == 0) (.tdone (sr a) (sr b))
  | 3 => need (c == 0) (.tcancel (sr a) (sr b))
  | 4 => some (.claim (sr a) (sr b) (sr c))
  | 5 => some (.claimp (sr a) (sr b) (sr c))
  | _ => none

/-- Opcode 0x34 (R130). -/
def dec34 (vd a vx fn : Nat) : Option Instr :=
  let w := fn / 16 % 2 == 1
  if vx = 0 ∧ fn / 32 = 0 then
    match fn % 16 with
    | 0 => some (.agld (vn vd) (sr a) w)
    | 1 => some (.agst (vn vd) (sr a) w)
    | 2 => some (.agadd (vn vd) (sr a) w)
    | 3 => some (.agmerge (vn vd) (sr a) w)
    | _ => none
  else none

/-- Opcode 0x35 (R131). -/
def dec35 (a b c fn : Nat) : Option Instr :=
  let ord := fn / 16 % 2 == 1
  if fn / 32 = 0 then
    match fn % 16 with
    | 0 => some (.agsweep (sr a) (sr b) (sr c) ord)
    | 1 => need (!ord && b == 0 && c == 0) (.step (sr a))
    | 2 => some (.unorm (sr a) (sr b) (sr c) ord)
    | 3 => some (.uapply (sr a) (sr b) (sr c) ord)
    | 4 => need (!ord && c == 0) (.rsbegin (sr a) (sr b))
    | 5 => need (!ord && c == 0) (.rsnext (sr a) (sr b))
    | 6 => need (!ord) (.rsvisit (sr a) (sr b) (sr c))
    | 7 => need (!ord && c == 0) (.rsread (sr a) (sr b))
    | 8 => need (!ord && c == 0) (.rsend (sr a) (sr b))
    | _ => none
  else none

/-- Opcode 0x36 (R131). -/
def dec36 (a b c fn : Nat) : Option Instr :=
  let g := fn / 16
  let n := m2 (fn / 32)
  match fn % 16 with
  | 0 => need (decide (g < 2)) (.cxred (sr a) (sr b) (sr c) (g == 1))
  | 1 => need (g == 0) (.cxgath (sr a) (sr b) (sr c))
  | 2 => need (g == 0) (.cxa2a (sr a) (sr b) (sr c))
  | 3 => need (g == 0) (.cxbar (sr a) (sr b) (sr c))
  | 4 => need (a == 0 && b == 0 && c == 0 && g % 2 == 0 && decide (g < 8)) (.cupclr n)
  | 5 => need (c == 0 && g % 2 == 0 && decide (g < 8)) (.cupadd n (sr a) (sr b))
  | _ => none

/-- The instruction of a word by its major opcode and the fields of R99 (R107). -/
def decodeNat (w : Nat) : Option Instr :=
  let op := bits w 31 26
  let f1 := bits w 25 21
  let f2 := bits w 20 16
  let f3 := bits w 15 11
  let g1 := bits w 25 20
  let g2 := bits w 19 14
  let g3 := bits w 13 8
  let imm := bits w 15 0
  let fn11 := bits w 10 0
  let fn9 := bits w 8 0
  let fn6 := bits w 5 0
  match op with
  | 0x01 => dec01 f1 f2 f3 fn11
  | 0x02 | 0x03 | 0x04 | 0x05 | 0x06 | 0x07 => decImm op f1 f2 imm
  | 0x08 => dec08 f1 f2 imm
  | 0x09 => some (.jal (sr f1) (BitVec.ofNat 21 (bits w 20 0)))
  | 0x0A | 0x0B | 0x0C | 0x0D | 0x0E | 0x0F => decBranch op f1 f2 imm
  | 0x10 => dec10 g1 g2 g3 (bits w 7 6) fn6
  | 0x11 => dec11 g1 g2 (bits w 13 9) fn9
  | 0x12 => dec12 g1 g2 (bits w 13 6) fn6
  | 0x13 => dec13 g1 g2 g3 (bits w 7 6) fn6
  | 0x14 => dec14 g1 g2 g3 (bits w 7 6) fn6
  | 0x15 | 0x16 | 0x17 => decConv op g1 g2 g3 (bits w 7 6) fn6
  | 0x18 => dec18 g1 g2 g3 (bits w 7 6) fn6
  | 0x19 => dec19 g1 g2 g3 (bits w 7 6) fn6
  | 0x1A => dec1A g1 g2 (bits w 13 9) fn9
  | 0x20 => decLoad f1 f2 imm
  | 0x21 => decStore f1 f2 imm
  | 0x22 => decAtomic f1 f2 f3 fn11
  | 0x23 => dec23 g1 (bits w 19 15) (bits w 14 9) fn9
  | 0x28 => dec28 g1 g2 (bits w 13 9) fn9
  | 0x29 => dec29 g1 g2 (bits w 13 6) fn6
  | 0x2A => dec2A g1 g2 g3 (bits w 7 0)
  | 0x2E => dec2E f1 f2 f3 fn11
  | 0x2F => dec2F f1 f2 f3 fn11
  | 0x34 => dec34 g1 (bits w 19 15) (bits w 14 9) fn9
  | 0x35 => dec35 f1 f2 f3 fn11
  | 0x36 => dec36 f1 f2 f3 fn11
  | 0x3A => dec3A f1 f2 imm
  | 0x3B => dec3B f1 f2 f3 fn11
  | 0x3C => dec3C f1 f2 imm
  | _ => none

/-- The decoder: a word's instruction, or `none` where the word raises ILLEGAL (R103). -/
def decode (w : BitVec 32) : Option Instr := decodeNat w.toNat

/-- The bytes of an instruction word, as memory holds them (R99). -/
def wordBytes (w : BitVec 32) : List Byte := (List.range 4).map fun i => BitVec.ofNat 8 (bits w.toNat (8 * i + 7) (8 * i))

/-- The word of four bytes of memory (R99). -/
def bytesWord (bs : List Byte) : BitVec 32 := BitVec.ofNat 32 (bs.foldr (fun b n => b.toNat + 256 * n) 0)

/-- What the decoder reads from a word numbered as the opcode table numbers it: laid out little-endian, read back, decoded. Every
instruction is one 32-bit word (R99), so other lengths are no instruction. -/
def decodeTableWord (nbits w : Nat) : Option Instr :=
  if nbits = 32 then decode (bytesWord (wordBytes (BitVec.ofNat 32 w))) else none

/-! ### The encoder -/

/-- Formats of R99. SI and SB share one layout, as do SR and XE. -/
def packSR (op d a b fn : Nat) : Nat := op * 2 ^ 26 + d * 2 ^ 21 + a * 2 ^ 16 + b * 2 ^ 11 + fn
def packSI (op d a imm : Nat) : Nat := op * 2 ^ 26 + d * 2 ^ 21 + a * 2 ^ 16 + imm
def packSJ (op d disp : Nat) : Nat := op * 2 ^ 26 + d * 2 ^ 21 + disp
def packVR (op vd va vb sm fn : Nat) : Nat := op * 2 ^ 26 + vd * 2 ^ 20 + va * 2 ^ 14 + vb * 2 ^ 8 + sm * 2 ^ 6 + fn
def packVS (op vd va sb fn : Nat) : Nat := op * 2 ^ 26 + vd * 2 ^ 20 + va * 2 ^ 14 + sb * 2 ^ 9 + fn
def packVI (op vd va imm fn : Nat) : Nat := op * 2 ^ 26 + vd * 2 ^ 20 + va * 2 ^ 14 + imm * 2 ^ 6 + fn
def packVM (op vd a vx fn : Nat) : Nat := op * 2 ^ 26 + vd * 2 ^ 20 + a * 2 ^ 15 + vx * 2 ^ 9 + fn
def packMX (op va vb vc fn : Nat) : Nat := op * 2 ^ 26 + va * 2 ^ 20 + vb * 2 ^ 14 + vc * 2 ^ 8 + fn

/-- The word of an instruction, as a number; `none` for an event, which has no encoding. -/
def encodeNat : Instr → Option Nat
  | .add d a b => some (packSR 1 d.toNat a.toNat b.toNat 0)
  | .sub d a b => some (packSR 1 d.toNat a.toNat b.toNat 1)
  | .mul d a b => some (packSR 1 d.toNat a.toNat b.toNat 2)
  | .mulh d a b => some (packSR 1 d.toNat a.toNat b.toNat 3)
  | .mulhu d a b => some (packSR 1 d.toNat a.toNat b.toNat 4)
  | .div d a b => some (packSR 1 d.toNat a.toNat b.toNat 5)
  | .divu d a b => some (packSR 1 d.toNat a.toNat b.toNat 6)
  | .rem d a b => some (packSR 1 d.toNat a.toNat b.toNat 7)
  | .remu d a b => some (packSR 1 d.toNat a.toNat b.toNat 8)
  | .and d a b => some (packSR 1 d.toNat a.toNat b.toNat 9)
  | .or d a b => some (packSR 1 d.toNat a.toNat b.toNat 10)
  | .xor d a b => some (packSR 1 d.toNat a.toNat b.toNat 11)
  | .andn d a b => some (packSR 1 d.toNat a.toNat b.toNat 12)
  | .shl d a b => some (packSR 1 d.toNat a.toNat b.toNat 13)
  | .shr d a b => some (packSR 1 d.toNat a.toNat b.toNat 14)
  | .sra d a b => some (packSR 1 d.toNat a.toNat b.toNat 15)
  | .slt d a b => some (packSR 1 d.toNat a.toNat b.toNat 16)
  | .sltu d a b => some (packSR 1 d.toNat a.toNat b.toNat 17)
  | .min d a b => some (packSR 1 d.toNat a.toNat b.toNat 18)
  | .max d a b => some (packSR 1 d.toNat a.toNat b.toNat 19)
  | .minu d a b => some (packSR 1 d.toNat a.toNat b.toNat 20)
  | .maxu d a b => some (packSR 1 d.toNat a.toNat b.toNat 21)
  | .clz d a => some (packSR 1 d.toNat a.toNat 0 22)
  | .ctz d a => some (packSR 1 d.toNat a.toNat 0 23)
  | .popc d a => some (packSR 1 d.toNat a.toNat 0 24)
  | .sextb d a => some (packSR 1 d.toNat a.toNat 0 25)
  | .sexth d a => some (packSR 1 d.toNat a.toNat 0 26)
  | .sextw d a => some (packSR 1 d.toNat a.toNat 0 27)
  | .shli d a n => some (packSR 1 d.toNat a.toNat 0 (512 + n.toNat * 8 + 0))
  | .shri d a n => some (packSR 1 d.toNat a.toNat 0 (512 + n.toNat * 8 + 1))
  | .srai d a n => some (packSR 1 d.toNat a.toNat 0 (512 + n.toNat * 8 + 2))
  | .fadd d a b f => some (packSR 1 d.toNat a.toNat b.toNat (1024 + 0 * 32 + f.code * 8))
  | .fsub d a b f => some (packSR 1 d.toNat a.toNat b.toNat (1024 + 1 * 32 + f.code * 8))
  | .fmul d a b f => some (packSR 1 d.toNat a.toNat b.toNat (1024 + 2 * 32 + f.code * 8))
  | .fdiv d a b f => some (packSR 1 d.toNat a.toNat b.toNat (1024 + 3 * 32 + f.code * 8))
  | .fma d a b f => some (packSR 1 d.toNat a.toNat b.toNat (1024 + 4 * 32 + f.code * 8))
  | .fsqrt d a f => some (packSR 1 d.toNat a.toNat 0 (1024 + 5 * 32 + f.code * 8))
  | .fmin d a b f => some (packSR 1 d.toNat a.toNat b.toNat (1024 + 6 * 32 + f.code * 8))
  | .fmax d a b f => some (packSR 1 d.toNat a.toNat b.toNat (1024 + 7 * 32 + f.code * 8))
  | .fcmp d a b f => some (packSR 1 d.toNat a.toNat b.toNat (1024 + 8 * 32 + f.code * 8))
  | .fcvtToFloat d a f t => some (packSR 1 d.toNat a.toNat 0 (1024 + 9 * 32 + f.code * 8 + t.code))
  | .fcvtToInt d a t f => some (packSR 1 d.toNat a.toNat 0 (1024 + 10 * 32 + f.code * 8 + t.code))
  | .jalr d a o => some (packSR 1 d.toNat a.toNat 0 (1536 + o.toNat))
  | .addi d a i => some (packSI 2 d.toNat a.toNat i.toNat)
  | .andi d a i => some (packSI 3 d.toNat a.toNat i.toNat)
  | .ori d a i => some (packSI 4 d.toNat a.toNat i.toNat)
  | .xori d a i => some (packSI 5 d.toNat a.toNat i.toNat)
  | .slti d a i => some (packSI 6 d.toNat a.toNat i.toNat)
  | .sltiu d a i => some (packSI 7 d.toNat a.toNat i.toNat)
  | .lis d i h => some (packSI 8 d.toNat h.toNat i.toNat)
  | .lih d i h => some (packSI 8 d.toNat (4 + h.toNat) i.toNat)
  | .jal d o => some (packSJ 9 d.toNat o.toNat)
  | .beq a b o => some (packSI 10 a.toNat b.toNat o.toNat)
  | .bne a b o => some (packSI 11 a.toNat b.toNat o.toNat)
  | .blt a b o => some (packSI 12 a.toNat b.toNat o.toNat)
  | .bge a b o => some (packSI 13 a.toNat b.toNat o.toNat)
  | .bltu a b o => some (packSI 14 a.toNat b.toNat o.toNat)
  | .bgeu a b o => some (packSI 15 a.toNat b.toNat o.toNat)
  | .ldb d a o => some (packSI 0x20 d.toNat a.toNat (0 * 8192 + o.toNat))
  | .ldbu d a o => some (packSI 0x20 d.toNat a.toNat (1 * 8192 + o.toNat))
  | .ldh d a o => some (packSI 0x20 d.toNat a.toNat (2 * 8192 + o.toNat))
  | .ldhu d a o => some (packSI 0x20 d.toNat a.toNat (3 * 8192 + o.toNat))
  | .ldw d a o => some (packSI 0x20 d.toNat a.toNat (4 * 8192 + o.toNat))
  | .ldwu d a o => some (packSI 0x20 d.toNat a.toNat (5 * 8192 + o.toNat))
  | .ldd d a o => some (packSI 0x20 d.toNat a.toNat (6 * 8192 + o.toNat))
  | .stb a b o => some (packSI 0x21 a.toNat b.toNat (0 * 8192 + o.toNat))
  | .sth a b o => some (packSI 0x21 a.toNat b.toNat (1 * 8192 + o.toNat))
  | .stw a b o => some (packSI 0x21 a.toNat b.toNat (2 * 8192 + o.toNat))
  | .std a b o => some (packSI 0x21 a.toNat b.toNat (3 * 8192 + o.toNat))
  | .amoadd d a b w => some (packSR 0x22 d.toNat a.toNat b.toNat (b2n w * 8 + 0))
  | .amomin d a b w u => some (packSR 0x22 d.toNat a.toNat b.toNat (b2n u * 16 + b2n w * 8 + 1))
  | .amomax d a b w u => some (packSR 0x22 d.toNat a.toNat b.toNat (b2n u * 16 + b2n w * 8 + 2))
  | .amoand d a b w => some (packSR 0x22 d.toNat a.toNat b.toNat (b2n w * 8 + 3))
  | .amoor d a b w => some (packSR 0x22 d.toNat a.toNat b.toNat (b2n w * 8 + 4))
  | .amoxor d a b w => some (packSR 0x22 d.toNat a.toNat b.toNat (b2n w * 8 + 5))
  | .amoswap d a b w => some (packSR 0x22 d.toNat a.toNat b.toNat (b2n w * 8 + 6))
  | .amocas d a b w => some (packSR 0x22 d.toNat a.toNat b.toNat (b2n w * 8 + 7))
  | .mfc d x => some (packSI 0x3A d.toNat 0 x.toNat)
  | .mtc x a => some (packSI 0x3A 0 a.toNat (4096 + x.toNat))
  | .trap n => some (packSI 0x3A 0 0 (2 * 4096 + n.toNat))
  | .kret => some (packSI 0x3A 0 0 (3 * 4096))
  | .exit => some (packSI 0x3A 0 0 (4 * 4096))
  | .fsv s => some (packSR 0x3B 0 0 0 (s.code * 4 + 1))
  | .fvs s => some (packSR 0x3B 0 0 0 (s.code * 4 + 2))
  | .fvv s => some (packSR 0x3B 0 0 0 (s.code * 4 + 3))
  | .brk c => some (packSI 0x3C 0 0 c.toNat)
  | .brkAny c m => some (packSI 0x3C 0 0 (1024 + m.toNat * 128 + c.toNat))
  | .brkAll c m => some (packSI 0x3C 0 0 (2048 + m.toNat * 128 + c.toNat))
  | .pcaps a => some (packSI 0x3C 0 a.toNat 4096)
  | .pcape => some (packSI 0x3C 0 0 (2 * 4096))
  | .vadd d a b m => some (packVR 0x10 d.toNat a.toNat b.toNat m.toNat 0)
  | .vsub d a b m => some (packVR 0x10 d.toNat a.toNat b.toNat m.toNat 1)
  | .vmul d a b m => some (packVR 0x10 d.toNat a.toNat b.toNat m.toNat 2)
  | .vmulh d a b m => some (packVR 0x10 d.toNat a.toNat b.toNat m.toNat 3)
  | .vmin d a b m => some (packVR 0x10 d.toNat a.toNat b.toNat m.toNat 4)
  | .vmax d a b m => some (packVR 0x10 d.toNat a.toNat b.toNat m.toNat 5)
  | .vminu d a b m => some (packVR 0x10 d.toNat a.toNat b.toNat m.toNat 6)
  | .vmaxu d a b m => some (packVR 0x10 d.toNat a.toNat b.toNat m.toNat 7)
  | .vand d a b m => some (packVR 0x10 d.toNat a.toNat b.toNat m.toNat 8)
  | .vor d a b m => some (packVR 0x10 d.toNat a.toNat b.toNat m.toNat 9)
  | .vxor d a b m => some (packVR 0x10 d.toNat a.toNat b.toNat m.toNat 10)
  | .vshl d a b m => some (packVR 0x10 d.toNat a.toNat b.toNat m.toNat 11)
  | .vshr d a b m => some (packVR 0x10 d.toNat a.toNat b.toNat m.toNat 12)
  | .vsra d a b m => some (packVR 0x10 d.toNat a.toNat b.toNat m.toNat 13)
  | .vsadd d a b m => some (packVR 0x10 d.toNat a.toNat b.toNat m.toNat 14)
  | .vssub d a b m => some (packVR 0x10 d.toNat a.toNat b.toNat m.toNat 15)
  | .vmerge d a b m => some (packVR 0x10 d.toNat a.toNat b.toNat m.toNat 16)
  | .vmv d a => some (packVR 0x10 d.toNat a.toNat 0 0 17)
  | .vsaddU d a b m => some (packVR 0x10 d.toNat a.toNat b.toNat m.toNat 18)
  | .vssubU d a b m => some (packVR 0x10 d.toNat a.toNat b.toNat m.toNat 19)
  | .vsplat d b => some (packVS 0x11 d.toNat 0 b.toNat 0)
  | .vmvsx d b => some (packVS 0x11 d.toNat 0 b.toNat 1)
  | .vmvxs b a => some (packVS 0x11 0 a.toNat b.toNat 2)
  | .mset d b => some (packVS 0x11 d.toNat 0 b.toNat 3)
  | .vslideupImm d a n => some (packVI 0x12 d.toNat a.toNat n.toNat 0)
  | .vslidednImm d a n => some (packVI 0x12 d.toNat a.toNat n.toNat 1)
  | .vshlImm d a n => some (packVI 0x12 d.toNat a.toNat n.toNat 2)
  | .vshrImm d a n => some (packVI 0x12 d.toNat a.toNat n.toNat 3)
  | .vsraImm d a n => some (packVI 0x12 d.toNat a.toNat n.toNat 4)
  | .vsplatImm d n => some (packVI 0x12 d.toNat 0 n.toNat 5)
  | .vcmpEq d a b m => some (packVR 0x13 d.toNat a.toNat b.toNat m.toNat 0)
  | .vcmpNe d a b m => some (packVR 0x13 d.toNat a.toNat b.toNat m.toNat 1)
  | .vcmpLt d a b m => some (packVR 0x13 d.toNat a.toNat b.toNat m.toNat 2)
  | .vcmpGe d a b m => some (packVR 0x13 d.toNat a.toNat b.toNat m.toNat 3)
  | .vcmpLtu d a b m => some (packVR 0x13 d.toNat a.toNat b.toNat m.toNat 4)
  | .vcmpGeu d a b m => some (packVR 0x13 d.toNat a.toNat b.toNat m.toNat 5)
  | .mand d a b => some (packVR 0x13 d.toNat a.toNat b.toNat 0 8)
  | .mor d a b => some (packVR 0x13 d.toNat a.toNat b.toNat 0 9)
  | .mxor d a b => some (packVR 0x13 d.toNat a.toNat b.toNat 0 10)
  | .mnot d a => some (packVR 0x13 d.toNat a.toNat 0 0 11)
  | .mpopc d a => some (packVR 0x13 d.toNat a.toNat 0 0 12)
  | .mfirst d a => some (packVR 0x13 d.toNat a.toNat 0 0 13)
  | .vfadd d a b m f => some (packVR 0x14 d.toNat a.toNat b.toNat m.toNat (b2n f * 32 + 0))
  | .vfsub d a b m f => some (packVR 0x14 d.toNat a.toNat b.toNat m.toNat (b2n f * 32 + 1))
  | .vfmul d a b m f => some (packVR 0x14 d.toNat a.toNat b.toNat m.toNat (b2n f * 32 + 2))
  | .vfma d a b m f => some (packVR 0x14 d.toNat a.toNat b.toNat m.toNat (b2n f * 32 + 3))
  | .vfms d a b m f => some (packVR 0x14 d.toNat a.toNat b.toNat m.toNat (b2n f * 32 + 4))
  | .vfnma d a b m f => some (packVR 0x14 d.toNat a.toNat b.toNat m.toNat (b2n f * 32 + 5))
  | .vfdiv d a b m f => some (packVR 0x14 d.toNat a.toNat b.toNat m.toNat (b2n f * 32 + 6))
  | .vfsqrt d a f => some (packVR 0x14 d.toNat a.toNat 0 0 (b2n f * 32 + 7))
  | .vfrcp d a f => some (packVR 0x14 d.toNat a.toNat 0 0 (b2n f * 32 + 8))
  | .vfrsq d a f => some (packVR 0x14 d.toNat a.toNat 0 0 (b2n f * 32 + 9))
  | .vfmin d a b m f => some (packVR 0x14 d.toNat a.toNat b.toNat m.toNat (b2n f * 32 + 10))
  | .vfmax d a b m f => some (packVR 0x14 d.toNat a.toNat b.toNat m.toNat (b2n f * 32 + 11))
  | .vfabs d a f => some (packVR 0x14 d.toNat a.toNat 0 0 (b2n f * 32 + 12))
  | .vfneg d a f => some (packVR 0x14 d.toNat a.toNat 0 0 (b2n f * 32 + 13))
  | .vfexp2 d a f => some (packVR 0x14 d.toNat a.toNat 0 0 (b2n f * 32 + 14))
  | .vflog2 d a f => some (packVR 0x14 d.toNat a.toNat 0 0 (b2n f * 32 + 15))
  | .vfclass d a f => some (packVR 0x14 d.toNat a.toNat 0 0 (b2n f * 32 + 16))
  | .vfcmpEq d a b m f => some (packVR 0x14 d.toNat a.toNat b.toNat m.toNat (b2n f * 32 + 17))
  | .vfcmpLt d a b m f => some (packVR 0x14 d.toNat a.toNat b.toNat m.toNat (b2n f * 32 + 18))
  | .vfcmpLe d a b m f => some (packVR 0x14 d.toNat a.toNat b.toNat m.toNat (b2n f * 32 + 19))
  | .vfcmpUn d a b m f => some (packVR 0x14 d.toNat a.toNat b.toNat m.toNat (b2n f * 32 + 20))
  | .vcvt d a t s => some (packVR 0x15 d.toNat a.toNat s.toNat 0 t.toNat)
  | .vnarrow d a n s => some (packVR 0x16 d.toNat a.toNat s.toNat 0 (32 + n.toNat))
  | .vwiden d a t n => some (packVR 0x17 d.toNat a.toNat (32 + n.toNat) 0 t.toNat)
  | .vsplitb d a n => some (packVR 0x18 d.toNat a.toNat 0 0 (0 * 16 + n.toNat))
  | .vjoinb d a n => some (packVR 0x18 d.toNat a.toNat 0 0 (1 * 16 + n.toNat))
  | .vscaleb d a n => some (packVR 0x18 d.toNat a.toNat 0 0 (2 * 16 + n.toNat))
  | .vperm d a b => some (packVR 0x19 d.toNat a.toNat b.toNat 0 0)
  | .vcompress d a => some (packVR 0x19 d.toNat a.toNat 0 0 1)
  | .vexpand d a => some (packVR 0x19 d.toNat a.toNat 0 0 2)
  | .vredsum d a t => some (packVR 0x19 d.toNat a.toNat 0 0 (t.toNat * 16 + 3))
  | .vredmax d a t => some (packVR 0x19 d.toNat a.toNat 0 0 (t.toNat * 16 + 4))
  | .vredmin d a t => some (packVR 0x19 d.toNat a.toNat 0 0 (t.toNat * 16 + 5))
  | .vscan d a t => some (packVR 0x19 d.toNat a.toNat 0 0 (t.toNat * 16 + 6))
  | .vslideup d a b => some (packVS 0x1A d.toNat a.toNat b.toNat 0)
  | .vslidedn d a b => some (packVS 0x1A d.toNat a.toNat b.toNat 1)
  | .vbcast d a b => some (packVS 0x1A d.toNat a.toNat b.toNat 2)
  | .vtopk d a b t => some (packVS 0x1A d.toNat a.toNat b.toNat (t.toNat * 64 + 3))
  | .vhist d a b => some (packVS 0x1A d.toNat a.toNat b.toNat 4)
  | .carve d b => some (packVS 0x28 d.toNat 0 b.toNat 0)
  | .carveq d a b => some (packVS 0x28 d.toNat a.toNat b.toNat 1)
  | .uncarve d => some (packVS 0x28 d.toNat 0 0 2)
  | .plzero d => some (packVS 0x28 d.toNat 0 0 3)
  | .plsave d b => some (packVS 0x28 d.toNat 0 b.toNat 4)
  | .plload d b => some (packVS 0x28 d.toNat 0 b.toNat 5)
  | .setvl d b => some (packVS 0x28 d.toNat 0 b.toNat 6)
  | .lpreq b => some (packVS 0x28 0 0 b.toNat 7)
  | .setvli d n => some (packVI 0x29 d.toNat 0 n.toNat 0)
  | .retag d n => some (packVI 0x29 d.toNat 0 n.toNat 1)
  | .mma a b f => some (packMX 0x2A a.toNat b.toNat 0 (f.toNat * 16))
  | .mman a b f => some (packMX 0x2A a.toNat b.toNat 0 (f.toNat * 16 + 1))
  | .mmas a b c f => some (packMX 0x2A a.toNat b.toNat c.toNat (f.toNat * 16 + 2))
  | .mzero => some (packMX 0x2A 0 0 0 3)
  | .mrd a b f => some (packMX 0x2A a.toNat b.toNat 0 (f.toNat * 16 + 4))
  | .mwr a b f => some (packMX 0x2A a.toNat b.toNat 0 (f.toNat * 16 + 5))
  | .mwait => some (packMX 0x2A 0 0 0 6)
  | .vld d a => some (packVM 0x23 d.toNat a.toNat 0 0)
  | .vst d a => some (packVM 0x23 d.toNat a.toNat 0 1)
  | .vlds d a => some (packVM 0x23 d.toNat a.toNat 0 2)
  | .vsts d a => some (packVM 0x23 d.toNat a.toNat 0 3)
  | .vldx d a x => some (packVM 0x23 d.toNat a.toNat x.toNat 4)
  | .vstx d a x => some (packVM 0x23 d.toNat a.toNat x.toNat 5)
  | .vscadd d a x t => some (packVM 0x23 d.toNat a.toNat x.toNat (t.toNat * 16 + 6))
  | .vldz d a x => some (packVM 0x23 d.toNat a.toNat x.toNat 7)
  | .vstz d a x => some (packVM 0x23 d.toNat a.toNat x.toNat 8)
  | .vstpair d a x => some (packVM 0x23 d.toNat a.toNat x.toNat 9)
  | .vldw d a x => some (packVM 0x23 d.toNat a.toNat x.toNat 10)
  | .sbind d a x s => some (packVM 0x23 d.toNat a.toNat x.toNat (b2n s * 16 + 11))
  | .sunbind d => some (packVM 0x23 d.toNat 0 0 12)
  | .agld d a w => some (packVM 0x34 d.toNat a.toNat 0 (b2n w * 16 + 0))
  | .agst d a w => some (packVM 0x34 d.toNat a.toNat 0 (b2n w * 16 + 1))
  | .agadd d a w => some (packVM 0x34 d.toNat a.toNat 0 (b2n w * 16 + 2))
  | .agmerge d a w => some (packVM 0x34 d.toNat a.toNat 0 (b2n w * 16 + 3))
  | .xcopy a b c o => some (packSR 0x2E a.toNat b.toNat c.toNat (b2n o * 16))
  | .xgath a b c v o => some (packSR 0x2E a.toNat b.toNat c.toNat (v.toNat * 32 + b2n o * 16 + 1))
  | .xfill a b c o => some (packSR 0x2E a.toNat b.toNat c.toNat (b2n o * 16 + 2))
  | .xquery a b => some (packSR 0x2E a.toNat b.toNat 0 3)
  | .xcancel a => some (packSR 0x2E a.toNat 0 0 4)
  | .waitw a b c => some (packSR 0x2E a.toNat b.toNat c.toNat 5)
  | .take a b c => some (packSR 0x2F a.toNat b.toNat c.toNat 0)
  | .tenq a b c => some (packSR 0x2F a.toNat b.toNat c.toNat 1)
  | .tdone a b => some (packSR 0x2F a.toNat b.toNat 0 2)
  | .tcancel a b => some (packSR 0x2F a.toNat b.toNat 0 3)
  | .claim a b c => some (packSR 0x2F a.toNat b.toNat c.toNat 4)
  | .claimp a b c => some (packSR 0x2F a.toNat b.toNat c.toNat 5)
  | .agsweep a b c o => some (packSR 0x35 a.toNat b.toNat c.toNat (b2n o * 16 + 0))
  | .step a => some (packSR 0x35 a.toNat 0 0 1)
  | .unorm a b c o => some (packSR 0x35 a.toNat b.toNat c.toNat (b2n o * 16 + 2))
  | .uapply a b c o => some (packSR 0x35 a.toNat b.toNat c.toNat (b2n o * 16 + 3))
  | .rsbegin a b => some (packSR 0x35 a.toNat b.toNat 0 4)
  | .rsnext a b => some (packSR 0x35 a.toNat b.toNat 0 5)
  | .rsvisit a b c => some (packSR 0x35 a.toNat b.toNat c.toNat 6)
  | .rsread a b => some (packSR 0x35 a.toNat b.toNat 0 7)
  | .rsend a b => some (packSR 0x35 a.toNat b.toNat 0 8)
  | .cxred a b c u => some (packSR 0x36 a.toNat b.toNat c.toNat (b2n u * 16))
  | .cxgath a b c => some (packSR 0x36 a.toNat b.toNat c.toNat 1)
  | .cxa2a a b c => some (packSR 0x36 a.toNat b.toNat c.toNat 2)
  | .cxbar a b c => some (packSR 0x36 a.toNat b.toNat c.toNat 3)
  | .cupclr n => some (packSR 0x36 0 0 0 (n.toNat * 32 + 4))
  | .cupadd n a b => some (packSR 0x36 a.toNat b.toNat 0 (n.toNat * 32 + 5))
  | .illegalWord .. | .instructionIssue .. | .trapEntry .. | .singleStepStop .. | .watchdog .. | .pageWalk .. | .streamFill ..
  | .jobRelease .. | .jobEnd .. | .collectiveCallEnd .. | .waitwMonitorFire .. | .waitwTimeout .. | .takeWake .. | .laneTake ..
  | .frontStart .. | .wqDoorbell .. | .lopen .. | .slotBind .. | .slotUnbind .. | .launchEnd .. | .tinvcPage .. | .tinvcAsid ..
  | .tinvcAll | .tinvcDone | .prectlSave .. | .prectlSaveDone .. | .prectlDiscard .. | .rstctlRestore .. | .scrubPass ..
  | .laneRetire .. | .powerOn | .rstreq .. | .firmwareCheckDone .. | .dieAdmitted .. | .hbmTrained .. | .hbmTrainFail ..
  | .linkTrained .. | .linkTrainTimeout .. | .attctlQuote | .attctlQuoteDone | .thermalTrip .. | .powerCapStep ..
  | .pwrcapWrite .. | .stwbaseWrite .. | .stewardAccess .. | .fabidWrite .. | .routeWrite .. | .dbgctlWrite .. | .flitReceive ..
  | .flitReplay .. | .msgWrite .. | .msgReadRequest .. | .msgReadResponse .. | .msgAtomic .. | .msgAtomicResponse ..
  | .msgCollective .. | .msgRegisterAccess .. | .msgRegisterResponse .. | .msgMonitorWake .. | .registerWrite ..
  | .instructionComplete .. | .waitwRecheck .. => none

/-- The encoder: the word of a well-formed instruction (R99 to R131); `none` for an event. -/
def encode (i : Instr) : Option (BitVec 32) := (encodeNat i).map (BitVec.ofNat 32)

end Sys2Proof
end

