-- ==== Sys2Proof/Machine/Launch.lean ====
section
/-! DEFINITION. Work queues and launches (R330 to R333, R338), bind records and the start of a front (R228, R334 to R337). -/

namespace Sys2Proof.Machine

/-! ### Accesses of engines and of the I/O dies -/

/-- A translation that no window and no TLB of a core serves: the location, or cause and SUB (R238). -/
def engWalk (s : State) (asid : Nat) (user : Bool) (va : Nat) (need : Need) : Except (Nat × Nat) Loc :=
  if va ≥ 2 ^ 52 then .error (ACCESS, 1)
  else
    match walk s asid va with
    | .error sub => .error (PAGE, sub)
    | .ok t =>
      match leafCheck s user need t va with
      | .error sub => .error (ACCESS, sub)
      | .ok l => .ok l

/-- A write of `n` bytes at its home agent, or cause and SUB; no user-mode access reaches a device register (R235). -/
def putAt (s : State) (l : Loc) (n v : Nat) (who : Agent := .gone) : Except (Nat × Nat) State :=
  match l with
  | .mem a =>
    if s.partErr a n then .error (MEMERR, 0)
    else if s.partBad a n then .error (INTEGRITY, 1) else .ok (s.write a (leBytes n v))
  | .dev _ => .error (ACCESS, 6)
  | .peer d a => match s.send d 0 0 n a (leBytes n v) who with
    | some t => .ok t
    | none => .error (ACCESS, 8)

/-- A status word (R291). -/
def statusWord (cause sub prog : Nat) : Nat := cause % 256 + sub % 256 * 2 ^ 8 + prog % 2 ^ 40 * 2 ^ 24

/-- The error records of the walks for a launch's completion pair, in the ring of die 0, as R376 names none for the I/O dies (DESIGN CHOICE, log 71). -/
def pairWalks (s : State) (asid done : Nat) : State :=
  let t := logWalk s 0 0 0 asid done
  if (engWalk s asid true done .write).toOption.isSome then logWalk t 0 0 0 asid ((done + 8) % 2 ^ 64) else t

/-- A launch's completion pair, written as user-mode accesses of its address space: the status, then the value (R290, R332, R338). -/
def writePair (s : State) (asid done status value : Nat) : Except (Nat × Nat) State := do
  let w ← engWalk s asid true done .write
  let t ← engWalk s asid true ((done + 8) % 2 ^ 64) .write
  putAt (← putAt (pairWalks s asid done) t 8 status) w 8 value

/-- The error records of a launch's completion pair that could not be written: of the walks, and of the doubleword that stopped it, the status word
first (R376). -/
def logPair (s : State) (asid done : Nat) : State :=
  let t := pairWalks s asid done
  let at_ (va : Nat) : Option (Nat × Nat × Nat) := match engWalk s asid true va .write with
    | .ok (.mem a) => if t.partErr a 8 then some (va, a, 1) else if t.partBad a 8 then some (va, a, 5) else none
    | _ => none
  match (at_ ((done + 8) % 2 ^ 64)).or (at_ done) with
  | some (va, a, kind) => errRecord t (homeDie a) va a asid kind 0 0 0
  | none => t

/-! ### Work queues (R330) -/

def WorkQueue.h (w : WorkQueue) : Nat := w.head.field 31 0
/-- Enabled and not empty. -/
def WorkQueue.served (w : WorkQueue) : Bool := w.ctl.flag 8 && w.h != w.tail.field 31 0

/-- The descriptor at the head of a queue, as 16 doublewords (R331). -/
def State.headDesc (s : State) (w : WorkQueue) : List Word :=
  let a := w.base.field 49 6 * 64 + 128 * (w.h % 2 ^ w.ctl.field 4 0)
  (List.range 16).map fun i => word (s.read (a + 8 * i) 8)

/-! ### Fields of a launch descriptor (R331) -/

def ldWord (d : List Word) (off : Nat) : Word := d.getD (off / 8) 0
def ldAsid (d : List Word) : Nat := (ldWord d 0).field 13 0
def ldNfront (d : List Word) : Nat := (ldWord d 0).field 26 16

/-- The descriptor breaks R331. -/
def ldBad (d : List Word) : Bool :=
  let h := ldWord d 0
  h.field 15 14 != 0 || h.field 31 27 != 0 || h.field 63 40 != 0 || !decide (1 ≤ ldNfront d ∧ ldNfront d ≤ 1024) ||
    (ldWord d 0x08).field 1 0 != 0 || (ldWord d 0x10).field 1 0 != 0 || (ldWord d 0x28).field 19 0 != 0 ||
    (ldWord d 0x28).field 63 52 != 0 || (ldWord d 0x30).field 63 8 != 0 || (ldWord d 0x40).field 3 0 != 0 ||
    (d.drop 10).any (· != 0)

/-- VALID of an ASID entry (R236). -/
def asidValid (s : State) (asid : Nat) : Bool :=
  let a := s.pkg.asidt.field 49 15 * 2 ^ 15 + 16 * asid
  tableOk s a && bit (s.read a 8) 0

/-! ### Opening a launch (R332, R333) -/

/-- The result of an attempt, but for a full table. A queue whose ring's memory is not served gives no descriptor (R416, log 59). -/
def openErr (s : State) (q : Nat) : Nat :=
  let w := s.queue q
  let lim := s.pkg.agelim.field 26 0
  if !w.served || !s.serves (w.base.field 49 6 * 64 + 128 * (w.h % 2 ^ w.ctl.field 4 0)) then 1
  else if (s.queues.any fun p => p.2.served && decide (lim ≤ p.2.age.field 31 0)) && decide (w.age.field 31 0 < lim) then 2
  else if ldBad (s.headDesc w) then 3
  else if !asidValid s (ldAsid (s.headDesc w)) then 4 else 0

/-- The head descriptor is taken. -/
def WorkQueue.take (w : WorkQueue) : WorkQueue := { w with head := word ((w.h + 1) % 2 ^ 32), age := 0 }

/-- A refused descriptor is taken, and its completion pair written where R332 lets it be. -/
def refuseDesc (s : State) (q err : Nat) : State :=
  let w := s.queue q
  let d := s.headDesc w
  let due : Bool := err == 3 && asidValid s (ldAsid d) && (ldWord d 0x40).field 3 0 == 0
  let pair := if due then
      (writePair s (ldAsid d) (ldWord d 0x40).toNat (statusWord TASKERR err 0) (ldWord d 0x48).toNat).toOption else none
  (pair.getD (if due then logPair s (ldAsid d) (ldWord d 0x40).toNat else s)).setQueue q { w.take with err := word (w.h + err * 2 ^ 32 + b2n pair.isNone * 2 ^ 40 + 2 ^ 63) }

def setLres (s : State) (lid err : Nat) : State := s.modPkg fun p => { p with lresLid := lid, lresErr := err }

/-- The error records of what an attempt reads: the descriptor, and the ASID entry that it names; both are taken as they stand (R376; DESIGN CHOICE,
log 71). -/
def logOpen (s : State) (q e : Nat) : State :=
  let w := s.queue q
  let t := logMem s (w.base.field 49 6 * 64 + 128 * (w.h % 2 ^ w.ctl.field 4 0)) 128
  let a := s.pkg.asidt.field 49 15 * 2 ^ 15 + 16 * ldAsid (s.headDesc w)
  if e = 1 ∨ e = 2 then s else if e = 3 ∨ !tableOk s a then t else logMem t a 8

/-- An attempt to open the head descriptor of queue `q`. Of several free entries it takes the lowest (DESIGN CHOICE, log 82). -/
def openLaunch (s : State) (q : Nat) : State :=
  let e := openErr s q
  let s := logOpen s q e
  if e = 3 ∨ e = 4 then setLres (refuseDesc s q e) 0 e
  else if e ≠ 0 then setLres s 0 e
  else
    match (List.range 16384).find? fun l => !(s.launch l).isOpen with
    | none => setLres s 0 5
    | some l =>
      let w := s.queue q
      setLres ((s.setQueue q w.take).setLaunch l { Launch.reset with isOpen := true, desc := s.headDesc w }) l 0

/-! ### Binding (R334 to R337) -/

/-- TARGET and LOCK that a bind applies. -/
def bindLanes (s : State) (f lid : Nat) : Word :=
  let r := (s.slot f).lane
  if r.flag 8 then r else ldWord (s.launch lid).desc 0x30

/-- A front's target share (R203, R228). -/
def Core.share (x : Core) (f : Nat) : Nat := if f % 2 = 0 then x.target else 64 - x.target
def Core.own (x : Core) (f : Nat) : Nat := if f % 2 = 0 then x.own0 else x.own1
def Core.setOwn (x : Core) (f n : Nat) : Core := if f % 2 = 0 then { x with own0 := n } else { x with own1 := n }
/-- What a front owns once its share is in force, as far as its partner has released columns (R203). -/
def Core.newOwn (x : Core) (f : Nat) : Nat := min (x.share f) (64 - x.own (f + 1))

/-- The columns of a front's run of `n` (R198). -/
def runOfCols (f n : Nat) : BitVec 64 := BitVec.ofNat 64 (if f % 2 = 0 then 2 ^ n - 1 else 2 ^ 64 - 2 ^ (64 - n))

/-- The idle columns that a front released last. -/
def Core.freed (x : Core) (f : Nat) : BitVec 64 := if f % 2 = 0 then x.freed0 else x.freed1
def Core.setFreed (x : Core) (f : Nat) (m : BitVec 64) : Core := if f % 2 = 0 then { x with freed0 := m } else { x with freed1 := m }

/-- A front's run set: what it takes is released no longer, and what it gives up it has released. -/
def Core.resize (x : Core) (f n : Nat) : Core :=
  let old := runOfCols f (x.own f)
  let new := runOfCols f n
  let y := (x.setFreed (f + 1) (x.freed (f + 1) &&& ~~~new)).setFreed f ((x.freed f &&& ~~~new) ||| (old &&& ~~~new))
  y.setOwn f n

/-- A front's run set; a front that takes columns which its partner released takes its partner's dirty map in (R363). -/
def State.setOwn (s : State) (f n : Nat) : State :=
  let takes := (s.core (coreOf f)).freed (f + 1) &&& runOfCols f n
  let s := s.modCore (coreOf f) fun x => x.resize f n
  if takes = 0 then s else s.modFront f fun x => { x with dirty := x.dirty ||| (s.front (partner f)).dirty }

/-- A bound front that has not started takes released columns at once (R228); at its partner's next strip boundary or EXIT it takes those too that
were released before (DEDUCED, log 72). -/
def State.regrow (s : State) (f : Nat) : State :=
  let x := s.core (coreOf f)
  if (s.slot f).state = 1 ∧ x.own f < x.newOwn f then s.setOwn f (x.newOwn f) else s

/-- A bound front takes its share when its partner owns no column of it; until then it waits for the partner to release columns (R228). -/
def State.claimShare (s : State) (f : Nat) : State := if (s.core (coreOf f)).share f ≤ (s.core (coreOf f)).newOwn f then s.regrow f else s

/-- The reason of R336 for which a bind is refused, or 0; a die that is not admitted counts as a wrong LID (R416). -/
def bindReason (s : State) (f asid lid : Nat) : Nat :=
  let l := s.launch lid
  let p := s.slot (partner f)
  let w := bindLanes s f lid
  let res := s.resident (partner f)
  let ok := targetOk (s.core (coreOf f)).live (w.field 6 0) (f % 2 == 0 || res) (f % 2 == 1 || res)
  if !l.isOpen || !bit s.pkg.dieup (dieOf f) then 1
  else if asid ≠ ldAsid l.desc then 2
  else if ldNfront l.desc ≤ l.bound then 3
  else if !ok then 4
  else if res && p.lid != lid then 5 else 0

/-- Cells rewritten, of which an error has been reported (R377). -/
def Core.rewrite (x : Core) (cells : Nat → Bool) : Core :=
  { x with rewritten := x.reported.foldl (fun m p => if p.2 && cells p.1 then spSet false m p.1 true else m) x.rewritten }

/-- The plane, tags, carafe and scratchpad of a core as a launch first finds them (R56, R214, R370). Every cell is written. -/
def clearCore (s : State) (k lid : Nat) : State :=
  let lo := scratchBase k
  let inPad (a : Nat) : Bool := decide (lo ≤ a ∧ a < lo + 327680)
  let s := (s.setFront (2 * k) Front.reset).setFront (2 * k + 1) Front.reset
  let s := s.modCore k fun x =>
    { x.rewrite fun _ => true with
      plane := [], tags := [], carafe := [], badCells := [], badTags := [], badCarafe := [], owner := some lid, freed0 := 0, freed1 := 0 }
  { s with
    mem := spEraseAll s.mem inPad
    memErr := spEraseAll s.memErr fun u => inPad (8 * u)
    badBlk := spEraseAll s.badBlk fun b => inPad (256 * b) }

/-- A front's state at its start (R337). -/
def startFront (s : State) (f asid lid rank : Nat) : Front :=
  let d := (s.launch lid).desc
  let x := { Front.reset with
    pc := ldWord d (if f % 2 = 0 then 0x08 else 0x10)
    spbase := ldWord d 0x28
    gstep := ldWord d 0x38
    trapvec := (s.die (dieOf f)).kvec
    asid := asid, lid := lid, rank := rank }
  ((((x.setReg 2 (ldWord d 0x18)).setReg 3 (word rank)).setReg 4 (word (ldNfront d))).setReg 5 (ldWord d 0x20))

/-- A bound front starts once it owns its whole share (R228, R335); its handler is the die's KVEC at that time (R337). The share is TARGET's as it stands at
this step: one raised before it keeps the front waiting (DESIGN CHOICE, log 72). -/
def startIfOwned (s : State) (f : Nat) : State :=
  let x := s.core (coreOf f)
  if (s.slot f).state = 1 ∧ x.share f ≤ x.own f then
    ((s.setSlot f { s.slot f with state := 2 }).setLaunch (s.slot f).lid
      { s.launch (s.slot f).lid with started := (s.launch (s.slot f).lid).started + 1 }).modFront f fun y =>
        { y with trapvec := (s.die (dieOf f)).kvec }
  else s

/-- What a write of TARGET makes of a bound front: it starts at once if it owns its share now. It takes no column before its partner's next strip
boundary or EXIT (R228). -/
def State.settle (s : State) (f : Nat) : State := startIfOwned s f

/-- A bind that R336 does not refuse. -/
def bindFront (s : State) (f asid lid : Nat) : State :=
  let l := s.launch lid
  let w := bindLanes s f lid
  let k := coreOf f
  let s := if (s.core k).owner = some lid then s else clearCore s k lid
  let s := s.setSlot f { s.slot f with state := 1, asid := asid, lid := lid, rank := l.bound }
  let s := s.setLaunch lid { l with bound := l.bound + 1 }
  let s := s.modCore k fun x => { x.setOwn f 0 with target := w.field 6 0, lock := w.flag 7 }
  ((s.setFront f (startFront s f asid lid l.bound)).claimShare f).settle (partner f)

/-- BINDERR (R336). -/
def refuseBind (s : State) (f reason : Nat) : State :=
  s.modDie (dieOf f) fun d => { d with binderr := word (f % 128 + reason * 2 ^ 8 + 2 ^ 31) }

/-- Barista writes CTL of a slot record (R334, R335). A front that is unbound releases the columns that it has taken, and a bound partner takes of them
at once (DESIGN CHOICE, log 72). -/
def writeSlotCtl (s : State) (f state asid lid : Nat) : State :=
  let r := s.slot f
  if r.state = 0 ∧ state = 1 then
    (if bindReason s f asid lid = 0 then bindFront s f asid lid
     else refuseBind (s.setSlot f { r with asid := asid, lid := lid }) f (bindReason s f asid lid))
  else if r.state = 1 ∧ state = 0 then
    (((s.setSlot f { r with state := 0, asid := asid, lid := lid }).setOwn f 0).modCore (coreOf f) fun x => x.setFreed f 0).regrow (partner f)
  else if r.state = 3 ∧ state = 0 then s.setSlot f { r with state := 0, asid := asid, lid := lid }
  else s

/-! ### The end of a launch (R338) -/

/-- The conditions under which a launch ends: what its fronts have posted to peers has been performed too, so that every event of theirs precedes
the status write (R338, log 4). -/
def launchOver (s : State) (lid : Nat) : Bool :=
  let l := s.launch lid
  l.isOpen && l.bound == ldNfront l.desc && l.saved == 0 &&
    !(s.slots.any fun p => p.2.lid == lid && (p.2.state == 1 || p.2.state == 2)) && !(s.jobs.any fun j => j.lid == lid) &&
    !s.postedBy Agent.ofFronts

/-- What a launch leaves when its LID is freed: its groups, contributions, held tasks and the ownership of its cores. -/
def freeLaunch (s : State) (lid : Nat) : State :=
  { s with
    launches := spErase s.launches lid
    groups := s.groups.filter fun g => g.lid != lid
    contribs := s.contribs.filter fun c => !(s.groups.any fun g => g.gid == c.gid && g.lid == lid)
    pendings := s.pendings.filter fun p => p.lid != lid
    held := s.held.filter fun h => h.lid != lid
    cancelled := s.cancelled.filter fun c => c.lid != lid
    cores := (s.cores.map fun p => if p.2.owner = some lid then (p.1, { p.2 with owner := none }) else p).filter
      fun p => p.2 != Core.reset }

/-- The end of a launch: its completion pair, or LDERR, and its LID freed. -/
def endLaunch (s : State) (lid : Nat) : State :=
  if !launchOver s lid then s
  else
    let l := s.launch lid
    match writePair s (ldAsid l.desc) (ldWord l.desc 0x40).toNat (statusWord l.cause l.sub l.started) (ldWord l.desc 0x48).toNat with
    | .ok t => freeLaunch t lid
    | .error e => (freeLaunch (logPair s (ldAsid l.desc) (ldWord l.desc 0x40).toNat) lid).modPkg fun p => { p with lderr := word (lid + e.1 * 2 ^ 24 + 2 ^ 63) }

end Sys2Proof.Machine
end

