-- ==== Sys2Proof/Machine/Context.lean ====
section
/-! DEFINITION. The context record (R364 to R368, R375), and pre-emption: save, discard and restore (R369 to R373). -/

namespace Sys2Proof.Machine

/-! ### Words that several places read -/

/-- PLWIN (R50). -/
def plwinWord (first width : Nat) : Word := word (first + width * 2 ^ 8)

/-- LPART as front `f` reads it (R199). -/
def State.lpart (s : State) (f : Nat) : Word :=
  let x := s.core (coreOf f)
  word (x.target + x.own0 * 2 ^ 8 + x.own1 * 2 ^ 16 + f % 2 * 2 ^ 24 + b2n x.lock * 2 ^ 25 +
    b2n (s.resident (2 * coreOf f)) * 2 ^ 26 + b2n (s.resident (2 * coreOf f + 1)) * 2 ^ 27)

/-- Whether a row of the plane is dirty (R362). -/
def Front.dirtyRow (x : Front) (r : Nat) : Bool := x.dirty.getLsbD r

/-- The engine jobs (R289, R317, R391). -/
def isJob (i : Instr) : Bool :=
  match i with
  | .xcopy .. => true
  | .xgath .. => true
  | .xfill .. => true
  | .agsweep .. => true
  | .unorm .. => true
  | .uapply .. => true
  | .cxred .. => true
  | .cxgath .. => true
  | .cxa2a .. => true
  | .cxbar .. => true
  | _ => false

/-- The narrow groups of an instruction: the place of the first name among its name fields, that name, and whether a scale name can
follow (R183, R186, R218). -/
def groupNames (i : Instr) : List (Nat × VName × Bool) :=
  match i with
  | .vnarrow vd _ _ _ => [(0, vd, true)]
  | .vwiden _ va _ _ => [(1, va, true)]
  | .vsplitb vd _ _ => [(0, vd, false)]
  | .vjoinb _ va _ => [(1, va, false)]
  | .mman va vb _ => [(0, va, false), (1, vb, false)]
  | .mmas va vb _ _ => [(0, va, false), (1, vb, false)]
  | _ => []

/-! ### The record as bytes -/

def w8 (w : Word) : List Byte := leBytes 8 w.toNat

/-- VSCAN. -/
def isScan (i : Instr) : Bool :=
  match i with
  | .vscan .. => true
  | _ => false

/-- AUX: a running value, the count of applied groups, or the strip-advanced flag (R358, R366). -/
def QEntry.auxWord (e : QEntry) : Nat := if e.advanced then 1 else e.aux % 2 ^ 64

/-- The bindings that an entry pops or appends to, or begins or ends (R264, R265, R268). -/
def QEntry.bindNums (e : QEntry) : List Nat :=
  e.cap.pops.map (·.1) ++ e.cap.stores.map (·.1) ++
    match e.instr with
    | .sbind .. => (e.record.take 1).map (·.toNat)
    | .sunbind .. => (e.record.take 1).map (·.toNat)
    | _ => []

/-- The popped rows of an entry that are not filled yet, by their bindings (R266). Those of a done one are, and their binding may have ended. -/
def Front.openPops (x : Front) (e : QEntry) : List Nat :=
  ((if e.done then [] else e.cap.pops).filter fun p => x.binds.any fun q => q.1 == p.1 && decide (q.2.fillPos < (p.2 + 1) * dNelem q.2.ring)).map (·.1)

/-- The bits that R366 gives no field in a dump entry: the offset of their doubleword, the lowest and their number. They hold what else a
restore needs (log 25). -/
def spareBits : List (Nat × Nat × Nat) := [(0x08, 13, 19), (0x10, 12, 52), (0x18, 9, 55), (0x28, 5, 27), (0x38, 15, 49), (0x68, 52, 12), (0x68, 0, 20)]

/-- What a number laid over such bits puts into the doubleword at an offset. -/
def spareAt (v off : Nat) (l : List (Nat × Nat × Nat)) : Nat :=
  match l with
  | [] => 0
  | p :: r => (if p.1 = off then v % 2 ^ p.2.2 * 2 ^ p.2.1 else 0) + spareAt (v / 2 ^ p.2.2) off r

/-- The names of an instruction with narrow groups. -/
def groupedNames (i : Instr) : Nat :=
  match i with
  | .mmas .. => 3
  | _ => 2

/-- How far a binding has gone since an entry used it: the rows popped, or the rows of the ring and the positions appended. -/
def Front.goneSince (x : Front) (e : QEntry) (k : Nat) : Nat :=
  match (x.binds.find? fun p => p.1 == k).map (·.2) with
  | none => 0
  | some b =>
    match e.cap.pops.find? fun p => p.1 == k, e.cap.stores.find? fun p => p.1 == k with
    | some p, _ => b.count - p.2
    | none, some p => (b.count - p.2.1) % dRows b.ring + (b.pos - p.2.2) % 2 ^ 32 * 2 ^ 9
    | none, none => 0

/-- What the spare bits hold, each part with its width: the entry's bindings, and those whose popped row is not filled; its mode; where a
strip's stores go on, the flags of the groups that a VSCADD has applied, or the elements counted in their pages; that a running value of zero
has begun; that a VSCAN has advanced its strip; the clocks since its push; and how far each binding has gone since. -/
def Front.spareParts (x : Front) (clock : Nat) (e : QEntry) : List (Nat × Nat) :=
  let set (l : List Nat) : Nat := ((List.range 4).map fun k => b2n (l.contains k) * 2 ^ k).sum
  let reached : Nat := if !e.cap.stores.isEmpty then (if e.storing then e.progress else e.stored) else match e.instr with
    | .vscadd .. => e.flags % 64
    | _ => e.counted
  [(set e.bindNums, 4), (set (x.openPops e), 4), (b2n e.cap.kern, 1), (reached, 9), (b2n (isScan e.instr && e.aux == 2 ^ 64), 1),
    (b2n (isScan e.instr && e.advanced), 1), ((clock - e.pushed).toNat, 48)] ++ (List.range 4).map fun k => (x.goneSince e k, 41)

/-- Parts with their widths as one number, the first lowest. -/
def packed (l : List (Nat × Nat)) : Nat :=
  match l with
  | [] => 0
  | p :: r => p.1 % 2 ^ p.2 + packed r * 2 ^ p.2

/-- A dump entry (R366). Its scalar slots end with the clocks since its first push; the further names of its groups stand after its names, and,
where those slots are full, after its scalars (log 25). -/
def dumpEntry (x : Front) (clock level : Nat) (e : QEntry) : List Byte :=
  let word0 := ((encode e.instr).getD 0).toNat
  let pad (n : Nat) (l : List Word) : List Byte := (l.take n ++ List.replicate (n - l.length) 0).flatMap w8
  let gens := e.cap.gens.take 4 ++ List.replicate (4 - e.cap.gens.length) 0
  let aged := match e.instr with
    | .agld .. => true
    | .agst .. => true
    | .agadd .. => true
    | .agmerge .. => true
    | .agsweep .. => true
    | .unorm .. => true
    | .uapply .. => true
    | _ => false
  let v := packed (x.spareParts clock e)
  let dw (off : Nat) (w : Nat) : List Byte := leBytes 8 (w + spareAt v off spareBits)
  let more := (e.cap.groups.map (·.drop 1)).flatten
  let names := e.cap.names ++ more
  leBytes 4 word0 ++ leBytes 4 e.vsn.toNat ++
  dw 0x08 (e.progress % 512 + b2n e.done * 2 ^ 9 + level * 2 ^ 10 + b2n (isJob e.instr) * 2 ^ 12 + e.handle.toNat * 2 ^ 32) ++
  dw 0x10 (e.cap.vl.field 11 0) ++ dw 0x18 (e.cap.vmc.field 8 0) ++ w8 e.cap.vst ++
  dw 0x28 (e.cap.fcr.field 4 0 + e.cap.fcr.field 63 32 * 2 ^ 32) ++ w8 e.cap.gstep ++ dw 0x38 (plwinWord e.cap.first e.cap.width).toNat ++
  pad 3 (e.cap.scalars ++ names.drop 4) ++ leBytes 8 ((clock - e.born).toNat) ++ leBytes 8 e.auxWord ++
  dw 0x68 (e.cap.spbase.field 51 20 * 2 ^ 20) ++ pad 4 names ++ gens.flatMap (fun g => leBytes 2 g.toNat) ++
  w8 e.cap.fmt ++ (if aged then (List.range 16).flatMap fun i => leBytes 4 ((e.cap.decay.getD i 0).field 31 0) else zeros 64) ++ zeros 32

/-- A stream binding entry (R367). The bits of the ring's carve entry that have no field hold bit 8 of the cursor, bits [9:8] of the rows not
yet popped, and the window and the mode captured at SBIND (log 25). -/
def bindEntry (b : Option Binding) : List Byte :=
  match b with
  | none => zeros 128
  | some b =>
    let unpopped := if b.store then 0 else b.fillPos / dNelem b.ring - b.count
    let cursor := b.count % dRows b.ring
    leBytes 8 (b.name + b2n b.store * 2 ^ 6 + 2 ^ 7 + cursor % 256 * 2 ^ 8 + unpopped % 256 * 2 ^ 16) ++
    leBytes 8 b.pos ++ leBytes 8 b.fillPos ++ w8 b.base ++
    leBytes 8 (b.ring.field 49 0 + cursor / 256 % 2 * 2 ^ 50 + unpopped / 256 % 4 * 2 ^ 51 + b.first % 64 * 2 ^ 53 + b2n b.kern * 2 ^ 63) ++
    leBytes 8 b.record.length ++ (b.record.take 8 ++ List.replicate (8 - b.record.length) 0).flatMap w8 ++ zeros 16

/-- The bits of the header and of the mode's doubleword that R364 and R365 give no field (DESIGN CHOICE, log 68). -/
def headBits : List (Nat × Nat × Nat) := [(0x188, 1, 63), (0x48, 32, 32), (0x00, 40, 24), (0x18, 55, 9), (0x00, 28, 4)]

/-- What they hold: that a STEP stop is due (R412), PLDIRTY.INDEX (R362), and the SPBASE captured by each stream binding (R234). -/
def Front.headParts (x : Front) : List (Nat × Nat) :=
  [(b2n x.stepDue, 1), (x.dirtyIx, 3)] ++
    (List.range 4).map fun i => (((x.binds.find? fun p => p.1 == i).map fun p => p.2.spbase.field 51 20).getD 0, 32)

/-- One dirty row: cells, tags, padding; a cell in error is zero with tag 0 (R368, R375). -/
def rowBytes (x : Core) (first width r : Nat) : List Byte :=
  let keys := (List.range width).map fun c => r * 64 + first + c
  let lost (k : Nat) : Bool := spGet false x.badCells k || spGet false x.badTags k
  keys.flatMap (fun k => leBytes 4 (if lost k then 0 else (x.cell k).toNat)) ++
  keys.map (fun k => if lost k then 0 else x.tag k) ++ zeros ((8 - width % 8) % 8)

/-- The cells that a save of a front finds in error (R375). -/
def lostCells (s : State) (f : Nat) : Nat :=
  let x := s.core (coreOf f)
  let (first, width) := s.window f
  let y := s.front f
  (((List.range 512).filter y.dirtyRow).map fun r =>
    ((List.range width).filter fun c => spGet false x.badCells (r * 64 + first + c) || spGet false x.badTags (r * 64 + first + c)).length).sum

/-- The context record of front `f` (R364 to R368). A scratchpad block or unit in error is written as it stands (DESIGN CHOICE, log 71); the bits
without a field hold more (DESIGN CHOICE, logs 25 and 68). -/
def recordBytes (s : State) (f : Nat) (spad : Bool) (partnerVa : Nat) : List Byte :=
  let y := s.front f
  let x := s.core (coreOf f)
  let (first, width) := s.window f
  let dump := y.queue.map (dumpEntry y s.clock 0) ++ y.userSet.map (dumpEntry y s.clock 1) ++ y.kernelSet.map (dumpEntry y s.clock 2)
  let lost := lostCells s f
  let (hd, lo, hi) := y.task.getD (0, 0, 0)
  let rows := ((List.range 512).filter y.dirtyRow).flatMap (rowBytes x first width)
  let car := if y.cdirty then (List.range 128).flatMap fun m => (List.range width).flatMap fun n =>
      leBytes 4 (x.car (m * 64 + first + n)).toNat else []
  let pad := if spad then s.bytes (scratchBase (coreOf f)) 327680 else []
  let total := 0x980 + 256 * dump.length + rows.length + car.length + pad.length
  let len := ceilDiv total 256 * 256
  let more (off : Nat) : Nat := spareAt (packed y.headParts) off headBits
  leBytes 8 (more 0x00 + 1 + dump.length * 2 ^ 16 + b2n y.cdirty * 2 ^ 24 + b2n spad * 2 ^ 25 + b2n y.task.isSome * 2 ^ 26 +
    (if lost = 0 then 0 else 2 ^ 27) + PREEMPT * 2 ^ 32) ++
  leBytes 8 len ++ leBytes 8 (y.asid + y.lid * 2 ^ 32) ++
  leBytes 8 (more 0x18 + y.rank + f % 2 * 2 ^ 32 + width * 2 ^ 40 + x.own f * 2 ^ 48) ++
  leBytes 8 s.clock ++ w8 hd ++ w8 lo ++ w8 hi ++ leBytes 8 partnerVa ++ leBytes 8 (more 0x48 + lost) ++ zeros 48 ++
  (List.range 32).flatMap (fun i => w8 (y.reg (BitVec.ofNat 5 i))) ++ w8 y.pc ++ leBytes 8 (more 0x188 + b2n y.kernel) ++
  w8 y.vl ++ w8 y.vmc ++ w8 y.vst ++ w8 y.vstart ++ leBytes 8 y.vsn.toNat ++ leBytes 8 y.vcp.toNat ++ w8 y.fcr ++ w8 y.fflags ++
  w8 (plwinWord first width) ++ w8 (s.lpart f) ++ w8 y.gstep ++ w8 y.spbase ++ w8 y.trapcause ++ w8 y.trappc ++ w8 y.trapvsn ++
  w8 y.trapelem ++ w8 y.trapaddr ++ w8 y.trapvec ++ w8 y.utrapvec ++ w8 y.deleg ++ zeros 16 ++
  (List.range 16).flatMap (fun i => w8 (y.decayReg i)) ++ (List.range 16).flatMap (fun i => w8 (y.slotReg i)) ++
  (List.range 15).flatMap (fun i => w8 (y.counter i)) ++ w8 y.dbgctl ++
  (List.range 8).flatMap (fun i => leBytes 32 (y.mask i).toNat) ++ (List.range 64).flatMap (fun i => w8 (y.entry i)) ++
  (List.range 64).flatMap (fun i => leBytes 2 (y.gen i).toNat) ++ leBytes 64 y.dirty.toNat ++
  (List.range 4).flatMap (fun i => bindEntry ((y.binds.find? fun p => p.1 == i).map (·.2))) ++
  dump.flatten ++ rows ++ car ++ pad ++ zeros (len - total)

/-! ### Reaching a record through the launch's address space (R369) -/

/-- Bytes written by an agent at a virtual address of an address space, in blocks of 256. -/
def writeVa (who : Agent) (s : State) (asid va : Nat) (bs : List Byte) (fuel : Nat) : Except (Nat × Nat) State :=
  match fuel with
  | 0 => .ok s
  | n + 1 =>
    if bs.isEmpty then .ok s
    else
      match engWalk s asid false va .write with
      | .error e => .error e
      | .ok (.mem a) => writeVa who (s.write a (bs.take 256)) asid (va + 256) (bs.drop 256) n
      | .ok (.dev _) => .error (ACCESS, 6)
      | .ok (.peer d a) =>
        match s.sendData d 0 0 a (bs.take 256) 3 who with
        | some t => writeVa who t asid (va + 256) (bs.drop 256) n
        | none => .error (ACCESS, 8)

/-- A block of 256 bytes read at a location. -/
def readBlock (agent : Agent) (l : Loc) (va : Nat) : M (List Byte) :=
  match l with
  | .mem a => do
    checkRead a 256 va
    return (← get).bytes a 256
  | .dev _ => raise ACCESS 6 0 va
  | .peer d a => do
    let lo ← askPeer agent d a 128 1 va []
    return lo ++ (← askPeer agent d (a + 128) 128 1 va [])

/-- The error records of a walk that a restore makes (R376). -/
def restoreWalk (agent : Agent) (asid va : Nat) (s : State) : State :=
  match agent with
  | .restore k _ _ _ => logWalk s (k / 64) (k % 64) 0 asid va
  | _ => s

/-- `n` blocks of 256 bytes read at a virtual address; the walks into new pages are recorded (R376). -/
def readVa (agent : Agent) (asid va n : Nat) : M (List Byte) :=
  match n with
  | 0 => pure []
  | k + 1 => do
    match engWalk (← get) asid false va .read with
    | .error e => raise e.1 e.2 0 va
    | .ok l =>
      if va % 65536 = 0 then modify (restoreWalk agent asid va)
      let b ← readBlock agent l va
      return b ++ (← readVa agent asid (va + 256) k)

/-- An address in each page of the largest record (R370). -/
def areaPages (va : Nat) : List Nat := ((List.range 10).map fun i => max (va / 65536 * 65536 + 65536 * i) va).filter fun a => decide (a < va + 576000)

/-- Every page of the largest record can be read and written (R370). -/
def areaOk (s : State) (asid va : Nat) : Bool := (areaPages va).all fun a => (engWalk s asid false a .both).toOption.isSome

/-! ### Save (R370) -/

/-- PRECTL with a result (R369). -/
def Die.pre (d : Die) (busy : Bool) (err : Nat) : Die :=
  { d with prectl := word (d.prectl.field 7 0 + b2n busy * 2 ^ 9 + err * 2 ^ 16) }
def Die.rst (d : Die) (busy : Bool) (err : Nat) : Die :=
  { d with rstctl := word (d.rstctl.field 5 0 + b2n busy * 2 ^ 9 + err * 2 ^ 16 + d.rstctl.field 45 32 * 2 ^ 32) }

def Die.saveVa (d : Die) (f : Nat) : Nat := (if f % 2 = 0 then d.presave0 else d.presave1).field 51 0

/-- The resident fronts of a core. -/
def State.residents (s : State) (k : Nat) : List Nat := [2 * k, 2 * k + 1].filter s.resident

/-- A front stopped for a save: what it waited for is abandoned (R370), but for an atomic access of a peer in flight; an open capture window
records the switch (R410). -/
def Front.stopped (atomic : Bool) (x : Front) : Front :=
  { x with halt := .saving, wait := if atomic then x.wait else .no, dbgctl := if x.dbgctl.flag 1 then x.dbgctl ||| word 4 else x.dbgctl }

def isDouble (h : Halt) : Bool :=
  match h with
  | .doubleFault _ => true
  | _ => false

/-- The error records of the walks into the record area of a front (R376). -/
def logArea (s : State) (f : Nat) : State :=
  (areaPages ((s.die (dieOf f)).saveVa f)).foldl (fun t a => t.walked f (s.front f).asid a) s

/-- Steps 1 and 2 of a save of core `k`. -/
def saveStart (s : State) (k : Nat) : State :=
  let d := k / 64
  let fs := s.residents k
  let early := if fs.isEmpty then 1 else if fs.any (fun f => isDouble (s.front f).halt) then 4 else 0
  let err := if early ≠ 0 then early else if fs.any (fun f => !areaOk s (s.front f).asid ((s.die d).saveVa f)) then 2 else 0
  let s := if early ≠ 0 then s else fs.foldl logArea s
  if err ≠ 0 then s.modDie d fun x => x.pre false err
  else
    let s := fs.foldl (fun (s : State) f => s.modFront f (Front.stopped (s.inAtomic (.front f)))) s
    { s.modDie d (fun x => x.pre true 0) with monitors := s.monitors.filter fun m => !fs.contains m.fid }

/-- A job's declared regions, as base and length doublewords (R295). -/
def cardRegs (card : List Word) : List (Word × Word) :=
  (List.range ((card.getD 0 0).field 6 4)).map fun i => (card.getD (2 + 2 * i) 0, card.getD (3 + 2 * i) 0)

/-- A completion pair that stands in the scratchpad of a core. -/
def Loc.inPad (l : Loc) (k : Nat) : Bool :=
  match l with
  | .mem a => decide (scratchBase k ≤ a ∧ a < scratchBase k + 327680)
  | _ => false

/-- A job of one of the fronts that uses the core's scratchpad: by a SPACE 1 region (R370, step 3), or for its completion pair (R372). -/
def padJob (s : State) (fs : List Nat) : Bool :=
  s.jobs.any fun j => (fs.any fun f => j.lid == (s.front f).lid && j.rank == (s.front f).rank) &&
    ((cardRegs j.card).any (fun r => r.1.field 63 62 == 1) || fs.any fun f => j.pairAt.inPad (coreOf f))

/-- The error records of a scratchpad that a save of front `f` reads: each unit and each block in error (R376, log 71). -/
def logPad (s : State) (f : Nat) : State :=
  let lo := scratchBase (coreOf f)
  let found (kind unit : Nat) (m : List (Nat × Bool)) : List (Nat × Nat) :=
    (m.filter fun p => p.2 && decide (lo ≤ unit * p.1 ∧ unit * p.1 < lo + 327680)).map fun p => (unit * p.1, kind)
  (found 1 8 s.memErr ++ found 5 256 s.badBlk).foldl (fun t p =>
    errRecord t (dieOf f) 0 p.1 (s.front f).asid p.2 (f / 2 % 64) (f % 2) 0) s

/-- The records of the fronts, written in order. -/
def writeRecords (s : State) (fs : List Nat) (todo : List Nat) : Except (Nat × Nat) State :=
  match todo with
  | [] => .ok s
  | f :: r =>
    let d := s.die (dieOf f)
    let other := if fs.contains (partner f) then d.saveVa (partner f) else 0
    let spad := f % 2 == 0 || fs.length == 1
    let rec' := recordBytes s f spad other
    match writeVa (.save (dieOf f)) (if spad then logPad s f else s) (s.front f).asid (d.saveVa f) rec' (rec'.length / 256) with
    | .ok t => writeRecords t fs r
    | .error e => .error e

/-- A front leaves its slot, its lanes and its registers (R370, step 5). -/
def vacate (s : State) (f : Nat) : State :=
  let s := s.setSlot f { s.slot f with state := 0 }
  (s.modCore (coreOf f) fun x => { x.setOwn f 0 with freed0 := 0, freed1 := 0 }).setFront f Front.reset

/-- A front discarded: the launch's status will carry the fault of one in double fault; one without a fault changes no cause given (log 7). -/
def State.discard (s : State) (f : Nat) : State :=
  let l := s.launch (s.front f).lid
  let cause := match (s.front f).halt with
    | .doubleFault c => c
    | .discarding (some c) => c
    | _ => if l.sub = 0xFF then l.cause else Config.discardCause s.freeCtr % 256
  vacate { s.setLaunch (s.front f).lid { l with cause := cause, sub := 0xFF } with
    freeCtr := s.freeCtr + 1
    monitors := s.monitors.filter fun m => m.fid != f } f

/-- Fronts discarded, and BUSY clear. -/
def State.discardAll (s : State) (d : Nat) (fs : List Nat) : State := (fs.foldl State.discard s).modDie d fun x => x.pre false 0

def isDiscarding (h : Halt) : Bool :=
  match h with
  | .discarding _ => true
  | _ => false

/-- The fronts of a die that a save or a discard has stopped. -/
def State.stoppedOn (s : State) (d : Nat) : List Nat := ((List.range 128).map fun i => 128 * d + i).filter fun f => (s.front f).halt.stopping

/-- Writes of records that the save of die `d` has posted to a peer and that have not been performed. -/
def State.saving (s : State) (d : Nat) : Bool := s.postedBy (· == .save d)

/-- Steps 3 to 5 of the save that runs on die `d`, or step 5 of the discard: nothing while a job on the core's scratchpad, or an atomic access of a
peer, has not ended, and no save before what the fronts have posted to peers has been performed (R287). BUSY stays until the writes of records to
a peer have been. -/
def saveDone (s : State) (d : Nat) : State :=
  let fs := s.stoppedOn d
  match fs with
  | [] => if (s.die d).prectl.flag 9 && !s.saving d then s.modDie d fun x => x.pre false (x.prectl.field 23 16) else s
  | f :: _ =>
    if fs.any s.closing then s
    else if isDiscarding (s.front f).halt then s.discardAll d fs
    else if padJob s fs || s.postedBy (fun a => fs.any fun g => a.ofFront g) then s
    else
      match writeRecords s fs fs with
      | .error _ => (fs.foldl (fun (s : State) f => s.modFront f fun x => { x with halt := .no }) s).modDie d fun x => x.pre false 2
      | .ok t =>
        let l := t.launch (s.front f).lid
        let t := t.setLaunch (s.front f).lid { l with saved := l.saved + fs.length }
        (fs.foldl vacate t).modDie d fun x => x.pre (t.saving d) 0

/-- Something of a front may have begun that its stop has to finish: an atomic access, or a beat of an issued instruction (R370, step 2). -/
def State.inFlight (s : State) (f : Nat) : Bool :=
  s.inAtomic (.front f) || (s.front f).queue.any fun e => e.issued && !e.done && e.trap.isNone

/-- A front stopped for a discard. -/
def Front.discarded (atomic : Bool) (x : Front) : Front :=
  { x.stopped atomic with halt := .discarding (match x.halt with
      | .doubleFault c => some c
      | _ => none) }

/-- A discard (R370): its fronts stop as for a save, and are discarded at once where nothing of them is in flight. -/
def discardCore (s : State) (k : Nat) : State :=
  let fs := s.residents k
  if fs.isEmpty then s.modDie (k / 64) fun x => x.pre false 1
  else if fs.any s.inFlight then
    let s := fs.foldl (fun (s : State) f => s.modFront f (Front.discarded (s.inAtomic (.front f)))) s
    { s.modDie (k / 64) (fun x => x.pre true 0) with monitors := s.monitors.filter fun m => !fs.contains m.fid }
  else s.discardAll (k / 64) fs

/-! ### Restore (R371) -/

def rd (bs : List Byte) (off n : Nat) : Nat := leNat ((bs.drop off).take n)
def rdw (bs : List Byte) (off : Nat) : Word := word (rd bs off 8)

/-- A sparse map from the words of a record. -/
def rdMap {α : Type} [DecidableEq α] (d : α) (n : Nat) (g : Nat → α) : List (Nat × α) :=
  (List.range n).foldl (fun m i => spSet d m i (g i)) []

/-- The number laid over the spare bits of the dump entry at an offset (log 25). -/
def rdSpare (bs : List Byte) (off : Nat) (l : List (Nat × Nat × Nat)) : Nat :=
  match l with
  | [] => 0
  | p :: r => bits (rd bs (off + p.1) 8) (p.2.1 + p.2.2 - 1) p.2.1 + rdSpare bs off r * 2 ^ p.2.2

/-- The offsets of the dump entries of a record. -/
def dumpOffs (bs : List Byte) : List Nat := (List.range (bits (rd bs 0 8) 23 16)).map fun i => 0x980 + 256 * i

/-- The number laid over the bits of the header, and the SPBASE of binding `k` in it (log 68). -/
def rdHead (bs : List Byte) : Nat := rdSpare bs 0 headBits
def rdBase (bs : List Byte) (k : Nat) : Word := word (bits (rdHead bs) (35 + 32 * k) (4 + 32 * k) * 2 ^ 20)

/-- Stream binding `k` of a record. The pops of a LOAD binding so far are the rows filled, and those popped before their fill, less those not
yet popped. A SUNBIND in the dump closes it (R268). -/
def rdBind (bs : List Byte) (k : Nat) : Option Binding :=
  let off := 0x780 + 128 * k
  let h := rd bs off 8
  let raw := rd bs (off + 0x20) 8
  let ring := keep (word raw) 49 0
  let fill := rd bs (off + 0x10) 8
  let d := rd bs (off + 0x28) 1 % 16
  let ahead := ((dumpOffs bs).filter fun o => bit (rdSpare bs o spareBits) (4 + k)).length
  let count := if bit h 6 then bits h 15 8 + bits raw 50 50 * 256 else fill / dNelem ring + ahead - (bits h 23 16 + bits raw 52 51 * 256)
  let closing := (dumpOffs bs).any fun o => bit (rdSpare bs o spareBits) k && !bit (rd bs (o + 8) 8) 9 &&
    (match decode (BitVec.ofNat 32 (rd bs o 4)) with
      | some (.sunbind _) => true
      | _ => false)
  if !bit h 7 then none
  else some
    { name := bits h 5 0, store := bit h 6, count := count, pos := rd bs (off + 8) 8, fillPos := fill, base := rdw bs (off + 0x18)
      ring := ring, first := bits raw 58 53, spbase := rdBase bs k, kern := bit raw 63
      record := (List.range d).map fun i => rdw bs (off + 0x30 + 8 * i)
      ready := d != 0, closing := closing, fault := none }

/-- AUX read back, with the spare bits: a VSCAN has begun unless AUX is zero and nothing says that a value of zero has begun. -/
def rdAux (i : Instr) (x v : Nat) : Nat := if isScan i && !bit x 19 && (v != 0 || bit x 18) then v + 2 ^ 64 else v

/-- The groups of an entry read back: its names, and then their further names in order (R183, R218). -/
def rdGroups (l : List (Nat × VName × Bool)) (fmt : Word) (names more : List Word) : List (List Word) :=
  match l with
  | [] => []
  | g :: r =>
    let n := groupSize fmt g.2.2 - 1
    (names.getD g.1 0 :: more.take n) :: rdGroups r fmt names (more.drop n)

/-- The strips of the STORE bindings used, in the order of their names: the ring row and the position of each (R265). -/
def rdStores (used : List (Nat × Binding)) (gone : Nat → Nat) : List (Nat × Nat × Nat) :=
  ((used.filter (·.2.store)).mergeSort fun p q => decide (p.2.name ≤ q.2.name)).map fun p =>
    (p.1, (p.2.count + dRows p.2.ring - gone p.1 % 2 ^ 9) % dRows p.2.ring, p.2.pos - gone p.1 / 2 ^ 9)

/-- A dump entry read back, with its bindings as `x` holds them; `none` when its word is no pushed instruction. -/
def rdEntry (bs : List Byte) (x : Front) (clock off : Nat) : Option (Nat × QEntry) :=
  match decode (BitVec.ofNat 32 (rd bs off 4)) with
  | none => none
  | some i =>
    let h := rd bs (off + 8) 8
    let v := rdSpare bs off spareBits
    let reached := bits v 17 9
    let win := rd bs (off + 0x38) 8
    let fmt := rdw bs (off + 0x98)
    let raw := (List.range 4).map fun k => rdw bs (off + 0x70 + 8 * k)
    let scalars := (List.range 3).map fun k => rdw bs (off + 0x40 + 8 * k)
    let grouped := groupNames i
    let names := if grouped.isEmpty then raw else raw.take (groupedNames i)
    let ks := (List.range 4).filter fun k => bit v k
    let used := x.binds.filter fun p => ks.contains p.1
    let gone (k : Nat) : Nat := bits v (108 + 41 * k) (68 + 41 * k)
    let isBind := match i with
      | .sbind .. => true
      | .sunbind .. => true
      | _ => false
    let stores := if isBind then [] else rdStores used gone
    let aux := rd bs (off + 0x60) 8
    let advanced := !stores.isEmpty && (if isScan i then bit v 19 else bit aux 0)
    some (bits h 11 10,
      { instr := i, vsn := BitVec.ofNat 32 (rd bs (off + 4) 4), handle := BitVec.ofNat 32 (bits h 63 32), issued := false
        progress := bits h 8 0, done := bit h 9, trap := none
        aux := if stores.isEmpty || isScan i then rdAux i v aux else 0
        flags := match i with
          | .vscadd .. => reached % 64
          | _ => 0
        advanced := advanced, storing := advanced && isSerial i, stored := if stores.isEmpty then 0 else reached
        counted := if stores.isEmpty then reached else if advanced then 256 else bits h 8 0
        countedS := if stores.isEmpty then 0 else reached
        pushed := (clock : Int) - bits v 67 20, born := (clock : Int) - rd bs (off + 0x58) 8, record := if isBind then (ks.take 1).map word else []
        cap :=
          { vl := keep (rdw bs (off + 0x10)) 11 0, vmc := keep (rdw bs (off + 0x18)) 8 0, vst := rdw bs (off + 0x20), vstart := word (bits h 8 0)
            fcr := keep (rdw bs (off + 0x28)) 4 0 ||| keep (rdw bs (off + 0x28)) 63 32, gstep := rdw bs (off + 0x30)
            spbase := keep (rdw bs (off + 0x68)) 51 20, kern := bit v 8, first := bits win 5 0, width := bits win 14 8
            scalars := scalars, names := names
            gens := (List.range 4).map fun k => BitVec.ofNat 16 (rd bs (off + 0x90 + 2 * k) 2)
            groups := rdGroups grouped fmt names (raw.drop (groupedNames i) ++ scalars), fmt := fmt
            decay := (List.range 16).map fun k => word (rd bs (off + 0xA0 + 4 * k) 4)
            pops := if isBind then [] else (used.filter fun p => !p.2.store).map fun p => (p.1, p.2.count - gone p.1), stores := stores } })

/-- The faulting instruction at the head of a suspend set (R360). -/
def markHead (set : List QEntry) (faulted : Bool) : List QEntry :=
  match set with
  | [] => []
  | e :: r => (if faulted then { e with trap := some ⟨0, 0, 0, 0, 0⟩ } else e) :: r

/-- A front's fixed part and dump, read from its record; `none` when an entry of the dump is none. A register keeps the bits of its map alone
(R8, R46, R53). -/
def rdFront (bs : List Byte) (clock : Nat) : Option Front :=
  let spbase := keep (rdw bs 0x1E8) 51 20
  let held := bit (rd bs 0 8) 26
  let counters := rdMap 0 15 fun i => rdw bs (0x340 + 8 * i)
  let x := { Front.reset with
    regs := (rdMap 0 32 fun i => if i = 0 then 0 else rdw bs (0x80 + 8 * i))
    pc := keep (rdw bs 0x180) 63 2, kernel := bit (rd bs 0x188 8) 0, stepDue := bit (rdHead bs) 0, dirtyIx := bits (rdHead bs) 3 1, vl := keep (rdw bs 0x190) 11 0, vmc := keep (rdw bs 0x198) 8 0, vst := rdw bs 0x1A0
    vstart := keep (rdw bs 0x1A8) 8 0
    vsn := BitVec.ofNat 32 (rd bs 0x1B0 4), vcp := BitVec.ofNat 32 (rd bs 0x1B8 4), fcr := keep (rdw bs 0x1C0) 4 0 ||| keep (rdw bs 0x1C0) 63 32
    fflags := keep (rdw bs 0x1C8) 5 0
    gstep := rdw bs 0x1E0, spbase := spbase, trapcause := keep (rdw bs 0x1F0) 9 0 ||| keep (rdw bs 0x1F0) 23 16, trappc := keep (rdw bs 0x1F8) 63 2
    trapvsn := keep (rdw bs 0x200) 31 0, trapelem := keep (rdw bs 0x208) 8 0, trapaddr := rdw bs 0x210
    trapvec := keep (rdw bs 0x218) 63 2, utrapvec := keep (rdw bs 0x220) 63 2
    deleg := keep (rdw bs 0x228) 6 3 ||| keep (rdw bs 0x228) 13 13 ||| keep (rdw bs 0x228) 31 31
    decay := rdMap 0 16 fun i => keep (rdw bs (0x240 + 8 * i)) 31 0, fmt := rdMap 0 16 fun i => keep (rdw bs (0x2C0 + 8 * i)) 43 0
    counters := spSet 0 counters 14 (spGet 0 counters 14 + word clock - rdw bs 0x20), dbgctl := keep (rdw bs 0x3B8) 3 0 ||| keep (rdw bs 0x3B8) 51 8
    masks := rdMap 0 8 fun i => BitVec.ofNat 256 (rd bs (0x3C0 + 32 * i) 32)
    carve := rdMap 0 64 fun i => rdw bs (0x4C0 + 8 * i), gens := rdMap 0 64 fun i => BitVec.ofNat 16 (rd bs (0x6C0 + 2 * i) 2)
    dirty := BitVec.ofNat 512 (rd bs 0x740 64), cdirty := bit (rd bs 0 8) 24
    binds := (List.range 4).filterMap fun i => (rdBind bs i).map fun b => (i, b)
    asid := rd bs 0x10 4 % 2 ^ 14, lid := rd bs 0x14 4 % 2 ^ 14, rank := rd bs 0x18 4
    task := if held then some (rdw bs 0x28, rdw bs 0x30, rdw bs 0x38) else none }
  let es := (dumpOffs bs).map (rdEntry bs x clock)
  if es.any (·.isNone) then none
  else
    let es := es.filterMap id
    let of (n : Nat) : List QEntry := (es.filter fun p => p.1 == n).map (·.2)
    some { x with
      queue := of 0
      userSet := markHead (of 1) true
      kernelSet := markHead (of 2) (((of 2).map (·.vsn.toNat)).head? == some x.trapvsn.toNat) }

/-- The plane rows, the carafe and the scratchpad of a record (R368, R371). DESIGN CHOICE (log 60): a tag byte that R62 says is never written
is written as the record holds it. -/
def restoreStores (s : State) (f : Nat) (bs : List Byte) : State :=
  let y := s.front f
  let k := coreOf f
  let (first, win) := s.window f
  let width := bits (rd bs 0x18 8) 46 40
  let rows := (List.range 512).filter y.dirtyRow
  let rowLen := 4 * width + ceilDiv width 8 * 8
  let base := 0x980 + 256 * bits (rd bs 0 8) 23 16
  let inWin (key : Nat) : Bool := decide (first ≤ key % 64 ∧ key % 64 < first + win)
  let s := s.modCore k fun x =>
    { x.rewrite inWin with
      plane := spEraseAll x.plane inWin, tags := spEraseAll x.tags inWin, carafe := spEraseAll x.carafe inWin
      badCells := spEraseAll x.badCells inWin, badTags := spEraseAll x.badTags inWin, badCarafe := spEraseAll x.badCarafe inWin }
  let s := s.modCore k fun x => rows.zipIdx.foldl (fun (x : Core) p =>
    (List.range width).foldl (fun (x : Core) c =>
      let o := base + rowLen * p.2
      (x.setCell (p.1 * 64 + first + c) (BitVec.ofNat 32 (rd bs (o + 4 * c) 4)) true).setTag (p.1 * 64 + first + c)
        (BitVec.ofNat 8 (rd bs (o + 4 * width + c) 1))) x) x
  let cbase := base + rowLen * rows.length
  let s := if !y.cdirty then s else s.modCore k fun x =>
    { x with carafe := (List.range (128 * width)).foldl (fun m i =>
        spSet 0 m (i / width * 64 + first + i % width) (BitVec.ofNat 32 (rd bs (cbase + 4 * i) 4))) x.carafe }
  let pbase := cbase + (if y.cdirty then 512 * width else 0)
  if bit (rd bs 0 8) 25 then s.write (scratchBase k) ((bs.drop pbase).take 327680) else s

/-- The records at the addresses given, for the fronts of core `k`. -/
def rstRecords (k lid : Nat) (agent : Agent) (src : List (Nat × Nat)) : M (List (Nat × List Byte)) :=
  match src with
  | [] => pure []
  | p :: r => do
    let asid := ldAsid ((← get).launch lid).desc
    if p.2 % 65536 ≠ 0 then modify (restoreWalk agent asid p.2)
    let head ← readVa agent asid p.2 1
    let body ← readVa agent asid p.2 (min (rd head 8 8) 576000 / 256)
    return (p.1, body) :: (← rstRecords k lid agent r)

/-- The record holds VERSION 1 and the launch's ASID and LID (R371). -/
def recordOk (s : State) (lid : Nat) (bs : List Byte) : Bool :=
  rd bs 0 2 == 1 && rd bs 0x10 4 == ldAsid (s.launch lid).desc && rd bs 0x14 4 == lid && rd bs 8 8 % 256 == 0 &&
    (rdFront bs 0).isSome

/-- Each front has a window at least as wide as its record's WIDTH, with OWN as saved (R371). -/
def recordFits (s : State) (k : Nat) (recs : List (Nat × List Byte)) : Bool :=
  let x := recs.foldl (fun (x : Core) p => x.setOwn p.1 (bits (rd p.2 0x18 8) 54 48)) (s.core k)
  decide (x.own0 + x.own1 ≤ 64) && recs.all fun p => decide (bits (rd p.2 0x18 8) 46 40 ≤ (x.window p.1).2)

/-- The slots that a restore needs (R371). -/
def slotsFree (s : State) (k lid : Nat) (fs : List Nat) : Bool :=
  fs.all (fun f => (s.slot f).state == 0) &&
    [2 * k, 2 * k + 1].all fun f => (s.slot f).state == 0 || fs.contains f || (s.resident f && (s.slot f).lid == lid)

/-- One front restored: its registers, lanes, slot and stores. -/
def restoreFront (s : State) (lid : Nat) (p : Nat × List Byte) : State :=
  match rdFront p.2 s.clock with
  | none => s
  | some x =>
    let lp := rdw p.2 0x1D8
    let s := s.modCore (coreOf p.1) fun c =>
      { c.resize p.1 (bits (rd p.2 0x18 8) 54 48) with target := lp.field 6 0, lock := lp.flag 25, owner := some lid }
    let s := s.setSlot p.1 { s.slot p.1 with state := 2, asid := x.asid, lid := lid, rank := x.rank }
    let last := (s.jobs.filter fun j => j.lid == lid && j.rank == x.rank).getLast?.map (·.handle)
    restoreStores (s.setFront p.1 { x with lastJob := last }) p.1 p.2

/-- The end of a restore whose records have been read. -/
def restoreRecords (s : State) (k lid : Nat) (recs : List (Nat × List Byte)) : State :=
  let fail (n : Nat) : State := s.modDie (k / 64) fun x => x.rst false n
  let l := s.launch lid
  if recs.isEmpty then fail 1
  else if !slotsFree s k lid (recs.map (·.1)) then fail 3
  else if !recs.all (fun p => recordOk s lid p.2) then fail 1
  else if !recordFits s k recs then fail FIT
  else
    let s := if (s.core k).owner = some lid then s else clearCore s k lid
    let s := recs.foldl (fun (s : State) p => restoreFront s lid p) s
    (s.setLaunch lid { l with saved := l.saved - recs.length }).modDie (k / 64) fun x => x.rst false 0

/-- The record of an error that a restore meets as it reads, or those of the walk that fails (R376). -/
def logRestore (s : State) (k lid : Nat) (t : TrapRec) : State :=
  let asid := ldAsid (s.launch lid).desc
  if t.cause = MEMERR ∨ t.cause = INTEGRITY then
    errRecord s (k / 64) t.addr t.phys asid (if t.cause = MEMERR then 1 else 5) (k % 64) 0 0
  else if t.cause = PAGE ∨ (t.cause = ACCESS ∧ t.sub ≠ 1) then restoreWalk (.restore k lid 0 0) asid t.addr s
  else s

/-- A restore of launch `lid` on core `k` from two addresses (R369, R371): it runs on while it waits for bytes of a record in a peer. -/
def restoreCore (s : State) (k lid src0 src1 : Nat) : State :=
  let agent := Agent.restore k lid src0 src1
  let drop (s : State) : State := { s with remotes := s.remotes.filter fun r => r.agent != agent || r.answer.isNone }
  if !(s.launch lid).isOpen then s.modDie (k / 64) fun x => x.rst false 4
  else
    match rstRecords k lid agent ([(2 * k, src0), (2 * k + 1, src1)].filter fun p => p.2 != 0) s with
    | .ok (recs, t) => restoreRecords t k lid recs
    | .error (.trap t) => (drop (logRestore s k lid t)).modDie (k / 64) fun x => x.rst false 2
    | .error (.wait none) => s.modDie (k / 64) fun x => x.rst true 0
    | .error (.wait (some r)) => (s.request r).modDie (k / 64) fun x => x.rst true 0

/-- The restores that wait for a peer. -/
def State.restorers (s : State) : List Agent := (s.remotes.map (·.agent)).eraseDups

/-- Those restores go on. -/
def resumeRestores (s : State) (l : List Agent) : State :=
  l.foldl (fun s a => match a with
    | .restore k lid src0 src1 => if (s.die (k / 64)).rstctl.flag 9 then restoreCore s k lid src0 src1 else s
    | _ => s) s

end Sys2Proof.Machine
end

