-- ==== Sys2Proof/Machine/Sha.lean ====
section
/-! DEFINITION. SHA-512, and RSASSA-PSS with it, which R418 and R419 name and do not define: PRESUMED, as FIPS 180-4 and RFC 8017 give them
(log 12). -/

namespace Sys2Proof.Machine

namespace Sha

/-! ### SHA-512 -/

/-- A number as words of 64 bits, the lowest first. -/
def words (n v : Nat) : List Nat :=
  match n with
  | 0 => []
  | k + 1 => v % 2 ^ 64 :: words k (v / 2 ^ 64)

/-- The constants of rounds 0 to 15, the first in the low bits: 64 bits of the fractions of the cube roots of the primes from the 1st on. -/
def roots0 : Nat :=
  0xc19bf174cf6926949bdc06a725c7123580deb1fe3b1696b172be5d74f27b896f550c7dc3d5ffb4e2243185be4ee4b28c12835b0145706fbed807aa98a3030242ab1c5ed5da6d8118923f82a4af194f9b59f111f1b605d0193956c25bf348b538e9b5dba58189dbbcb5c0fbcfec4d3b2f7137449123ef65cd428a2f98d728ae22
/-- The constants of rounds 16 to 31, the first in the low bits: 64 bits of the fractions of the cube roots of the primes from the 17th on. -/
def roots16 : Nat :=
  0x142929670a0e6e7006ca6351e003826fd5a79147930aa725c6e00bf33da88fc2bf597fc7beef0ee4b00327c898fb213fa831c66d2db43210983e5152ee66dfab76f988da831153b55cb0a9dcbd41fbd44a7484aa6ea6e4832de92c6f592b0275240ca1cc77ac9c650fc19dc68b8cd5b5efbe4786384f25e3e49b69c19ef14ad2
/-- The constants of rounds 32 to 47, the first in the low bits: 64 bits of the fractions of the cube roots of the primes from the 33rd on. -/
def roots32 : Nat :=
  0x106aa07032bbd1b8f40e35855771202ad69906245565a910d192e819d6ef5218c76c51a30654be30c24b8b70d0f89791a81a664bbc423001a2bfe8a14cf1036492722c851482353b81c2c92e47edaee6766a0abb3c77b2a8650a73548baf63de53380d139d95b3df4d2c6dfc5ac42aed2e1b21385c26c92627b70a8546d22ffc
/-- The constants of rounds 48 to 63, the first in the low bits: 64 bits of the fractions of the cube roots of the primes from the 49th on. -/
def roots48 : Nat :=
  0xc67178f2e372532bbef9a3f7b2c67915a4506cebde82bde990befffa23631e288cc702081a6439ec84c87814a1f0ab7278a5636f43172f60748f82ee5defb2fc682e6ff3d6b2b8a35b9cca4f7763e3734ed8aa4ae3418acb391c0cb3c5c95a6334b0bcb5e19b48a82748774cdf8eeb991e376c085141ab5319a4c116b8d2d0c8
/-- The constants of rounds 64 to 79, the first in the low bits: 64 bits of the fractions of the cube roots of the primes from the 65th on. -/
def roots64 : Nat :=
  0x6c44198c4a4758175fcb6fab3ad6faec597f299cfc657e2a4cc5d4becb3e42b6431d67c49c100d4c3c9ebe0a15c9bebc32caab7b40c7249328db77f523047d841b710b35131c471b113f9804bef90dae0a637dc5a2c898a606f067aa72176fbaf57d4f7fee6ed178eada7dd6cde0eb1ed186b8c721c0c207ca273eceea26619c
/-- The constants of the 80 rounds. -/
def constants : List Nat :=
  [roots0, roots16, roots32, roots48, roots64].flatMap (words 16)

/-- The hash value before the first block: 64 bits of the fractions of the square roots of the first eight primes, the first in the low bits. -/
def start : List Nat :=
  words 8 0x5be0cd19137e21791f83d9abfb41bd6b9b05688c2b3e6c1f510e527fade682d1a54ff53a5f1d36f13c6ef372fe94f82bbb67ae8584caa73b6a09e667f3bcc908

/-- A word of 64 bits rotated to the right. -/
def rotr (x n : Nat) : Nat := x / 2 ^ n + x % 2 ^ n * 2 ^ (64 - n)

def xor3 (a b c : Nat) : Nat := Nat.xor (Nat.xor a b) c

/-- The eight working variables. -/
structure Vars where
  (a b c d e f g h : Nat)

/-- A number computed before it is used: the same number. -/
def now {α : Type} (n : Nat) (k : Nat → α) : α :=
  match n with
  | 0 => k 0
  | m + 1 => k (m + 1)

/-- One round with a constant and a word of the schedule. -/
def round (v : Vars) (k w : Nat) : Vars :=
  let ch := Nat.xor (Nat.land v.e v.f) (Nat.land (2 ^ 64 - 1 - v.e) v.g)
  let maj := xor3 (Nat.land v.a v.b) (Nat.land v.a v.c) (Nat.land v.b v.c)
  now (v.h + xor3 (rotr v.e 14) (rotr v.e 18) (rotr v.e 41) + ch + k + w) fun t =>
  now ((v.d + t) % 2 ^ 64) fun e =>
  now ((t + xor3 (rotr v.a 28) (rotr v.a 34) (rotr v.a 39) + maj) % 2 ^ 64) fun a =>
    ⟨a, v.a, v.b, v.c, e, v.e, v.f, v.g⟩

/-- The word of the schedule that follows sixteen. -/
def nextWord (ws : List Nat) : Nat :=
  let x := ws.getD 1 0
  let y := ws.getD 14 0
  (ws.getD 0 0 + xor3 (rotr x 1) (rotr x 8) (x / 2 ^ 7) + ws.getD 9 0 + xor3 (rotr y 19) (rotr y 61) (y / 2 ^ 6)) % 2 ^ 64

/-- The rounds with some constants; `ws` holds the next sixteen words of the schedule. -/
def rounds (ks : List Nat) (v : Vars) (ws : List Nat) : Vars :=
  match ks with
  | [] => v
  | k :: r => now (nextWord ws) fun w => rounds r (round v k (ws.getD 0 0)) (ws.drop 1 ++ [w])

/-- A number of big-endian bytes, and the big-endian bytes of a number. -/
def beNat (bs : List Byte) : Nat := leNat bs.reverse
def beBytes (n v : Nat) : List Byte := (leBytes n v).reverse

/-- The hash value after a block of 128 bytes. -/
def block (h : List Nat) (bs : List Byte) : List Nat :=
  let ws := (List.range 16).map fun i => beNat ((bs.drop (8 * i)).take 8)
  let g (i : Nat) : Nat := h.getD i 0
  let v := rounds constants ⟨g 0, g 1, g 2, g 3, g 4, g 5, g 6, g 7⟩ ws
  (h.zip [v.a, v.b, v.c, v.d, v.e, v.f, v.g, v.h]).map fun p => (p.1 + p.2) % 2 ^ 64

/-- `n` blocks. -/
def blocks (n : Nat) (h : List Nat) (bs : List Byte) : List Nat :=
  match n with
  | 0 => h
  | k + 1 => blocks k (block h (bs.take 128)) (bs.drop 128)

/-- A message with its padding: a bit 1, zero bits, and its length in bits. -/
def padded (bs : List Byte) : List Byte :=
  bs ++ [128] ++ List.replicate ((239 - bs.length % 128) % 128) 0 ++ beBytes 16 (8 * bs.length)

end Sha

/-- The SHA-512 of some bytes. -/
def sha512 (bs : List Byte) : List Byte :=
  (Sha.blocks ((bs.length + 17 + 127) / 128) Sha.start (Sha.padded bs)).flatMap (Sha.beBytes 8)

namespace Sha

/-! ### RSASSA-PSS: SHA-512, MGF1 with SHA-512, a salt of 64 bytes, a modulus of 4,096 bits, exponent 65,537 -/

/-- `n` squarings. -/
def squares (n x m : Nat) : Nat :=
  match n with
  | 0 => x
  | k + 1 => now (x * x % m) fun y => squares k y m

/-- x to the power 65,537. -/
def power (x m : Nat) : Nat := squares 16 x m * x % m

/-- MGF1: `n` bytes from a seed. -/
def mgf (seed : List Byte) (n : Nat) : List Byte :=
  ((List.range (ceilDiv n 64)).flatMap fun i => sha512 (seed ++ beBytes 4 i)).take n

/-- The encoded message `em` of 512 bytes, whose first bit is unused, verifies a message. -/
def encodes (em msg : List Byte) : Bool :=
  let h := (em.drop 447).take 64
  let db := ((em.take 447).zip (mgf h 447)).map fun p => p.1 ^^^ p.2
  em.getD 511 0 == 0xBC && (em.headD 0).toNat < 128 && (db.headD 0).toNat % 128 == 0 && ((db.take 382).drop 1).all (· == 0) && db.getD 382 0 == 1 &&
    sha512 (List.replicate 8 0 ++ sha512 msg ++ db.drop 383) == h

end Sha

/-- A signature of 512 bytes verifies a message under a modulus, whose bytes are little-endian as R5 has it; the signature is a byte string in the
order of RFC 8017 (log 12). -/
def pssVerifies (modulus signature msg : List Byte) : Bool :=
  let m := leNat modulus
  let x := Sha.beNat signature
  decide (x < m) && Sha.encodes (Sha.beBytes 512 (Sha.power x m)) msg

end Sys2Proof.Machine
end

