-- ==== Sys2Proof/Machine/Bringup.lean ====
section
/-! DEFINITION. Reset and service levels (R413 to R418), attestation (R419), the steward window (R420), power and heat (R421), and TLB
invalidation (R241). -/

namespace Sys2Proof.Machine

/-! ### Reset (R413) -/

/-- Memory after a reset: HBM holds free values where it was written, vaults and scratchpads zero, host memory what it held (log 2). -/
def memAfterReset (n : Nat) (m : List Host.Cell) : List Host.Cell :=
  m.foldr (fun c r =>
    if inHbm c.1 then (if Config.hbmAfterReset n c.1 = emptyByte then r else (c.1, Config.hbmAfterReset n c.1) :: r)
    else if inCxl c.1 then c :: r else r) []

/-- The package as a reset leaves it; the moves of the outside world go on. -/
def afterReset (s : State) : State :=
  { State.reset with
    turns := s.turns
    freeCtr := s.freeCtr
    mem := memAfterReset s.pkg.resets s.mem
    pkg := { Package.reset with resets := s.pkg.resets + 1 } }

/-! ### Service levels (R415, R417) -/

/-- LEVEL rises to FULL once every stack has trained and every link is up or has failed (R415). -/
def toFull (s : State) : State :=
  if s.pkg.level = 2 ∧ s.pkg.hbmup = 255 ∧ ((List.range 18).all fun j => (s.link j).up || (s.link j).failed) = true then
    s.modPkg fun p => { p with level := 3 }
  else s

/-- Fields of a flash image (R418). -/
def imgVersion (img : List Byte) : Nat := rd img 0 4
def imgModulus (img : List Byte) : List Byte := (img.drop 8).take 512
def imgSignature (img : List Byte) : List Byte := (img.drop 520).take 512
/-- The bytes that the signature covers. -/
def imgSigned (img : List Byte) : List Byte := img.take 520 ++ (img.drop 4096).take (rd img 4 4)

/-- The first check of R418 that an image fails in one core's boot ROM, but for the last, or 0. -/
def imageErr (img : List Byte) : Nat :=
  if 2 ^ 24 < rd img 4 4 ∨ ((img.drop 1032).take 3064).any (· != 0) = true then 1
  else if sha512 (imgModulus img) ≠ (List.range 64).map Config.rootHash then 2
  else if !pssVerifies (imgModulus img) (imgSignature img) (imgSigned img) then 3
  else if imgVersion img < Config.minver.toNat then 4 else 0

/-- BOOTERR of a check: what core 0 finds, then what core 1 finds, then whether their hashes agree; or 0. -/
def bootErr (img : Image) : Nat :=
  if imageErr img.first ≠ 0 then imageErr img.first else if imageErr img.second ≠ 0 then imageErr img.second
  else if sha512 img.first ≠ sha512 img.second then 5 else 0

/-- Both boot ROMs have checked the flash image. After a failed check LEVEL stays at RESET until the next reset. -/
def firmwareChecked (s : State) (img : Image) : State :=
  if s.pkg.level ≠ 0 ∨ s.pkg.booterr ≠ 0 then s
  else if bootErr img ≠ 0 then s.modPkg fun p => { p with booterr := bootErr img }
  else s.modPkg fun p => { p with level := 1, version := BitVec.ofNat 32 (imgVersion img.first), image := img.first }

def setBit (n i : Nat) : Nat := if bit n i then n else n + 2 ^ i

/-- A compute die comes up. -/
def admitDie (s : State) (d : Nat) : State :=
  if s.pkg.level = 0 then s else toFull (s.modPkg fun p => { p with dieup := setBit p.dieup d, level := max p.level 2 })

/-- A stack has trained, or has failed training. -/
def trainHbm (s : State) (k : Nat) (ok : Bool) : State :=
  if s.pkg.tripped || bit s.pkg.hbmup k || bit s.pkg.hbmfail k then s
  else if ok then toFull (s.modPkg fun p => { p with hbmup := setBit p.hbmup k })
  else s.modPkg fun p => { p with hbmfail := setBit p.hbmfail k }

/-- A link has trained, or an attempt has timed out: the third makes it fail (R415). -/
def trainLink (s : State) (j : Nat) (ok : Bool) : State :=
  let l := s.link j
  if s.pkg.tripped || l.up || l.failed then s
  else if ok then toFull (s.setLink j { l with up := true })
  else toFull (s.setLink j { l with tries := l.tries + 1, failed := decide (3 ≤ l.tries + 1) })

/-! ### Attestation (R419) -/

def fwver (s : State) : Word := word (s.pkg.version.toNat + Config.minver.toNat * 2 ^ 32)
def svclvl (s : State) : Word :=
  word (s.pkg.level + s.pkg.dieup * 2 ^ 8 + s.pkg.hbmup * 2 ^ 16 + s.pkg.hbmfail * 2 ^ 24 + s.pkg.booterr * 2 ^ 32)

/-- The bytes that a quote signs. -/
def quoteBytes (s : State) : List Byte :=
  (List.range 64).map (spGet 0 s.pkg.nonce) ++ sha512 s.pkg.image ++ w8 (fwver s) ++ w8 (svclvl s) ++
    leBytes 8 s.pkg.fabid

def quoteStart (s : State) : State := s.modPkg fun p => { p with attBusy := true }
def quoteDone (s : State) : State :=
  if s.pkg.attBusy then
    s.modPkg fun p => { p with attBusy := false, quote := (List.range 512).map (Config.quote (quoteBytes s)) }
  else s

/-! ### Barista's window, power and heat (R420, R421) -/

/-- Barista stores or loads `n` bytes in the 64 MiB steward window. Outside it a store is discarded, a load returns zero, and the access is
counted. Memory that is not served takes no store and returns zero (R416, log 59). A part of a unit in error takes no store (R374); a load that fails a
check returns a free value (log 59). Both append a record (R376). -/
def steward (s : State) (store : Bool) (n addr : Nat) (v : Word) : State :=
  let b := s.pkg.stwbase.field 49 26 * 2 ^ 26
  let inside : Bool := decide (b ≤ addr ∧ addr + n ≤ b + 2 ^ 26)
  let serves := inside && s.serves addr && s.serves (addr + n - 1)
  let s := if inside then s else s.modPkg fun p => { p with stwerr := word ((p.stwerr.field 31 0 + 1) % 2 ^ 32) }
  let err (kind : Nat) : State := errRecord s (homeDie addr) 0 addr 0 kind 0 0 0
  if !serves then (if store then s else s.modPkg fun p => { p with stwload := 0 })
  else if store then (if s.partErr addr n then err 1 else s.write addr (leBytes n v.toNat))
  else if s.errAt addr n || s.badAt addr n then
    { (err (if s.errAt addr n then 1 else 5)).modPkg (fun p => { p with stwload := word ((Config.lostWord s.freeCtr).toNat % 256 ^ n) }) with
      freeCtr := s.freeCtr + 1 }
  else s.modPkg fun p => { p with stwload := word (s.read addr n) }

/-- A junction temperature: at TRIP the package stops and holds itself in reset, records of a running save being lost. -/
def heat (s : State) (hot : Nat) : State :=
  if 105 ≤ hot then (afterReset s).modPkg fun p => { p with hot := hot, tripped := true }
  else s.modPkg fun p => { p with hot := hot }

/-- The averaged power: above the cap the clock goes down a step. -/
def powerStep (s : State) (now : Nat) : State :=
  s.modPkg fun p => { p with pwrnow := now, slow := if p.pwrcap < now then p.slow + 1 else p.slow }

/-! ### TLB invalidation (R241) -/

/-- The running invalidation covers an entry. -/
def tinvCovers (p : Package) (t : Tlb) : Bool :=
  if p.goScope = 0 then t.hit p.goAsid p.goVa else if p.goScope = 1 then t.asid == p.goAsid else true

/-- The covered entries leave one second-level TLB, with their hotness records (R245). -/
def purgeTlb2 (s : State) (c : Nat) : State :=
  let gone := (s.tlb2 c).filter (tinvCovers s.pkg)
  (gone.foldl (fun s t => dropTlb2 s c t) s).setTlb2 c ((s.tlb2 c).filter fun t => !tinvCovers s.pkg t)

/-- A job's translations but for the covered ones. -/
def Job.purged (p : Package) (j : Job) : Job :=
  { j with plan := j.plan.map fun q => { q with pages := q.pages.filter fun t => !tinvCovers p t } }

/-- The invalidation covers an entry for an address, of a page of any size, so of the largest (R241). -/
def tinvHolds (p : Package) (asid va : Nat) : Bool := tinvCovers p ⟨asid, va / 2 ^ 30 * 2 ^ 30, 2, 0, 0, 0, 0⟩

/-- A job holds a translation through an entry that the invalidation covers: of its completion pair, made at its acceptance (R294), or of its CUPRES
record, made before it told its success (R400). -/
def Job.pairHeld (p : Package) (j : Job) : Bool :=
  let res := j.card.getD 15 0
  (j.pairPaged && tinvHolds p j.asid j.pair.toNat) ||
    (!j.cupAt.isEmpty && res.field 63 62 == 0 && (tinvHolds p j.asid (res.field 51 0) || tinvHolds p j.asid (res.field 51 0 + 175)))

/-- BUSY clears: no TLB and no job holds a covered entry, every access of a peer has been performed, and so has the completion write of every job
whose pair was translated through a covered entry (log 49). -/
def tinvEnd (s : State) : State :=
  if !s.pkg.tinvBusy || !s.peersQuiet || s.jobs.any (Job.pairHeld s.pkg) then s
  else
    let s := (List.range 64).foldl purgeTlb2 s
    let cores := (s.cores.map fun p => (p.1, { p.2 with utlb := p.2.utlb.filter fun t => !tinvCovers s.pkg t })).filter
      fun p => p.2 != Core.reset
    { s with cores := cores, jobs := s.jobs.map (Job.purged s.pkg) }.modPkg fun p => { p with tinvBusy := false }

/-- TINVC written: its fields, and GO, which is ignored while BUSY and for scope 3. -/
def tinvPut (s : State) (asid scope : Nat) (go : Bool) : State :=
  let s := s.modPkg fun p => { p with tinvAsid := asid % 2 ^ 14, tinvScope := scope % 4 }
  if !go || s.pkg.tinvBusy || scope % 4 == 3 then s
  else s.modPkg fun p => { p with goVa := p.tinva.field 51 0, goAsid := asid % 2 ^ 14, goScope := scope % 4, tinvBusy := true }

/-- TINVC.GO. -/
def tinvGo (s : State) (asid scope : Nat) : State := tinvPut s asid scope true

end Sys2Proof.Machine
end

