-- ==== Sys2Proof/Machine/Device.lean ====
section
/-! DEFINITION. The device registers of R230: which register an address names, what a read returns, and what a write does, by its source
(R7, R8, R388, R414, R423, R425). An address of the range that names no register reads as zero and ignores writes (log 15). -/

namespace Sys2Proof.Machine

/-- A device register. -/
inductive DevReg where
  | hot (d k : Nat)
  | err (d k : Nat)
  | binderr (d : Nat)
  | kvec (d : Nat)
  | prectl (d : Nat)
  | presave (d f : Nat)
  | rstctl (d : Nat)
  | rstsrc (d f : Nat)
  | wdlim (d : Nat)
  | faultst (d : Nat)
  | lanemap (core : Nat)
  | dbgctl (f : Nat)
  | slot (f k : Nat)
  | queue (q k : Nat)
  | lopen | lres | agelim | lderr
  | fabid | linkst
  | route (d : Nat)
  | svclvl | rstreq | fwver | pwrcap | pwrnow | temp | attctl | stwbase | stwerr
  | nonce (k : Nat)
  | quote (k : Nat)
  | idcert (k : Nat)
  | asidt | tinva | tinvc
  | none
  deriving DecidableEq, Repr

/-- A register of compute die `d` by its offset. -/
def dieReg (d o : Nat) : DevReg :=
  if o ≤ 0x20 then .hot d (o / 8)
  else if 0x80 ≤ o ∧ o ≤ 0xA0 then .err d ((o - 0x80) / 8)
  else if o = 0x30 then .binderr d else if o = 0x38 then .kvec d else if o = 0x40 then .prectl d
  else if o = 0x48 then .presave d 0 else if o = 0x50 then .presave d 1 else if o = 0x58 then .rstctl d
  else if o = 0x60 then .rstsrc d 0 else if o = 0x68 then .rstsrc d 1 else if o = 0x70 then .wdlim d
  else if o = 0x78 then .faultst d
  else if 0x200 ≤ o ∧ o < 0x400 then .lanemap (64 * d + (o - 0x200) / 8)
  else if 0x400 ≤ o ∧ o < 0x800 then .dbgctl (128 * d + (o - 0x400) / 8)
  else if 0x100000 ≤ o ∧ o < 0x101000 then .slot (128 * d + (o - 0x100000) / 0x20) (o % 0x20 / 8) else .none

/-- A management register by its offset (R414, R419, R420). -/
def mgmtReg (o : Nat) : DevReg :=
  if o = 0 then .svclvl else if o = 8 then .rstreq else if o = 0x10 then .fwver else if o = 0x18 then .pwrcap
  else if o = 0x20 then .pwrnow else if o = 0x28 then .temp else if o = 0x30 then .attctl else if o = 0x38 then .stwbase
  else if 0x40 ≤ o ∧ o < 0x80 then .nonce ((o - 0x40) / 8) else if o = 0x80 then .stwerr
  else if 0x200 ≤ o ∧ o < 0x400 then .quote ((o - 0x200) / 8)
  else if 0x400 ≤ o ∧ o < 0x800 then .idcert ((o - 0x400) / 8) else .none

/-- The register at an address, a multiple of 8. -/
def devReg (a : Nat) : DevReg :=
  if a < 0x6208000000 then dieReg ((a - 0x6200000000) / 0x1000000) ((a - 0x6200000000) % 0x1000000)
  else if 0x6240000000 ≤ a ∧ a < 0x6240200000 then .queue ((a - 0x6240000000) / 0x40) (a % 0x40 / 8)
  else if a = 0x62E0000000 then .lopen else if a = 0x62E0000008 then .lres else if a = 0x62E0000010 then .agelim
  else if a = 0x62E0000018 then .lderr else if a = 0x62E1000000 then .fabid else if a = 0x62E1000008 then .linkst
  else if 0x62E1001000 ≤ a ∧ a < 0x62E1003000 then .route ((a - 0x62E1001000) / 8)
  else if 0x62E2000000 ≤ a ∧ a < 0x62E2000800 then mgmtReg (a - 0x62E2000000)
  else if a = 0x62F0000000 then .asidt else if a = 0x62F0000008 then .tinva else if a = 0x62F0000010 then .tinvc else .none

/-- The address of a register of compute die `d`, of a slot record, and of DBGCTL of a front (R230). -/
def dieAt (d o : Nat) : Nat := 0x6200000000 + 0x1000000 * d + o
def slotAt (f : Nat) : Nat := dieAt (f / 128) (0x100000 + 0x20 * (f % 128))
def dbgctlAt (f : Nat) : Nat := dieAt (f / 128) (0x400 + 8 * (f % 128))

/-! ### Reads -/

def ringWord (r : RecRing) (k : Nat) : Word :=
  if k = 0 then r.base else if k = 1 then r.ctl else if k = 2 then r.head else if k = 3 then r.tail else r.drop

def queueWord (w : WorkQueue) (k : Nat) : Word :=
  if k = 0 then w.base else if k = 1 then w.ctl else if k = 2 then w.head else if k = 3 then w.tail else if k = 4 then w.age
  else if k = 5 then w.err else 0

def slotWord (r : SlotRec) (k : Nat) : Word :=
  if k = 0 then word (r.state + r.asid * 2 ^ 16 + r.lid * 2 ^ 32) else if k = 1 then r.lane else if k = 2 then word r.rank else 0

def byteWord (g : Nat → Byte) (k : Nat) : Word := word (leNat ((List.range 8).map fun i => g (8 * k + i)))

/-- The value of a register. -/
def devValue (s : State) (r : DevReg) : Word :=
  match r with
  | .hot d k => ringWord (s.die d).hot k
  | .err d k => ringWord (s.die d).err k
  | .binderr d => (s.die d).binderr
  | .kvec d => (s.die d).kvec
  | .prectl d => (s.die d).prectl
  | .presave d f => if f = 0 then (s.die d).presave0 else (s.die d).presave1
  | .rstctl d => (s.die d).rstctl
  | .rstsrc d f => if f = 0 then (s.die d).rstsrc0 else (s.die d).rstsrc1
  | .wdlim d => (s.die d).wdlim
  | .faultst d => (s.die d).faultst
  | .lanemap k => (s.core k).lanemap
  | .dbgctl f => (s.front f).dbgctl
  | .slot f k => slotWord (s.slot f) k
  | .queue q k => queueWord (s.queue q) k
  | .lopen => 0
  | .lres => word (s.pkg.lresLid + s.pkg.lresErr * 2 ^ 24)
  | .agelim => s.pkg.agelim
  | .lderr => s.pkg.lderr
  | .fabid => word s.pkg.fabid
  | .linkst => word (((List.range 18).filter fun j => (s.link j).up).map (2 ^ ·)).sum
  | .route d => spGet 0 s.pkg.routes d
  | .svclvl => svclvl s
  | .rstreq => 0
  | .fwver => fwver s
  | .pwrcap => word s.pkg.pwrcap
  | .pwrnow => word s.pkg.pwrnow
  | .temp => word (s.pkg.hot + 105 * 2 ^ 8)
  | .attctl => word (b2n s.pkg.attBusy * 2)
  | .stwbase => s.pkg.stwbase
  | .stwerr => s.pkg.stwerr
  | .nonce _ => 0
  | .quote k => byteWord (fun i => s.pkg.quote.getD i 0) k
  | .idcert k => byteWord Config.idcert k
  | .asidt => s.pkg.asidt
  | .tinva => s.pkg.tinva
  | .tinvc => word (s.pkg.tinvAsid + s.pkg.tinvScope * 2 ^ 14 + b2n s.pkg.tinvBusy * 2 ^ 31)
  | .none => 0

/-- The doubleword of the device range at an address. -/
def devWord (s : State) (a : Nat) : Word := devValue s (devReg (a / 8 * 8))

/-- `n` bytes of the device range: the addressed bytes of the register (R423). -/
def devRead (s : State) (a n : Nat) : Nat := (devWord s a).toNat / 256 ^ (a % 8) % 256 ^ n

/-! ### Writes -/

/-- A register whose VALID bit is W1C. -/
def w1c (old v : Word) (i : Nat) : Word := if v.flag i then old &&& ~~~(word (2 ^ i)) else old

def ringPut (r : RecRing) (k : Nat) (v : Word) : RecRing :=
  if k = 0 then { r with base := keep v 49 12 } else if k = 1 then { r with ctl := keep v 4 0 }
  else if k = 3 then { r with tail := keep v 31 0 } else if k = 4 then { r with drop := r.drop &&& ~~~v } else r

/-- A work queue register written (R330). -/
def queuePut (w : WorkQueue) (k : Nat) (v : Word) : WorkQueue :=
  if k = 0 then { w with base := keep v 49 6 }
  else if k = 1 then
    (if v.flag 8 ∧ ¬ (1 ≤ v.field 4 0 ∧ v.field 4 0 ≤ 16) then w else { w with ctl := keep v 4 0 ||| keep v 8 8 })
  else if k = 3 then { w with tail := keep v 31 0 } else if k = 5 then { w with err := w1c w.err v 63 } else w

/-- PRECTL written (R369). -/
def prectlPut (s : State) (d : Nat) (v : Word) : State :=
  let old := (s.die d).prectl
  let s := s.modDie d fun x => { x with prectl := keep v 7 0 ||| keep old 9 9 ||| keep old 23 16 }
  let k := 64 * d + v.field 5 0
  if !v.flag 8 || old.flag 9 then s
  else if v.field 7 6 = 0 then saveStart s k else if v.field 7 6 = 1 then discardCore s k else s

/-- RSTCTL written. -/
def rstctlPut (s : State) (d : Nat) (v : Word) : State :=
  let old := (s.die d).rstctl
  let s := s.modDie d fun x => { x with rstctl := keep v 5 0 ||| keep old 9 9 ||| keep old 23 16 ||| keep v 45 32 }
  if v.flag 8 && !old.flag 9 then
    restoreCore s (64 * d + v.field 5 0) (v.field 45 32) ((s.die d).rstsrc0.field 51 0) ((s.die d).rstsrc1.field 51 0)
  else s

/-- Bytes of a doubleword put at index 8k of a byte array. -/
def putNonce (m : List (Nat × Byte)) (k : Nat) (v : Word) : List (Nat × Byte) :=
  (List.range 8).foldl (fun m i => spSet 0 m (8 * k + i) (BitVec.ofNat 8 (v.toNat / 256 ^ i))) m

/-- An 8-byte write of a register by `src`. -/
def regPut (s : State) (src : Src) (r : DevReg) (v : Word) : State :=
  match r with
  | .hot d k => s.modDie d fun x => { x with hot := ringPut x.hot k v }
  | .err d k => s.modDie d fun x => { x with err := ringPut x.err k v }
  | .binderr d => s.modDie d fun x => { x with binderr := w1c x.binderr v 31 }
  | .kvec d => s.modDie d fun x => { x with kvec := keep v 63 2 }
  | .prectl d => prectlPut s d v
  | .presave d f => s.modDie d fun x => if f = 0 then { x with presave0 := keep v 51 0 } else { x with presave1 := keep v 51 0 }
  | .rstctl d => rstctlPut s d v
  | .rstsrc d f => s.modDie d fun x => if f = 0 then { x with rstsrc0 := keep v 51 0 } else { x with rstsrc1 := keep v 51 0 }
  | .wdlim d => s.modDie d fun x => { x with wdlim := keep v 31 0 }
  | .faultst d => s.modDie d fun x => { x with faultst := w1c x.faultst v 31 }
  | .lanemap _ => s
  | .dbgctl f => if src = .barista then s else s.modFront f fun x => { x with dbgctl := keep v 0 0 ||| keep x.dbgctl 63 1 }
  | .slot f k =>
    if k = 0 then writeSlotCtl s f (v.field 1 0) (v.field 29 16) (v.field 45 32)
    else if k = 1 then s.setSlot f { s.slot f with lane := keep v 8 0 } else s
  | .queue q k => s.setQueue q (queuePut (s.queue q) k v)
  | .lopen => if v.flag 15 then openLaunch s (v.field 14 0) else s
  | .lres => s
  | .agelim => s.modPkg fun p => { p with agelim := word (min (v.field 26 0) 85000000) }
  | .lderr => s.modPkg fun p => { p with lderr := w1c p.lderr v 63 }
  | .fabid => if src = .host then s.modPkg fun p => { p with fabid := v.field 9 0 } else s
  | .linkst => s
  | .route d => if src = .host then s.modPkg fun p => { p with routes := spSet 0 p.routes d (keep v 17 0) } else s
  | .svclvl => s
  | .rstreq => if src = .host ∧ v.flag 0 then afterReset s else s
  | .fwver => s
  | .pwrcap => if src = .host then s.modPkg fun p => { p with pwrcap := max 600 (min (v.field 11 0) 2100) } else s
  | .pwrnow => s
  | .temp => s
  | .attctl => if v.flag 0 ∧ s.pkg.attBusy = false then quoteStart s else s
  | .stwbase => if src = .host ∧ s.pkg.level = 1 then s.modPkg fun p => { p with stwbase := keep v 49 26 } else s
  | .stwerr => s.modPkg fun p => { p with stwerr := p.stwerr &&& ~~~(keep v 31 0) }
  | .nonce k => if s.pkg.attBusy then s else s.modPkg fun p => { p with nonce := putNonce p.nonce k v }
  | .quote _ => s
  | .idcert _ => s
  | .asidt => s.modPkg fun p => { p with asidt := keep v 49 15 }
  | .tinva => s.modPkg fun p => { p with tinva := keep v 51 0 }
  | .tinvc => tinvPut s (v.field 13 0) (v.field 15 14) (v.flag 16)
  | .none => s

/-- A store of `n` bytes to the device range: ignored when it has fewer than 8 (R423). A misaligned one of 8 is taken by the register that contains the
address, which is the model's choice (DESIGN CHOICE, log 15). The monitors of its doubleword fire, whatever the register makes of the write (R304, R305). -/
def devWrite (s : State) (src : Src) (a n v : Nat) : State :=
  if n = 8 then (regPut s src (devReg (a / 8 * 8)) (word v)).woken a else s

end Sys2Proof.Machine
end

