-- ==== Sys2Proof/Machine/Access.lean ====
section
/-! DEFINITION. Single accesses at a location and at a virtual address: memory, device registers, peers (R144, R231, R243, R260, R386,
R423). -/

namespace Sys2Proof.Machine

/-- A read of `n` bytes (R144, R248). -/
def readLoc (agent : Agent) (l : Loc) (n va : Nat) : M Nat :=
  match l with
  | .mem a => readMem a n va
  | .dev a => do return devRead (← get) a n
  | .peer d a => do return leNat (← askPeer agent d a n 1 va [])

/-- A write of `n` bytes; to a peer it is posted (R385, R386). -/
def writeLoc (who : Agent) (l : Loc) (n v va : Nat) : M Unit :=
  match l with
  | .mem a => writeMem a n v va
  | .dev a => modify fun s => devWrite s .kernel a n v
  | .peer d a => do
    match (← get).send d 0 0 n a (leBytes n v) who with
    | some t => set t
    | none => raise ACCESS 8 0 va

/-- A live link carries the access (R386). -/
def reachLoc (l : Loc) (va : Nat) : M Unit :=
  match l with
  | .peer d _ => do if ((← get).liveLinks d).isEmpty then raise ACCESS 8 0 va else pure ()
  | _ => pure ()

/-- The place of an atomic access. One of the agent that a peer has been asked for is under way, and goes on where it was sent, whatever has become
of its translation since (R356). -/
def atomicPlace (c : Ctx) (va : Nat) : M Loc := do
  match (← get).asking c.agent with
  | some l => return l
  | none => translate c va .both

/-- The checks that a write of `n` bytes makes, and nothing else. -/
def checkLoc (l : Loc) (n va : Nat) : M Unit :=
  match l with
  | .mem a => checkWrite a n va
  | l => reachLoc l va

/-- An atomic read-modify-write at the home agent (R231): it returns the old value, and writes what `g` makes of it, if anything. A peer
is told the operation by its code and operands (log 9). -/
def atomicLoc (agent : Agent) (l : Loc) (n va code x : Nat) (g : Nat → Option Nat) : M Nat :=
  match l with
  | .mem a => do
    let old ← readMem a n va
    match g old with
    | some v => writeMem a n v va
    | none => pure ()
    return old
  | .dev a => do
    let old := devRead (← get) a n
    match g old with
    | some v => modify fun s => devWrite s .kernel a n v
    | none => pure ()
    return old
  | .peer d a => do return leNat (← askPeer agent d a n 3 va (Config.atomicPayload code n x))

/-- Translated and read. -/
def loadVa (c : Ctx) (va n : Nat) : M Nat := do readLoc c.agent (← translate c va .read) n va

/-- Translated and written. -/
def storeVa (c : Ctx) (va n v : Nat) : M Unit := do writeLoc c.agent (← translate c va .write) n v va

/-- `k` doublewords read at rising addresses. -/
def loadWords (c : Ctx) (va k : Nat) : M (List Word) :=
  match k with
  | 0 => pure []
  | j + 1 => do
    let w ← loadVa c va 8
    return word w :: (← loadWords c ((va + 8) % 2 ^ 64) j)

end Sys2Proof.Machine
end

