-- ==== Sys2Proof/Machine/Operands.lean ====
section
/-! DEFINITION. The operand forms of scalar instructions: registers read at the front, immediates (R102), effective addresses (R143,
R147), branch targets (R146); and what an instruction at the front does with its result (R132). -/

namespace Sys2Proof.Machine

/-- A sign-extended immediate (R102). -/
def sx {n : Nat} (b : BitVec n) : Word := b.signExtend 64
/-- A zero-extended immediate (R102). -/
def zx {n : Nat} (b : BitVec n) : Word := b.setWidth 64

/-- Base plus signed offset (R143, R147). -/
def State.ea {n : Nat} (s : State) (a : SReg) (off : BitVec n) : Word := s.reg a + sx off

/-- The target of a displacement counted in instructions (R146). -/
def State.target {n : Nat} (s : State) (disp : BitVec n) : Word := s.me.pc + 4 * sx disp

/-- A result written to its register, and the next instruction (R132). -/
def result (d : SReg) (v : Word) (s : State) : Out := .next ((s.setReg d v).advance)

/-- A trap of the instruction at the front, with no element (R73, R132). -/
def trapAt (cause sub addr : Nat) (s : State) : Out := .next (frontTrap s ⟨cause, sub, 0, addr, 0⟩)

/-- A number as a result. -/
def ofBool (b : Bool) : Word := if b then 1 else 0

end Sys2Proof.Machine
end

