-- ==== Sys2Proof/Machine/System.lean ====
section
/-! DEFINITION. Control registers by MFC and MTC (R45 to R54, R80, R81, R86, R87, R148, R149, R199, R200, R233, R307, R308, R362), TRAP and
KRET (R74, R150, R151), words that do not decode (R103), and FSV (R284). -/

namespace Sys2Proof.Machine

/-- Access of a control register in the current mode: `none` raises PRIV, `some false` is read-only (R45, R46). -/
def crAccess (n : Nat) (kernel ubusy : Bool) : Option Bool :=
  if n = 0x14 ∨ n = 0x15 ∨ n = 0x30 then some false
  else if kernel then some true
  else if n = 0x10 ∨ n = 0x31 ∨ n = 0x32 ∨ n = 0x70 ∨ n = 0x107 then some false
  else if 0x100 ≤ n ∧ n ≤ 0x104 then (if ubusy then some (n == 0x101) else none)
  else if n = 0x105 then none else some true

/-- A word of the dirty map (R362). -/
def Front.dirtyWord (x : Front) (i : Nat) : Word := word (x.dirty.toNat / 2 ^ (64 * i))

/-- The value of a control register of front `f`, reserved bits zero (R148). -/
def State.cr (s : State) (f n : Nat) : Word :=
  let x := s.front f
  if n = 0x10 then x.vl else if n = 0x11 then x.vmc else if n = 0x12 then x.vst else if n = 0x13 then x.vstart
  else if n = 0x14 then word x.vsn.toNat else if n = 0x15 then word x.vcp.toNat
  else if n = 0x20 then x.fcr else if n = 0x21 then x.fflags
  else if n = 0x30 then plwinWord (s.window f).1 (s.window f).2 else if n = 0x31 then s.lpart f
  else if n = 0x32 then x.dirtyWord x.dirtyIx else if n = 0x40 then x.gstep
  else if n < 0x60 then x.decayReg (n - 0x50) else if n < 0x70 then x.slotReg (n - 0x60)
  else if n = 0x70 then x.spbase
  else if n = 0x100 then x.trapcause else if n = 0x101 then x.trappc else if n = 0x102 then x.trapvsn
  else if n = 0x103 then x.trapelem else if n = 0x104 then x.trapaddr else if n = 0x105 then x.trapvec
  else if n = 0x106 then x.utrapvec else x.deleg

/-- PLDIRTY written in kernel mode (R362). -/
def Front.putDirty (x : Front) (v : Word) : Front :=
  if v.field 7 3 ≠ 0 then x
  else
    let i := v.field 2 0
    let m : BitVec 512 := BitVec.ofNat 512 ((2 ^ 64 - 1) * 2 ^ (64 * i))
    { x with dirtyIx := i, dirty := if v.flag 8 then x.dirty &&& ~~~m else if v.flag 9 then x.dirty ||| m else x.dirty }

/-- A control register of a front alone written; values that its entry rejects leave it as it is (R48, R80, R87, R149, R308). -/
def Front.putCr (x : Front) (n : Nat) (v : Word) : Front :=
  if n = 0x10 then (if 256 < v.field 8 0 ∨ v.field 11 9 = 7 then x else { x with vl := keep v 11 0 })
  else if n = 0x11 then (if v.field 4 3 = 3 then x else { x with vmc := keep v 8 0 })
  else if n = 0x12 then { x with vst := v } else if n = 0x13 then { x with vstart := keep v 8 0 }
  else if n = 0x20 then (if 5 ≤ v.field 2 0 then x else { x with fcr := keep v 4 0 ||| keep v 63 32 })
  else if n = 0x21 then { x with fflags := keep v 5 0 }
  else if n = 0x32 then x.putDirty v
  else if n = 0x40 then { x with gstep := v }
  else if 0x50 ≤ n ∧ n < 0x60 then
    (if 0x3F800000 < v.field 31 0 then x else { x with decay := spSet 0 x.decay (n - 0x50) (keep v 31 0) })
  else if 0x60 ≤ n ∧ n < 0x70 then
    (if slotValid (keep v 43 0) then { x with fmt := spSet 0 x.fmt (n - 0x60) (keep v 43 0) } else x)
  else if n = 0x70 then { x with spbase := keep v 51 20 }
  else if n = 0x100 then { x with trapcause := keep v 9 0 ||| keep v 23 16 }
  else if n = 0x101 then { x with trappc := keep v 63 2 }
  else if n = 0x102 then { x with trapvsn := keep v 31 0 } else if n = 0x103 then { x with trapelem := keep v 8 0 }
  else if n = 0x104 then { x with trapaddr := v } else if n = 0x105 then { x with trapvec := keep v 63 2 }
  else if n = 0x106 then { x with utrapvec := keep v 63 2 }
  else if n = 0x107 then { x with deleg := keep v 6 3 ||| keep v 13 13 ||| keep v 31 31 }
  else x

/-- LPART written in kernel mode: an invalid TARGET is ignored as a whole (R199 to R201); a bound front may start by it (R228). -/
def putLpart (s : State) (v : Word) : State :=
  let k := coreOf s.cur
  let t := v.field 6 0
  if targetOk (s.core k).live t (s.resident (2 * k)) (s.resident (2 * k + 1)) then
    ((s.modCore k fun x => { x with target := t, lock := v.flag 25 }).settle (2 * k)).settle (2 * k + 1)
  else s

/-- MFC: PRIV where the mode has no access; FFLAGS waits for the queue (R82, R148). -/
def execMfc (d : SReg) (cr : BitVec 12) (s : State) : Out :=
  let n := cr.toNat
  if !isCr n then trapAt ILLEGAL 0 0 s
  else
    match crAccess n s.me.kernel s.me.ubusy with
    | none => trapAt PRIV 0 0 s
    | some _ => if n = 0x21 ∧ s.me.queue.isEmpty = false then .next (s.blocked .retry) else result d (s.cr s.cur n) s

/-- MTC: a read-only register ignores it (R7, R45, R148). -/
def execMtc (cr : BitVec 12) (a : SReg) (s : State) : Out :=
  let n := cr.toNat
  if !isCr n then trapAt ILLEGAL 0 0 s
  else
    match crAccess n s.me.kernel s.me.ubusy with
    | none => trapAt PRIV 0 0 s
    | some false => .next s.advance
    | some true =>
      if n = 0x21 ∧ s.me.queue.isEmpty = false then .next (s.blocked .retry)
      else if n = 0x31 then .next (putLpart s (s.reg a)).advance
      else .next (s.modFront s.cur fun x => x.putCr n (s.reg a)).advance

/-- TRAP n: BREAK with SUB 0xFF and TRAPADDR n (R150). -/
def execTrap (n : BitVec 12) (s : State) : Out := trapAt BREAK 0xFF n.toNat s

/-- KRET: PRIV in user mode with UBUSY 0; otherwise the front returns to TRAPPC and the set of its level is reissued, once the queue has
room for it (R69, R74, R151, R360). -/
def execKret (s : State) : Out :=
  let x := s.me
  let set := if x.kernel then x.kernelSet else x.userSet
  if !x.kernel && !x.ubusy then trapAt PRIV 0 0 s
  else if 64 < x.queue.length + (set.filter fun e => !e.done).length then .next (s.blocked .retry)
  else .next (s.modFront s.cur (Front.kreted s.clock))

/-- A word that does not decode raises ILLEGAL (R103). -/
def execIllegalWord (_w : BitVec 32) (s : State) : Out := trapAt ILLEGAL 0 0 s

/-- FSV: every earlier scalar event in the package has been performed, so the front goes on; at SYS it waits for the posted writes to peers of its
scalar instructions (R284, log 4). -/
def execFsv (scope : Scope) (s : State) : Out := if s.sysWaits (· == .front s.cur) scope then .next (s.blocked .retry) else .next s.advance

end Sys2Proof.Machine
end

