-- ==== Sys2Proof/Machine/VecCtl.lean ====
section
/-! DEFINITION. Carving, vector length and the lane partition at the front (R158 to R162, R200 to R203); whole names (R163 to R165), and
FVV, MWAIT and the cupping lists in the queue (R224, R286, R398). -/

namespace Sys2Proof.Machine

/-! ### Carving (R158 to R160) -/

/-- An entry checked under R61 from subcode 2, then written. -/
def putEntry (v : VName) (e : Word) (s : State) : Out :=
  match edgeBody e (s.window s.cur).2 with
  | some sub => trapAt EDGE sub 0 s
  | none => .next (s.modFront s.cur fun x => x.setEntry v.toNat e).advance

/-- CARVE (R158): an entry with VALID = 0 is written unchecked. -/
def execCarve (vd : VName) (b : SReg) (s : State) : Out :=
  let e := s.reg b
  if dValid e then putEntry vd e s else .next (s.modFront s.cur fun x => x.setEntry vd.toNat e).advance

/-- ROW0 and EPOS0 of an entry replaced. -/
def moveEntry (e : Word) (row pos : Nat) : Word :=
  word (e.toNat - dRow0 e * 2 ^ 2 - dEpos e * 2 ^ 11 + row * 2 ^ 2 + pos * 2 ^ 11)

/-- CARVEQ (R159). -/
def execCarveq (vd va : VName) (b : SReg) (s : State) : Out :=
  let e := s.me.entry va.toNat
  let row := (dRow0 e : Int) + signedOf 16 ((s.reg b).field 15 0)
  let pos := (dEpos e : Int) + signedOf 16 ((s.reg b).field 31 16)
  let row' := if dWrap e then row % 512 else row
  if !dValid e then trapAt EDGE 1 0 s
  else if row' < 0 ∨ 511 < row' then trapAt EDGE 4 0 s
  else if pos < 0 ∨ 2047 < pos then trapAt EDGE 3 0 s
  else putEntry vd (moveEntry e row'.toNat pos.toNat) s

/-- UNCARVE (R160). -/
def execUncarve (vd : VName) (s : State) : Out := .next (s.modFront s.cur fun x => x.setEntry vd.toNat 0).advance

/-! ### Vector length and lanes (R161, R162, R202, R203) -/

/-- What the strip boundary of a name gives: a wait for lanes, a trap, or the state with the front's new run, its entry and its window. -/
inductive Strip where
  | wait
  | trap (sub : Nat)
  | ok (s : State) (entry : Word) (width : Nat)

/-- The strip boundary (R161, R203). A partner that is bound and not started takes what is released (R228). A later CARVE of a bound name has no
effect here (R264). -/
def strip (v : VName) (s : State) : Strip :=
  let f := s.cur
  let e := s.me.effective v.toNat
  let new := (s.core (coreOf f)).newOwn f
  let width := (((s.core (coreOf f)).setOwn f new).window f).2
  if !dValid e then .trap 1
  else if new = 0 then .wait
  else
    match edgeBody e width with
    | some sub => .trap sub
    | none => .ok ((s.setOwn f new).regrow (partner f)) e width

/-- VL written by a grant (R161). -/
def State.setVl (s : State) (g : Nat) (e : Word) : State :=
  s.modFront s.cur fun x => { x with vl := word (g + dEw e * 2 ^ 9) }

/-- SETVL and SETVLI (R161). -/
def setVl (v : VName) (n : Nat) (d : SReg) (s : State) : Out :=
  match strip v s with
  | .wait => .next (s.blocked .lanes)
  | .trap sub => trapAt EDGE sub 0 s
  | .ok t e width =>
    let g := min n (min (vlmax width (dW e)) (dCap e))
    .next (((t.setVl g e).setReg d (word g)).advance)

/-- SETVL (R161). -/
def execSetvl (vd : VName) (b : SReg) (s : State) : Out := setVl vd (s.reg b).toNat b s
/-- SETVLI: 0 stands for 256 (R161). -/
def execSetvli (vd : VName) (n : BitVec 8) (s : State) : Out := setVl vd (counted n.toNat 256) 0 s

/-- LPREQ (R162, R201, R202). -/
def execLpreq (b : SReg) (s : State) : Out :=
  let n := (s.reg b).field 6 0
  let k := coreOf s.cur
  let x := s.core k
  let res := s.resident (partner s.cur)
  let t := if s.cur % 2 = 0 then (if res then min n ((56 - (64 - x.live)) / 8 * 8) else n)
    else (if res then max (64 - n) 8 else 64 - n)
  let ok := n % 8 == 0 && decide (8 ≤ n ∧ n ≤ 64) && !x.lock && targetOk x.live t (s.resident (2 * k)) (s.resident (2 * k + 1))
  .next (if ok then (s.modCore k fun x => { x with target := t }).settle (partner s.cur) else s).advance

/-! ### Whole names (R163 to R165) -/

/-- A list without the elements that equal the one before them. -/
def dedup (l : List Nat) : List Nat :=
  match l with
  | [] => []
  | [a] => [a]
  | a :: b :: r => if a = b then dedup (b :: r) else a :: dedup (b :: r)

/-- The cell list of a name (R163). Under R61 the rows of an entry are distinct, so a cell can only repeat next to itself. -/
def cellList (e : Word) (first : Nat) : List Nat := dedup ((List.range (dCap e)).flatMap (elemCells e first))

/-- A name that is checked under R61 alone (R156). -/
def nameSpec (u : NameUse) (regs : List SReg) : PushSpec := .plain [u.bare] regs

/-- RETAG (R163). -/
def retagRun (tag : BitVec 8) (e : QEntry) (f : Nat) : Run :=
  .whole (modify fun s =>
    let cells := cellList (e.name 0) e.cap.first
    (s.modCore (coreOf f) fun x => cells.foldl (fun x c => x.setTag c tag) x).modFront f fun y => y.markRows cells)

/-- PLZERO (R163). -/
def plzeroRun (e : QEntry) (f : Nat) : Run :=
  .whole (forUp (dCap (e.name 0)) 0 fun i => putTagged f e.cap.first (e.name 0) i 0 0)

/-- The translation context of a pushed instruction: the window and mode of its push (R70, R234). -/
def QEntry.ctx (e : QEntry) (s : State) (f : Nat) : Ctx :=
  ⟨.entry f e.vsn, f, (s.front f).asid, !e.cap.kern, e.cap.spbase.field 51 20 * 2 ^ 20⟩

/-- Every page of the bytes translated. -/
def touchPages (c : Ctx) (need : Need) (va n fuel : Nat) : M Unit :=
  match fuel with
  | 0 => pure ()
  | k + 1 =>
    if n = 0 then pure ()
    else do
      let _ ← translate c (va % 2 ^ 64) need
      let step := min n (65536 - va % 65536)
      touchPages c need (va + step) (n - step) k

/-- The check of R164 and the translation of the whole record (R165). -/
def recordCheck (e : QEntry) (f : Nat) (need : Need) : M Unit := do
  let b := (e.scal 0).toNat
  if b % 4 ≠ 0 then raise ALIGN 2 0 b
  let n := (cellList (e.name 0) e.cap.first).length
  touchPages (e.ctx (← get) f) need b (5 * n) (5 * n / 65536 + 2)

/-- PLSAVE (R164, R165): cell by cell, bits and tag; a fault of its accesses has TRAPELEM 0 (log 66). -/
def plsaveRun (e : QEntry) (f : Nat) : Run :=
  let cells := cellList (e.name 0) e.cap.first
  let b := (e.scal 0).toNat
  .steps (recordCheck e f .write) cells.length fun k => do
    let x := (← get).core (coreOf f)
    let key := cells.getD k 0
    match badCell? x [key] true with
    | some c => throw (.trap (planeErr e.cap.first c))
    | none =>
      let c := e.ctx (← get) f
      storeVa c ((b + 4 * k) % 2 ^ 64) 4 (x.cell key).toNat
      storeVa c ((b + 4 * cells.length + k) % 2 ^ 64) 1 (x.tag key).toNat

/-- The whole record read: the bits, or the tags, of its cells. -/
def readRecord (c : Ctx) (va size : Nat) (fuel : Nat) : M (List Nat) :=
  match fuel with
  | 0 => pure []
  | k + 1 => do
    let v ← loadVa c (va % 2 ^ 64) size
    return v :: (← readRecord c (va + size) size k)

/-- PLLOAD (R164, R165); a fault of its accesses has TRAPELEM 0 (log 66). -/
def plloadRun (e : QEntry) (f : Nat) : Run :=
  let cells := cellList (e.name 0) e.cap.first
  let b := (e.scal 0).toNat
  .whole do
    recordCheck e f .read
    let c := e.ctx (← get) f
    let words ← readRecord c b 4 cells.length
    let tags ← readRecord c (b + 4 * cells.length) 1 cells.length
    match (tags.zipIdx.find? fun p => !tagOk p.1) with
    | some p => raise FORMAT 4 p.2 0
    | none =>
      modify fun s =>
        (s.modCore (coreOf f) fun x => (cells.zip (words.zip tags)).foldl (fun (x : Core) p =>
          (x.setCell p.1 (BitVec.ofNat 32 p.2.1) true).setTag p.1 (BitVec.ofNat 8 p.2.2)) x).modFront f fun y => y.markRows cells

/-- RETAG (R163). -/
def execRetag (vd : VName) (tag : BitVec 8) (s : State) : Out := push (.retag vd tag) (nameSpec (asDst vd) []) s
/-- PLZERO (R163). -/
def execPlzero (vd : VName) (s : State) : Out := push (.plzero vd) (nameSpec (asDst vd) []) s
/-- PLSAVE (R164). -/
def execPlsave (vd : VName) (b : SReg) (s : State) : Out := push (.plsave vd b) (nameSpec (asSrc vd) [b]) s
/-- PLLOAD (R164). -/
def execPlload (vd : VName) (b : SReg) (s : State) : Out := push (.plload vd b) (nameSpec (asDst vd) [b]) s

/-! ### FVV, MWAIT and cupping lists -/

/-- An instruction that only waits (R224, R286). -/
def waitRun (_e : QEntry) (_f : Nat) : Run := .whole (pure ())

/-- FVV (R286). -/
def execFvv (scope : Scope) (s : State) : Out := push (.fvv scope) (noSpec []) s
/-- MWAIT (R224). -/
def execMwait (s : State) : Out := push .mwait (noSpec []) s

/-- A cupping list of a launch changed (R398). -/
def modCup (lid n : Nat) (g : List (Word × Word) → List (Word × Word)) (s : State) : State :=
  let l := s.launch lid
  s.setLaunch lid { l with cups := spSet [] l.cups n (g (spGet [] l.cups n)) }

/-- CUPADD (R398). -/
def cupaddRun (n : BitVec 2) (e : QEntry) (f : Nat) : Run :=
  .whole do
    let s ← get
    let a := e.scal 0
    let b := (e.scal 1).toNat
    let lid := (s.front f).lid
    if a.field 7 0 ≠ 0 then raise ALIGN 6 e.start a.toNat
    if b % 256 ≠ 0 ∨ b = 0 ∨ 2 ^ 40 - 256 < b ∨ 16 ≤ (spGet [] (s.launch lid).cups n.toNat).length then raise CAPACITY 21 e.start 0
    set (modCup lid n.toNat (· ++ [(a, e.scal 1)]) s)

/-- CUPCLR (R398). -/
def cupclrRun (n : BitVec 2) (_e : QEntry) (f : Nat) : Run :=
  .whole (modify fun s => modCup (s.front f).lid n.toNat (fun _ => []) s)

/-- CUPADD (R398). -/
def execCupadd (n : BitVec 2) (a b : SReg) (s : State) : Out := push (.cupadd n a b) (noSpec [a, b]) s
/-- CUPCLR (R398). -/
def execCupclr (n : BitVec 2) (s : State) : Out := push (.cupclr n) (noSpec []) s

end Sys2Proof.Machine
end

