-- ==== Sys2Proof/Machine/VecMem.lean ====
section
/-! DEFINITION. Vector memory: unit-stride and strided accesses (R173 to R175), layout records (R251 to R253), gathers and scatters
(R254, R255), scatter-adds (R256 to R258), Z-order tiles (R261), paired stores (R262, R263), streams (R264 to R268) and sliding windows
(R269, R270). -/

namespace Sys2Proof.Machine
open Fp (Flags)

/-! ### One element (R243, R244, R249) -/

/-- An element performed through the cluster's TLB is counted: 0 UNIT, 1 STRIDE, 2 INDEX (R244). -/
def countAt (c : Ctx) (which va : Nat) : M Unit :=
  if c.spbase ≤ va ∧ va < c.spbase + 327680 then pure () else modify fun s => countHot s c.fid which c.asid va

/-- An element's address that must be a multiple of its size (R174). -/
def aligned (n va : Nat) : M Unit := if va % n = 0 then pure () else raise ALIGN 2 0 va

/-- An element counted, unless it has been already and is performed again because of a resumption (R244). -/
def countOnce (again : Bool) (c : Ctx) (which va : Nat) : M Unit := if again then pure () else countAt c which va

def elemRead (c : Ctx) (again : Bool) (which n va : Nat) : M Nat := do
  aligned n va
  let v ← loadVa c va n
  countOnce again c which va
  return v

/-- An element stored; its cells are read once its address has passed every check (R243). -/
def elemWrite (c : Ctx) (again : Bool) (which n va : Nat) (v : M Nat) : M Unit := do
  aligned n va
  let l ← translate c va .write
  reachLoc l va
  writeLoc c.agent l n (← v) va
  countOnce again c which va

/-- A load: element i comes from the address that `addr i` gives (R175, R249). -/
def loadRun (which : Nat) (addr : Nat → M Nat) (e : QEntry) (f : Nat) : Run :=
  .elems e.vl 1 fun i => do
    let d := e.name 0
    if ← isActive f e i then
      let va ← addr i
      putKeep f e.cap.first d i (← elemRead (e.ctx (← get) f) (decide (i < e.counted)) which (dW d / 8) va)
    else if e.mode = 2 then putKeep f e.cap.first d i 0
    else pure ()

/-- A store of element i, whatever its tags (R175, R249). -/
def storeRun (which : Nat) (addr : Nat → M Nat) (e : QEntry) (f : Nat) : Run :=
  .elems e.vl 1 fun i => do
    let d := e.name 0
    if ← isActive f e i then
      let va ← addr i
      elemWrite (e.ctx (← get) f) (decide (i < e.counted)) which (dW d / 8) va (getElem' f e.cap.first d i)
    else pure ()

/-- An address modulo 2^64. -/
def addr64 (x : Int) : Nat := wrapTo 64 x

/-! ### VLD, VST, VLDS, VSTS (R173) -/

def unitAddr (e : QEntry) (i : Nat) : M Nat := pure (((e.scal 0).toNat + i * (dW (e.name 0) / 8)) % 2 ^ 64)
def strideAddr (e : QEntry) (i : Nat) : M Nat := pure (((e.scal 0).toNat + i * e.cap.vst.toNat) % 2 ^ 64)

/-- The byte of an element of 1, 2 or 4 bits, and its place in it. -/
def bitAddr (e : QEntry) (i : Nat) : Nat × Nat :=
  let b := i * dW (e.name 0)
  (((e.scal 0).toNat + b / 8) % 2 ^ 64, b % 8)

/-- A byte updated atomically at its home agent (R175): its bits of `mask` become those of `v`; to a peer, by an atomic (log 9). -/
def mergeBits (agent : Agent) (l : Loc) (va mask v : Nat) : M Unit :=
  let put (old : Nat) : Nat := old - Nat.land old mask + v
  match l with
  | .mem a => do
    checkWrite a 1 va
    modify fun s => s.write a (leBytes 1 (put (s.read a 1)))
  | .dev a => modify fun s => devWrite s .kernel a 1 v
  | .peer _ _ => do
    let _ ← atomicLoc agent l 1 va 32 (mask * 256 + v) fun old => some (put old)
    pure ()

/-- VLD. -/
def vldRun (e : QEntry) (f : Nat) : Run :=
  let d := e.name 0
  if 8 ≤ dW d then loadRun 0 (unitAddr e) e f
  else .elems e.vl 1 fun i => do
    if ← isActive f e i then
      let (va, o) := bitAddr e i
      let v ← elemRead (e.ctx (← get) f) (decide (i < e.counted)) 0 1 va
      putKeep f e.cap.first d i (v / 2 ^ o % 2 ^ dW d)
    else if e.mode = 2 then putKeep f e.cap.first d i 0
    else pure ()

/-- The elements of a store below the one at which the fill of its popped row has failed (R266). -/
def Front.filledTo (x : Front) (e : QEntry) : Nat :=
  (e.cap.pops.findSome? fun p => (x.binds.find? fun q => q.1 == p.1).bind fun q =>
    if q.2.fault.isSome && q.2.fillPos / dNelem q.2.ring == p.2 then some (q.2.fillPos % dNelem q.2.ring) else none).getD e.vl

/-- The active elements of a store that lie in the byte of element i. -/
def byteMates (x : Front) (e : QEntry) (i : Nat) : List Nat :=
  ((List.range (min e.vl (x.filledTo e))).drop e.start).filter fun j => (bitAddr e j).1 == (bitAddr e i).1 && activeIn e.mode (x.mask e.act) j

/-- What the elements of a byte put into it: a mask and the bits, up to the first element that cannot be read. -/
def byteBits (f : Nat) (e : QEntry) (js : List Nat) : M (Nat × Nat) := fun s =>
  match js with
  | [] => .ok ((0, 0), s)
  | j :: r =>
    match getElem' f e.cap.first (e.name 0) j s, byteBits f e r s with
    | .ok (v, _), .ok (p, _) =>
      let o := (bitAddr e j).2
      .ok ((p.1 + (2 ^ dW (e.name 0) - 1) * 2 ^ o, p.2 + v * 2 ^ o), s)
    | _, _ => .ok ((0, 0), s)

/-- VST. Elements of less than a byte are stored by one update of each byte that they share, made with the first of them (R175). One that a peer has
been asked for ends with its answer (R356). -/
def vstRun (e : QEntry) (f : Nat) : Run :=
  let d := e.name 0
  if 8 ≤ dW d then storeRun 0 (unitAddr e) e f
  else .elems e.vl 1 fun i => do
    if ← isActive f e i then
      let va := (bitAddr e i).1
      let c := e.ctx (← get) f
      let mates := byteMates ((← get).front f) e i
      if ((← get).asking c.agent).isSome then
        finishAtomic c.agent va
      else if mates.headD i = i then
        let l ← translate c va .write
        reachLoc l va
        let _ ← getElem' f e.cap.first d i
        let (mask, v) ← byteBits f e mates
        mergeBits c.agent l va mask v
      else
        let _ ← getElem' f e.cap.first d i
      countOnce (decide (i < e.counted)) c 0 va
    else pure ()

/-! ### Layout records (R251 to R253) -/

def recExt (w : Word) : Nat := w.field 63 40
def recStride (w : Word) : Int := signedOf 40 (w.field 39 0)

/-- The offset of a linear position. -/
def placeOff (ws : List Word) (n : Nat) : Int :=
  match ws with
  | [] => 0
  | w :: r => (n % recExt w : Nat) * recStride w + placeOff r (n / recExt w)

/-- Place(n). -/
def placeAt (base : Word) (ws : List Word) (n : Nat) : Nat := addr64 (base.toNat + placeOff ws n)

/-- Positions of a pattern. -/
def recLen (ws : List Word) : Nat := (ws.map recExt).foldl (· * ·) 1

/-- The record of name field `k`, read whole (R252). -/
def readLayout (e : QEntry) (f k : Nat) : M (List Word) :=
  atElem e.start (do
    let x := e.name k
    let ws ← readRun (dCap x) 0 fun i => do
      checkTags f e.cap.first x i (isIntTag 64)
      return word (← getElem' f e.cap.first x i)
    if 8 < dCap x ∨ ws.any (fun w => recExt w == 0) = true then raise CAPACITY 14 0 0
    return ws)

/-- The record, or the padding, does not fit the shape (R250). -/
def misfit (e : QEntry) (bad : Bool) (sub : Nat) : M Unit := if bad then raise CAPACITY sub e.start 0 else pure ()

/-! ### Gathers and scatters (R254, R255) -/

/-- X(i), signed or unsigned by the tag of its low cell. -/
def indexAt (f : Nat) (e : QEntry) (k i : Nat) : M Int := do
  let x := e.name k
  let w := dW x
  let t := ((← getTags f e.cap.first x i).headD 0).toNat
  let v ← getElem' f e.cap.first x i
  if t = intTag w then return signedOf w v
  else if t = uintTag w then return (v : Int)
  else raise FORMAT 0 i 0

/-- Addr(i). -/
def indexAddr (f : Nat) (e : QEntry) (i : Nat) : M Nat := do
  return addr64 ((e.scal 0).toNat + (← indexAt f e 1 i) * (dW (e.name 0) / 8 : Nat))

/-! ### Scatter-adds (R256 to R258) -/

/-- Add of a type: it wraps, or rounds with RNE. -/
def scAdd (ty : Nat) (env : Fp.Env) (x y : Nat) : Nat × Flags :=
  match idFloat ty with
  | some fmt => fpAdd fmt { env with rm := .rne } 0 x y 0
  | none => ((x + y) % 2 ^ idWidth ty, 0)

/-- A group of phase 2: its address, its location, the indices that name it, and its combined value. -/
structure ScGroup where
  va    : Nat
  loc   : Loc
  count : Nat
  value : Nat
  flags : Flags

/-- A FORMAT trap of element i, located by its index (R257). -/
def tagTrapAt {α : Type} (i : Nat) (m : M α) : M α := fun s =>
  match m s with
  | .error (.trap t) => .error (.trap (if t.cause = FORMAT then { t with addr := i } else t))
  | r => r

/-- One more element of an address, at the end of its group. -/
def scJoin (ty : Nat) (env : Fp.Env) (va : Nat) (l : Loc) (x : Nat) (gs : List ScGroup) : List ScGroup :=
  match gs with
  | [] => [⟨va, l, 1, x, 0⟩]
  | g :: r =>
    if g.va = va then
      (let (v, fl) := scAdd ty env g.value x
       { g with count := g.count + 1, value := v, flags := g.flags ||| fl } :: r)
    else g :: scJoin ty env va l x r

/-- Phase 1 of an element: its address, its location and its value. An error in a cell of vd comes after the checks of the address (R243). -/
def scElem (ty : Nat) (e : QEntry) (f i : Nat) : M (Nat × Loc × Nat) := do
  let va ← tagTrapAt i (do
    let va ← indexAddr f e i
    checkTagsSeen f e.cap.first (e.name 0) i (idTagOk ty)
    return va)
  aligned (dW (e.name 0) / 8) va
  let l ← translate (e.ctx (← get) f) va .both
  checkTags f e.cap.first (e.name 0) i (idTagOk ty)
  return (va, l, ← getElem' f e.cap.first (e.name 0) i)

/-- The same of an element whose checks have passed, in the middle of a group's update at a peer: no check can stop it now (R356). -/
def scSent (l : Loc) (e : QEntry) (f i : Nat) : M (Nat × Loc × Nat) := do
  let x := (← get).core (coreOf f)
  let v := x.elem (e.name 1) e.cap.first i
  let w := dW (e.name 1)
  let low := ((elemCells (e.name 1) e.cap.first i).map x.tag).headD 0
  let ix : Int := if low.toNat = intTag w then signedOf w v else v
  return (addr64 ((e.scal 0).toNat + ix * (dW (e.name 0) / 8 : Nat)), l, x.elem (e.name 0) e.cap.first i)

/-- Phases 1 and 2. -/
def scGroups (ty : Nat) (elem : Nat → M (Nat × Loc × Nat)) (e : QEntry) (f n i : Nat) (gs : List ScGroup) : M (List ScGroup) :=
  match n with
  | 0 => pure gs
  | k + 1 => do
    if ← isActive f e i then
      let (va, l, v) ← elem i
      scGroups ty elem e f k (i + 1) (scJoin ty e.env va l v gs)
    else scGroups ty elem e f k (i + 1) gs

/-- Elements of a group counted in their page's entry. -/
def countMany (c : Ctx) (which va n : Nat) : M Unit := forUp n 0 fun _ => countAt c which va

/-- Phase 3 of one group: an atomic update at its home agent, and its flags. -/
def scUpdate (ty : Nat) (e : QEntry) (f : Nat) (g : ScGroup) : M Nat := do
  let n := dW (e.name 0) / 8
  match g.loc with
  | .mem a => do
    let old ← readMem a n g.va
    let (v, fl) := scAdd ty e.env old g.value
    writeMem a n v g.va
    countMany (e.ctx (← get) f) 2 g.va g.count
    return fl
  | l => do
    let old ← atomicLoc (.entry f e.vsn) l n g.va (64 + ty) g.value fun old => some (scAdd ty e.env old g.value).1
    countMany (e.ctx (← get) f) 2 g.va g.count
    return (scAdd ty e.env old g.value).2

/-- The groups from number `k` on. Each one applied is counted with the instruction's progress (R257), and the flags of its Add are kept
until the instruction completes (R256). A group whose peer no live link reaches stops it with ACCESS, SUB 8, in the same way (DEDUCED, log 81). -/
def scApply (ty : Nat) (e : QEntry) (f : Nat) (gs : List ScGroup) (k fl : Nat) : (Nat → M Unit) → State → State × Nat × Option Stop := fun last s =>
  match gs with
  | [] =>
    match last fl s with
    | .ok (_, t) => (t, e.vl, none)
    | .error st => (s, e.start, some st)
  | g :: r =>
    match atElem e.start (do
        let more ← scUpdate ty e f g
        setEntryM f e fun y => { y with aux := k + 1, flags := Nat.lor fl more }
        return more) s with
    | .ok (more, t) => scApply ty e f r (k + 1) (Nat.lor fl more) last t
    | .error st => (s, e.start, some st)

/-- VSCADD. A group that a peer has been asked for is finished by itself; the instruction then goes on (R356). -/
def vscaddRun (ty : BitVec 5) (e : QEntry) (f : Nat) : Run :=
  .part fun _ s =>
    let sent := s.asking (.entry f e.vsn)
    let elem := match sent with
      | some l => scSent l e f
      | none => scElem ty.toNat e f
    match atElem e.start (scGroups ty.toNat elem e f (e.vl - e.start) e.start []) s with
    | .error st => (s, e.start, some st)
    | .ok (gs, t) =>
      if sent.isSome then
        (scApply ty.toNat e f ((gs.drop e.aux).take 1) e.aux e.flags (fun _ => waitMore) t)
      else
        scApply ty.toNat e f (gs.drop e.aux) e.aux e.flags (fun fl => orFlagsM f (gs.foldl (fun fl g => Nat.lor fl g.flags) fl)) t

/-! ### Z-order tiles (R261) -/

/-- The interleaved low `q` bits of row and column. -/
def interleave (q r c : Nat) : Nat :=
  match q with
  | 0 => 0
  | k + 1 => c % 2 + r % 2 * 2 + 4 * interleave k (r / 2) (c / 2)

/-- Z(r, c). -/
def zOrder (q r c : Nat) : Nat := interleave q r c + (c / 2 ^ q + r / 2 ^ q) * 2 ^ (2 * q)

def tileSide (n : Nat) : Bool := n == 4 || n == 8 || n == 16 || n == 32 || n == 64 || n == 128 || n == 256

/-- The record of VLDZ and VSTZ. One that breaks several rules of R252 and of the instruction raises SUB 14 for D above 8 or an EXT of 0, then SUB 15 for
its D, then SUB 14 for a reserved field, then SUB 15 for the rest (DESIGN CHOICE, log 80). -/
def tileRecord (e : QEntry) (f : Nat) : M (List Word) := do
  let ws ← readLayout e f 1
  misfit e (ws.length != 2) 15
  let c := ws.getD 0 0
  let r := ws.getD 1 0
  misfit e (c.field 39 1 != 0 || r.field 39 0 != 0) 14
  misfit e (!tileSide (recExt c) || !tileSide (recExt r) || decide (recExt r * recExt c < e.vl)) 15
  return ws

/-- The address of element i of a tile. -/
def tileAddr (e : QEntry) (i : Nat) : M Nat :=
  let w0 := e.record.getD 0 0
  let zc := recExt w0
  let zr := recExt (e.record.getD 1 0)
  let q := min (Nat.log2 zr) (Nat.log2 zc)
  let z := if w0.flag 0 then zOrder q (i % zr) (i / zr) else zOrder q (i / zc) (i % zc)
  pure (((e.scal 0).toNat + z * (dW (e.name 0) / 8)) % 2 ^ 64)

/-! ### Paired stores (R262, R263) -/

/-- The record of VSTPAIR. -/
def pairRecord (e : QEntry) (f : Nat) : M (List Word) := do
  let ws ← readLayout e f 1
  let x (k : Nat) : Nat := recExt (ws.getD k 0)
  misfit e (ws.length != 4) 15
  misfit e (x 2 != x 0 || x 3 != x 1 || decide (x 0 * x 1 < e.vl)) 15
  return ws

/-- P(i) and Q(i). -/
def pairAddr (e : QEntry) (i : Nat) : Nat × Nat :=
  let st (k : Nat) : Int := recStride (e.record.getD k 0)
  let c := recExt (e.record.getD 0 0)
  let x : Int := (i % c : Nat)
  let y : Int := (i / c : Nat)
  (addr64 ((e.scal 0).toNat + x * st 0 + y * st 1), addr64 ((e.scal 1).toNat + x * st 2 + y * st 3))

/-- VSTPAIR: an element that fails a check of either copy goes to neither. -/
def vstpairRun (e : QEntry) (f : Nat) : Run :=
  .elems e.vl 1 fun i => do
    if ← isActive f e i then
      let n := dW (e.name 0) / 8
      let (p, q) := pairAddr e i
      let c := e.ctx (← get) f
      aligned n p
      let lp ← translate c p .write
      checkLoc lp n p
      aligned n q
      let lq ← translate c q .write
      checkLoc lq n q
      let v ← getElem' f e.cap.first (e.name 0) i
      writeLoc c.agent lp n v p
      writeLoc c.agent lq n v q
      let again := decide (i < e.counted)
      countOnce again c 0 p
      let entry (va : Nat) : M (Option Tlb) := do return usedEntry (← get) f c.asid va
      let u ← entry p
      let w ← entry q
      let once := u.any fun t => w.any t.samePage
      if once && !(decide (c.spbase ≤ p) && decide (p < c.spbase + 327680)) then pure () else countOnce again c 0 q
    else pure ()

/-! ### Sliding windows (R269, R270) -/

/-- Y of the captured VST. -/
def winY (e : QEntry) : Int := signedOf 16 (e.cap.vst.field 47 32)

/-- The record of VLDW. -/
def windowRecord (e : QEntry) (f : Nat) : M (List Word) := do
  let ws ← readLayout e f 1
  let p (hi lo : Nat) : Nat := e.cap.vst.field hi lo
  let x (k : Nat) : Nat := recExt (ws.getD k 0)
  misfit e (ws.length != 3) 15
  misfit e (!(x 0 == 16 || x 0 == 32) || p 31 25 != 0 || decide (winY e < -(p 17 12 : Nat)) ||
    decide ((x 2 : Int) - 1 + (p 23 18 : Nat) < winY e) || decide (x 0 * (p 5 0 + x 1 + p 11 6) < e.vl)) 15
  return ws

/-- The address of element i, or `none` where it is padding. -/
def windowAddr (e : QEntry) (i : Nat) : Option Nat :=
  let w (k : Nat) : Word := e.record.getD k 0
  let cb := recExt (w 0)
  let x : Int := (i / cb : Nat) - (e.cap.vst.field 5 0 : Nat)
  let y := winY e
  if y < 0 ∨ recExt (w 2) ≤ y ∨ x < 0 ∨ recExt (w 1) ≤ x then none
  else some (addr64 ((e.scal 0).toNat + (i % cb : Nat) * recStride (w 0) + x * recStride (w 1) + y * recStride (w 2)))

/-- The padding value at a width. -/
def padValue (vst : Word) (w : Nat) : Nat :=
  if vst.flag 24 then (if w = 32 then vst.field 63 48 * 2 ^ 16 else vst.field 63 48 % 2 ^ w) else 0

/-- VLDW. -/
def vldwRun (e : QEntry) (f : Nat) : Run :=
  .elems e.vl 1 fun i => do
    let d := e.name 0
    if ← isActive f e i then
      match windowAddr e i with
      | none => putKeep f e.cap.first d i (padValue e.cap.vst (dW d))
      | some va => putKeep f e.cap.first d i (← elemRead (e.ctx (← get) f) (decide (i < e.counted)) 0 (dW d / 8) va)
    else if e.mode = 2 then putKeep f e.cap.first d i 0
    else pure ()

/-! ### Streams (R264 to R268) -/

/-- A binding of the front changed. -/
def Front.modBind (x : Front) (k : Nat) (g : Binding → Binding) : Front :=
  { x with binds := x.binds.map fun p => if p.1 = k then (p.1, g p.2) else p }

/-- The lowest binding number that is free. -/
def Front.freeBind (x : Front) : Option Nat := (List.range 4).find? fun k => !(x.binds.any fun p => p.1 == k)

/-- SBIND reads its record at issue. -/
def sbindRun (e : QEntry) (f : Nat) : Run :=
  .whole do
    let ws ← readLayout e f 1
    modify fun s => s.modFront f fun x => x.modBind ((e.record.getD 0 0).toNat) fun b => { b with record := ws, ready := true }

/-- SUNBIND ends the binding. -/
def sunbindRun (e : QEntry) (f : Nat) : Run :=
  .whole (modify fun s => s.modFront f fun x =>
    match e.record with
    | [] => x
    | k :: _ => { x with binds := x.binds.filter fun p => p.1 != k.toNat })

/-- Every instruction of a front that has not ended: queued or suspended. -/
def Front.pendingAll (x : Front) : List QEntry := (x.queue ++ x.userSet ++ x.kernelSet).filter fun e => !e.done

/-- Rows popped that are not filled yet (R266). Those of an instruction that is done have been, and their binding may have ended since. -/
def Front.unfilled (x : Front) (y : QEntry) : List (Binding × Nat) :=
  (if y.done then [] else y.cap.pops).filterMap fun p =>
    match (x.binds.find? fun q => q.1 == p.1).map (·.2) with
    | some b => if b.fillPos < (p.2 + 1) * dNelem b.ring then some (b, p.2) else none
    | none => none

/-- The filler may fill its next row: a row within the ring's depth of the cursor, or one popped before SUNBIND, whose last strip in that
ring row has been read, and whose failure no instruction has still to report (R266). -/
def Front.fillable (x : Front) (k : Nat) (b : Binding) : Bool :=
  let r := b.fillPos / dNelem b.ring
  let n := dRows b.ring
  b.ready && !b.store && b.fault.isNone && decide (r < b.count + (if b.closing then 0 else n)) &&
    !(x.pendingAll.any fun e => e.cap.pops.any fun p => p.1 == k && (decide (p.2 + n ≤ r) || (p.2 == r && e.trap.isSome)))

/-- The filler's next element. -/
def fillBody (f : Nat) (b : Binding) (c : Ctx) (p : Nat) : M Unit := do
  let n := dNelem b.ring
  let i := p / n % dRows b.ring * n + p % n
  if p < recLen b.record then
    let v ← elemRead c false 0 (dW b.ring / 8) (placeAt b.base b.record p)
    putKeep f b.first b.ring i v
  else putKeep f b.first b.ring i 0

/-- The number of the instruction that has popped a row of a binding, or 0 (R376; DESIGN CHOICE, log 42). -/
def Front.popper (x : Front) (k row : Nat) : Nat :=
  ((x.pendingAll.find? fun e => e.cap.pops.contains (k, row)).map (·.vsn.toNat)).getD 0

/-- The filler of binding `k` fills the rest of its next row, as far as it can; a whole row is one beat (R271). An error in storage that it meets is
recorded then (R376). -/
def streamFillStep (s : State) (f k : Nat) : State :=
  let x := s.front f
  match (x.binds.find? fun p => p.1 == k).map (·.2) with
  | none => s
  | some b =>
    if !x.fillable k b then s
    else
      let n := dNelem b.ring
      let c : Ctx := ⟨.filler f k, f, x.asid, !b.kern, b.spbase.field 51 20 * 2 ^ 20⟩
      let (t, p, st) := bodyLoop false 1 (fillBody f b c) (n - b.fillPos % n) b.fillPos s
      let fault := match st with
        | some (.trap t) => some { t with elem := p % n }
        | _ => none
      let t := match fault with
        | some r => logTrap t f r (x.popper k (p / n))
        | none => t
      let t := t.modFront f fun x => (x.addCounter 12 (p / n - b.fillPos / n)).modBind k fun b => { b with fillPos := p, fault := fault }
      match st with
      | some (.wait (some r)) => t.request r
      | _ => t

/-- Element j of a STORE strip stored at its place in the pattern; positions beyond it are discarded (R265, R267). -/
def stripStore (f : Nat) (e : QEntry) (b : Binding) (strip : Word) (pos j : Nat) : M Unit := do
  if pos + j < recLen b.record then
    elemWrite (e.ctx (← get) f) (decide (j < e.countedS)) 0 (dW strip / 8) (placeAt b.base b.record (pos + j))
      (getElem' f e.cap.first strip j)
  else pure ()

/-! ### Push checks (R249, R254, R256, R264) -/

/-- The first of the width failures. -/
def firstWidth (l : List (Bool × Nat × Nat)) : Option (Nat × Nat) := (l.find? (·.1)).map (·.2)

/-- An element width of 1, 2 or 4 bits (R249). -/
def narrowEw (c : Capture) : Bool × Nat × Nat := (decide (dW (c.names.getD 0 0) < 8), ALIGN, 3)
/-- A second name whose width is not among those given. -/
def secondEw (c : Capture) (ws : List Nat) : Bool × Nat × Nat := (!ws.contains (dW (c.names.getD 1 0)), FORMAT, 3)

/-- VLD and VST. -/
def unitMem (u : NameUse) (a : SReg) : PushSpec := .plain [u] [a]
/-- VLDS and VSTS. -/
def strideMem (u : NameUse) (a : SReg) : PushSpec := { unitMem u a with width := fun c => firstWidth [narrowEw c] }
/-- VLDX and VSTX, with an index name (R254). -/
def indexMem (u : NameUse) (a : SReg) (vx : VName) : PushSpec :=
  { PushSpec.plain [u.anyEw, (asSrc vx).anyEw] [a] with width := fun c => firstWidth [narrowEw c, secondEw c [16, 32, 64]] }
/-- VSCADD (R256). A vd of 1, 2 or 4 bits has no type's width, which is FORMAT with SUB 3: it is found before ALIGN with SUB 3 of R249 (DEDUCED,
log 67). -/
def scaddMem (vd : VName) (a : SReg) (vx : VName) (ty : Nat) : PushSpec :=
  { PushSpec.plain [(asSrc vd).anyEw, (asSrc vx).anyEw] [a] with
    width := fun c => firstWidth [(dW (c.names.getD 0 0) != idWidth ty, FORMAT, 3), secondEw c [16, 32, 64]] }
/-- An instruction with a layout record (R252). -/
def recordMem (u : NameUse) (regs : List SReg) (vx : VName) : PushSpec :=
  { PushSpec.plain [u.anyEw, (asSrc vx).bare] regs with width := fun c => firstWidth [narrowEw c, secondEw c [64]] }
/-- VLDW (R269). A vd of 1, 2 or 4 bits is FORMAT with SUB 5, found before ALIGN with SUB 3 of R249 (DEDUCED, log 67). -/
def windowMem (vd : VName) (a : SReg) (vx : VName) : PushSpec :=
  { recordMem (asDst vd) [a] vx with
    width := fun c =>
      let w := dW (c.names.getD 0 0)
      firstWidth [(w != 8 && w != 16 && w != 32, FORMAT, 5), secondEw c [64]] }

/-! ### The pushes -/

/-- VLD (R173). -/
def execVld (vd : VName) (a : SReg) (s : State) : Out := push (.vld vd a) (unitMem (asDst vd) a) s
/-- VST (R173). -/
def execVst (vd : VName) (a : SReg) (s : State) : Out := push (.vst vd a) (unitMem (asSrc vd) a) s
/-- VLDS (R173). -/
def execVlds (vd : VName) (a : SReg) (s : State) : Out := push (.vlds vd a) (strideMem (asDst vd) a) s
/-- VSTS (R173). -/
def execVsts (vd : VName) (a : SReg) (s : State) : Out := push (.vsts vd a) (strideMem (asSrc vd) a) s
/-- VLDX (R255). -/
def execVldx (vd : VName) (a : SReg) (vx : VName) (s : State) : Out := push (.vldx vd a vx) (indexMem (asDst vd) a vx) s
/-- VSTX (R255). -/
def execVstx (vd : VName) (a : SReg) (vx : VName) (s : State) : Out := push (.vstx vd a vx) (indexMem (asSrc vd) a vx) s
/-- VSCADD (R256). -/
def execVscadd (vd : VName) (a : SReg) (vx : VName) (ty : BitVec 5) (s : State) : Out :=
  push (.vscadd vd a vx ty) (scaddMem vd a vx ty.toNat) s
/-- VLDZ (R261). -/
def execVldz (vd : VName) (a : SReg) (vx : VName) (s : State) : Out := push (.vldz vd a vx) (recordMem (asDst vd) [a] vx) s
/-- VSTZ (R261). -/
def execVstz (vd : VName) (a : SReg) (vx : VName) (s : State) : Out := push (.vstz vd a vx) (recordMem (asSrc vd) [a] vx) s
/-- VSTPAIR (R263). -/
def execVstpair (vd : VName) (a : SReg) (vx : VName) (s : State) : Out :=
  push (.vstpair vd a vx) (recordMem (asSrc vd) [a, a + 1] vx) s
/-- VLDW (R270). -/
def execVldw (vd : VName) (a : SReg) (vx : VName) (s : State) : Out := push (.vldw vd a vx) (windowMem vd a vx) s

/-- A name that an instruction neither reads nor writes as an operand. -/
def asNone (v : VName) : NameUse := ⟨v, false, false, false, true, true⟩

/-- SBIND's own check: a rectangle of two rows or more, not yet bound, and fewer than four bindings (R264). -/
def sbindBad (x : Front) (vd : VName) (e : Word) : Bool :=
  dKind e != 0 || decide (dRows e < 2) || (x.bindOf vd.toNat).isSome || decide (4 ≤ (x.binds.filter fun p => !p.2.closing).length)

/-- The push checks of SBIND. -/
def sbindSpec (x : Front) (vd : VName) (a : SReg) (vx : VName) : PushSpec :=
  { PushSpec.plain [asNone vd, (asSrc vx).bare] [a] with
    width := fun c => firstWidth [narrowEw c, secondEw c [64]]
    own := fun c => pushTrap (sbindBad x vd (c.names.getD 0 0)) CAPACITY 16 (c.vstart.field 8 0) 0 }

/-- The queue's last entry changed. -/
def Front.modLast (x : Front) (g : QEntry → QEntry) : Front := x.modEntry (x.vsn - 1) g

/-- The front that has pushed an SBIND, with its new binding `k` (R264, R265). -/
def Front.bound (x : Front) (k : Nat) (vd : VName) (store : Bool) (c : Capture) : Front :=
  let b : Binding :=
    { name := vd.toNat, store := store, count := 0, pos := 0, fillPos := 0, base := c.scalars.getD 0 0, ring := c.names.getD 0 0
      first := c.first, spbase := c.spbase, kern := c.kern, record := [], ready := false, closing := false, fault := none }
  ({ x with binds := x.binds.filter (fun p => decide (p.1 < k)) ++ [(k, b)] ++ x.binds.filter (fun p => decide (k < p.1)) } : Front).modLast
    fun e => { e with record := [word k] }

/-- SBIND (R264): it waits while a fourth binding that SUNBIND is to end still stands. -/
def execSbind (vd : VName) (a : SReg) (vx : VName) (store : Bool) (s : State) : Out :=
  let x := s.me
  let p := sbindSpec x vd a vx
  let c := x.capture (s.window s.cur) p
  match x.freeBind with
  | none => if (x.pushCheck c p).isSome then push (.sbind vd a vx store) p s else .next (s.blocked .retry)
  | some k =>
    if 64 ≤ x.queue.length ∨ (x.pushCheck c p).isSome = true then push (.sbind vd a vx store) p s
    else .next (s.setFront s.cur ((x.pushed (.sbind vd a vx store) s.clock c).bound k vd store c))

/-- The front that has pushed a SUNBIND of binding `k`. -/
def Front.unbinding (x : Front) (k : Nat) : Front :=
  (x.modBind k fun b => { b with closing := true }).modLast fun e => { e with record := [word k] }

/-- SUNBIND (R268): the name is unbound for every later push. -/
def execSunbind (vd : VName) (s : State) : Out :=
  let x := s.me
  let p : PushSpec := { PushSpec.plain [asNone vd] [] with width := fun c => firstWidth [narrowEw c] }
  let c := x.capture (s.window s.cur) p
  match x.bindOf vd.toNat with
  | none => push (.sunbind vd) p s
  | some (k, _) =>
    if 64 ≤ x.queue.length ∨ (x.pushCheck c p).isSome = true then push (.sunbind vd) p s
    else .next (s.setFront s.cur ((x.pushed (.sunbind vd) s.clock c).unbinding k))

end Sys2Proof.Machine
end

