-- ==== Sys2Proof/Machine/Aged.lean ====
section
/-! DEFINITION. Aged words: their fields (R94), decay (R311, R312), and the aged-word memory instructions (R313 to R315). -/

namespace Sys2Proof.Machine
open Fp (Flags)

/-! ### Arithmetic that rounds to FP32 with RNE, with no flushing (R312, R317) -/

def rne (v : Fp.Val × Flags) : Nat × Flags := roundRes .fp32 Fp.rneEnv 0 0 v
def val32 (c : Nat) : Fp.Val := Fp.decode .fp32 c
def mul32 (x y : Nat) : Nat × Flags := rne (Fp.mul (val32 x) (val32 y))
def add32 (x y : Nat) : Nat × Flags := rne (Fp.add .rne (val32 x) (val32 y))
/-- +0 and 1.0 in FP32. -/
def one32 : Nat := 0x3F800000

/-! ### Fields (R94) -/

/-- VALUE as FP32; a BF16 value is widened. -/
def awValue (w32 : Bool) (q : Nat) : Nat := if w32 then q % 2 ^ 16 * 2 ^ 16 else q % 2 ^ 32
def awStamp (w32 : Bool) (q : Nat) : Nat := if w32 then bits q 27 16 else bits q 55 32
def awDsel (w32 : Bool) (q : Nat) : Nat := if w32 then bits q 31 28 else bits q 59 56
def awValid (w32 : Bool) (q : Nat) : Bool := w32 || bit q 60
def awPoison (w32 : Bool) (q : Nat) : Bool := !w32 && bit q 61
/-- Bits of a stamp. -/
def awBits (w32 : Bool) : Nat := if w32 then 12 else 24
/-- The stale bound H (R311). -/
def awH (w32 : Bool) : Nat := 2 ^ (awBits w32 - 1)
/-- Bytes of a word. -/
def awBytes (w32 : Bool) : Nat := if w32 then 4 else 8

/-- A VALUE as it is stored: rounded to BF16 in an AW32. -/
def awStore (w32 : Bool) (v : Nat) : Nat × Flags := if w32 then Fp.round .bf16 Fp.rneEnv 0 0 (val32 v) else (v, 0)

/-- The exact sum of two FP32 values, rounded once to the format of VALUE, without FZO, which is DEDUCED (R314, R315; logs 17 and 64). -/
def awSum (w32 : Bool) (x y : Fp.Val) : Nat × Flags :=
  roundRes (if w32 then .bf16 else .fp32) Fp.rneEnv 0 0 (Fp.add .rne x y)

/-- A word of its fields; the step is taken modulo the stamp's width. -/
def awMake (w32 : Bool) (stored step dsel : Nat) (valid poison : Bool) : Nat :=
  if w32 then stored + step % 2 ^ 12 * 2 ^ 16 + dsel * 2 ^ 28
  else stored + step % 2 ^ 24 * 2 ^ 32 + dsel * 2 ^ 56 + b2n valid * 2 ^ 60 + b2n poison * 2 ^ 61

/-! ### Decay (R311, R312) -/

/-- The age of a word at a step. -/
def age (w32 : Bool) (step q : Nat) : Nat := (step + 2 ^ awBits w32 - awStamp w32 q) % 2 ^ awBits w32
/-- A word is stale. -/
def isStale (w32 : Bool) (step q : Nat) : Bool := decide (awH w32 ≤ age w32 step q)

/-- Pow over `n` bits of the age. -/
def powLoop (n delta r p : Nat) : Nat :=
  match n with
  | 0 => r
  | k + 1 => powLoop k (delta / 2) (if delta % 2 = 1 then (mul32 r p).1 else r) (mul32 p p).1

/-- Pow(β, Δ). -/
def agePow (w32 : Bool) (beta delta : Nat) : Nat := powLoop (awBits w32 - 1) delta one32 beta

/-- β of a selector, as captured (R308, R309). -/
def betaOf (decay : List Word) (dsel : Nat) : Nat := (decay.getD dsel 0).field 31 0

/-- Decayed(q): the value, the offender bit, and the flags of the final product. -/
def decayed (w32 : Bool) (decay : List Word) (step q : Nat) : Nat × Bool × Flags :=
  let x := awValue w32 q
  if !awValid w32 q then (0, false, 0)
  else if isStale w32 step q then (x, true, 0)
  else
    let (v, fl) := mul32 x (agePow w32 (betaOf decay (awDsel w32 q)) (age w32 step q))
    (v, awPoison w32 q, fl)

/-! ### What the instructions write (R314, R315): the word, if any, the offender bit and the flags -/

abbrev AgedEffect := Option Nat × Bool × Flags

/-- AGST. FZI acts on the operand that an AW32 rounds (R85), and not on the copy of an AW64 (DEDUCED, log 64). -/
def agStore (w32 fzi : Bool) (step x q : Nat) : AgedEffect :=
  let (v, fl) := awStore w32 (Fp.flushCode .fp32 (w32 && fzi) x)
  (some (awMake w32 v step (awDsel w32 q) true false), false, fl)

/-- AGADD. FZI acts on the operand of the sum (R85), and on nothing of the word (R312). -/
def agAdd (w32 fzi : Bool) (decay : List Word) (step x q : Nat) : AgedEffect :=
  if !awValid w32 q then agStore w32 fzi step x q
  else
    let (d, _, f1) := decayed w32 decay step q
    let (v, f2) := awSum w32 (val32 d) (Fp.operand .fp32 fzi x)
    (some (awMake w32 v step (awDsel w32 q) true (awPoison w32 q)), isStale w32 step q, f1 ||| f2)

/-- What a word contributes to a merge, decayed by the ages beyond the younger word's (R315). -/
def contribution (w32 : Bool) (beta step young y : Nat) : Nat × Flags :=
  if isStale w32 step y then (awValue w32 y, 0) else mul32 (awValue w32 y) (agePow w32 beta (age w32 step y - young))

/-- AGMERGE of word p into word q. -/
def agMerge (w32 : Bool) (decay : List Word) (step p q : Nat) : AgedEffect :=
  if !awValid w32 p then (none, false, 0)
  else if !awValid w32 q then (some (p % 2 ^ 62), false, 0)
  else
    let dp := age w32 step p
    let dq := age w32 step q
    let l := if dq ≤ dp then q else p
    let beta := betaOf decay (awDsel w32 q)
    let (x, f1) := contribution w32 beta step (min dp dq) p
    let (y, f2) := contribution w32 beta step (min dp dq) q
    let (v, f3) := awSum w32 (val32 x) (val32 y)
    let both := isStale w32 step p && isStale w32 step q
    (some (awMake w32 v (if both then step else awStamp w32 l) (awDsel w32 q) true (awPoison w32 p || awPoison w32 q)),
      isStale w32 step p || isStale w32 step q, f1 ||| f2 ||| f3)

/-! ### The instructions (R313) -/

def agedAddr (w32 : Bool) (e : QEntry) (i : Nat) : Nat := ((e.scal 0).toNat + i * awBytes w32) % 2 ^ 64

/-- AGLD. -/
def agldRun (w32 : Bool) (e : QEntry) (f : Nat) : Run :=
  .elems e.vl 1 fun i => do
    let d := e.name 0
    if ← isActive f e i then
      let q ← elemRead (e.ctx (← get) f) (decide (i < e.counted)) 0 (awBytes w32) (agedAddr w32 e i)
      let (v, off, fl) := decayed w32 e.cap.decay e.cap.gstep.toNat q
      putTagged f e.cap.first d i v (fpTag .fp32)
      if off then offend f e i
      orFlagsM f fl
    else if e.mode = 2 then putKeep f e.cap.first d i 0
    else pure ()

/-- The place and the operand of an element of an aged-word read-modify-write, checked in the order of R243: an error in a cell of vd comes last.
Those of one that a peer has been asked for are checked no more (R356). -/
def agedGoal (w32 checked : Bool) (e : QEntry) (f i : Nat) : M (Loc × Nat) := do
  let va := agedAddr w32 e i
  let c := e.ctx (← get) f
  match (← get).asking c.agent with
  | some l => return (l, ((← get).core (coreOf f)).elem (e.name 0) e.cap.first i)
  | none =>
    if checked then checkTagsSeen f e.cap.first (e.name 0) i (· == fpTag .fp32)
    aligned (awBytes w32) va
    let l ← translate c va .both
    reachLoc l va
    if checked then checkTags f e.cap.first (e.name 0) i (· == fpTag .fp32)
    return (l, ← getElem' f e.cap.first (e.name 0) i)

/-- An atomic read-modify-write of each active element's word; `code` names the operation to a peer. -/
def agedRmw (w32 : Bool) (code : Nat) (checked : Bool) (g : Nat → Nat → AgedEffect) (e : QEntry) (f : Nat) : Run :=
  .elems e.vl 1 fun i => do
    if ← isActive f e i then
      let va := agedAddr w32 e i
      let (l, x) ← agedGoal w32 checked e f i
      let old ← atomicLoc (.entry f e.vsn) l (awBytes w32) va (code + b2n w32) x fun q => (g x q).1
      countOnce (decide (i < e.counted)) (e.ctx (← get) f) 0 va
      let (_, off, fl) := g x old
      if off then offend f e i
      orFlagsM f fl
    else pure ()

/-- AGST. -/
def agstRun (w32 : Bool) (e : QEntry) (f : Nat) : Run := agedRmw w32 128 true (agStore w32 e.env.fzi e.cap.gstep.toNat) e f
/-- AGADD. -/
def agaddRun (w32 : Bool) (e : QEntry) (f : Nat) : Run := agedRmw w32 130 true (agAdd w32 e.env.fzi e.cap.decay e.cap.gstep.toNat) e f
/-- AGMERGE. -/
def agmergeRun (w32 : Bool) (e : QEntry) (f : Nat) : Run :=
  agedRmw w32 132 false (agMerge w32 e.cap.decay e.cap.gstep.toNat) e f

/-- The push checks: the width of vd is `w`. A vd of 1, 2 or 4 bits is FORMAT with SUB 3, found before ALIGN with SUB 3 of R249 (DEDUCED, log 67). -/
def agedMem (u : NameUse) (a : SReg) (w : Nat) : PushSpec :=
  { unitMem u a with width := fun c => if dW (c.names.getD 0 0) ≠ w then some (FORMAT, 3) else none }

/-- AGLD (R314). -/
def execAgld (vd : VName) (a : SReg) (w32 : Bool) (s : State) : Out := push (.agld vd a w32) (agedMem (asDst vd) a 32) s
/-- AGST (R314). -/
def execAgst (vd : VName) (a : SReg) (w32 : Bool) (s : State) : Out := push (.agst vd a w32) (agedMem (asSrc vd) a 32) s
/-- AGADD (R314). -/
def execAgadd (vd : VName) (a : SReg) (w32 : Bool) (s : State) : Out := push (.agadd vd a w32) (agedMem (asSrc vd) a 32) s
/-- AGMERGE (R315). -/
def execAgmerge (vd : VName) (a : SReg) (w32 : Bool) (s : State) : Out :=
  push (.agmerge vd a w32) (agedMem (asSrc vd) a (if w32 then 32 else 64)) s

end Sys2Proof.Machine
end

