-- ==== Sys2Proof/Machine/Convert.lean ====
section
/-! DEFINITION. Conversions between formats, bit planes and block scales (R182 to R187). -/

namespace Sys2Proof.Machine
open Fp (Env)

/-! ### Narrow groups (R92, R183) -/

/-- Bits of a code that a name of a group carries: width, lowest code bit, PART (R92). -/
abbrev PlaneShape := Nat × Nat × Nat

/-- The plane names of group `k` with their shapes. -/
def QEntry.planes (e : QEntry) (k : Nat) : List (Word × PlaneShape) := (e.group k).zip (planesOf (nW e.cap.fmt))

/-- A code written into the planes of a group, with the tags of slot `n` (R92, R185). -/
def putPlanes (f first n i code : Nat) (ps : List (Word × PlaneShape)) : M Unit :=
  match ps with
  | [] => pure ()
  | (w, wd, lo, part) :: r => do
    putTagged f first w i (code / 2 ^ lo % 2 ^ wd) (slotTag n part)
    putPlanes f first n i code r

/-- The tags of the planes checked, in the order of the group (R64, R92). -/
def checkPlanes (f first n i : Nat) (ps : List (Word × PlaneShape)) : M Unit :=
  match ps with
  | [] => pure ()
  | (w, _, _, part) :: r => do
    checkTags f first w i (· == slotTag n part)
    checkPlanes f first n i r

/-- A code joined from the planes of a group. -/
def getPlanes (f first i : Nat) (ps : List (Word × PlaneShape)) : M Nat :=
  match ps with
  | [] => pure 0
  | (w, _, lo, _) :: r => do
    let v ← getElem' f first w i
    return v * 2 ^ lo + (← getPlanes f first i r)

/-- The scale name of a group, which comes last (R183). -/
def QEntry.scaleName (e : QEntry) (k : Nat) : Word := (e.group k).getLastD 0

/-- The E8 tag of the scale of element i, when the slot has blocks. -/
def checkScale (f : Nat) (e : QEntry) (k i : Nat) : M Unit :=
  if nBlock e.cap.fmt = 0 then pure ()
  else checkTags f e.cap.first (e.scaleName k) (i / blockLen e.cap.fmt) (· == e8Tag)

/-- The scale of element i as a power of two; 0xFF raises RESERVED_CODE with SUB 1 (R79, R184). -/
def getScale (f : Nat) (e : QEntry) (k i : Nat) : M Int :=
  if nBlock e.cap.fmt = 0 then pure 0
  else do
    let c ← getElem' f e.cap.first (e.scaleName k) (i / blockLen e.cap.fmt)
    if c = 0xFF then raise RESERVED_CODE 1 i 0 else return (c : Int) - 127

/-! ### Push checks (R182, R183, R186, R187) -/

/-- A plane name, or the scale name, of group `k` has the wrong width (R183). -/
def groupBad (c : Capture) (k : Nat) (scale : Bool) : Bool :=
  let g := c.groups.getD k []
  (g.zip (planesOf (nW c.fmt))).any (fun p => dW p.1 != p.2.1) || (scale && nBlock c.fmt != 0 && dW (g.getLastD 0) != 8)

/-- The capacities that the names of group `k` need (R183). -/
def groupCaps (c : Capture) (k : Nat) (scale : Bool) : List (Word × Nat) :=
  let g := c.groups.getD k []
  let vl := c.vl.field 8 0
  ((g.take (planesOf (nW c.fmt)).length).map fun w => (w, vl)) ++
    (if scale && nBlock c.fmt != 0 then [(g.getLastD 0, ceilDiv vl (blockLen c.fmt))] else [])

/-- A width of 3, 5, 6 or 7, whose codes lie in planes (R186). -/
def planar (w : Nat) : Bool := (planesOf w).length != 1

/-- A name whose width and capacity the entry's own rules check. -/
def NameUse.own (u : NameUse) : NameUse := { u with ew := false, cap := false }

/-- The push of an instruction that uses slot `n` with the group at operand `k`, which is 0 for vd and 1 for va; the other operand has
width `other`. The slot that does not fit is found before a name of another width, which is DEDUCED (log 67). -/
def groupSpec (vd va : VName) (n : Slot) (k : Nat) (scale : Bool) (slotOk : Nat → Bool) (other : Nat) : PushSpec :=
  { PushSpec.plain [(asDst vd).own, (asSrc va).own] [] with
    slot := some n
    groups := [(k, scale)]
    width := fun c =>
      if !slotOk (nW c.fmt) then some (FORMAT, 5)
      else if groupBad c 0 scale || dW (c.names.getD (1 - k) 0) != other then some (FORMAT, 3) else none
    caps := fun c =>
      let o := [(c.names.getD (1 - k) 0, c.vl.field 8 0)]
      if k = 0 then groupCaps c 0 scale ++ o else o ++ groupCaps c 0 scale }

/-- VCVT (R182). -/
def cvtSpec (vd va : VName) (dst src : BitVec 6) : PushSpec :=
  { PushSpec.plain [(asDst vd).anyEw, (asSrc va).anyEw] [] with
    width := fun c =>
      if dW (c.names.getD 0 0) ≠ idWidth dst.toNat ∨ dW (c.names.getD 1 0) ≠ idWidth src.toNat then some (FORMAT, 3) else none }

/-- VSCALEB (R187). A slot without blocks, SUB 5, is found before a vd of another width, SUB 3 (DEDUCED, log 67). -/
def scalebSpec (vd va : VName) (n : Slot) : PushSpec :=
  { PushSpec.plain [(asDst vd).bare, (asSrc va).own] [] with
    slot := some n
    width := fun c =>
      let w := dW (c.names.getD 1 0)
      if nBlock c.fmt = 0 then some (FORMAT, 5)
      else if dW (c.names.getD 0 0) ≠ 8 then some (FORMAT, 3) else if w ≠ 16 ∧ w ≠ 32 then some (FORMAT, 5) else none
    caps := fun c =>
      let vl := c.vl.field 8 0
      [(c.names.getD 0 0, ceilDiv vl (blockLen c.fmt)), (c.names.getD 1 0, vl)] }

/-! ### Conversions (R184, R185) -/

/-- VCVT of one code; an integer to an equal or wider integer keeps its value modulo the width. -/
def cvtCode (env : Env) (dst src i c : Nat) : SatRes :=
  if (idFloat dst).isNone ∧ (idFloat src).isNone ∧ idWidth src ≤ idWidth dst then
    ⟨wrapTo (idWidth dst) (if idSigned src then signedOf (idWidth src) c else (c : Int)), false, 0⟩
  else toFixed env dst i (idVal src env.fzi c)

/-- A converted element written, its flags, and its offender bit. -/
def putConverted (f : Nat) (e : QEntry) (i : Nat) (r : SatRes) (write : Nat → M Unit) : M Unit := do
  write r.code
  if r.off then offend f e i
  orFlagsM f r.flags

/-- VCVT. -/
def cvtRun (dst src : BitVec 6) (e : QEntry) (f : Nat) : Run :=
  .elems e.vl 1 fun i => do
    if ← isActive f e i then
      checkTags f e.cap.first (e.name 1) i (idTagOk src.toNat)
      let c ← getElem' f e.cap.first (e.name 1) i
      if src.toNat = e8Tag ∧ c = 0xFF then raise RESERVED_CODE 1 i 0
      putConverted f e i (cvtCode e.env dst.toNat src.toNat i c) fun r => putTagged f e.cap.first (e.name 0) i r dst.toNat
    else inactive f e 0 i (sameTag dst.toNat)

/-- R66 for an inactive element of a group: its plane names, and never its scale name (R184, R185). -/
def inactivePlanes (f : Nat) (e : QEntry) (n i : Nat) : M Unit :=
  if e.mode = 2 then putPlanes f e.cap.first n i 0 (e.planes 0) else pure ()

/-- VNARROW. -/
def narrowRun (n : Slot) (src : BitVec 6) (e : QEntry) (f : Nat) : Run :=
  .elems e.vl 1 fun i => do
    if ← isActive f e i then
      checkTags f e.cap.first (e.name 1) i (idTagOk src.toNat)
      checkScale f e 0 i
      let k ← getScale f e 0 i
      let x := idVal src.toNat e.env.fzi (← getElem' f e.cap.first (e.name 1) i)
      putConverted f e i (satSlot e.cap.fmt e.env i 0 (scaleVal x (-k))) fun r => putPlanes f e.cap.first n.toNat i r (e.planes 0)
    else inactivePlanes f e n.toNat i

/-- VWIDEN. -/
def widenRun (dst : BitVec 6) (n : Slot) (e : QEntry) (f : Nat) : Run :=
  .elems e.vl 1 fun i => do
    if ← isActive f e i then
      checkPlanes f e.cap.first n.toNat i (e.planes 0)
      checkScale f e 0 i
      match nDecode e.cap.fmt (← getPlanes f e.cap.first i (e.planes 0)) with
      | none => raise RESERVED_CODE 0 i 0
      | some v =>
        let k ← getScale f e 0 i
        putConverted f e i (toFixed e.env dst.toNat i (scaleVal v k)) fun r => putTagged f e.cap.first (e.name 0) i r dst.toNat
    else inactive f e 0 i (sameTag dst.toNat)

/-! ### Bit planes (R186) -/

/-- VSPLITB. -/
def splitRun (n : Slot) (e : QEntry) (f : Nat) : Run :=
  .elems e.vl 1 fun i => do
    if ← isActive f e i then
      checkTags f e.cap.first (e.name 1) i (· == slotTag n.toNat 0)
      let c ← getElem' f e.cap.first (e.name 1) i
      putPlanes f e.cap.first n.toNat i (c % 2 ^ nW e.cap.fmt) (e.planes 0)
    else inactivePlanes f e n.toNat i

/-- VJOINB. -/
def joinRun (n : Slot) (e : QEntry) (f : Nat) : Run :=
  .elems e.vl 1 fun i => do
    if ← isActive f e i then
      checkPlanes f e.cap.first n.toNat i (e.planes 0)
      putTagged f e.cap.first (e.name 0) i (← getPlanes f e.cap.first i (e.planes 0)) (slotTag n.toNat 0)
    else inactive f e 0 i (sameTag (slotTag n.toNat 0))

/-! ### Block scales (R187) -/

/-- floor(log2(max)) of a slot (R89, R187). -/
def slotLog2Max (fmt : Word) : Int :=
  if nE fmt = 0 then
    (let m := (intVals fmt).foldl max 0
     if m = 0 then Config.log2OfNoMax fmt else (Nat.log2 m.natAbs : Int))
  else
    (let m := (magMax fmt).2
     if m = 0 then Config.log2OfNoMax fmt else (Nat.log2 m : Int) + (1 - nBias fmt - nM fmt))

/-- The larger of a largest exponent so far and floor(log2 |x|), for a finite non-zero x. -/
def maxLog (a : Option Int) (x : Fp.Val) : Option Int :=
  match x with
  | .fin _ m ex _ => if m = 0 then a else some (max (Fp.lead m ex) (a.getD (Fp.lead m ex)))
  | _ => a

/-- The largest floor(log2 |x|) of the active elements i to i + k − 1, each read in the format of its tag. -/
def blockLog (f : Nat) (e : QEntry) (k i : Nat) (a : Option Int) : M (Option Int) :=
  match k with
  | 0 => pure a
  | j + 1 => do
    if ← isActive f e i then
      let va := e.name 1
      let ts ← getTags f e.cap.first va i
      match idFloat (ts.headD 0).toNat with
      | some fmt =>
        if Fp.width fmt ≠ dW va then raise FORMAT 0 i 0
        blockLog f e j (i + 1) (maxLog a (arg fmt e.env (← getElem' f e.cap.first va i)))
      | none => raise FORMAT 0 i 0
    else blockLog f e j (i + 1) a

/-- VSCALEB: its elements are blocks. -/
def scalebRun (e : QEntry) (f : Nat) : Run :=
  let n := blockLen e.cap.fmt
  .elems (ceilDiv e.vl n) 1 fun b => do
    let a ← blockLog f e (min n (e.vl - b * n)) (b * n) none
    let code := match a with
      | none => 127
      | some l => (min (max (l - slotLog2Max e.cap.fmt + 127) 0) 254).toNat
    putTagged f e.cap.first (e.name 0) b code e8Tag

/-! ### The pushes -/

/-- VCVT (R182, R184). -/
def execVcvt (vd va : VName) (dst src : BitVec 6) (s : State) : Out := push (.vcvt vd va dst src) (cvtSpec vd va dst src) s
/-- VNARROW (R183, R184). -/
def execVnarrow (vd va : VName) (n : Slot) (src : BitVec 6) (s : State) : Out :=
  push (.vnarrow vd va n src) (groupSpec vd va n 0 true (fun _ => true) (idWidth src.toNat)) s
/-- VWIDEN (R183, R184). -/
def execVwiden (vd va : VName) (dst : BitVec 6) (n : Slot) (s : State) : Out :=
  push (.vwiden vd va dst n) (groupSpec vd va n 1 true (fun _ => true) (idWidth dst.toNat)) s
/-- VSPLITB (R186). -/
def execVsplitb (vd va : VName) (n : Slot) (s : State) : Out := push (.vsplitb vd va n) (groupSpec vd va n 0 false planar 8) s
/-- VJOINB (R186). -/
def execVjoinb (vd va : VName) (n : Slot) (s : State) : Out := push (.vjoinb vd va n) (groupSpec vd va n 1 false planar 8) s
/-- VSCALEB (R187). -/
def execVscaleb (vd va : VName) (n : Slot) (s : State) : Out := push (.vscaleb vd va n) (scalebSpec vd va n) s

end Sys2Proof.Machine
end

