-- ==== Sys2Proof/Machine/Matrix.lean ====
section
/-! DEFINITION. The matrix engine: products in groups of k-steps (R95, R214 to R221), MZERO, MRD and MWR (R222, R223). -/

namespace Sys2Proof.Machine
open Fp (Val Flags)

/-! ### Shapes (R216, R217) -/

/-- The format of a code of MMA, MRD and MWR. -/
def mmFmt (n : Nat) : FFmt := if n = 0 then .fp16 else if n = 1 then .bf16 else .fp32

/-- Rows or columns of an operand: capacity over K. -/
def extent (e : Word) (k : Nat) : Nat := if k = 0 then 0 else dCap e / k

/-- Window rows that elements i to j of an entry touch. -/
def rowsOf (e : Word) (i j : Nat) : Nat := if dKind e = 0 then j / dNelem e - i / dNelem e + 1 else 1

/-- The checks of R217 on the names of A and of B, with group size `g` and the scale name. -/
def shapeFail (c : Capture) (as bs : List Word) (g : Nat) (scale : Option (Word × Nat)) : Option Nat :=
  let k := c.vl.field 8 0
  let a := as.headD 0
  let b := bs.headD 0
  let m := extent a k
  let n := extent b k
  let kindBad (l : List Word) : Bool := l.any fun e => decide (2 ≤ dKind e) || dKind e != dKind (l.headD 0)
  let sizeBad (l : List Word) (x : Nat) : Bool := l.any fun e => dCap e != k * x
  let scaleBad := match scale with
    | some (e, _) => decide (2 ≤ dKind e)
    | none => false
  if kindBad as || kindBad bs || scaleBad then some 8
  else if k = 0 then none
  else if sizeBad as m || sizeBad bs n || !decide (1 ≤ m ∧ m ≤ 128) || !decide (1 ≤ n ∧ n ≤ c.width) then some 9
  else if (as.any fun e => (List.range k).any fun j => decide (4 < rowsOf e (j * m) (j * m + m - 1))) then some 10
  else if c.vstart.field 8 0 % g ≠ 0 then some 11
  else
    match scale with
    | none => none
    | some (e, len) => if dCap e < ceilDiv k len * (m + n) then some 13 else none

/-- A failed shape as a trap. -/
def shapeTrap (c : Capture) (r : Option Nat) : Option TrapRec := r.map fun sub => ⟨CAPACITY, sub, c.vstart.field 8 0, 0, 0⟩

/-! ### Operands (R220, R221) -/

/-- TRAPADDR of an element of operand `o`, 0 A, 1 B, 2 scales, in plane `p` (R221). -/
def mmLoc (o p i : Nat) : Nat := i + o * 2 ^ 32 + p * 2 ^ 34

/-- The tag check of one name's element, located for R221. -/
def mmTag (f first : Nat) (e : Word) (i : Nat) (ok : Nat → Bool) (loc : Nat) : M Unit := do
  let ts ← getTags f first e i
  if ts.all fun t => ok t.toNat then pure () else raise FORMAT 0 0 loc

/-- The tag checks of the planes `p` and following. -/
def mmPlaneTags (f first n o i p : Nat) (ps : List (Word × PlaneShape)) : M Unit :=
  match ps with
  | [] => pure ()
  | (w, _, _, part) :: r => do
    mmTag f first w i (· == slotTag n part) (mmLoc o p i)
    mmPlaneTags f first n o i (p + 1) r

/-- An element of MMA's operand. -/
def mmFloat (fmt : FFmt) (e : QEntry) (f o : Nat) (name : Word) (i : Nat) : M Val := do
  mmTag f e.cap.first name i (· == fpTag fmt) (mmLoc o 0 i)
  return arg fmt e.env (← getElem' f e.cap.first name i)

/-- An element of MMAN's or MMAS's operand. A reserved code that several planes hold names plane 0 in TRAPADDR (DEDUCED, log 69). -/
def mmNarrow (n : Slot) (e : QEntry) (f o i : Nat) : M Val := do
  mmPlaneTags f e.cap.first n.toNat o i 0 (e.planes o)
  match nDecode e.cap.fmt (← getPlanes f e.cap.first i (e.planes o)) with
  | some v => pure v
  | none => raise RESERVED_CODE 0 0 (mmLoc o 0 i)

/-- A scale of MMAS, as a power of two. -/
def mmScale (e : QEntry) (f i : Nat) : M Int := do
  mmTag f e.cap.first (e.name 2) i (· == e8Tag) (mmLoc 2 0 i)
  let c ← getElem' f e.cap.first (e.name 2) i
  if c = 0xFF then raise RESERVED_CODE 1 0 (mmLoc 2 0 i) else return (c : Int) - 127

/-! ### Products (R95, R220) -/

/-- The exact sum of products, with the flags of invalid operations. Infinities and NaNs meet in increasing k: NV is set for two infinities of
opposite sign that meet before a quiet NaN, and not for two that meet after it (DESIGN CHOICE, log 75). -/
def dot (l : List (Val × Val)) : Val × Flags :=
  match l with
  | [] => (Fp.zero false, 0)
  | p :: r => r.foldl (fun (s : Val × Flags) q =>
      let (v, fl) := Fp.fma .rne q.1 q.2 s.1
      (v, fl ||| s.2)) (Fp.mul p.1 p.2)

/-- RoundRNE(C + S), with FZO (R95). -/
def accumulate (env : Fp.Env) (c : Nat) (s : Val × Flags) : Nat × Flags :=
  let (v, fl) := Fp.add .rne (Fp.decode .fp32 c) s.1
  let (r, fl') := Fp.round .fp32 { env with rm := .rne } 0 0 v
  (r, s.2 ||| fl ||| fl')

/-- One group: `as` and `bs` hold its k-steps, `sa` and `sb` the exponents of its scales. -/
def applyGroup (e : QEntry) (f m n steps : Nat) (as bs : List Val) (sa sb : List Int) : M Unit :=
  forUp m 0 fun r => forUp n 0 fun c => do
    let (v, fl) := dot ((List.range steps).map fun k => (as.getD (k * m + r) (Fp.zero false), bs.getD (k * n + c) (Fp.zero false)))
    let old ← getCar f e.cap.first r c
    let (x, fl') := accumulate e.env old (scaleVal v (sa.getD r 0 + sb.getD c 0), fl)
    putCar f e.cap.first r c x
    orFlagsM f fl'

/-- A product in groups of `g` k-steps; `block` is Bsz for MMAS. -/
def productRun (g : Nat) (a b : Word) (elem : Nat → Nat → M Val) (block : Option Nat) (e : QEntry) (f : Nat) : Run :=
  let k := e.vl
  let m := extent a k
  let n := extent b k
  .elems k g fun i => do
    let ks := i / g * g
    let steps := min (ks + g) k - ks
    let as ← readRun (steps * m) (ks * m) (elem 0)
    let bs ← readRun (steps * n) (ks * n) (elem 1)
    match block with
    | none => applyGroup e f m n steps as bs [] []
    | some len =>
      let j := ks / len
      let sa ← readRun m (j * m) (mmScale e f)
      let sb ← readRun n (ceilDiv k len * m + j * n) (mmScale e f)
      applyGroup e f m n steps as bs sa sb

/-- MMA. -/
def mmaRun (fm : BitVec 4) (e : QEntry) (f : Nat) : Run :=
  productRun 1 (e.name 0) (e.name 1) (fun o i => mmFloat (mmFmt fm.toNat) e f o (e.name o) i) none e f
/-- MMAN. -/
def mmanRun (n : Slot) (e : QEntry) (f : Nat) : Run :=
  productRun (groupOf (nW e.cap.fmt)) (e.name 0) (e.name 1) (mmNarrow n e f) none e f
/-- MMAS. -/
def mmasRun (n : Slot) (e : QEntry) (f : Nat) : Run :=
  productRun (groupOf (nW e.cap.fmt)) (e.name 0) (e.name 1) (mmNarrow n e f) (some (blockLen e.cap.fmt)) e f

/-- MMA's push checks (R219). -/
def mmaSpec (va vb : VName) (fm : BitVec 4) : PushSpec :=
  { PushSpec.plain [asSrc va, asSrc vb] [] with
    width := fun c => if dW (c.names.getD 0 0) ≠ Fp.width (mmFmt fm.toNat) then some (FORMAT, 3) else none
    own := fun c => shapeTrap c (shapeFail c [c.names.getD 0 0] [c.names.getD 1 0] 1 none) }

/-- The plane names of group `k`. -/
def planeNames (c : Capture) (k : Nat) : List Word := (c.groups.getD k []).take (planesOf (nW c.fmt)).length

/-- The push checks of MMAN, and of MMAS with its scale name (R218, R219). A slot that the instruction does not take, SUB 5, is found before a name of
another width, SUB 3 (DEDUCED, log 67). -/
def mmnSpec (va vb : VName) (vc : Option VName) (n : Slot) : PushSpec :=
  let scaleUses := match vc with
    | some v => [(asSrc v).bare]
    | none => []
  { PushSpec.plain ([(asSrc va).own, (asSrc vb).own] ++ scaleUses) [] with
    slot := some n
    groups := [(0, false), (1, false)]
    width := fun c =>
      if (nBlock c.fmt != 0) != vc.isSome then some (FORMAT, 5)
      else if groupBad c 0 false || groupBad c 1 false || (vc.isSome && dW (c.names.getD 2 0) != 8) then some (FORMAT, 3) else none
    caps := fun c => groupCaps c 0 false ++ groupCaps c 1 false
    own := fun c =>
      let scale := if vc.isSome then some (c.names.getD 2 0, blockLen c.fmt) else none
      shapeTrap c (shapeFail c (planeNames c 0) (planeNames c 1) (groupOf (nW c.fmt)) scale) }

/-! ### MZERO, MRD and MWR (R222, R223) -/

/-- MZERO; it clears the carafe flag (R363). -/
def mzeroRun (e : QEntry) (f : Nat) : Run :=
  .whole (do
    forUp 128 0 fun m => forUp e.cap.width 0 fun n => putCar f e.cap.first m n 0
    modify fun s => s.modFront f fun x => { x with cdirty := false })

/-- The carafe cell of element i. -/
def carOf (b : Word) (i : Nat) : Nat × Nat := (b.field 6 0 + i / b.field 22 16, b.field 13 8 + i % b.field 22 16)

/-- MRD. -/
def mrdRun (fm : BitVec 4) (e : QEntry) (f : Nat) : Run :=
  let fmt := mmFmt fm.toNat
  .elems e.vl 1 fun i => do
    let (m, n) := carOf (e.scal 0) i
    if ← isActive f e i then
      let (r, fl) := Fp.round fmt e.env i 0 (Fp.decode .fp32 (← getCar f e.cap.first m n))
      putTagged f e.cap.first (e.name 0) i r (fpTag fmt)
      orFlagsM f fl
    else inactive f e 0 i (sameTag (fpTag fmt))

/-- MWR. -/
def mwrRun (fm : BitVec 4) (e : QEntry) (f : Nat) : Run :=
  let fmt := mmFmt fm.toNat
  .elems e.vl 1 fun i => do
    let (m, n) := carOf (e.scal 0) i
    if ← isActive f e i then
      checkTags f e.cap.first (e.name 0) i (· == fpTag fmt)
      let (r, fl) := Fp.round .fp32 Fp.rneEnv 0 0 (arg fmt e.env (← getElem' f e.cap.first (e.name 0) i))
      putCar f e.cap.first m n r
      orFlagsM f fl
    else if e.mode = 2 then putCar f e.cap.first m n 0
    else pure ()

/-- The push checks of MRD and MWR. -/
def carSpec (u : NameUse) (b : SReg) (fm : BitVec 4) : PushSpec :=
  { PushSpec.plain [u] [b] with
    width := fun c => if dW (c.names.getD 0 0) ≠ Fp.width (mmFmt fm.toNat) then some (FORMAT, 3) else none
    own := fun c =>
      let b := c.scalars.getD 0 0
      let nc := b.field 22 16
      let vl := c.vl.field 8 0
      pushTrap (nc == 0 || decide (c.width < b.field 13 8 + nc) || (vl != 0 && decide (127 < b.field 6 0 + (vl - 1) / nc)))
        CAPACITY 12 (c.vstart.field 8 0) 0 }

/-! ### The pushes -/

/-- MMA (R219, R220). -/
def execMma (va vb : VName) (fm : BitVec 4) (s : State) : Out := push (.mma va vb fm) (mmaSpec va vb fm) s
/-- MMAN (R218, R220). -/
def execMman (va vb : VName) (n : Slot) (s : State) : Out := push (.mman va vb n) (mmnSpec va vb none n) s
/-- MMAS (R218, R220). -/
def execMmas (va vb vc : VName) (n : Slot) (s : State) : Out := push (.mmas va vb vc n) (mmnSpec va vb (some vc) n) s
/-- MZERO (R222). -/
def execMzero (s : State) : Out := push .mzero (noSpec []) s
/-- MRD (R223). -/
def execMrd (va : VName) (b : SReg) (fm : BitVec 4) (s : State) : Out := push (.mrd va b fm) (carSpec (asDst va) b fm) s
/-- MWR (R223). -/
def execMwr (va : VName) (b : SReg) (fm : BitVec 4) (s : State) : Out := push (.mwr va b fm) (carSpec (asSrc va) b fm) s

end Sys2Proof.Machine
end

