-- ==== Sys2Proof/Machine/LoadStore.lean ====
section
/-! DEFINITION. Scalar loads and stores (R143 to R145) and scalar atomics (R259, R260). -/

namespace Sys2Proof.Machine

/-- A load of `n` bytes: alignment, then the access; the value goes through `g` (R143, R144). -/
def load (n : Nat) (g : Nat → Word) (d a : SReg) (off : BitVec 13) (s : State) : Out :=
  let ea := (s.ea a off).toNat
  if ea % n ≠ 0 then trapAt ALIGN 0 ea s
  else atFrontNext (do
    let v ← loadVa s.ctx ea n
    modify fun s => s.setReg d (g v)) s

/-- A store of the low `n` bytes of B (R143, R144). -/
def store (n : Nat) (a b : SReg) (off : BitVec 13) (s : State) : Out :=
  let ea := (s.ea a off).toNat
  if ea % n ≠ 0 then trapAt ALIGN 0 ea s
  else atFrontNext (storeVa s.ctx ea n ((s.reg b).toNat % 256 ^ n)) s

/-- A value of `w` bits, sign-extended. -/
def sxNat (w v : Nat) : Word := sx (BitVec.ofNat w v)

/-- LDB (R143). -/
def execLdb (d a : SReg) (off : BitVec 13) (s : State) : Out := load 1 (sxNat 8) d a off s
/-- LDBU (R143). -/
def execLdbu (d a : SReg) (off : BitVec 13) (s : State) : Out := load 1 word d a off s
/-- LDH (R143). -/
def execLdh (d a : SReg) (off : BitVec 13) (s : State) : Out := load 2 (sxNat 16) d a off s
/-- LDHU (R143). -/
def execLdhu (d a : SReg) (off : BitVec 13) (s : State) : Out := load 2 word d a off s
/-- LDW (R143). -/
def execLdw (d a : SReg) (off : BitVec 13) (s : State) : Out := load 4 (sxNat 32) d a off s
/-- LDWU (R143). -/
def execLdwu (d a : SReg) (off : BitVec 13) (s : State) : Out := load 4 word d a off s
/-- LDD (R143). -/
def execLdd (d a : SReg) (off : BitVec 13) (s : State) : Out := load 8 word d a off s
/-- STB (R143). -/
def execStb (a b : SReg) (off : BitVec 13) (s : State) : Out := store 1 a b off s
/-- STH (R143). -/
def execSth (a b : SReg) (off : BitVec 13) (s : State) : Out := store 2 a b off s
/-- STW (R143). -/
def execStw (a b : SReg) (off : BitVec 13) (s : State) : Out := store 4 a b off s
/-- STD (R143). -/
def execStd (a b : SReg) (off : BitVec 13) (s : State) : Out := store 8 a b off s

/-! ### Atomics -/

/-- An atomic `i` (R259, R260): `code` names the operation to a peer, `g` takes the width, the old value, B and D, and gives the word
written, if any. The old value goes to s[d], a 32-bit one sign-extended. -/
def atomic (i : Instr) (code : Nat) (g : Nat → Nat → Nat → Nat → Option Nat) (d a b : SReg) (w64 : Bool) (s : State) : Out :=
  let n := if w64 then 8 else 4
  let ea := (s.reg a).toNat
  let bv := (s.reg b).toNat % 256 ^ n
  let dv := (s.reg d).toNat % 256 ^ n
  if ea % n ≠ 0 then trapAt ALIGN 0 ea s
  else atFrontIn (.atomic i) (do
    let l ← atomicPlace s.ctx ea
    let old ← atomicLoc (.front s.cur) l n ea code (bv + dv * 2 ^ 64) fun old => g (8 * n) old bv dv
    modify fun s => (s.setReg d (sxNat (8 * n) old)).advance) s

/-- The smaller, or the larger, of two words (R259). -/
def pickWord (uns isMax : Bool) (w x y : Nat) : Nat :=
  let less := if uns then decide (x < y) else decide (signedOf w x < signedOf w y)
  if less != isMax then x else y

/-- AMOADD (R259). -/
def execAmoadd (d a b : SReg) (w64 : Bool) (s : State) : Out :=
  atomic (.amoadd d a b w64) 0 (fun w o x _ => some ((o + x) % 2 ^ w)) d a b w64 s
/-- AMOMIN (R259). -/
def execAmomin (d a b : SReg) (w64 uns : Bool) (s : State) : Out :=
  atomic (.amomin d a b w64 uns) (1 + b2n uns * 8) (fun w o x _ => some (pickWord uns false w o x)) d a b w64 s
/-- AMOMAX (R259). -/
def execAmomax (d a b : SReg) (w64 uns : Bool) (s : State) : Out :=
  atomic (.amomax d a b w64 uns) (2 + b2n uns * 8) (fun w o x _ => some (pickWord uns true w o x)) d a b w64 s
/-- AMOAND (R259). -/
def execAmoand (d a b : SReg) (w64 : Bool) (s : State) : Out :=
  atomic (.amoand d a b w64) 3 (fun _ o x _ => some (Nat.land o x)) d a b w64 s
/-- AMOOR (R259). -/
def execAmoor (d a b : SReg) (w64 : Bool) (s : State) : Out :=
  atomic (.amoor d a b w64) 4 (fun _ o x _ => some (Nat.lor o x)) d a b w64 s
/-- AMOXOR (R259). -/
def execAmoxor (d a b : SReg) (w64 : Bool) (s : State) : Out :=
  atomic (.amoxor d a b w64) 5 (fun _ o x _ => some (Nat.xor o x)) d a b w64 s
/-- AMOSWAP (R259). -/
def execAmoswap (d a b : SReg) (w64 : Bool) (s : State) : Out :=
  atomic (.amoswap d a b w64) 6 (fun _ _ x _ => some x) d a b w64 s
/-- AMOCAS (R259). -/
def execAmocas (d a b : SReg) (w64 : Bool) (s : State) : Out :=
  atomic (.amocas d a b w64) 7 (fun _ o x y => if o = y then some x else none) d a b w64 s

end Sys2Proof.Machine
end

