-- ==== Sys2Proof/Machine/Engines.lean ====
section
/-! DEFINITION. Engine jobs: the push (R289, R290, R294), the card frame (R295, R296), payload accesses (R292, R295, R298), the COPY, GATH
and FILL kinds (R299 to R301), XQUERY, XCANCEL and WAITW (R302 to R306). -/

namespace Sys2Proof.Machine

/-! ### The push -/

/-- The push checks of every job instruction: the completion pair, then the card (R290, R294). -/
def jobSpec (a b c : SReg) : PushSpec :=
  { PushSpec.plain [] [a, b, c] with
    own := fun k =>
      let vs := k.vstart.field 8 0
      let card := (k.scalars.getD 0 0).toNat
      let pair := (k.scalars.getD 1 0).toNat
      firstFail [pushTrap (pair % 16 != 0) ALIGN 4 vs pair, pushTrap (card % 64 != 0) ALIGN 4 vs card] }

/-! ### The card frame (R295, R296) -/

def cardHdr (card : List Word) : Word := card.getD 0 0
def cardKind (card : List Word) : Nat := (cardHdr card).field 3 0
/-- ES in bytes. -/
def cardEs (card : List Word) : Nat := 2 ^ (cardHdr card).field 9 8
def cardDims (card : List Word) : Nat := (cardHdr card).field 14 12
/-- START (R317). -/
def cardStart (card : List Word) : Nat := (cardHdr card).field 63 32

/-- An address doubleword whose `n` bytes lie in its space. -/
def spaceOk (w : Word) (n : Nat) : Bool :=
  if w.field 63 62 = 0 then w.field 61 52 == 0
  else w.field 63 62 == 1 && w.field 61 19 == 0 && decide (w.field 18 0 + n ≤ 327680)

/-- A declared region. -/
def regionOk (r : Word × Word) : Bool :=
  spaceOk r.1 (r.2.field 39 0) && r.2.field 39 0 != 0 && r.2.field 41 40 != 0 && r.2.field 63 42 == 0

/-- Words `i` to `j − 1` of a card are zero. -/
def zeroWords (card : List Word) (i j : Nat) : Bool := (List.range (j - i)).all fun k => card.getD (i + k) 0 == 0

/-- The frame of a card of a kind; training jobs have a START, and UAPPLY a result address at 0x08. -/
def frameOk (card : List Word) (kind : Nat) (training result : Bool) : Bool :=
  let h := cardHdr card
  let n := h.field 6 4
  h.field 3 0 == kind && decide (n ≤ 4) && h.field 7 7 == 0 && h.field 11 10 == 0 &&
    (if training then h.field 31 15 == 0 else h.field 63 15 == 0) && (result || card.getD 1 0 == 0) &&
    (cardRegs card).all regionOk && zeroWords card (2 + 2 * n) 10

/-- Record words of a body: those of used dimensions have an extent, the others are zero. -/
def recordsOk (card : List Word) (at_ d : Nat) : Bool :=
  (List.range 4).all fun j => if j < d then recExt (card.getD (at_ + j) 0) != 0 else card.getD (at_ + j) 0 == 0

/-- The record words in use. -/
def recordsOf (card : List Word) (at_ : Nat) : List Word := (List.range (cardDims card)).map fun j => card.getD (at_ + j) 0

/-! ### Payload accesses (R292, R295) -/

/-- An address as the card gives it: in the scratchpad or virtual. -/
abbrev PayAddr := Bool × Nat

/-- An address doubleword with a byte offset. -/
def cardAddr (w : Word) (off : Int) : PayAddr :=
  if w.field 63 62 = 1 then (true, addr64 (w.field 18 0 + off)) else (false, addr64 (w.field 51 0 + off))

/-- An address as an address doubleword. -/
def PayAddr.rep (p : PayAddr) : Nat := (p.2 + b2n p.1 * 2 ^ 62) % 2 ^ 64

/-- The bytes lie within one region of the right kind. -/
def inRegion (card : List Word) (p : PayAddr) (n : Nat) (write : Bool) : Bool :=
  (cardRegs card).any fun r =>
    let (pad, lo) := cardAddr r.1 0
    r.2.flag (if write then 41 else 40) && pad == p.1 && decide (lo ≤ p.2 ∧ p.2 + n ≤ lo + r.2.field 39 0)

/-- A payload translation: by a page that the job has translated before, or by a walk (R292, R323). -/
def Job.walk (j : Job) (s : State) (va : Nat) (need : Need) : Except (Nat × Nat) Loc :=
  match ((j.plan.map (·.pages)).getD []).find? (·.hit j.asid va) with
  | some t =>
    match leafCheck s j.user need t va with
    | .error sub => .error (ACCESS, sub)
    | .ok l => .ok l
  | none => engWalk s j.asid j.user va need

/-- The error records of such a walk, if one is made (R376). -/
def Job.walked (j : Job) (va : Nat) (s : State) : State :=
  if (((j.plan.map (·.pages)).getD []).any (·.hit j.asid va)) then s else s.walked j.fid j.asid va

/-- Those of a payload address. -/
def Job.paid (j : Job) (p : PayAddr) (s : State) : State := if p.1 then s else j.walked p.2 s

/-- The checks of a payload access, up to its location. -/
def payLoc (j : Job) (n : Nat) (p : PayAddr) (need : Need) : M Loc := do
  if p.2 % n ≠ 0 then raise ALIGN 4 0 p.rep
  let ok := match need with
    | .write => inRegion j.card p n true
    | .both => inRegion j.card p n true && inRegion j.card p n false
    | _ => inRegion j.card p n false
  if !ok then raise ACCESS 7 0 p.rep
  if p.1 then return .mem (scratchBase j.core + p.2)
  else
    match j.walk (← get) p.2 need with
    | .error (c, sub) => raise c sub 0 p.rep
    | .ok l => do
      modify (j.walked p.2)
      return l

/-- The job as a requester. -/
def Job.agent (j : Job) : Agent := .job j.lid j.rank j.handle

/-- A payload read. -/
def payRead (j : Job) (n : Nat) (p : PayAddr) : M Nat := do readLoc j.agent (← payLoc j n p .read) n p.rep

/-- A write at a location: a unit in error cannot be merged into (R374); a bad block takes the bytes and stays bad (R247). -/
def engWrite (who : Agent) (l : Loc) (n v va : Nat) : M Unit :=
  match l with
  | .mem a => do
    if (← get).partErr a n then throw (.trap ⟨MEMERR, 0, 0, va, a⟩)
    modify fun s => s.write a (leBytes n v)
  | l => writeLoc who l n v va

/-- A payload write. -/
def payWrite (j : Job) (n : Nat) (p : PayAddr) (v : Nat) : M Unit := do engWrite j.agent (← payLoc j n p .write) n v p.rep

/-- The error record of a job that an error in storage ends, with no virtual address for one in the scratchpad; or the records of the walk that
has ended it (R376, R377). -/
def logJob (s : State) (j : Job) (t : TrapRec) : State :=
  let va := if t.addr < 2 ^ 62 then t.addr else 0
  if t.cause = MEMERR ∨ t.cause = INTEGRITY then
    errRecord s (dieOf j.fid) va t.phys j.asid (if t.cause = MEMERR then 1 else 5) (j.fid / 2 % 64) (j.fid % 2) j.handle.toNat
  else if t.cause = PAGE ∨ (t.cause = ACCESS ∧ t.sub ≠ 1 ∧ t.sub ≠ 7 ∧ t.sub ≠ 8) then j.walked va s
  else s

/-- A job whose payload has ended. -/
def Job.ended (j : Job) (cause sub prog : Nat) : Job := { j with running := true, moved := true, cause := cause, sub := sub, prog := prog }

/-- A job that a fault of its payload ends (R292). -/
def Job.failed (j : Job) (t : TrapRec) (prog : Nat) : Job :=
  j.ended t.cause (if t.cause = INTEGRITY ∨ t.cause = MEMERR then 0 else t.sub) prog

/-! ### COPY and FILL (R299, R301) -/

def padLo (card : List Word) (j : Nat) : Nat := (card.getD 20 0).field (16 * j + 7) (16 * j)
def padHi (card : List Word) (j : Nat) : Nat := (card.getD 20 0).field (16 * j + 15) (16 * j + 8)

/-- The value in the low ES bytes at 0xA8. -/
def lowValue (card : List Word) : Nat := (card.getD 21 0).toNat % 256 ^ cardEs card

/-- What COPY and FILL bodies share. -/
def destOk (card : List Word) : Bool :=
  let d := cardDims card
  decide (1 ≤ d ∧ d ≤ 4) && spaceOk (card.getD 11 0) 1 && recordsOk card 16 d && (card.getD 21 0).toNat == lowValue card &&
    zeroWords card 22 24 && decide (recLen (recordsOf card 16) < 2 ^ 40)

def copyOk (card : List Word) : Bool :=
  let d := cardDims card
  destOk card && spaceOk (card.getD 10 0) 1 && recordsOk card 12 d &&
    (List.range 4).all fun j =>
      if j < d then recExt (card.getD (16 + j) 0) == padLo card j + recExt (card.getD (12 + j) 0) + padHi card j
      else padLo card j == 0 && padHi card j == 0

def fillOk (card : List Word) : Bool := destOk card && card.getD 10 0 == 0 && zeroWords card 12 16 && card.getD 20 0 == 0

/-- The source offset of a position, and whether it lies inside the source; dimensions from `k` on. -/
def copySource (card : List Word) (d k q : Nat) : Bool × Int :=
  match d with
  | 0 => (true, 0)
  | n + 1 =>
    let de := recExt (card.getD (16 + k) 0)
    let s := card.getD (12 + k) 0
    let x : Int := (q % de : Nat) - (padLo card k : Nat)
    let (inside, off) := copySource card n (k + 1) (q / de)
    (inside && decide (0 ≤ x ∧ x < recExt s), x * recStride s + off)

/-- The value of a position: from its source, or PADV; FILL has no source. -/
def copyValue (j : Job) (p : Nat) : M Nat :=
  let (inside, off) := copySource j.card (cardDims j.card) 0 p
  if cardKind j.card = 0 ∧ inside = true then payRead j (cardEs j.card) (cardAddr (j.card.getD 10 0) off) else pure (lowValue j.card)

/-- The destination of a position. -/
def copyDest (j : Job) (p : Nat) : PayAddr := cardAddr (j.card.getD 11 0) (placeOff (recordsOf j.card 16) p)

/-- Accesses of `es` bytes at rising addresses fill one aligned block. -/
def fillsBlock (es : Nat) (ps : List PayAddr) : Bool :=
  let p := ps.headD (false, 1)
  p.2 % 256 == 0 && ps.length * es == 256 && ps.zipIdx.all fun q => q.1 == (p.1, p.2 + es * q.2)

/-- The destinations from position p on fill one aligned block. -/
def destBlock (j : Job) (p : Nat) : Bool :=
  let n := 256 / cardEs j.card
  (copyDest j p).2 % 256 == 0 && decide (p + n ≤ recLen (recordsOf j.card 16)) &&
    fillsBlock (cardEs j.card) ((List.range n).map fun i => copyDest j (p + i))

/-- Their sources are one aligned block too: a COPY of such blocks carries their checks (R247, R299). -/
def sourceBlock (j : Job) (p : Nat) : Bool :=
  let src (i : Nat) : Bool × Int := copySource j.card (cardDims j.card) 0 (p + i)
  let n := 256 / cardEs j.card
  cardKind j.card == 0 && ((List.range n).all fun i => (src i).1) &&
    fillsBlock (cardEs j.card) ((List.range n).map fun i => cardAddr (j.card.getD 10 0) (src i).2)

/-- The place of `n` bytes of a payload, if an access may reach them. -/
def payPlace (s : State) (j : Job) (n : Nat) (p : PayAddr) (need : Need) : Option Loc :=
  match payLoc j n p need s with
  | .ok (l, _) => some l
  | .error _ => none

/-- A whole block written: at its home agent, or sent to a peer. -/
def putBlock (who : Agent) (l : Loc) (bs : List Byte) (va : Nat) : M Unit :=
  match l with
  | .mem a => modify fun s => s.write a bs
  | .dev _ => raise ACCESS 6 0 va
  | .peer d a => do
    match (← get).sendData d 0 0 a bs 2 who with
    | some t => set t
    | none => raise ACCESS 8 0 va

/-- A whole block copied, with its check: a bad one stays bad within the package, and fails on its way out (R247, R248, R378). It answers false
where the elements have to go singly. -/
def blockMove (j : Job) (fr dst : Loc) (va : Nat) : M Bool := do
  let s ← get
  match fr with
  | .mem a =>
    let bad := s.badAt a 256
    match dst with
    | .mem b =>
      if s.errAt a 256 || (bad && inCxl b) then return false
      let t := s.write b (s.bytes a 256)
      set (if bad then { t with badBlk := spSet false t.badBlk (b / 256) true } else t)
    | l =>
      if s.errAt a 256 || bad then return false
      putBlock j.agent l (s.bytes a 256) va
    return true
  | .dev _ => return false
  | .peer d a => do
    let lo ← askPeer j.agent d a 128 1 va []
    let hi ← askPeer j.agent d (a + 128) 128 1 va []
    putBlock j.agent dst (lo ++ hi) va
    return true

/-- Values of the destination's elements put together; none where one of them fails. -/
def blockValues (j : Job) (n p : Nat) : M (Option (List Nat)) := fun s =>
  match readRun n p (copyValue j) s with
  | .ok (vs, t) => .ok (some vs, t)
  | .error (.trap _) => .ok (none, s)
  | .error w => .error w

/-- One whole block of the destination from position p on; it answers false where that cannot be done, and the elements then go singly. -/
def blockStep (j : Job) (p : Nat) : M Bool := do
  let s ← get
  let es := cardEs j.card
  let n := 256 / es
  if !destBlock j p then return false
  let goal := copyDest j p
  match payPlace s j 256 goal .write with
  | none => return false
  | some (.dev _) => return false
  | some dst =>
    if sourceBlock j p then
      let src := cardAddr (j.card.getD 10 0) (copySource j.card (cardDims j.card) 0 p).2
      match payPlace s j 256 src .read with
      | none => return false
      | some fr => do
        let moved ← blockMove j fr dst goal.rep
        if moved then modify fun t => j.paid src (j.paid goal t)
        return moved
    else
      match ← blockValues j n p with
      | none => return false
      | some vs => do
        putBlock j.agent dst (vs.flatMap (leBytes es)) goal.rep
        modify (j.paid goal)
        return true

/-- The source of a position, if it is inside. -/
def copyFrom (j : Job) (p : Nat) : Option PayAddr :=
  let (inside, off) := copySource j.card (cardDims j.card) 0 p
  if cardKind j.card = 0 ∧ inside = true then some (cardAddr (j.card.getD 10 0) off) else none

/-- The positions whose destinations lie in the same aligned block as that of position p. -/
def blockMates (j : Job) (p : Nat) : List Nat :=
  let d := copyDest j p
  (List.range (recLen (recordsOf j.card 16))).filter fun q => (copyDest j q).1 == d.1 && (copyDest j q).2 / 256 == d.2 / 256

/-- Position p belongs to a copy of a whole aligned block, in whatever order the dimensions walk it: its destination's block is covered, and every
position in it comes from its own place in one aligned block. -/
def wholeBlock (j : Job) (p : Nat) : Bool :=
  let mates := blockMates j p
  match copyFrom j p with
  | none => false
  | some a =>
    let d := copyDest j p
    a.2 % 256 == d.2 % 256 &&
      (mates.all fun q => match copyFrom j q with
        | some b => b.1 == a.1 && b.2 / 256 == a.2 / 256 && b.2 % 256 == (copyDest j q).2 % 256
        | none => false) &&
      (List.range (256 / cardEs j.card)).all fun k => mates.any fun q => (copyDest j q).2 % 256 == k * cardEs j.card

/-- Position p of a copy into the package moves a part of a whole block of which one check is bad: that check goes with the block (R247, R299). The
check of a peer's block is good wherever it may be read (R248). -/
def carriesBad (s : State) (j : Job) (p : Nat) : Bool :=
  match (copyFrom j p).bind fun a => payPlace s j (cardEs j.card) a .read, payPlace s j (cardEs j.card) (copyDest j p) .write with
  | some (.mem a), some (.mem b) =>
    (s.badAt (a / 256 * 256) 256 || s.badAt (b / 256 * 256) 256) && !(inCxl b && s.badAt (a / 256 * 256) 256) && wholeBlock j p
  | some (.peer _ _), some (.mem b) => s.badAt (b / 256 * 256) 256 && wholeBlock j p
  | _, _ => false

/-- The value of a position that is copied as it stands, and the check of its block: in memory whatever it is, and good of any other (R247, R248). -/
def plainRead (j : Job) (l : Loc) (va : Nat) : M (Nat × Bool) := do
  let es := cardEs j.card
  match l with
  | .mem a => do
    let s ← get
    if s.errAt a es then throw (.trap ⟨MEMERR, 0, 0, va, a⟩)
    return (s.read a es, s.badAt (a / 256 * 256) 256)
  | l => return (← readLoc j.agent l es va, false)

/-- A position copied as it stands; with the last of its block the block's check. -/
def copyAsIs (j : Job) (p : Nat) : M Unit := do
  let es := cardEs j.card
  let src := (copyFrom j p).getD (false, 0)
  let fr ← payLoc j es src .read
  let dst ← payLoc j es (copyDest j p) .write
  let (v, bad) ← plainRead j fr src.rep
  engWrite j.agent dst es v (copyDest j p).rep
  match dst with
  | .mem b => if (blockMates j p).getLast? = some p then modify fun t => { t with badBlk := spSet false t.badBlk (b / 256) bad }
  | _ => pure ()

/-- The next positions of a COPY or FILL. -/
def copyStep (j : Job) : M Job := do
  if ← blockStep j j.prog then return { j with prog := j.prog + 256 / cardEs j.card }
  else do
    if carriesBad (← get) j j.prog then copyAsIs j j.prog
    else payWrite j (cardEs j.card) (copyDest j j.prog) (← copyValue j j.prog)
    return { j with prog := j.prog + 1 }

/-! ### GATH (R300) -/

def rowLen (card : List Word) : Nat := (card.getD 13 0).field 23 0

def gathOk (card : List Word) : Bool :=
  cardDims card == 0 && spaceOk (card.getD 10 0) 1 && spaceOk (card.getD 11 0) 1 && (card.getD 11 0).field 63 62 == 1 &&
    rowLen card != 0 && rowLen card % cardEs card == 0 && (card.getD 13 0).field 63 24 == 0 &&
    decide (rowLen card ≤ (card.getD 14 0).toNat) && zeroWords card 15 24

/-- The next position: one access of a row; an inactive element makes none. A row of whole aligned blocks goes by single accesses too, which verify the source
and merge into the destination; R299's carrying of checks is COPY's (DESIGN CHOICE, log 78). -/
def gathStep (j : Job) : M Job := do
  let es := cardEs j.card
  let per := rowLen j.card / es
  let off : Int := (j.prog % per * es : Nat)
  match j.rows.getD (j.prog / per) none with
  | none => pure ()
  | some x =>
    let i := j.acc.headD 0 + j.prog / per
    let v ← payRead j es (cardAddr (j.card.getD 10 0) (x * (j.card.getD 12 0).toInt + off))
    payWrite j es (cardAddr (j.card.getD 11 0) ((i * (j.card.getD 14 0).toNat : Nat) + off)) v
  return { j with prog := j.prog + 1 }

/-- X(i) of the active elements of the `n` from `i` on; a bad tag raises FORMAT with its index in TRAPADDR. -/
def gathRows (e : QEntry) (f n i : Nat) : M (List (Option Int)) :=
  match n with
  | 0 => pure []
  | k + 1 => do
    let x ← if ← isActive f e i then (do return some (← tagTrapAt i (indexAt f e 0 i))) else pure none
    return x :: (← gathRows e f k (i + 1))

/-- The push checks of XGATH's index name (R254). -/
def gathSpec (a b c : SReg) (vn : VName) : PushSpec :=
  { jobSpec a b c with
    uses := [(asSrc vn).anyEw]
    width := fun k => if [16, 32, 64].contains (dW (k.names.getD 0 0)) then none else some (FORMAT, 3) }

/-! ### The job instructions of this chapter -/

/-- XCOPY (R299). -/
def execXcopy (a b c : SReg) (ord : Bool) (s : State) : Out := push (.xcopy a b c ord) (jobSpec a b c) s
/-- XGATH (R300). -/
def execXgath (a b c : SReg) (vn : VName) (ord : Bool) (s : State) : Out := push (.xgath a b c vn ord) (gathSpec a b c vn) s
/-- XFILL (R301). -/
def execXfill (a b c : SReg) (ord : Bool) (s : State) : Out := push (.xfill a b c ord) (jobSpec a b c) s

/-! ### XQUERY and XCANCEL (R302, R303) -/

/-- The job was pushed by front `f`. -/
def State.owns (s : State) (f : Nat) (j : Job) : Bool := j.lid == (s.front f).lid && j.rank == (s.front f).rank

/-- What is pending for front `f`, a DIVERGENCE or an error of a job. -/
def State.pendingOf (s : State) (f : Nat) (diverge : Bool) : Option Pending :=
  s.pendings.find? fun p => p.lid == (s.front f).lid && p.rank == (s.front f).rank && p.diverge == diverge

/-- The accepted job of front `f` with a handle. -/
def State.jobOf (s : State) (f h : Nat) : Option Job := s.jobs.find? fun j => s.owns f j && j.handle.toNat == h

/-- A job instruction of the front that has not been accepted. -/
def Front.queuedJob (x : Front) (h : Nat) : Bool := x.pendingAll.any fun e => isJob e.instr && e.handle.toNat == h

def State.setJob (s : State) (j : Job) : State :=
  { s with jobs := s.jobs.map fun x => if x.agent = j.agent then j else x }

/-- The positions below which a job has performed its payload; of a collective that ends without success, none (R291, R392). -/
def Job.reached (j : Job) : Nat := if 6 ≤ cardKind j.card then 0 else j.prog

/-- The bound of PROG: what a job has certainly performed, which no later loss of a write takes back (R302, R386); all that it has done while no write of it to a
peer waits. -/
def Job.bound (s : State) (j : Job) : Nat := if s.postedBy (· == j.agent) then min j.sure j.reached else j.reached

/-- XQUERY. PROG of a running job is a lower bound (log 7). -/
def execXquery (a b : SReg) (s : State) : Out :=
  let h := (s.reg b).field 31 0
  match s.jobOf s.cur h with
  | some j =>
    if j.running then
      .next ({ s.setReg a (word (3 + min (Config.queryBound s.freeCtr) (j.bound s) % 2 ^ 40 * 2 ^ 24)) with freeCtr := s.freeCtr + 1 }).advance
    else result a 2 s
  | none => result a (if s.me.queuedJob h then 1 else 0) s

/-- A queued job instruction cancelled: its entry's further state says so until its issue. -/
def Front.cancelQueued (x : Front) (h : Nat) : Front :=
  let g (e : QEntry) : QEntry := if isJob e.instr && e.handle.toNat == h then { e with aux := 1 } else e
  { x with queue := x.queue.map g, userSet := x.userSet.map g, kernelSet := x.kernelSet.map g }

/-- A status of CANCELLED (R292). -/
def CANCELLED : Nat := 0x20

/-- The end of a job is settled: its status write has begun (R303), or it has told the other members of its call that it succeeds, after which they
may end with success (R392; DEDUCED, log 36). -/
def Job.settled (j : Job) : Bool := j.stage != 0 || j.agreed

/-- XCANCEL. A job that it stops while ORD holds it back counts as running from then on: XQUERY shows it so, and a second XCANCEL answers 2
(DEDUCED, log 36). -/
def execXcancel (a : SReg) (s : State) : Out :=
  let h := (s.reg a).field 31 0
  match s.jobOf s.cur h with
  | some j =>
    if j.settled then result a 3 s
    else result a (if j.running then 2 else 1) (s.setJob { j with running := true, moved := true, cause := CANCELLED, sub := 0, prog := j.reached })
  | none =>
    if s.me.queuedJob h then result a 1 (s.modFront s.cur fun x => x.cancelQueued h) else result a 0 s

/-! ### WAITW (R304 to R306) -/

/-- The doubleword that a location's monitor watches: of memory its number, elsewhere one that no memory has. -/
def monitorUnit (l : Loc) : Nat :=
  match l with
  | .mem a => a / 8
  | .dev a => a / 8
  | .peer d a => 2 ^ 60 + d * 2 ^ 50 + a / 8

/-- The front's monitors dropped. -/
def State.disarm (s : State) (f : Nat) : State := { s with monitors := s.monitors.filter fun m => m.fid != f }

/-- Where a WAITW stands: the clock at which it began, and its timeout. -/
def waitSpan (x : Front) (clock limit : Nat) : Nat × Nat :=
  match x.wait with
  | .waitw st lim => (st, lim)
  | _ => (clock, limit)

/-- The timeout has passed; 2^64 − 1 never does. -/
def waitOver (span : Nat × Nat) (clock : Nat) : Bool := span.2 != 2 ^ 64 - 1 && decide (span.1 + span.2 ≤ clock)

/-- The front's one monitor set on a location. -/
def State.arm (s : State) (f : Nat) (l : Loc) : State :=
  let t := s.disarm f
  { t with monitors := t.monitors ++ [(⟨f, monitorUnit l, false⟩ : Monitor)] }

/-- The check of a word of the package, which arms the monitor in the same step when the word differs. -/
def waitwHere (b c : SReg) (span : Nat × Nat) (l : Loc) (va : Nat) (s : State) : Out :=
  match readLoc (.front s.cur) l 8 va (s.disarm s.cur) with
  | .error (.trap t) => .next (frontTrap (s.disarm s.cur) t)
  | .error (.wait _) => .next (s.blocked (.waitw span.1 span.2))
  | .ok (v, t) =>
    if v = (s.reg b).toNat ∨ waitOver span s.clock = true then .next (t.setReg c (word v)).advance
    else .next ((t.arm s.cur l).blocked (.waitw span.1 span.2))

/-- The check of a word of a peer. R385 gives no class for a check-and-arm: the peer is asked by a plain read (DESIGN CHOICE, log 9), and the monitor
is armed from the asking on, so that no wake that the peer sends is lost. An answer that differs leaves it armed; where it has fired meanwhile, or
the timeout has passed, the word is asked for again. After the timeout the read arms nothing, and is the last. -/
def waitwPeer (b c : SReg) (span : Nat × Nat) (l : Loc) (va : Nat) (s : State) : Out :=
  let late := waitOver span s.clock
  let mine := s.monitors.filter fun m => m.fid == s.cur
  match readLoc (.front s.cur) l 8 va s with
  | .error (.trap t) => .next (frontTrap (s.disarm s.cur) t)
  | .error (.wait none) => .next (s.blocked (.waitw span.1 span.2))
  | .error (.wait (some r)) => .next (((if late then s.disarm s.cur else s.arm s.cur l).request r).blocked (.waitw span.1 span.2))
  | .ok (v, t) =>
    if v = (s.reg b).toNat ∨ (late = true ∧ mine = []) then .next ((t.disarm s.cur).setReg c (word v)).advance
    else .next ((if late || mine.all (·.fired) then t.disarm s.cur else t).blocked (.waitw span.1 span.2))

/-- WAITW: a check, which arms a monitor when the word differs, or after the timeout a final read (R304, R305). -/
def execWaitw (a b c : SReg) (s : State) : Out :=
  let va := (s.reg a).toNat
  let span := waitSpan s.me s.clock (s.reg c).toNat
  if va % 8 ≠ 0 then trapAt ALIGN 0 va (s.disarm s.cur)
  else
    match translate s.ctx va .read s with
    | .error (.trap t) => .next (frontTrap (s.disarm s.cur) t)
    | .error (.wait _) => .next (s.blocked (.waitw span.1 span.2))
    | .ok (.peer d p, t) => waitwPeer b c span (.peer d p) va t
    | .ok (l, t) => waitwHere b c span l va t

end Sys2Proof.Machine
end

