-- ==== Sys2Proof/Machine/Training.lean ====
section
/-! DEFINITION. STEP (R310) and the training jobs AGSWEEP, UNORM and UAPPLY (R317 to R323). -/

namespace Sys2Proof.Machine

/-! ### STEP (R310) -/

/-- A CXRED with the CUP flag. -/
def isCupRed (i : Instr) : Bool :=
  match i with
  | .cxred _ _ _ cup => cup
  | _ => false

/-- A cupping CXRED of the front has not ended. -/
def State.cupping (s : State) (f : Nat) : Bool :=
  (s.front f).pendingAll.any (fun e => isCupRed e.instr) || s.jobs.any fun j => s.owns f j && isCupRed j.instr

/-- STEP: it waits for cupping collectives, raises a pending DIVERGENCE, which taking the trap clears, or advances GSTEP. -/
def execStep (a : SReg) (s : State) : Out :=
  let x := s.me
  if s.cupping s.cur then .next (s.blocked .retry)
  else
    match s.pendingOf s.cur true with
    | some p =>
      if x.queue.isEmpty then
        .next (takeTrap { s with pendings := s.pendings.erase p } s.cur ⟨DIVERGENCE, p.sub, 0, p.addr, 0⟩ x.pc x.vsn)
      else .next (s.blocked .retry)
    | none => .next ((s.modFront s.cur fun y => { y with gstep := y.gstep + 1 }).setReg a (x.gstep + 1)).advance

/-! ### What the training jobs share (R317) -/

/-- A 32-byte result address: a multiple of 8 in a region with WR. -/
def resultOk (card : List Word) (w : Word) : Bool :=
  spaceOk w 32 && (cardAddr w 0).2 % 8 == 0 && inRegion card (cardAddr w 0) 32 true

/-- ES of 4 or 8 bytes, and no dimension. -/
def agedCard (card : List Word) : Bool := decide (4 ≤ cardEs card) && cardDims card == 0

def Job.aw32 (j : Job) : Bool := cardEs j.card == 4
def Job.field (j : Job) (k hi lo : Nat) : Nat := (j.card.getD k 0).field hi lo

/-- The four doublewords of a result record. -/
def putResult (j : Job) (res : Word) (ws : List Nat) : M Unit :=
  forUp ws.length 0 fun i => payWrite j 8 (cardAddr res (8 * i : Nat)) (ws.getD i 0)

/-! ### AGSWEEP (R318) -/

def sweepOk (card : List Word) : Bool :=
  let count := (card.getD 11 0).toNat
  let thresh := (card.getD 13 0).toNat
  agedCard card && spaceOk (card.getD 10 0) 1 && decide (1 ≤ count ∧ count < 2 ^ 32) && resultOk card (card.getD 12 0) &&
    decide (1 ≤ thresh ∧ thresh < awH (cardEs card == 4)) && zeroWords card 14 24 && decide (cardStart card < count)

/-- The effect of a sweep on a word: the new word, if any, and which count it adds to. -/
def sweepWord (w32 : Bool) (decay : List Word) (step thresh q : Nat) : Option (Nat × Nat) :=
  if !awValid w32 q || decide (age w32 step q < thresh) then none
  else if isStale w32 step q then
    some (awMake w32 (if w32 then q % 2 ^ 16 else q % 2 ^ 32) step (awDsel w32 q) true (awPoison w32 q), 1)
  else
    some (awMake w32 (awStore w32 (decayed w32 decay step q).1).1 step (awDsel w32 q) true (awPoison w32 q), 0)

/-- The next word of a sweep. -/
def sweepStep (j : Job) : M Job := do
  let es := cardEs j.card
  let p := cardAddr (j.card.getD 10 0) (j.prog * es : Nat)
  let g (q : Nat) : Option (Nat × Nat) := sweepWord j.aw32 j.decay j.gstep.toNat (j.field 13 23 0) q
  let old ← atomicLoc j.agent (← payLoc j es p .both) es p.rep (134 + b2n j.aw32) 0 fun q => (g q).map (·.1)
  let n := j.acc.getD 0 0
  let m := j.acc.getD 1 0
  let acc := match g old with
    | some (_, 0) => [n + 1, m]
    | some _ => [n, m + 1]
    | none => [n, m]
  return { j with prog := j.prog + 1, acc := acc }

/-! ### UNORM and UAPPLY (R319 to R322) -/

/-- The conditions on a tensor card. -/
def tensorOk (card : List Word) (apply : Bool) : Bool :=
  let w (k : Nat) : Word := card.getD k 0
  let n := recExt (w 15) * recExt (w 16)
  let posOk (c : Nat) : Bool := c / 2 ^ 31 == 0 && !Fp.isNaN (val32 c)
  agedCard card && spaceOk (w 10) 1 && spaceOk (w 12) 1 && spaceOk (w 13) 1 && spaceOk (w 14) 1 &&
    decide (1 ≤ n ∧ n < 2 ^ 32) && decide (cardStart card < n) &&
    (if apply then
      spaceOk (w 11) 1 && recExt (w 17) == recExt (w 15) && recExt (w 18) == recExt (w 16) && posOk ((w 22).field 31 0) &&
        posOk ((w 21).field 63 32) && resultOk card (w 1)
     else cardStart card == 0 && w 11 == 0 && w 17 == 0 && w 18 == 0 && w 22 == 0 && resultOk card (w 23))

def m32 (x y : Nat) : Nat := (mul32 x y).1
def a32 (x y : Nat) : Nat := (add32 x y).1
def d32 (x y : Nat) : Nat := (rne (Fp.div (val32 x) (val32 y))).1
def sqrt32 (x : Nat) : Nat := (rne (Fp.sqrt (val32 x))).1
def rsq32 (x : Nat) : Nat := (rne (Fp.rsqrt (val32 x))).1
/-- x − y. -/
def s32 (x y : Nat) : Nat := (rne (Fp.add .rne (val32 x) (Fp.negate (val32 y)))).1

/-- What both jobs compute of one element (R320). -/
structure Elem where
  (w g qm qv : Nat)
  (m v u : Nat)
  stale : Bool

/-- P(i), and the place of its gradient, under the strides of two record words. -/
def tensorAddr (j : Job) (base k i : Nat) : PayAddr :=
  let c := recExt (j.card.getD 15 0)
  cardAddr (j.card.getD base 0) ((i % c : Nat) * recStride (j.card.getD k 0) + (i / c : Nat) * recStride (j.card.getD (k + 1) 0))
def momentAddr (j : Job) (base i : Nat) : PayAddr := cardAddr (j.card.getD base 0) (i * cardEs j.card : Nat)

/-- The four reads of element i, and what follows from them. -/
def tensorElem (j : Job) (i : Nat) : M Elem := do
  let w ← payRead j 4 (tensorAddr j 10 15 i)
  let g ← payRead j 4 (tensorAddr j 12 15 i)
  let qm ← payRead j (cardEs j.card) (momentAddr j 13 i)
  let qv ← payRead j (cardEs j.card) (momentAddr j 14 i)
  let (md, sm, _) := decayed j.aw32 j.decay j.gstep.toNat qm
  let (vd, sv, _) := decayed j.aw32 j.decay j.gstep.toNat qv
  let m := a32 md (m32 (j.field 19 31 0) g)
  let v := a32 vd (m32 (j.field 19 63 32) (m32 g g))
  let u := a32 (d32 m (a32 (sqrt32 v) (j.field 20 31 0))) (m32 (j.field 20 63 32) w)
  return { w := w, g := g, qm := qm, qv := qv, m := m, v := v, u := u, stale := sm || sv }

/-- Every third value from one of the three on. -/
def third (k : Nat) (l : List Nat) : List (Option Nat) :=
  (List.range 256).map fun i => if 3 * i + k < l.length then some (l.getD (3 * i + k) 0) else none

/-- A chunk's tree added to each sum (R321). The first four numbers are WSQ, USQ, GSQ and the stale count. -/
def flushChunk (acc : List Nat) : List Nat :=
  let vs := acc.drop 4
  if vs.isEmpty then acc
  else ((List.range 3).map fun k => a32 (acc.getD k 0) ((treeOf (fun x y => add32 x y) 8 (third k vs)).1.getD 0)) ++ [acc.getD 3 0]

/-- The next element of UNORM. -/
def unormStep (j : Job) : M Job := do
  let x ← tensorElem j j.prog
  let acc := j.acc ++ List.replicate (4 - j.acc.length) 0
  let acc := (acc.take 3 ++ [acc.getD 3 0 + b2n x.stale] ++ acc.drop 4) ++ [m32 x.w x.w, m32 x.u x.u, m32 x.g x.g]
  return { j with prog := j.prog + 1, acc := if acc.length = 4 + 768 then flushChunk acc else acc }

/-- Round(CMAX / √GSQ) with one rounding, both finite and positive. -/
def clipRatio (cmax gsq : Fp.Val) : Nat :=
  match cmax, gsq with
  | .fin _ m₁ e₁ _, .fin _ m₂ e₂ _ =>
    let m := if e₂ % 2 = 0 then m₂ else 2 * m₂
    let e := if e₂ % 2 = 0 then e₂ else e₂ - 1
    let num := m₁ * m₁ * 2 ^ 160
    let r := Fp.isqrt (num / m)
    (rne (.fin false r (e₁ - e / 2 - 80) (r * r * m != num), 0)).1
  | _, _ => 0

/-- Finite and greater than zero. -/
def positive (x : Fp.Val) : Bool :=
  match x with
  | .fin s m _ _ => !s && m != 0
  | _ => false

/-- The factors of a UAPPLY card (R322): ρ, c, τ and k. -/
def factors (card : List Word) : Nat × Nat × Nat × Nat :=
  let w (k hi lo : Nat) : Nat := (card.getD k 0).field hi lo
  let cmax := w 22 31 0
  let gsq := w 22 63 32
  let wsq := w 23 31 0
  let usq := w 23 63 32
  let tmax := w 21 63 32
  let within := match Fp.cmp (val32 gsq) (Fp.mul (val32 cmax) (val32 cmax)).1 with
    | some .gt => false
    | some _ => true
    | none => false
  let c := if cmax = 0 ∨ within = true then one32
    else
      match val32 gsq with
      | .fin .. => clipRatio (val32 cmax) (val32 gsq)
      | _ => 0
  let both := positive (val32 wsq) && positive (val32 usq)
  let t := m32 (sqrt32 wsq) (rsq32 usq)
  let capped := tmax != 0 && Fp.cmp (val32 t) (val32 tmax) == some .gt
  let tau := if both then (if capped then tmax else t) else one32
  let rho' := if both then m32 (sqrt32 usq) (rsq32 wsq) else 0
  let k := m32 (m32 (w 21 31 0) c) tau
  (m32 k rho', c, tau, k)

/-- An aged word with a new value at the captured step. -/
def restamp (j : Job) (q v : Nat) : Nat :=
  awMake j.aw32 (awStore j.aw32 v).1 j.gstep.toNat (awDsel j.aw32 q) true (awPoison j.aw32 q)

/-- The accesses of element i of UAPPLY: size, address and need. -/
def uapplyUses (j : Job) (i : Nat) : List (Nat × PayAddr × Need) :=
  let es := cardEs j.card
  [(4, tensorAddr j 10 15 i, .read), (4, tensorAddr j 12 15 i, .read), (es, momentAddr j 13 i, .read), (es, momentAddr j 14 i, .read),
    (4, tensorAddr j 10 15 i, .write), (4, tensorAddr j 11 17 i, .write), (es, momentAddr j 13 i, .write), (es, momentAddr j 14 i, .write)]

/-- The translations of `n` elements from `i` on, beside those of the pages met before, up to the first element that fails one. -/
def planFrom (j : Job) (s : State) (n i : Nat) (pages : List Tlb) : Plan :=
  match n with
  | 0 => ⟨pages, none⟩
  | k + 1 =>
    let fails := (uapplyUses j i).findSome? fun u => match payLoc j u.1 u.2.1 u.2.2 s with
      | .error (.trap t) => some t
      | _ => none
    match fails with
    | some t => ⟨pages, some (i, t)⟩
    | none =>
      planFrom j s k (i + 1) ((uapplyUses j i).foldl (fun ps u =>
        if u.2.1.1 || ps.any (·.hit j.asid u.2.1.2) then ps else ps ++ (walk s j.asid u.2.1.2).toOption.toList) pages)

/-- UAPPLY's translations, made before its first write (R323). -/
def Job.planned (j : Job) (s : State) : Job :=
  match j.plan with
  | some _ => j
  | none => { j with plan := some (planFrom j s (recExt (j.card.getD 15 0) * recExt (j.card.getD 16 0) - j.prog) j.prog []) }

/-- The failure that the translations have found at element i. -/
def Job.fails (j : Job) (i : Nat) : Option TrapRec :=
  match j.plan with
  | some ⟨_, some (k, t)⟩ => if k = i then some t else none
  | _ => none

/-- The next element of UAPPLY: all of its writes or none. -/
def uapplyStep (j : Job) : M Job := do
  let j := j.planned (← get)
  let i := j.prog
  match j.fails i with
  | some t => throw (.trap t)
  | none => pure ()
  let x ← tensorElem j i
  let (_, _, _, k) := factors j.card
  let w' := s32 x.w (m32 k x.u)
  payWrite j 4 (tensorAddr j 10 15 i) w'
  payWrite j 4 (tensorAddr j 11 17 i) w'
  payWrite j (cardEs j.card) (momentAddr j 13 i) (restamp j x.qm x.m)
  payWrite j (cardEs j.card) (momentAddr j 14 i) (restamp j x.qv x.v)
  return { j with prog := i + 1, acc := [j.acc.headD 0 + b2n x.stale] }

/-! ### Result records (R318, R321 to R323) -/

/-- The record that a training job writes at its end; `fail` is the failing address, if any. -/
def trainingResult (j : Job) (fail : Option Nat) : M Unit :=
  let a := fail.getD 0
  match cardKind j.card with
  | 3 => putResult j (j.card.getD 12 0) [j.acc.getD 0 0, j.acc.getD 1 0, a, 0]
  | 4 =>
    if fail.isSome then payWrite j 8 (cardAddr (j.card.getD 23 0) 16) a
    else
      let s := flushChunk j.acc
      putResult j (j.card.getD 23 0) [s.getD 0 0 + s.getD 1 0 * 2 ^ 32, s.getD 2 0, 0, s.getD 3 0]
  | _ =>
    let (rho, c, tau, k) := factors j.card
    putResult j (j.card.getD 1 0) [rho + c * 2 ^ 32, tau + k * 2 ^ 32, a, j.acc.headD 0]

/-! ### The pushes -/

/-- AGSWEEP (R318). -/
def execAgsweep (a b c : SReg) (ord : Bool) (s : State) : Out := push (.agsweep a b c ord) (jobSpec a b c) s
/-- UNORM (R321). -/
def execUnorm (a b c : SReg) (ord : Bool) (s : State) : Out := push (.unorm a b c ord) (jobSpec a b c) s
/-- UAPPLY (R322). -/
def execUapply (a b c : SReg) (ord : Bool) (s : State) : Out := push (.uapply a b c ord) (jobSpec a b c) s

end Sys2Proof.Machine
end

