-- ==== Sys2Proof/Machine/Collectives.lean ====
section
/-! DEFINITION. Collective groups and jobs (R389 to R397), cupped reductions (R399 to R401), and how the members of a call exchange their
data. A member's stream to another holds, after its length, one body (a cause, what is matched under R390, a digest and data), and then
verdicts of two bytes each, a cause and a SUB: the source names no wire form (log 9). -/

namespace Sys2Proof.Machine

/-- A member's call ended with the whole call (R392). -/
def GROUPFAIL : Nat := 0x21

/-! ### Cards (R391) -/

def typeOk (ty : Nat) : Bool := [5, 6, 7, 8, 10, 11, 12].contains ty

/-- The parts of CXRED's CTL. -/
def ctlOp (card : List Word) : Nat := (card.getD 14 0).field 1 0
def ctlType (card : List Word) : Nat := (card.getD 14 0).field 13 8
def ctlScatter (card : List Word) : Bool := (card.getD 14 0).flag 16
def ctlSel (card : List Word) : Nat := (card.getD 14 0).field 25 24
def rxAuto (card : List Word) : Bool := (card.getD 14 0).flag 0

/-- The body of a collective card. -/
def collOk (card : List Word) (cup : Bool) : Bool :=
  let w (k : Nat) : Word := card.getD k 0
  let moves := spaceOk (w 11) 1 && spaceOk (w 12) 1
  cardDims card == 0 && spaceOk (w 10) 16 && zeroWords card 20 24 &&
    (match cardKind card with
    | 6 => moves && (w 13).field 63 40 == 0 && (w 14).field 7 2 == 0 && (w 14).field 15 14 == 0 && (w 14).field 23 17 == 0 &&
        (w 14).field 63 26 == 0 && ctlOp card != 3 && typeOk (ctlType card) && idWidth (ctlType card) == 8 * cardEs card &&
        (w 15 == 0 || spaceOk (w 15) 176) && !(cup && w 15 == 0) && zeroWords card 16 20
    | 7 => moves && (w 13).field 63 40 == 0 && zeroWords card 14 20
    | 8 => moves && (w 13).field 63 24 == 0 && (w 13).toNat % cardEs card == 0 && (w 14).field 63 1 == 0 &&
        (List.range 4).all fun k => spaceOk (w (16 + k)) 1
    | _ => zeroWords card 11 20)

/-- COUNT of CXRED and CXGATH, and TLEN of CXA2A. -/
def collCount (card : List Word) : Nat := (card.getD 13 0).field 39 0

/-! ### The group table (R389) -/

def grpGid (g : List Word) : Nat := (g.getD 0 0).field 15 0
def grpRank (g : List Word) : Nat := (g.getD 0 0).field 25 16
def grpSize (g : List Word) : Nat := (g.getD 0 0).field 42 32
/-- Entry r, all 16 bits of it. -/
def grpPkg (g : List Word) (r : Nat) : Nat := (g.getD (2 + r / 4) 0).field (16 * (r % 4) + 15) (16 * (r % 4))
def grpPkgs (g : List Word) : List Nat := (List.range (grpSize g)).map (grpPkg g)

/-- The first two doublewords keep R389. -/
def grpHeadOk (g : List Word) : Bool :=
  (g.getD 0 0).field 31 26 == 0 && (g.getD 0 0).field 63 43 == 0 && g.getD 1 0 == 0 && decide (1 ≤ grpSize g ∧ grpSize g ≤ 1024) &&
    decide (grpRank g < grpSize g)

/-- The table keeps R389 on package `fabid`. -/
def grpOk (g : List Word) (fabid : Nat) : Bool :=
  let ps := grpPkgs g
  grpHeadOk g && ps.all (fun p => decide (p < 1024)) && ps.eraseDups.length == ps.length && ps.getD (grpRank g) 0 == fabid

/-- `n` doublewords of the table, as part of the card read of R294. -/
def groupWords (c : Ctx) (w : Word) (n : Nat) : M (List Word) :=
  let (pad, a) := cardAddr w 0
  if pad then readRun n 0 fun i => do return word (← readMem (scratchBase (coreOf c.fid) + a + 8 * i) 8 (a + 8 * i))
  else loadWords c a n

/-- The table read at acceptance, and whether it lies in a region with RD (log 21). -/
def readGroup (c : Ctx) (va : Nat) (card : List Word) : M (List Word × Bool) := do
  let w := card.getD 10 0
  let p := cardAddr w 0
  let bad {α : Type} : M α := raise CAPACITY 19 0 va
  if p.2 % 64 ≠ 0 then bad
  let h ← groupWords c w 2
  if !grpHeadOk h then bad
  let g ← groupWords c w (2 + ceilDiv (grpSize h) 4)
  if !grpOk g (← get).pkg.fabid then bad
  return (g, inRegion card p (16 + 2 * grpSize g) false)

/-- The checks of a collective after its frame and body, the number of its call, and whether its table lies in a region (R390, R391). -/
def acceptGroup (c : Ctx) (va : Nat) (card : List Word) : M (List Word × Nat × Bool) := do
  let (g, ok) ← readGroup c va card
  if (cardKind card == 6 && ctlScatter card && collCount card % grpSize g != 0) ||
      (cardKind card == 7 && decide (2 ^ 40 ≤ grpSize g * collCount card)) then raise CAPACITY 17 0 va
  let s ← get
  let x := s.front c.fid
  match s.groups.find? fun h => h.gid == grpGid g with
  | some h =>
    if h.lid != x.lid || h.rank != x.rank then raise CAPACITY 20 0 va
    set { s with groups := s.groups.map fun (y : CollGroup) => if y.gid = h.gid then { y with calls := y.calls + 1 } else y }
    return (g, h.calls, ok)
  | none =>
    set { s with groups := s.groups ++ [(⟨grpGid g, x.rank, x.lid, 1⟩ : CollGroup)] }
    return (g, 0, ok)

/-! ### Streams between members -/

/-- What a member has sent here for a call. -/
def State.stream (s : State) (gid call src : Nat) : List Byte :=
  ((s.contribs.find? fun c => c.gid == gid && c.call == call && c.src == src).map (·.data)).getD []

/-- Bytes added to a stream. -/
def State.feed (s : State) (gid call src : Nat) (bs : List Byte) : State :=
  if s.contribs.any fun c => c.gid == gid && c.call == call && c.src == src then
    { s with contribs := s.contribs.map fun c => if c.gid = gid ∧ c.call = call ∧ c.src = src then { c with data := c.data ++ bs } else c }
  else { s with contribs := s.contribs ++ [(⟨gid, call, src, bs⟩ : Contrib)] }

/-- The body of a stream, once it is whole. -/
def bodyOf (d : List Byte) : Option (List Byte) :=
  let n := leNat (d.take 8)
  if d.length < 8 ∨ d.length < 8 + n then none else some ((d.drop 8).take n)

/-- The bytes of a stream after its body. -/
def verdictsOf (d : List Byte) : List Byte := d.drop (8 + leNat (d.take 8))

/-- The first failure among pairs of a cause and a SUB. -/
def firstFailure (l : List Byte) : Option (Nat × Nat) :=
  match l with
  | c :: b :: r => if c = 0 then firstFailure r else some (c.toNat, b.toNat)
  | _ => none

/-- The failure that a stream reports. -/
def streamFailure (d : List Byte) : Option (Nat × Nat) :=
  match bodyOf d with
  | none => none
  | some b => firstFailure (b.take 2 ++ verdictsOf d)

/-- Bytes of a call sent to a package in messages of class 5, whose address holds the group and the call (R385). -/
def State.sendColl (s : State) (gid call d : Nat) (bs : List Byte) (fuel : Nat) : Option State :=
  match fuel with
  | 0 => some s
  | n + 1 =>
    if bs.isEmpty then some s
    else (s.send d 5 0 (bs.take 224).length (gid + call * 2 ^ 16) (bs.take 224)).bind fun t => t.sendColl gid call d (bs.drop 224) n

/-- The same bytes, or bytes made for each rank, put into the member's own stream and sent to the other members; `none` when one of
them cannot be reached (R386). -/
def State.post (s : State) (j : Job) (bytes : Nat → List Byte) : Option State :=
  (grpPkgs j.group).zipIdx.foldl (fun (t : Option State) p => t.bind fun t =>
    let b := bytes p.2
    if p.2 = grpRank j.group then some (t.feed (grpGid j.group) j.call p.1 b)
    else t.sendColl (grpGid j.group) j.call p.1 b (b.length / 224 + 1)) (some s)

def Job.stream (j : Job) (s : State) (r : Nat) : List Byte := s.stream (grpGid j.group) j.call (grpPkg j.group r)
def Job.own (j : Job) (s : State) : List Byte := j.stream s (grpRank j.group)
def Job.ranks (j : Job) : List Nat := List.range (grpSize j.group)

/-- What is matched under R390. -/
def Job.matched (j : Job) : List Byte :=
  let k := cardKind j.card
  let w (i : Nat) : Nat := (j.card.getD i 0).toNat
  let ctl := ctlOp j.card + ctlType j.card * 2 ^ 8 + b2n (ctlScatter j.card) * 2 ^ 16 + b2n (isCupRed j.instr) * 2 ^ 17
  leBytes 2 (grpGid j.group) ++ leBytes 2 (grpSize j.group) ++ leBytes 1 k ++ (grpPkgs j.group).flatMap (leBytes 2) ++
    leBytes 8 (if k = 9 then 0 else w 13) ++ leBytes 4 (if k = 6 then ctl else 0)

/-- A message that reports a failure, in place of a body or after one. -/
def failureBytes (s : State) (j : Job) (cause sub : Nat) : List Byte :=
  let v := leBytes 1 cause ++ leBytes 1 sub
  if (bodyOf (j.own s)).isNone then leBytes 8 2 ++ v else v

/-- The packages outside a member's list that have sent a body for its call: their lists differ from its own (R390). -/
def Job.strangers (j : Job) (s : State) : List Nat :=
  (s.contribs.filter fun c => c.gid == grpGid j.group && c.call == j.call && (bodyOf c.data).isSome && !(grpPkgs j.group).contains c.src).map
    (·.src)

/-- The failure of an ended job told to every member that can be reached (R392). -/
def tellFailure (s : State) (j : Job) : State :=
  let b := failureBytes s j j.cause j.sub
  if j.group.isEmpty || j.cause == 0 then s
  else ((grpPkgs j.group).eraseIdx (grpRank j.group) ++ j.strangers s).foldl (fun (t : State) p =>
    (t.sendColl (grpGid j.group) j.call p b 1).getD t) s

/-! ### Reading this member's data (R393 to R396, R399) -/

/-- The blocks of a cupping list, each once, in increasing virtual address (R399). -/
def cupBlocks (l : List (Word × Word)) : List Nat :=
  ((l.flatMap fun r => (List.range (r.2.toNat / 256)).map fun i => (r.1.toNat + 256 * i) % 2 ^ 64).eraseDups).mergeSort fun a b => decide (a ≤ b)

/-- The stored check of the block at a virtual address, read from its home agent without the data (R246, R399); a peer is asked for it by a read
of no bytes (log 9). -/
def blockCheck (j : Job) (va : Nat) : M Nat := do
  match j.walk (← get) va .read with
  | .error (c, sub) => raise c sub 0 va
  | .ok (.mem a) =>
    if (← get).badAt a 256 then raise INTEGRITY 0 0 va
    modify (j.walked va)
    return Fp.crc32c ((← get).bytes a 256)
  | .ok (.dev _) => raise ACCESS 6 0 va
  | .ok (.peer d a) => return leNat (← askPeer j.agent d a 0 1 va [])

/-- A digest with the terms of block number `b` (R98). -/
def addDigest (d b crc : Nat) : Nat :=
  let (hi, lo) := Fp.digestTerms b crc
  (d % 2 ^ 64 + lo) % 2 ^ 64 + (d / 2 ^ 64 + hi) % 2 ^ 64 * 2 ^ 64

def collWidth (j : Job) : Nat := cardEs j.card
/-- Accesses that make up one token. -/
def tokenParts (j : Job) : Nat := collCount j.card / cardEs j.card
/-- The entries that CXA2A reads before its tokens. -/
def arrayReads (j : Job) : Nat := (if rxAuto j.card then 2 else 4) * grpSize j.group

/-- The receiving rank of token `t`, and its number among that rank's tokens. -/
def tokenRank (counts : List Nat) (r t : Nat) : Nat × Nat :=
  match counts with
  | [] => (r, t)
  | c :: cs => if t < c then (r, t) else tokenRank cs (r + 1) (t - c)

/-- The next payload read of a member, after the values `vs`: its size and address, or none. -/
def collRead (j : Job) (vs : List Nat) : Option (Nat × PayAddr) :=
  let k := vs.length
  let n := grpSize j.group
  match cardKind j.card with
  | 8 =>
    if k < arrayReads j then some (4, cardAddr (j.card.getD (16 + k / n) 0) (4 * (k % n) : Nat))
    else
      let q := k - arrayReads j
      let per := tokenParts j
      if q < (vs.take n).sum * per then
        let (r, t) := tokenRank (vs.take n) 0 (q / per)
        some (cardEs j.card, cardAddr (j.card.getD 11 0) (((vs.getD (n + r) 0 + t) * collCount j.card + q % per * cardEs j.card : Nat)))
      else none
  | 9 => none
  | _ => if k < collCount j.card then some (cardEs j.card, cardAddr (j.card.getD 11 0) (k * cardEs j.card : Nat)) else none

/-- The next step of reading: a block's check, then the payload. The job's `acc` holds the digest and the values read. It answers none
when all is read. -/
def collectStep (j : Job) : M (Option Job) := do
  let d := j.acc.headD 0
  let vs := j.acc.drop 1
  match (cupBlocks j.cup)[j.prog]? with
  | some va =>
    let crc ← blockCheck j va
    return some { j with prog := j.prog + 1, acc := [addDigest d j.prog crc] }
  | none =>
    match collRead j vs with
    | none => return none
    | some (n, p) =>
      let v ← payRead j n p
      return some { j with acc := d :: (vs ++ [v]) }

/-- The data that this member sends to rank `r`. -/
def collPart (j : Job) (r : Nat) : List Byte :=
  let vs := j.acc.drop 1
  let n := grpSize j.group
  match cardKind j.card with
  | 8 =>
    let before := (vs.take r).sum * tokenParts j
    leBytes 4 (vs.getD r 0) ++
      (((vs.drop (arrayReads j)).drop before).take (vs.getD r 0 * tokenParts j)).flatMap (leBytes (cardEs j.card))
  | _ => if n = 0 then [] else vs.flatMap (leBytes (cardEs j.card))

/-- The body of this member's stream to rank `r`. -/
def collBody (j : Job) (r : Nat) : List Byte :=
  let b := leBytes 2 0 ++ j.matched ++ leBytes 16 (j.acc.headD 0) ++ collPart j r
  leBytes 8 b.length ++ b

/-! ### Combining and writing -/

/-- A member's digest and data, from its body. -/
def Job.digestOf (j : Job) (s : State) (r : Nat) : Nat := leNat (((bodyOf (j.stream s r)).getD []).drop (2 + j.matched.length) |>.take 16)
def Job.partOf (j : Job) (s : State) (r : Nat) : List Byte := ((bodyOf (j.stream s r)).getD []).drop (18 + j.matched.length)

/-- The value of `n` bytes at an offset of a member's data; bytes that it did not send are free (log 7). -/
def partValue (s : State) (d : List Byte) (off n : Nat) : Nat :=
  leNat ((List.range n).map fun i => d.getD (off + i) (Config.gatherByte s.freeCtr (off + i)))

/-- The combining step of R394. -/
def collCombine (op ty a b : Nat) : Nat × Fp.Flags :=
  match idFloat ty with
  | some fmt =>
    if op = 0 then roundRes fmt Fp.rneEnv 0 0 (Fp.add .rne (Fp.decode fmt a) (Fp.decode fmt b)) else Fp.minMax fmt false (op == 1) a b
  | none =>
    let w := idWidth ty
    (if op = 0 then (a + b) % 2 ^ w else pickWord (!idSigned ty) (op == 1) w a b, 0)

/-- Levels of the tree over `n` slots. -/
def treeLevels (n : Nat) : Nat := if n ≤ 1 then 0 else Nat.log2 (n - 1) + 1

/-- A NaN as an element of a reduction is the canonical one, also where it meets no other (R394). -/
def collLeaf (ty v : Nat) : Nat :=
  match idFloat ty with
  | some f => if Fp.isNaN (Fp.decode f v) then Fp.canonNaN f else v
  | none => v

/-- Element `e` of the result. -/
def collResult (s : State) (j : Job) (e : Nat) : Nat :=
  let es := cardEs j.card
  let n := grpSize j.group
  let k := treeLevels n
  let slots := (List.range (2 ^ k)).map fun r => if r < n then some (collLeaf (ctlType j.card) (partValue s (j.partOf s r) (e * es) es)) else none
  (treeOf (collCombine (ctlOp j.card) (ctlType j.card)) k slots).1.getD 0

/-- RCNT and ROFF as a receiver finds them: the senders' counts, and either its own arrays or the running sums (R396). -/
def rxCounts (s : State) (j : Job) : List Nat := j.ranks.map fun r => leNat ((j.partOf s r).take 4)
def rxOffsets (s : State) (j : Job) : List Nat :=
  let n := grpSize j.group
  if rxAuto j.card then j.ranks.map fun r => ((rxCounts s j).take r).sum else (j.acc.drop (1 + 3 * n)).take n

/-- The counts disagree, or tokens pass RCAP. -/
def rxBad (s : State) (j : Job) : Bool :=
  let n := grpSize j.group
  let cs := rxCounts s j
  cardKind j.card == 8 && ((!rxAuto j.card && (j.acc.drop (1 + 2 * n)).take n != cs) ||
    (cs.zip (rxOffsets s j)).any fun p => decide ((j.card.getD 15 0).toNat < p.1 + p.2))

/-- Elements that this member writes of a reduction. -/
def redCount (j : Job) : Nat := if ctlScatter j.card then collCount j.card / grpSize j.group else collCount j.card

/-- The `k`-th payload write of a member: size, address and value, or none after the last. -/
def collWrite (s : State) (j : Job) (k : Nat) : Option (Nat × PayAddr × Nat) :=
  let es := cardEs j.card
  let n := grpSize j.group
  let dst (off : Nat) : PayAddr := cardAddr (j.card.getD 12 0) off
  let count := collCount j.card
  match cardKind j.card with
  | 6 =>
    if k < redCount j then
      some (es, dst (k * es), collResult s j ((if ctlScatter j.card then grpRank j.group * redCount j else 0) + k))
    else none
  | 7 => if k < n * count then some (es, dst (k * es), partValue s (j.partOf s (k / count)) (k % count * es) es) else none
  | 8 =>
    let head := if rxAuto j.card then 2 * n else 0
    if k < head then
      some (4, cardAddr (j.card.getD (18 + k / n) 0) (4 * (k % n) : Nat),
        (if k < n then rxCounts s j else rxOffsets s j).getD (k % n) 0 % 2 ^ 32)
    else
      let q := k - head
      let per := tokenParts j
      if q < (rxCounts s j).sum * per then
        let (r, t) := tokenRank (rxCounts s j) 0 (q / per)
        some (es, dst (((rxOffsets s j).getD r 0 + t) * count + q % per * es), partValue s (j.partOf s r) (4 + t * count + q % per * es) es)
      else none
  | _ => none

/-- PROG after success (R392). -/
def collProg (s : State) (j : Job) : Nat :=
  match cardKind j.card with
  | 6 => redCount j
  | 7 => grpSize j.group * collCount j.card
  | 8 => (rxCounts s j).sum
  | _ => 0

/-! ### Cupping (R400, R401) -/

/-- The majority digest, with the number of members that hold it. -/
def majority (ds : List Nat) : Option (Nat × Nat) :=
  (ds.find? fun d => decide (ds.length < 2 * ds.count d)).map fun d => (d, ds.count d)

/-- The CUPRES record, and whether SELFDIV is set. -/
def cupRecord (ds : List Nat) (me : Nat) : List Nat × Bool × Bool :=
  let own := ds.getD me 0
  let m := majority ds
  let top := (m.map (·.1)).getD 0
  let agree := (m.map (·.2)).getD 0
  let differs (d : Nat) : Bool := m.isNone || d != top
  let bitsOf (k : Nat) : Nat := ((List.range 64).filter fun i => 64 * k + i < ds.length && differs (ds.getD (64 * k + i) 0)).map (2 ^ ·) |>.sum
  ([own % 2 ^ 64, own / 2 ^ 64, top % 2 ^ 64, top / 2 ^ 64, agree + ds.length * 2 ^ 11 + b2n m.isNone * 2 ^ 32 + b2n (differs own) * 2 ^ 33, 0]
    ++ (List.range 16).map bitsOf, differs own, m.isNone)

def cupAddr (j : Job) (i : Nat) : PayAddr := cardAddr (j.card.getD 15 0) (8 * i : Nat)

/-- The checks of the CUPRES writes, without a write, and where they go. -/
def cupCheck (j : Job) : M (List Loc) :=
  if isCupRed j.instr then readRun 22 0 fun i => do
    let p := cupAddr j i
    let l ← payLoc j 8 p .write
    reachLoc l p.rep
    return l
  else pure []

/-- A fault set pending in place of an earlier one. -/
def State.setPending (s : State) (p : Pending) : State :=
  { s with pendings := (s.pendings.filter fun q => !(q.lid == p.lid && q.rank == p.rank && q.diverge == p.diverge && p.diverge)) ++ [p] }

/-- The words of CUPRES written where the checks have placed them. One that the last link to a peer has lost meanwhile is not made: the call has
been told as a success (DESIGN CHOICE, log 9). -/
def cupPut (j : Job) (l : List (Loc × Nat)) (s : State) : State :=
  match l with
  | [] => s
  | p :: r => cupPut j r (match engWrite j.agent p.1 8 p.2 0 s with
      | .ok (_, t) => t
      | .error _ => s)

/-- CUPRES written, and DIVERGENCE set pending where the member differs. -/
def cupWrite (s : State) (j : Job) : State :=
  if isCupRed j.instr then
    (let (ws, self, noq) := cupRecord (j.ranks.map (j.digestOf s)) (grpRank j.group)
     let t := cupPut j (j.cupAt.zip ws) s
     if self then t.setPending ⟨j.lid, j.rank, true, b2n noq, grpRank j.group + grpGid j.group * 2 ^ 10⟩ else t)
  else s

/-! ### The course of a call (R390, R392, R393) -/

/-- The end of the call that another member, or the fabric, brings about. A member that has told the others that it succeeds ends with success where
all the others have told it so, and else with GROUPFAIL where one has become unreachable, whatever that one ends with (DESIGN CHOICE, log 9). -/
def callBroken (s : State) (j : Job) : Option (Nat × Nat) :=
  let others := j.ranks.filter fun r => r != grpRank j.group
  match others.findSome? fun r => streamFailure (j.stream s r) with
  | some (c, sub) => some (GROUPFAIL, if c = GROUPFAIL then sub else 0)
  | none =>
    if j.agreed && others.all fun r => decide (2 ≤ (verdictsOf (j.stream s r)).length) then none
    else if others.any fun r => (s.liveLinks (grpPkg j.group r)).isEmpty then some (GROUPFAIL, 3) else none

/-- Some member's list, or what it matches, differs from this one's (R390). -/
def disagrees (s : State) (j : Job) : Bool :=
  !(j.strangers s).isEmpty || j.ranks.any fun r => match bodyOf (j.stream s r) with
    | some b => (b.drop 2).take j.matched.length != j.matched
    | none => false

/-- A step of an operation of a job: the next state, and whether to go on at once. A trap ends the job with its cause (R292). -/
def jobTry (s : State) (j : Job) (m : M State) : State × Bool :=
  match m s with
  | .ok (t, _) => (t, true)
  | .error (.trap t) => ((logJob s j t).setJob (j.failed t 0), false)
  | .error (.wait none) => (s, false)
  | .error (.wait (some r)) => (s.request r, false)

/-- Sent to every member, or the end of the job. -/
def postOr (s : State) (j : Job) (bytes : Nat → List Byte) (next : Job) : State :=
  match s.post j bytes with
  | some t => t.setJob next
  | none => s.setJob (j.ended GROUPFAIL 3 0)

/-- One step of a running collective. A member tells its success once what it has written has been performed. -/
def collectiveStep (s : State) (j : Job) : State × Bool :=
  match callBroken s j with
  | some (c, sub) => (s.setJob (j.ended c sub 0), false)
  | none =>
    if !j.agreed && disagrees s j then (s.setJob (j.ended GROUPFAIL 1 0), false)
    else if (bodyOf (j.own s)).isNone then
      jobTry s j (do
        match ← collectStep j with
        | some k => return (← get).setJob k
        | none => return postOr (← get) j (collBody j) { j with prog := 0 })
    else if j.ranks.any fun r => (bodyOf (j.stream s r)).isNone then (s, false)
    else if rxBad s j then (s.setJob (j.ended GROUPFAIL 2 0), false)
    else if !j.agreed then
      if (collWrite s j j.prog).isNone && s.postedBy (· == j.agent) then (s, false)
      else jobTry s j (do
        match collWrite s j j.prog with
        | some (n, p, v) =>
          payWrite j n p v
          return (← get).setJob { j with prog := j.prog + 1 }
        | none =>
          let places ← cupCheck j
          return postOr (← get) j (fun _ => leBytes 2 0) { j with agreed := true, cupAt := places })
    else if j.ranks.any fun r => (verdictsOf (j.stream s r)).length < 2 then (s, false)
    else
      let t := cupWrite s j
      ({ t.setJob (j.ended 0 0 (collProg s j)) with freeCtr := t.freeCtr + 1 }, true)

/-- A message of a collective taken from a package: bytes of a stream; those of a call that has ended here are dropped (R385, R390). -/
def collectiveBytes (s : State) (src gid call : Nat) (bs : List Byte) : State :=
  let late := (s.groups.any fun g => g.gid == gid && decide (call < g.calls)) &&
    !(s.jobs.any fun j => !j.moved && grpGid j.group == gid && j.call == call && !j.group.isEmpty)
  if late then s else s.feed gid call src bs

/-! ### The pushes -/

/-- CXRED (R391, R394). -/
def execCxred (a b c : SReg) (cup : Bool) (s : State) : Out := push (.cxred a b c cup) (jobSpec a b c) s
/-- CXGATH (R391, R395). -/
def execCxgath (a b c : SReg) (s : State) : Out := push (.cxgath a b c) (jobSpec a b c) s
/-- CXA2A (R391, R396). -/
def execCxa2a (a b c : SReg) (s : State) : Out := push (.cxa2a a b c) (jobSpec a b c) s
/-- CXBAR (R391, R397). -/
def execCxbar (a b c : SReg) (s : State) : Out := push (.cxbar a b c) (jobSpec a b c) s

end Sys2Proof.Machine
end

