-- ==== Sys2Proof/Machine/Rated.lean ====
section
/-! DEFINITION. Rated sets (R324 to R329): sparse calendars whose members are visited at their own rates. -/

namespace Sys2Proof.Machine
open Fp (Val)

/-! ### The set descriptor (R324) -/

/-- The descriptor's eight doublewords. -/
abbrev SetDesc := List Word

def SetDesc.step (d : SetDesc) : Nat := (d.getD 0 0).field 31 0
def SetDesc.lmin (d : SetDesc) : Nat := (d.getD 1 0).field 3 0
def SetDesc.lmax (d : SetDesc) : Nat := (d.getD 1 0).field 7 4
def SetDesc.extrapolates (d : SetDesc) : Bool := (d.getD 1 0).flag 8
def SetDesc.active (d : SetDesc) : Bool := (d.getD 1 0).flag 9
def SetDesc.count (d : SetDesc) : Nat := (d.getD 2 0).field 20 0
def SetDesc.lo (env : Fp.Env) (d : SetDesc) : Val := arg .fp32 env ((d.getD 3 0).field 31 0)
def SetDesc.hi (env : Fp.Env) (d : SetDesc) : Val := arg .fp32 env ((d.getD 3 0).field 63 32)
def SetDesc.cursor (d : SetDesc) : Nat := (d.getD 5 0).field 20 0
def SetDesc.visits (d : SetDesc) : Nat := (d.getD 5 0).field 52 32

/-- The descriptor keeps R324. -/
def SetDesc.ok (d : SetDesc) : Bool :=
  (d.getD 0 0).field 63 32 == 0 && (d.getD 1 0).field 63 10 == 0 && decide (d.lmin ≤ d.lmax) && decide (d.lmax ≤ 12) &&
    decide (1 ≤ (d.getD 2 0).toNat ∧ (d.getD 2 0).toNat ≤ 2 ^ 20) && (d.getD 4 0).field 4 0 == 0 && d.getD 6 0 == 0 && d.getD 7 0 == 0

/-- The address of member j (R325). -/
def SetDesc.member (d : SetDesc) (j : Nat) : Nat := ((d.getD 4 0).toNat + 32 * j) % 2 ^ 64

/-- The doubleword at 0x08 with ACTIVE as given. -/
def SetDesc.modeWord (d : SetDesc) (active : Bool) : Nat := (d.getD 1 0).field 8 0 + b2n active * 2 ^ 9

/-- The doubleword at 0x28. -/
def cursorWord (cursor visits : Nat) : Nat := cursor + visits % 2 ^ 21 * 2 ^ 32

/-- CAPACITY with SUB 18 at the descriptor (R326). -/
def ratedBad {α : Type} (va : Nat) : M α := raise CAPACITY 18 0 va

/-- The descriptor, checked; `active` is what ACTIVE has to be, if the instruction asks. -/
def readSet (c : Ctx) (va : Nat) (active : Option Bool) : M SetDesc := do
  let d : SetDesc ← loadWords c va 8
  if !d.ok || (active.isSome && active != some d.active) then ratedBad va else return d

/-! ### Members (R325, R328, R329) -/

/-- A member's named fields. -/
structure Member where
  level : Nat
  seen  : Bool
  (next last chg val slope : Nat)

def readMember (c : Ctx) (va : Nat) : M Member := do
  let ws ← loadWords c va 3
  let w (k hi lo : Nat) : Nat := (ws.getD k 0).field hi lo
  return { level := min (w 0 3 0) 12, seen := bit (w 0 8 8) 0, next := w 0 63 32, last := w 1 31 0, chg := w 1 63 32
           val := w 2 31 0, slope := w 2 63 32 }

/-- A member written back, with zero in every bit that has no name (R325). -/
def writeMember (c : Ctx) (va : Nat) (m : Member) : M Unit := do
  storeVa c va 8 (m.level + b2n m.seen * 2 ^ 8 + m.next * 2 ^ 32)
  storeVa c ((va + 8) % 2 ^ 64) 8 (m.last + m.chg * 2 ^ 32)
  storeVa c ((va + 16) % 2 ^ 64) 8 (m.val + m.slope * 2 ^ 32)
  storeVa c ((va + 24) % 2 ^ 64) 8 0

/-- a − b modulo 2^32. -/
def sub32 (a b : Nat) : Nat := (a + 2 ^ 32 - b % 2 ^ 32) % 2 ^ 32

/-- Due in sweep S. -/
def isDue (step next : Nat) : Bool := decide (sub32 step next < 2 ^ 31)

def greater (x y : Val) : Bool := Fp.cmp x y == some .gt

/-- An integer as an exact value. -/
def exactNat (n : Nat) : Val := .fin false n 0 false

/-- The rounding of a rated-set instruction: FCR as it stands, with RNE (R80, R328, R329). -/
def State.ratedEnv (s : State) : Fp.Env := { envOf s.me.fcr s.me.gstep with rm := .rne }

/-- L_new of R328. -/
def newLevel (env : Fp.Env) (d : SetDesc) (old : Nat) (x : Val) : Nat :=
  let t := if Fp.isNaN x || greater x (Fp.mul (exactNat 4) (d.hi env)).1 then 0
    else if greater x (d.hi env) then old - 1
    else if greater (d.lo env) x then old + 1 else old
  min (max t d.lmin) d.lmax

/-- SLOPE of a member that has been seen, when its value becomes y, with its flags (R328). -/
def Member.newSlope (env : Fp.Env) (m : Member) (d : SetDesc) (y : Nat) : Nat × Fp.Flags :=
  let (v, fl) := Fp.add .rne (arg .fp32 env y) (Fp.negate (arg .fp32 env m.val))
  let (r, fl') := roundRes .fp32 env 0 0 (Fp.div v (exactNat (sub32 d.step m.last)))
  (r, fl ||| fl')

/-- A member after a visit with change x and value y (R328), and the flags: FZI acts on the FP32 operands (R85), a signalling NaN among those that
are compared or rounded sets NV (R78), and x and y are stored as they are (DEDUCED, log 64). -/
def Member.visit (env : Fp.Env) (m : Member) (d : SetDesc) (x y : Nat) : Member × Fp.Flags :=
  let level := newLevel env d m.level (arg .fp32 env x)
  let (slope, fl) := if m.seen then m.newSlope env d y else (0, 0)
  ({ level := level, seen := true, next := (d.step + 2 ^ level) % 2 ^ 32, last := d.step, chg := x, val := y, slope := slope },
    Fp.sigFlag [arg .fp32 env x, d.lo env, d.hi env] ||| fl)

/-- What RSREAD returns of a member, and its flags (R78, R85, R329). -/
def Member.read (env : Fp.Env) (m : Member) (d : SetDesc) : Nat × Fp.Flags :=
  if d.extrapolates && m.seen then
    roundRes .fp32 env 0 0 (Fp.fma .rne (arg .fp32 env m.slope) (exactNat (sub32 d.step m.last)) (arg .fp32 env m.val))
  else (m.val, 0)

/-- The lowest due member from `j` on, among `fuel` of them. -/
def nextDue (c : Ctx) (d : SetDesc) (j fuel : Nat) : M (Option Nat) :=
  match fuel with
  | 0 => pure none
  | k + 1 => do
    let w ← loadVa c (d.member j) 8
    if isDue d.step (bits w 63 32) then return some j else nextDue c d (j + 1) k

/-! ### The instructions (R326, R327) -/

/-- Where a descriptor stands, if it can be read. -/
def descLoc (s : State) (va : Nat) : Option Loc :=
  match translate s.ctx va .read s with
  | .ok (l, _) => some l
  | .error _ => none

/-- Another front is in the middle of an instruction on the descriptor at a place: some of what it reads stands in a peer. -/
def State.serving (s : State) (l : Option Loc) : Bool :=
  match l with
  | some l => s.fronts.any fun p => p.1 != s.cur && p.2.wait == .serial l
  | none => false

/-- The current front is in the middle of such an instruction, whose own conditions have been met. -/
def State.amid (s : State) : Bool :=
  match s.me.wait with
  | .serial _ => true
  | _ => false

/-- How an instruction waits in its own middle: on its descriptor. -/
def serialWait (l : Option Loc) : Wait := (l.map Wait.serial).getD .retry

/-- An instruction on the descriptor at `va`, to which `g` says how it waits; the instructions on one descriptor are applied one at a time
(R326, R342). -/
def oneAtATime (va : Nat) (g : Wait → Out) (s : State) : Out :=
  if s.serving (descLoc s va) then .next (s.blocked .retry) else g (serialWait (descLoc s va))

/-- A rated-set instruction: the alignment of its descriptor, then its effect, whole or not at all. -/
def ratedOp (a : SReg) (m : Ctx → Nat → M Unit) (s : State) : Out :=
  let va := (s.reg a).toNat
  if va % 64 ≠ 0 then trapAt ALIGN 5 va s
  else oneAtATime va (fun w => atFrontIn w (do m s.ctx va; modify State.advance) s) s

def setRegM (r : SReg) (v : Nat) : M Unit := modify fun s => s.setReg r (word v)

/-- RSBEGIN. -/
def execRsbegin (a b : SReg) (s : State) : Out :=
  ratedOp a (fun c va => do
    let d ← readSet c va (some false)
    let n := (d.step + 1) % 2 ^ 32
    storeVa c va 8 n
    storeVa c ((va + 0x08) % 2 ^ 64) 8 (d.modeWord true)
    storeVa c ((va + 0x28) % 2 ^ 64) 8 0
    setRegM b n) s

/-- RSNEXT. -/
def execRsnext (a b : SReg) (s : State) : Out :=
  ratedOp a (fun c va => do
    let d ← readSet c va (some true)
    match ← nextDue c d d.cursor (d.count - d.cursor) with
    | some j =>
      storeVa c ((va + 0x28) % 2 ^ 64) 8 (cursorWord (j + 1) d.visits)
      setRegM b j
    | none =>
      storeVa c ((va + 0x28) % 2 ^ 64) 8 (cursorWord d.count d.visits)
      setRegM b (2 ^ 64 - 1)) s

/-- RSVISIT (R328). -/
def execRsvisit (a b r : SReg) (s : State) : Out :=
  let j := (s.reg b).field 19 0
  let x := (s.reg b).field 63 32
  let y := (s.reg r).field 31 0
  ratedOp a (fun c va => do
    let d ← readSet c va (some true)
    if d.count ≤ j then ratedBad va
    let m ← readMember c (d.member j)
    if m.seen && m.last == d.step then ratedBad va
    let (n, fl) := m.visit s.ratedEnv d x y
    writeMember c (d.member j) n
    storeVa c ((va + 0x28) % 2 ^ 64) 8 (cursorWord d.cursor (d.visits + 1))
    orFlagsM s.cur fl
    setRegM r (n.level + m.level * 2 ^ 4 + n.next * 2 ^ 32)) s

/-- RSREAD (R329). -/
def execRsread (a b : SReg) (s : State) : Out :=
  let j := (s.reg b).field 19 0
  ratedOp a (fun c va => do
    let d ← readSet c va none
    if d.count ≤ j then ratedBad va
    let (v, fl) := (← readMember c (d.member j)).read s.ratedEnv d
    orFlagsM s.cur fl
    setRegM b v) s

/-- RSEND. -/
def execRsend (a b : SReg) (s : State) : Out :=
  ratedOp a (fun c va => do
    let d ← readSet c va (some true)
    storeVa c ((va + 0x08) % 2 ^ 64) 8 (d.modeWord false)
    setRegM b d.visits) s

end Sys2Proof.Machine
end

