-- ==== Sys2Proof/Machine/Jobs.lean ====
section
/-! DEFINITION. The life of an engine job: acceptance at issue (R294, R296, R298), release by the dispatcher (R297), its payload (R292,
R318, R321 to R323, R392) and its end (R290, R291, R293). -/

namespace Sys2Proof.Machine

/-- The kind's card conditions (R296). -/
def cardOk (i : Instr) (card : List Word) : Bool :=
  match i with
  | .xcopy .. => frameOk card 0 false false && copyOk card
  | .xgath .. => frameOk card 1 false false && gathOk card
  | .xfill .. => frameOk card 2 false false && fillOk card
  | .agsweep .. => frameOk card 3 true false && sweepOk card
  | .unorm .. => frameOk card 4 true false && tensorOk card false
  | .uapply .. => frameOk card 5 true true && tensorOk card true
  | .cxred _ _ _ cup => frameOk card 6 false false && collOk card cup
  | .cxgath .. => frameOk card 7 false false && collOk card false
  | .cxa2a .. => frameOk card 8 false false && collOk card false
  | .cxbar .. => frameOk card 9 false false && collOk card false
  | _ => false

/-- ORD (R278). -/
def hasOrd (i : Instr) : Bool :=
  match i with
  | .xcopy _ _ _ o => o
  | .xgath _ _ _ _ o => o
  | .xfill _ _ _ o => o
  | .agsweep _ _ _ o => o
  | .unorm _ _ _ o => o
  | .uapply _ _ _ o => o
  | _ => false

def isGath (i : Instr) : Bool :=
  match i with
  | .xgath .. => true
  | _ => false

/-- Accepted jobs of a front that have not ended. -/
def State.jobsOf (s : State) (f : Nat) : List Job := s.jobs.filter (s.owns f)

/-! ### Acceptance -/

/-- A page translates an address of a job instruction, and not the scratchpad window (R234). -/
def Ctx.paged (c : Ctx) (va : Nat) : Bool := !decide (c.spbase ≤ va ∧ va < c.spbase + 327680)

/-- A job as its instruction leaves it at acceptance. -/
def newJob (s : State) (e : QEntry) (f : Nat) (card : List Word) (l : Loc) : Job :=
  let x := s.front f
  { fid := f, rank := x.rank, handle := e.handle, lid := x.lid, asid := x.asid, core := coreOf f, user := !e.cap.kern, instr := e.instr
    card := card, pair := e.scal 1, pairAt := l, pairPaged := (e.ctx s f).paged (e.scal 1).toNat, value := e.scal 2, running := false, moved := false
    cause := 0, sub := 0, stage := 0, agreed := false, cupAt := []
    prog := cardStart card, sure := cardStart card, after := if hasOrd e.instr then x.lastJob else none, gstep := e.cap.gstep, decay := e.cap.decay, acc := []
    rows := [], group := [], call := 0, cup := [], plan := none }

/-- The job joins the dispatcher's list; it is now the front's previous job. -/
def State.addJob (s : State) (f : Nat) (j : Job) : State :=
  { s with jobs := s.jobs ++ [j] }.modFront f fun x => { x with lastJob := some j.handle }

/-- What acceptance adds for the kind: XGATH's rows, a collective's group and call, a cupping list taken (R300, R391, R399). A group table
outside every RD region fails the accepted job (log 21). -/
def acceptKind (e : QEntry) (f : Nat) (c : Ctx) (va : Nat) (j : Job) : M Job := do
  if isGath e.instr then return { j with acc := [e.start], rows := ← gathRows e f (e.vl - e.start) e.start }
  else if cardKind j.card < 6 then return j
  else
    let (g, call, ok) ← acceptGroup c va j.card
    let s ← get
    let sel := ctlSel j.card
    let k := { j with group := g, call := call, cup := if isCupRed e.instr then spGet [] (s.launch j.lid).cups sel else [] }
    if isCupRed e.instr then set (modCup j.lid sel (fun _ => []) s)
    return if ok then k else k.ended ACCESS 7 0

/-- A collective: CXRED, CXGATH, CXA2A or CXBAR. -/
def isCollective (i : Instr) : Bool :=
  match i with
  | .cxred .. => true
  | .cxgath .. => true
  | .cxa2a .. => true
  | .cxbar .. => true
  | _ => false

/-- The call that a collective cancelled in the queue would have been, which it takes and ends, if its card and group table can be read; it
translates nothing for them (R303, R390, R392; log 36). An error in storage that it meets there is recorded (R376). -/
def cancelledCall (e : QEntry) (c : Ctx) (va : Nat) : M (List Word × Nat) := fun s =>
  match (do
      let card ← loadWords c va 24
      if !cardOk e.instr card then raise CAPACITY 17 0 va
      acceptGroup c va card) s with
  | .ok ((g, call, _), t) => .ok ((g, call), { s with groups := t.groups })
  | .error (.trap t) => .ok (([], 0), logTrap s c.fid t e.vsn.toNat)
  | .error w => .error w

/-- A job instruction at its issue. The card is checked before the tags of XGATH's index (DEDUCED, log 20). -/
def acceptJob (e : QEntry) (f : Nat) : Run :=
  .whole (atElem e.start (do
    let s ← get
    if 32 ≤ (s.jobsOf f).length then waitMore
    let c := e.ctx s f
    let va := (e.scal 0).toNat
    if e.aux = 1 then
      let l ← translate c (e.scal 1).toNat .write
      let (g, call) ← if isCollective e.instr then cancelledCall e c va else pure ([], 0)
      modify fun s => s.addJob f { (newJob s e f [] l).ended CANCELLED 0 0 with group := g, call := call }
    else
      touchPages c .read va 192 4
      let l ← translate c (e.scal 1).toNat .write
      let card ← loadWords c va 24
      if !cardOk e.instr card then raise CAPACITY 17 0 va
      let j ← acceptKind e f c va (newJob (← get) e f card l)
      modify fun s => s.addJob f j))

/-! ### Release (R297) -/

/-- The ranges that a job declares: space, first byte, length and whether it is written. -/
def Job.ranges (j : Job) : List (Bool × Nat × Nat × Bool) :=
  ((cardRegs j.card).map fun r =>
    let (pad, a) := cardAddr r.1 0
    (pad, (if pad then scratchBase j.core + a else a), r.2.field 39 0, r.2.flag 41)) ++
  j.cup.map fun r => (false, r.1.toNat, r.2.toNat, false)

/-- Two jobs are ordered by their regions. -/
def conflicting (a b : Job) : Bool :=
  a.ranges.any fun p => b.ranges.any fun q =>
    p.1 == q.1 && decide (p.2.1 < q.2.1 + q.2.2.1 ∧ q.2.1 < p.2.1 + p.2.2.1) && (p.2.2.2 || q.2.2.2)

/-- Every job ordered before it has ended; `before` holds the jobs accepted earlier. -/
def Job.releasable (j : Job) (before : List Job) : Bool :=
  !j.running && before.all fun k =>
    !(k.lid == j.lid && ((dieOf k.fid == dieOf j.fid && conflicting k j) || (k.rank == j.rank && j.after == some k.handle)))

/-- The job's status write may be made: under ORD the front's previous job has ended, also where this one has been cancelled (R278). -/
def Job.mayEnd (j : Job) (before : List Job) : Bool :=
  before.all fun k => !(k.lid == j.lid && k.rank == j.rank && j.after == some k.handle)

/-- The jobs accepted before one. -/
def State.before (s : State) (j : Job) : List Job := s.jobs.takeWhile fun k => k.agent != j.agent

/-- JOB_RELEASE of a job of front `f` with a handle. -/
def jobRelease (s : State) (f h : Nat) : State :=
  match s.jobs.find? fun j => j.fid == f && j.handle.toNat == h && j.releasable (s.before j) with
  | some j => s.setJob { j with running := true }
  | none => s

/-! ### The payload -/

/-- Positions of a job that is no collective. -/
def jobCount (j : Job) : Nat :=
  match cardKind j.card with
  | 1 => j.rows.length * (rowLen j.card / cardEs j.card)
  | 3 => (j.card.getD 11 0).toNat
  | 4 => recExt (j.card.getD 15 0) * recExt (j.card.getD 16 0)
  | 5 => recExt (j.card.getD 15 0) * recExt (j.card.getD 16 0)
  | _ => recLen (recordsOf j.card 16)

/-- The next position, or positions, of a job. -/
def bodyStep (j : Job) : M Job :=
  match cardKind j.card with
  | 1 => gathStep j
  | 3 => sweepStep j
  | 4 => unormStep j
  | 5 => uapplyStep j
  | _ => copyStep j

def isTraining (j : Job) : Bool := decide (3 ≤ cardKind j.card ∧ cardKind j.card ≤ 5)

/-- A job that a fault ends; a training job still writes its record where it can (R318, R321, R323). -/
def failJob (s : State) (j : Job) (t : TrapRec) : State :=
  let s := if isTraining j then
      (match trainingResult j (some t.addr) s with
      | .ok (_, u) => u
      | .error _ => s) else s
  (logJob s j t).setJob (j.failed t j.prog)

/-- One step of a running job: the next state, and whether it can go on. -/
def jobStep (s : State) (j : Job) : State × Bool :=
  if 6 ≤ cardKind j.card then collectiveStep s j
  else
    let m : M State :=
      if j.prog < jobCount j then do
        let k ← bodyStep j
        return (← get).setJob k
      else do
        if isTraining j then trainingResult j none
        return (← get).setJob (j.ended 0 0 j.prog)
    match m s with
    | .ok (t, _) => (t, true)
    | .error (.trap t) => (failJob s j t, false)
    | .error (.wait none) => (s, false)
    | .error (.wait (some r)) => (s.request r, false)

/-- A job about to make a step: while no write of it to a peer waits, all that it has done has been performed (R302). A collective has nothing to say
of its positions before its end. -/
def Job.checked (s : State) (j : Job) : Job :=
  if 6 ≤ cardKind j.card ∨ s.postedBy (· == j.agent) = true then j else { j with sure := j.prog }

/-- At most `n` steps of the job of an agent. -/
def runJob (n : Nat) (a : Agent) (s : State) : State :=
  match n with
  | 0 => s
  | k + 1 =>
    match s.jobs.find? fun j => j.agent == a with
    | none => s
    | some j =>
      if !j.running || j.moved then s
      else
        let (t, more) := jobStep s (j.checked s)
        if more then runJob k a t else t

/-- More steps than any job has. -/
def jobFuel : Nat := 2 ^ 44

/-! ### The end (R290, R293) -/

/-- The location 8 bytes on. -/
def Loc.next (l : Loc) : Loc :=
  match l with
  | .mem a => .mem (a + 8)
  | .dev a => .dev (a + 8)
  | .peer d a => .peer d (a + 8)

/-- A doubleword of the completion pair written; a job pushed in kernel mode can reach a device register (R235). -/
def putPair (s : State) (j : Job) (l : Loc) (v : Nat) : Except (Nat × Nat) State :=
  match l with
  | .dev a => if j.user then .error (ACCESS, 6) else .ok (devWrite s .kernel a 8 v)
  | l => putAt s l 8 v j.agent

/-- Physical address of a location, for an error record. -/
def Loc.phys (l : Loc) : Nat :=
  match l with
  | .mem a => a
  | .dev a => a
  | .peer _ a => a

/-- A job that has ended leaves the engines, and the streams of its call are dropped. -/
def dropJob (s : State) (j : Job) : State :=
  { s with
    jobs := s.jobs.filter fun k => k.agent != j.agent
    contribs := s.contribs.filter fun c => j.group.isEmpty || !(c.gid == grpGid j.group && c.call == j.call) }

/-- A job with a word of its completion pair that cannot be written has ended, and a MEMERR is pending for its front (R293). -/
def pairFails (s : State) (j : Job) : State :=
  (errRecord (dropJob s j) (dieOf j.fid) j.pair.toNat j.pairAt.phys j.asid 4 (j.fid / 2 % 64) (j.fid % 2) j.handle.toNat).setPending
    ⟨j.lid, j.rank, false, 3, j.pair.toNat⟩

/-- A word of the completion pair written. One that cannot be written for another reason than those of R293 is reported in the same way (DESIGN CHOICE,
log 74). -/
def pairWord (s : State) (j : Job) (l : Loc) (v : Nat) : State :=
  match putPair s j l v with
  | .ok t => t.setJob { j with stage := j.stage + 1 }
  | .error _ => pairFails s j

/-- The next part of a job's end: its failure told to the members of its call, and the status word; the completion word; and the end, once that
has been performed (R290). -/
def endPart (s : State) (j : Job) : State :=
  match j.stage with
  | 0 => pairWord (tellFailure s j) j j.pairAt.next (statusWord j.cause j.sub j.prog)
  | 1 => pairWord s j j.pairAt j.value.toNat
  | _ => dropJob s j

/-- A posted write of a job that no link can carry any more (R386, log 4): of its payload, which ends it with ACCESS and SUB 8
where nothing has ended it before, at the last position before which all has certainly been performed; of its completion pair (log 74). A collective that has told its success keeps it (R392, log 9). -/
def jobLost (s : State) (j : Job) : State :=
  let k := { j with prog := if 6 ≤ cardKind j.card then 0 else j.sure }
  if j.stage ≠ 0 then pairFails s j
  else if j.agreed then s
  else if !j.moved then failJob s k ⟨ACCESS, 8, 0, 0, 0⟩
  else s.setJob (if j.cause = 0 then k.ended ACCESS 8 k.prog else k)

/-- At most `n` parts of the end of the job of an agent, each once every write that the job has made before it has been performed (R290, log 4). -/
def endParts (n : Nat) (a : Agent) (s : State) : State :=
  match n with
  | 0 => s
  | k + 1 =>
    match s.jobs.find? fun j => j.agent == a with
    | none => s
    | some j => if s.postedBy (· == a) then s else endParts k a (endPart s j)

/-- The end of a job whose payload has ended. -/
def finishJob (s : State) (j : Job) : State := endParts 3 j.agent s

/-- JOB_END: what is left of the payload of a running job, and its end. -/
def jobEnd (s : State) (f h : Nat) : State :=
  match s.jobs.find? fun j => j.fid == f && j.handle.toNat == h && j.running with
  | none => s
  | some j =>
    let t := runJob jobFuel j.agent s
    match t.jobs.find? fun k => k.agent == j.agent with
    | some k => if k.moved && k.mayEnd (t.before k) then finishJob t k else t
    | none => t

/-- COLLECTIVE_CALL_END: the member's job of a group goes on as far as the streams of the others let it. -/
def collectiveCallEnd (s : State) (gid : Nat) : State :=
  match s.jobs.find? fun j => j.running && !j.moved && !j.group.isEmpty && grpGid j.group == gid with
  | none => s
  | some j => runJob jobFuel j.agent s

/-- The dispatcher and the engines by themselves: every job that may be released is, every running one makes steps, and every one whose payload
has ended ends. -/
def jobsProgress (s : State) (steps : Nat) : State :=
  s.jobs.foldl (fun (s : State) j =>
    match s.jobs.find? fun k => k.agent == j.agent with
    | none => s
    | some j =>
      if j.moved then (if j.mayEnd (s.before j) then finishJob s j else s)
      else if j.running then runJob steps j.agent s
      else if j.releasable (s.before j) then s.setJob { j with running := true } else s) s

end Sys2Proof.Machine
end

