-- ==== Sys2Proof/Machine/Tasks.lean ====
section
/-! DEFINITION. Task queues (R339 to R349), claims (R350, R351) and EXIT (R152, R206, R361). -/

namespace Sys2Proof.Machine

/-! ### The task descriptor (R339) -/

/-- The forty doublewords of a descriptor. -/
abbrev TaskDesc := List Word

def TaskDesc.ntype (d : TaskDesc) : Nat := (d.getD 1 0).field 12 0
def TaskDesc.nq (d : TaskDesc) : Nat := (d.getD 1 0).field 19 16
def TaskDesc.opens (d : TaskDesc) : Nat := (d.getD 1 0).field 63 32
def TaskDesc.ptr (d : TaskDesc) : Nat := (d.getD 4 0).field 2 0
def TaskDesc.ctl (d : TaskDesc) (q : Nat) : Word := d.getD (9 + 4 * q) 0
def TaskDesc.size (d : TaskDesc) (q : Nat) : Nat := 2 ^ (d.ctl q).field 4 0
def TaskDesc.weight (d : TaskDesc) (q : Nat) : Nat := (d.ctl q).field 15 8
def TaskDesc.credit (d : TaskDesc) (q : Nat) : Nat := (d.ctl q).field 23 16
def TaskDesc.head (d : TaskDesc) (q : Nat) : Nat := (d.getD (10 + 4 * q) 0).field 31 0
def TaskDesc.tail (d : TaskDesc) (q : Nat) : Nat := (d.getD (10 + 4 * q) 0).field 63 32
/-- Records between QHEAD and QTAIL. -/
def TaskDesc.count (d : TaskDesc) (q : Nat) : Nat := sub32 (d.tail q) (d.head q)
/-- The address of a position of queue q. -/
def TaskDesc.slot (d : TaskDesc) (q pos : Nat) : Nat := ((d.getD (8 + 4 * q) 0).toNat + 16 * (pos % d.size q)) % 2 ^ 64

/-- Queue entry q keeps R339. -/
def TaskDesc.queueOk (d : TaskDesc) (q : Nat) : Bool :=
  let w (k : Nat) : Word := d.getD (8 + 4 * q + k) 0
  if q < d.nq then
    (w 0).field 3 0 == 0 && decide (4 ≤ (w 1).field 4 0 ∧ (w 1).field 4 0 ≤ 20) && (w 1).field 7 5 == 0 && d.weight q != 0 &&
      (w 1).field 63 24 == 0 && w 3 == 0
  else w 0 == 0 && w 1 == 0 && w 2 == 0 && w 3 == 0

/-- The descriptor keeps R339. -/
def TaskDesc.ok (d : TaskDesc) : Bool :=
  let w (k : Nat) : Word := d.getD k 0
  (w 0).field 5 0 == 0 && decide (1 ≤ d.ntype ∧ d.ntype ≤ 4096) && (w 1).field 15 13 == 0 && decide (1 ≤ d.nq ∧ d.nq ≤ 8) &&
    (w 1).field 31 20 == 0 && (w 2).field 4 0 == 0 && (w 3).field 63 32 == 0 && (w 4).field 63 3 == 0 &&
    w 5 == 0 && w 6 == 0 && w 7 == 0 && (List.range 8).all d.queueOk

def taskErr {α : Type} (sub addr : Nat) : M α := raise TASKERR sub 0 addr

/-- The descriptor at an address, checked. -/
def readTasks (c : Ctx) (va : Nat) : M TaskDesc := do
  let d : TaskDesc ← loadWords c va 40
  if d.ok then return d else taskErr 1 va

/-- A doubleword of the descriptor written. -/
def TaskDesc.put (d : TaskDesc) (c : Ctx) (va k v : Nat) : M TaskDesc := do
  storeVa c ((va + 8 * k) % 2 ^ 64) 8 v
  return d.set k (word v)

def TaskDesc.putCredit (d : TaskDesc) (c : Ctx) (va q n : Nat) : M TaskDesc :=
  d.put c va (9 + 4 * q) ((d.ctl q).field 15 0 + n * 2 ^ 16)

def TaskDesc.putEnds (d : TaskDesc) (c : Ctx) (va q head tail : Nat) : M TaskDesc :=
  d.put c va (10 + 4 * q) (head % 2 ^ 32 + tail % 2 ^ 32 * 2 ^ 32)

/-! ### Records and footprints (R340, R341) -/

/-- A record of two doublewords. -/
structure TaskRec where
  (lo hi : Word)

def TaskRec.type (r : TaskRec) : Nat := r.lo.field 11 0
def TaskRec.hasParent (r : TaskRec) : Bool := r.lo.flag 12
def TaskRec.used (r : TaskRec) : Bool := r.lo.flag 15
def TaskRec.parent (r : TaskRec) : Nat := r.hi.field 31 0

def readRec (c : Ctx) (va : Nat) : M TaskRec := do
  let lo ← loadVa c va 8
  let hi ← loadVa c ((va + 8) % 2 ^ 64) 8
  return ⟨word lo, word hi⟩

/-- Used regions: base, length, RD and WR. -/
abbrev Foot := List (Nat × Nat × Bool × Bool)

/-- The pieces of a region, below 2^64 and, where it wraps, from 0 on. -/
def footPieces (r : Nat × Nat × Bool × Bool) : List (Nat × Nat × Bool) :=
  let (lo, n, _, wr) := r
  if lo + n ≤ 2 ^ 64 then [(lo, lo + n, wr)] else [(lo, 2 ^ 64, wr), (0, lo + n - 2 ^ 64, wr)]

/-- Two footprints conflict. -/
def footConflict (a b : Foot) : Bool :=
  (a.flatMap footPieces).any fun p => (b.flatMap footPieces).any fun q =>
    decide (p.1 < q.2.1 ∧ q.1 < p.2.1) && (p.2.2 || q.2.2)

/-- What a type-table entry says of a record. -/
structure TaskType where
  (pc rows spad : Nat)
  foot : Foot

/-- Region k of a template, for a record: none when unused. An invalid one raises TASKERR 2 at the type entry. -/
def readRegion (c : Ctx) (entry tmpl : Nat) (r : TaskRec) (k : Nat) : M Foot := do
  let ws ← loadWords c ((tmpl + 32 * k) % 2 ^ 64) 4
  let w (j : Nat) : Word := ws.getD j 0
  let len := (w 3).field 39 0
  let used := (w 3).flag 40 || (w 3).flag 41
  if (w 2).field 63 32 != 0 || (w 3).field 63 42 != 0 || (len != 0) != used then taskErr 2 entry
  let base : Int := (w 0).toNat + (r.lo.field 31 16 : Nat) * signedOf 32 ((w 1).field 31 0) +
    (r.lo.field 47 32 : Nat) * signedOf 32 ((w 1).field 63 32) + (r.lo.field 63 48 : Nat) * signedOf 32 ((w 2).field 31 0)
  return if len = 0 then [] else [(addr64 base, len, (w 3).flag 40, (w 3).flag 41)]

/-- The type of a record, which stands at `va`. -/
def readType (c : Ctx) (d : TaskDesc) (r : TaskRec) (va : Nat) : M TaskType := do
  if d.ntype ≤ r.type then taskErr 2 va
  let entry := ((d.getD 0 0).toNat + 32 * r.type) % 2 ^ 64
  let ws ← loadWords c entry 4
  let w (j : Nat) : Word := ws.getD j 0
  let rows := (w 1).field 9 0
  let spad := (w 1).field 50 32
  if (w 0).field 1 0 != 0 || !decide (1 ≤ rows ∧ rows ≤ 512) || decide (327680 < spad) || (w 2).field 6 0 != 0 || w 3 != 0 then taskErr 2 entry
  let tmpl := (w 2).toNat
  let foot ← readRun 4 0 (readRegion c entry tmpl r)
  return ⟨(w 0).toNat, rows, spad, foot.flatten⟩

/-! ### Enqueueing (R344) -/

/-- A position of a queue that holds a new record is no longer a cancelled one's (R348). -/
def forgetCancelled (lid dva q pos : Nat) (s : State) : State :=
  { s with cancelled := s.cancelled.filter fun k => k != (⟨lid, dva, q, pos⟩ : Cancelled) }

/-- A record put at the tail of queue q; `va` is where it comes from. It gives the old tail. -/
def enqueue (c : Ctx) (dva va : Nat) (d : TaskDesc) (q : Nat) (r : TaskRec) : M Nat := do
  let _ ← readType c d r va
  if d.nq ≤ q || r.used || r.lo.field 14 13 != 0 then taskErr 6 va
  if d.size q ≤ d.count q then taskErr 7 dva
  storeVa c (d.slot q (d.tail q)) 8 r.lo.toNat
  storeVa c ((d.slot q (d.tail q) + 8) % 2 ^ 64) 8 r.hi.toNat
  let _ ← d.putEnds c dva q (d.head q) (d.tail q + 1)
  modify fun s => forgetCancelled s.me.lid dva q (d.tail q) s
  return d.tail q

/-- A parent's COUNT decremented; at 0 its continuation is enqueued, and the answer is 1 (R347). -/
def countDown (c : Ctx) (dva : Nat) (d : TaskDesc) (parent : Nat) : M Nat := do
  let entry := ((d.getD 2 0).toNat + 32 * parent) % 2 ^ 64
  if (d.getD 3 0).field 31 0 ≤ parent then taskErr 5 entry
  let w := word (← loadVa c entry 8)
  if w.field 31 0 = 0 then taskErr 5 entry
  storeVa c entry 8 (w.toNat - 1)
  if w.field 31 0 = 1 then
    let _ ← enqueue c dva entry d (w.field 34 32) (← readRec c ((entry + 16) % 2 ^ 64))
    return 1
  else return 0

/-! ### Waiting (R346, R349) -/

/-- Every event that must precede a TENQ or TDONE has been performed, fills of popped rows included, and every engine job of the front has ended
(R349). -/
def State.settled (s : State) (f : Nat) : Bool :=
  (s.front f).queue.all (fun e => !e.memPending && ((s.front f).unfilled e).isEmpty) && !s.filling f none && (s.jobsOf f).isEmpty

/-- A request on a descriptor has been applied: the TAKEs of the launch that sleep on it wake (R346). -/
def wakeTakes (s : State) (lid dva : Nat) : State :=
  let sleeps (f : Nat) : Bool := (s.front f).lid == lid && (s.front f).wait == .take (word dva) && f != s.cur
  (s.fronts.map (·.1)).foldl (fun (t : State) f => if sleeps f then t.modFront f fun x => { x with wait := .woken } else t) s

/-- The descriptor address and the queue number of an operand (R342). -/
def taskVa (w : Word) : Nat := w.field 63 6 * 64
def taskQueue (w : Word) : Nat := w.field 2 0

/-- A task request of the front that is applied, wakes the TAKEs on its descriptor and completes. -/
def taskOp (dva : Nat) (m : M Unit) (s : State) : Out :=
  oneAtATime dva (fun w => atFrontIn w (do
    m
    modify fun t => (wakeTakes t t.me.lid dva).advance) s) s

/-! ### TENQ (R344) -/

/-- TENQ. -/
def execTenq (a b r : SReg) (s : State) : Out :=
  let dva := taskVa (s.reg a)
  let q := taskQueue (s.reg a)
  if s.amid || s.settled s.cur then
    taskOp dva (do
      let d ← readTasks s.ctx dva
      let pos ← enqueue s.ctx dva dva d q ⟨s.reg b, s.reg r⟩
      setRegM b (pos + q * 2 ^ 32)) s
  else .next (s.blocked .retry)

/-! ### TAKE (R345, R346) -/

/-- QHEAD past taken and cancelled records, the one at `gone` among them; `n` bounds them. -/
def headPast (c : Ctx) (d : TaskDesc) (gone : Option Nat) (q pos n : Nat) : M Nat :=
  match n with
  | 0 => pure pos
  | k + 1 => do
    if gone = some (d.slot q pos) then headPast c d gone q (pos + 1) k
    else do
      let r ← readRec c (d.slot q pos)
      if r.used then headPast c d gone q (pos + 1) k else return pos

/-- QHEAD written, once the record at `gone` has been marked, which is not read again (R346, R348). -/
def advanceHead (c : Ctx) (dva : Nat) (d : TaskDesc) (gone q : Nat) : M TaskDesc := do
  d.putEnds c dva q (← headPast c d (some gone) q (d.head q) (d.count q)) (d.tail q)

/-- The lowest ready record of queue q from position `pos` on, over `n` positions: `seen` records that are neither taken nor cancelled
have been passed, whose footprints are in `ahead`, beside those of the launch's held tasks. -/
def readyFrom (c : Ctx) (d : TaskDesc) (q rows spad : Nat) (ahead : List Foot) (seen pos n : Nat) : M (Option (Nat × TaskRec × TaskType)) :=
  match n with
  | 0 => pure none
  | k + 1 => do
    if 16 ≤ seen then return none
    let va := d.slot q pos
    let r ← readRec c va
    if r.used then readyFrom c d q rows spad ahead seen (pos + 1) k
    else do
      let t ← readType c d r va
      if t.rows ≤ rows ∧ t.spad ≤ spad ∧ (ahead.any (footConflict t.foot)) = false then return some (va, r, t)
      else readyFrom c d q rows spad (t.foot :: ahead) (seen + 1) (pos + 1) k

/-- The first queue, from turn `t` on, that has credit and a ready record. -/
def chooseQueue (c : Ctx) (d : TaskDesc) (rows spad : Nat) (held : List Foot) (t n : Nat) : M (Option (Nat × Nat × TaskRec × TaskType)) :=
  match n with
  | 0 => pure none
  | k + 1 => do
    let q := (d.ptr + t) % d.nq
    match ← (if d.credit q = 0 then pure none else readyFrom c d q rows spad held 0 (d.head q) (d.count q)) with
    | some p => return some (q, p)
    | none => chooseQueue c d rows spad held (t + 1) k

/-- CREDIT ← WEIGHT for every queue. -/
def renewCredits (c : Ctx) (dva : Nat) (d : TaskDesc) (n : Nat) : M TaskDesc :=
  match n with
  | 0 => pure d
  | k + 1 => do (← renewCredits c dva d k).putCredit c dva k (d.weight k)

/-- Some queue holds a record that is neither taken nor cancelled. -/
def anyPending (c : Ctx) (d : TaskDesc) (n : Nat) : M Bool :=
  match n with
  | 0 => pure false
  | k + 1 => do
    if (← headPast c d none k (d.head k) (d.count k)) ≠ d.head k + d.count k then return true else anyPending c d k

/-- The chosen record taken. -/
def takeRec (c : Ctx) (dva : Nat) (d : TaskDesc) (q va : Nat) (r : TaskRec) (t : TaskType) (ra rb rc : SReg) : M Unit := do
  storeVa c va 8 (r.lo.toNat + 2 ^ 15)
  let left := d.credit q - 1
  let d ← d.putCredit c dva q left
  let d ← d.put c dva 4 (if 0 < left then q else (q + 1) % d.nq)
  let _ ← advanceHead c dva d va q
  modify fun s =>
    let lid := s.me.lid
    { s.modFront s.cur fun x => { x with task := some (word dva, r.lo, r.hi) } with
      held := s.held ++ [(⟨lid, word dva, r.lo, r.hi, t.foot⟩ : Held)] }
  setRegM ra t.pc
  setRegM rb r.lo.toNat
  setRegM rc r.hi.toNat

/-- One round of TAKE's loop: it answers whether it is complete. -/
def takeRound (c : Ctx) (dva rows spad : Nat) (ra rb rc : SReg) : M Bool := do
  let d ← readTasks c dva
  let s ← get
  if s.me.task.isSome then taskErr 3 dva
  let held := (s.held.filter fun h => h.lid == s.me.lid).map (·.foot)
  match ← chooseQueue c d rows spad held 0 d.nq with
  | some (q, va, r, t) => do
    takeRec c dva d q va r t ra rb rc
    return true
  | none => do
    let d ← renewCredits c dva d d.nq
    match ← chooseQueue c d rows spad held 0 d.nq with
    | some (q, va, r, t) => do
      takeRec c dva d q va r t ra rb rc
      return true
    | none => do
      if d.opens ≠ 0 ∨ held.isEmpty = false then return false
      if ← anyPending c d d.nq then return false
      setRegM ra 0
      setRegM rb 0
      setRegM rc 0
      return true

/-- TAKE: it sleeps until another request on its descriptor is applied. D is in s[a], as R342 has it; the listing of R354 has it in another register (DEDUCED,
log 73). -/
def execTake (a b r : SReg) (s : State) : Out :=
  let dva := taskVa (s.reg a)
  oneAtATime dva (fun w => atFrontIn w (do
    let done ← takeRound s.ctx dva ((s.reg b).field 9 0) ((s.reg b).field 50 32) a b r
    modify fun t => if done then (wakeTakes t t.me.lid dva).advance else t.blocked (.take (word dva))) s) s

/-! ### TDONE (R347) -/

/-- The held task retired, and what TDONE answers. -/
def retire (c : Ctx) (held : Word × Word × Word) : M Nat := do
  let (dw, lo, hi) := held
  let r : TaskRec := ⟨lo, hi⟩
  let d ← readTasks c dw.toNat
  let n ← if r.hasParent then countDown c dw.toNat d r.parent else pure 0
  modify fun s =>
    let lid := s.me.lid
    let gone := s.held.find? fun h => h.lid == lid && h.desc == dw && h.lo == lo && h.hi == hi
    { s.modFront s.cur fun x => { x with task := none } with
      held := match gone with
        | some h => s.held.erase h
        | none => s.held }
  return n

/-- TDONE. -/
def execTdone (a b : SReg) (s : State) : Out :=
  if s.amid || s.settled s.cur then
    match s.me.task with
    | some t => taskOp t.1.toNat (do setRegM b (← retire s.ctx t)) s
    | none =>
      let dva := taskVa (s.reg a)
      taskOp dva (do
        let d ← readTasks s.ctx dva
        if d.opens = 0 then taskErr 4 dva
        let _ ← d.put s.ctx dva 1 ((d.getD 1 0).toNat - 2 ^ 32)
        setRegM b 0) s
  else .next (s.blocked .retry)

/-! ### TCANCEL (R348) -/

/-- A cancelled record is remembered while its position can still be asked for. -/
def noteCancelled (lid dva q pos head size : Nat) (s : State) : State :=
  let old (k : Cancelled) : Bool :=
    k.lid == lid && k.desc == dva && k.queue == q && decide (size ≤ sub32 head k.pos ∧ sub32 head k.pos < 2 ^ 31)
  { s with cancelled := (s.cancelled.filter fun k => !old k && k != (⟨lid, dva, q, pos⟩ : Cancelled)) ++ [(⟨lid, dva, q, pos⟩ : Cancelled)] }

/-- TCANCEL's effect and result. -/
def cancelRec (c : Ctx) (dva q pos : Nat) : M Nat := do
  let d ← readTasks c dva
  let s ← get
  let known := s.cancelled.contains (⟨s.me.lid, dva, q, pos⟩ : Cancelled)
  let behindTail := sub32 (d.tail q) pos
  let past := if known then 2 else 1
  if d.nq ≤ q ∨ behindTail = 0 ∨ d.count q + d.size q ≤ behindTail then return 2
  if d.count q < behindTail then return past
  let va := d.slot q pos
  let r ← readRec c va
  if r.used then return past
  storeVa c va 8 (r.lo.toNat + 2 ^ 15)
  let d ← if pos = d.head q then advanceHead c dva d va q else pure d
  if r.hasParent then
    let _ ← countDown c dva d r.parent
  modify (noteCancelled s.me.lid dva q pos (d.head q) (d.size q))
  return 0

/-- TCANCEL. -/
def execTcancel (a b : SReg) (s : State) : Out :=
  let dva := taskVa (s.reg a)
  let w := s.reg b
  taskOp dva (do setRegM b (← cancelRec s.ctx dva (w.field 34 32) (w.field 31 0))) s

/-! ### Claims (R350, R351) -/

/-- Doublewords at rising locations from one that a page holds. -/
def Loc.plus (l : Loc) (n : Nat) : Loc :=
  match l with
  | .mem a => .mem (a + n)
  | .dev a => .dev (a + n)
  | .peer d a => .peer d (a + n)

/-- An atomic access of `n` doublewords at one home agent, which writes those that `g` gives. A peer is told the claim by its code and cap
(log 9). -/
def claimAt (agent : Agent) (l : Loc) (va n code cap : Nat) (g : List Word → M (List (Nat × Nat))) : M (List Word) :=
  match l with
  | .peer d a => do
    let bs ← askPeer agent d a (8 * n) 3 va (Config.atomicPayload code (8 * n) cap)
    let old := (List.range n).map fun i => word (rd bs (8 * i) 8)
    let _ ← g old
    return old
  | l => do
    let old ← readRun n 0 fun i => do return word (← readLoc agent (l.plus (8 * i)) 8 (va + 8 * i))
    let ws ← g old
    forUp ws.length 0 fun i =>
      let w := ws.getD i (0, 0)
      writeLoc agent (l.plus (8 * w.1)) 8 w.2 (va + 8 * w.1)
    return old

/-- What makes a claim: words at its place, the code that a peer is told, what is written of them for a cap and a width, and what the grant and
the two results are. -/
structure ClaimOp where
  (n code : Nat)
  write : Nat → Nat → List Word → M (List (Nat × Nat))
  res   : Nat → Nat → List Word → Nat × Nat × Nat

/-- The answer that the current front has to its atomic access of a peer, dropped. -/
def State.dropAtomic (s : State) : State := { s with remotes := s.remotes.filter fun r => !(r.agent == .front s.cur && r.cls == 3) }

/-- The atomic access of the claim `i`, in the state `s` after its strip boundary, which a trap leaves in effect; a front that waits for a peer
keeps its cap, the name's entry and the place. One that is to trap, and waits for older instructions that may trap first (R72), has ended its access. -/
def claimGo (op : ClaimOp) (i : Instr) (a b r : SReg) (cap : Nat) (e : Word) (l : Loc) (s : State) : Out :=
  match claimAt (.front s.cur) l (s.reg a).toNat op.n op.code cap (op.write cap (dW e)) s with
  | .error (.trap p) => .next (if s.me.queue.isEmpty then frontTrap s.dropAtomic p else s.dropAtomic.blocked (.claim i cap e l))
  | .error (.wait none) => .next (s.blocked (.claim i cap e l))
  | .error (.wait (some q)) => .next ((s.request q).blocked (.claim i cap e l))
  | .ok (old, u) =>
    let (grant, x, y) := op.res cap (dW e) old
    .next ((((u.setVl grant e).setReg b (word x)).setReg r (word y)).advance)

/-- The peer has been asked for the current front's claim, or has answered. -/
def State.claimAsked (s : State) : Bool := s.remotes.any fun r => r.agent == .front s.cur && r.cls == 3

/-- A claim: alignment, translation, the name's checks and the strip boundary, then the atomic access. One that executes again translates again, unless
the peer has been asked already, so that it uses no translation that an invalidation covers (R241). -/
def claim (align sub : Nat) (op : ClaimOp) (i : Instr) (a b r : SReg) (s : State) : Out :=
  let va := (s.reg a).toNat
  match s.me.wait with
  | .claim _ cap e l =>
    if s.claimAsked then claimGo op i a b r cap e l s
    else
      match translate s.ctx va .both s with
      | .error (.trap t) => .next (if s.me.queue.isEmpty then frontTrap s t else s.blocked (.claim i cap e l))
      | .error (.wait _) => .next (s.blocked (.claim i cap e l))
      | .ok (k, s') => claimGo op i a b r cap e k s'
  | _ =>
    if va % align ≠ 0 then trapAt ALIGN sub va s
    else
      match translate s.ctx va .both s with
      | .error (.trap t) => .next (frontTrap s t)
      | .error (.wait _) => .next (s.blocked .retry)
      | .ok (l, s') =>
        match strip (BitVec.ofNat 6 ((s.reg r).field 5 0)) s' with
        | .wait => .next (s'.blocked .lanes)
        | .trap k => trapAt EDGE k 0 s'
        | .ok t e width => claimGo op i a b r (min (s.reg b).toNat (min (vlmax width (dW e)) (dCap e))) e l t

/-- CLAIM's grant from NEXT and LIMIT. -/
def claimGrant (cap : Nat) (ws : List Word) : Nat :=
  let base := (ws.getD 0 0).toNat
  let limit := (ws.getD 1 0).toNat
  if base < limit then min cap (limit - base) else 0

/-- CLAIM (R350). -/
def execClaim (a b r : SReg) (s : State) : Out :=
  claim 16 0
    { n := 2, code := 160
      write := fun cap _ ws => pure [(0, ((ws.getD 0 0).toNat + claimGrant cap ws) % 2 ^ 64)]
      res := fun cap _ ws => (claimGrant cap ws, (ws.getD 0 0).toNat, claimGrant cap ws) } (.claim a b r) a b r s

/-- A panel record keeps R351. -/
def panelOk (ws : List Word) : Bool :=
  let w (k : Nat) : Word := ws.getD k 0
  (w 2).field 23 0 != 0 && (w 2).field 55 32 != 0 && (w 2).field 31 24 == 0 && (w 2).field 63 56 == 0 &&
    decide (1 ≤ (w 3).field 9 0 ∧ (w 3).field 9 0 ≤ 512) && (w 3).field 63 10 == 0 && (w 4).field 31 24 == 0 && (w 4).field 63 56 == 0 &&
    w 5 == 0 && w 6 == 0 && w 7 == 0 && decide ((w 4).field 55 32 < (w 2).field 55 32)

/-- CLAIMP's grant: g, h, r0 and c0. -/
def panelGrant (cap : Nat) (ws : List Word) : Nat × Nat × Nat × Nat :=
  let w (k hi lo : Nat) : Nat := (ws.getD k 0).field hi lo
  let r0 := w 4 23 0
  let c0 := w 4 55 32
  if w 2 23 0 ≤ r0 ∨ cap = 0 then (0, 0, 0, 0) else (min cap (w 2 55 32 - c0), min (w 3 9 0) (w 2 23 0 - r0), r0, c0)

/-- NEXTR and NEXTC after a grant. -/
def panelNext (cap : Nat) (ws : List Word) : List (Nat × Nat) :=
  let (g, h, r0, c0) := panelGrant cap ws
  if g = 0 then []
  else if c0 + g = (ws.getD 2 0).field 55 32 then [(4, r0 + h)] else [(4, r0 + (c0 + g) * 2 ^ 32)]

/-- CLAIMP (R351). -/
def execClaimp (a b r : SReg) (s : State) : Out :=
  claim 64 5
    { n := 8, code := 161
      write := fun cap _ ws => if panelOk ws then pure (panelNext cap ws) else taskErr 8 (s.reg a).toNat
      res := fun cap w ws =>
        let (g, h, r0, c0) := panelGrant cap ws
        let at_ := addr64 ((ws.getD 0 0).toNat + (r0 : Int) * (ws.getD 1 0).toInt + (c0 * w / 8 : Nat))
        if g = 0 then (0, 0, 0) else (g, at_, h + r0 * 2 ^ 16 + c0 * 2 ^ 40) } (.claimp a b r) a b r s

/-! ### EXIT (R152, R206, R335, R361) -/

/-- The front has ended: its slot record, its lanes and its registers. Its dirty map stays for a partner that takes its columns (R363). -/
def exitFront (s : State) (f : Nat) : State :=
  let k := coreOf f
  let d := (s.front f).dirty
  let s := (s.disarm f).setSlot f { s.slot f with state := 3 }
  let s := s.modCore k fun x => { x.resize f 0 with target := if f % 2 = 0 then 0 else 64 }
  (s.setFront f { Front.reset with dirty := d }).regrow (partner f)

/-- EXIT: it waits for the queue and for fills in flight, since it ends every binding (R268), performs TDONE for a held task, whose traps it takes,
and ends the front. -/
def execExit (s : State) : Out :=
  if !s.amid && (!s.me.queue.isEmpty || s.filling s.cur none) then .next (s.blocked .retry)
  else
    match s.me.task with
    | none => .next (exitFront s s.cur)
    | some t =>
      if s.amid || s.settled s.cur then
        oneAtATime t.1.toNat (fun w => atFrontIn w (do
          let _ ← retire s.ctx t
          modify fun u => exitFront (wakeTakes u u.me.lid t.1.toNat) u.cur) s) s
      else .next (s.blocked .retry)

end Sys2Proof.Machine
end

