-- ==== Sys2Proof/Machine/Footprint.lean ====
section
/-! DEFINITION. Footprints, congruence and the waits of queued instructions (R205, R209 to R211, R215, R226, R227, R252, R266, R267). -/

namespace Sys2Proof.Machine

/-! ### The roles of the name fields of an instruction (R209) -/

/-- Which elements of a name an instruction touches (R209). -/
inductive Span where
  /-- From the captured VSTART to VL.LEN − 1, in step with its elements; and the same, read before any element is performed. -/
  | acted | loose
  /-- 0 to VL.LEN − 1, and the same whatever VSTART is (R190); the whole capacity; a layout record. -/
  | upTo | always | whole | record
  /-- Element 0, of an instruction that acts on it alone (R171). -/
  | zero
  /-- A source with a modifier: the next element, the one before, or element 0 (R68). -/
  | next | prev | first
  /-- The sources of the slides, by their distance (R189). -/
  | up | down
  /-- The k-steps of a product, and its scales (R218, R220). -/
  | steps | scales
  /-- The scales of a narrow group (R184), and the blocks of VSCALEB, written and read (R187). -/
  | per | blockOut | blockIn
  /-- The elements that VTOPK and VHIST write (R194, R195). -/
  | outs
  deriving DecidableEq, Repr

/-- The role of a name field. -/
structure Role where
  (src dst : Bool)
  span : Span
  deriving DecidableEq, Repr

def inn (p : Span) : Role := ⟨true, false, p⟩
def out (p : Span) : Role := ⟨false, true, p⟩

/-- A source with a modifier (R68). -/
def modRole (sm : BitVec 2) : Role := inn (if sm = 0 then .acted else if sm = 1 then .next else if sm = 2 then .prev else .first)

/-- Destination and two sources, the second with a modifier. -/
def roles2 (sm : BitVec 2) : List Role := [out .acted, inn .acted, modRole sm]
def roles3 (sm : BitVec 2) : List Role := [⟨true, true, .acted⟩, inn .acted, modRole sm]
def rolesCmp (sm : BitVec 2) : List Role := [inn .acted, modRole sm]

/-- The role of each name field, in field order. -/
def rolesOf (i : Instr) : List Role :=
  match i with
  | .vadd _ _ _ sm => roles2 sm
  | .vsub _ _ _ sm => roles2 sm
  | .vmul _ _ _ sm => roles2 sm
  | .vmulh _ _ _ sm => roles2 sm
  | .vmin _ _ _ sm => roles2 sm
  | .vmax _ _ _ sm => roles2 sm
  | .vminu _ _ _ sm => roles2 sm
  | .vmaxu _ _ _ sm => roles2 sm
  | .vand _ _ _ sm => roles2 sm
  | .vor _ _ _ sm => roles2 sm
  | .vxor _ _ _ sm => roles2 sm
  | .vshl _ _ _ sm => roles2 sm
  | .vshr _ _ _ sm => roles2 sm
  | .vsra _ _ _ sm => roles2 sm
  | .vsadd _ _ _ sm => roles2 sm
  | .vssub _ _ _ sm => roles2 sm
  | .vmerge _ _ _ sm => roles2 sm
  | .vsaddU _ _ _ sm => roles2 sm
  | .vssubU _ _ _ sm => roles2 sm
  | .vfadd _ _ _ sm _ => roles2 sm
  | .vfsub _ _ _ sm _ => roles2 sm
  | .vfmul _ _ _ sm _ => roles2 sm
  | .vfdiv _ _ _ sm _ => roles2 sm
  | .vfmin _ _ _ sm _ => roles2 sm
  | .vfmax _ _ _ sm _ => roles2 sm
  | .vfma _ _ _ sm _ => roles3 sm
  | .vfms _ _ _ sm _ => roles3 sm
  | .vfnma _ _ _ sm _ => roles3 sm
  | .vcmpEq _ _ _ sm => rolesCmp sm
  | .vcmpNe _ _ _ sm => rolesCmp sm
  | .vcmpLt _ _ _ sm => rolesCmp sm
  | .vcmpGe _ _ _ sm => rolesCmp sm
  | .vcmpLtu _ _ _ sm => rolesCmp sm
  | .vcmpGeu _ _ _ sm => rolesCmp sm
  | .vfcmpEq _ _ _ sm _ => rolesCmp sm
  | .vfcmpLt _ _ _ sm _ => rolesCmp sm
  | .vfcmpLe _ _ _ sm _ => rolesCmp sm
  | .vfcmpUn _ _ _ sm _ => rolesCmp sm
  | .vslideup .. => [out .acted, inn .up]
  | .vslidedn .. => [out .acted, inn .down]
  | .vslideupImm .. => [out .acted, inn .up]
  | .vslidednImm .. => [out .acted, inn .down]
  | .vbcast .. => [out .acted, inn .upTo]
  | .vperm .. => [out .acted, inn .upTo, inn .upTo]
  | .vcompress .. => [out .always, inn .always]
  | .vexpand .. => [out .always, inn .always]
  | .vredsum .. => [out .first, inn .upTo]
  | .vredmax .. => [out .first, inn .upTo]
  | .vredmin .. => [out .first, inn .upTo]
  | .vtopk .. => [out .outs, inn .upTo]
  | .vhist .. => [out .outs, inn .upTo]
  | .vmvsx .. => [out .zero]
  | .vscan .. => [out .acted, inn .acted]
  | .vscaleb .. => [out .blockOut, inn .blockIn]
  | .retag .. => [out .whole]
  | .plzero .. => [out .whole]
  | .plload .. => [out .whole]
  | .plsave .. => [inn .whole]
  | .mma .. => [inn .steps, inn .steps]
  | .mman .. => [inn .steps, inn .steps]
  | .mmas .. => [inn .steps, inn .steps, inn .scales]
  | .mwr .. => [inn .acted]
  | .vst .. => [inn .acted]
  | .vsts .. => [inn .acted]
  | .vldx .. => [out .acted, inn .acted]
  | .vstx .. => [inn .acted, inn .acted]
  | .vscadd .. => [inn .loose, inn .loose]
  | .vldz .. => [out .acted, inn .record]
  | .vldw .. => [out .acted, inn .record]
  | .vstz .. => [inn .acted, inn .record]
  | .vstpair .. => [inn .acted, inn .record]
  | .sbind .. => [⟨false, false, .whole⟩, inn .record]
  | .sunbind .. => []
  | .agst .. => [inn .acted]
  | .agadd .. => [inn .acted]
  | .agmerge .. => [inn .acted]
  | .xgath .. => [inn .loose]
  | _ => [out .acted, inn .acted]

/-- The instruction reads a layout record at its issue (R252). -/
def hasRecord (i : Instr) : Bool :=
  match i with
  | .vldz .. => true
  | .vldw .. => true
  | .vstz .. => true
  | .vstpair .. => true
  | _ => false

/-! ### Cells -/

/-- The key of mask register m, and of carafe cell (m, n), among the keys of plane cells. -/
def maskKey (m : Nat) : Nat := 400000 + m
def carafeKey (first m n : Nat) : Nat := 200000 + 64 * m + first + n

/-- How an operand goes in step with an instruction: unit k of `len` elements, k-steps or blocks of the instruction takes, for each part (o, m),
the elements o + m k to o + m k + m − 1, less `back`. -/
structure Pace where
  len   : Nat
  parts : List (Nat × Nat)
  back  : Nat

/-- The first unit from number `k` on that takes an element of the range from `lo` to `hi` − 1, in the part (o, m). -/
def firstUnit (k lo hi : Nat) (part : Nat × Nat) : Option Nat :=
  let u := max k ((lo - part.1) / part.2)
  if lo < hi ∧ part.1 + u * part.2 < hi then some u else none

/-- The least of a list of bounds; `none` for no bound. -/
def least (l : List Nat) : Option Nat :=
  match l with
  | [] => none
  | a :: r => some (r.foldl min a)

/-- The progress, from `start` on, at which an instruction takes an element of the ranges for the first time. -/
def Pace.first (p : Pace) (start : Nat) (l : List (Nat × Nat)) : Option Nat :=
  (least (p.parts.flatMap fun q => l.filterMap fun r => firstUnit (start / p.len) (r.1 + p.back) (r.2 + p.back) q)).map (· * p.len)

/-- A use of cells: the operand's pace, where it goes in step, and whether a younger instruction may chain on it: a name of an element-wise
operand with sm = 0. -/
structure Use where
  entry : Word
  (src dst : Bool)
  pace  : Option Pace
  plain : Bool
  ranges : List (Nat × Nat)
  cells : List Nat

/-- The distance of a slide. -/
def QEntry.slide (e : QEntry) : Nat :=
  match e.instr with
  | .vslideupImm _ _ n => n.toNat
  | .vslidednImm _ _ n => n.toNat
  | _ => (e.scal 0).toNat

/-- Elements that VTOPK and VHIST write. -/
def QEntry.outputs (e : QEntry) : Nat :=
  match e.instr with
  | .vtopk .. => e.vl / topkG (e.scal 0) e.vl * topkK (e.scal 0)
  | _ => (e.scal 0).toNat

/-- The progress of an instruction that is complete: elements, k-steps or blocks. -/
def QEntry.total (e : QEntry) : Nat :=
  match e.instr with
  | .vscaleb .. => ceilDiv e.vl (blockLen e.cap.fmt)
  | _ => e.vl

/-- The elements of a name that an instruction has touched at progress `p`, as half-open ranges. -/
def QEntry.rangesTo (e : QEntry) (w : Word) (sp : Span) (p : Nat) : List (Nat × Nat) :=
  let s := e.start
  let len := blockLen e.cap.fmt
  let m := extent (e.name 0) e.vl
  let n := extent (e.name 1) e.vl
  let one := if s < p then [(0, 1)] else []
  match sp with
  | .acted => [(s, p)]
  | .loose => [(s, p)]
  | .upTo => [(0, if s < p then e.vl else 0)]
  | .always => [(0, e.vl)]
  | .zero => [(0, if s = 0 ∧ s < p then 1 else 0)]
  | .whole => [(0, dCap w)]
  | .record => [(0, dCap w)]
  | .next => [(s + 1, min (p + 1) e.vl)]
  | .prev => [(s - 1, p - 1)]
  | .first => one
  | .up => [(max s e.slide - e.slide, p - e.slide)]
  | .down => [(s + e.slide, min (p + e.slide) e.vl)]
  | .steps => [(s * extent w e.vl, p * extent w e.vl)]
  | .scales =>
    let nb := ceilDiv e.vl len
    let hi := if p ≤ s then s / len else ceilDiv p len
    [(s / len * m, hi * m), (nb * m + s / len * n, nb * m + hi * n)]
  | .per => [(s / len, if p ≤ s then s / len else ceilDiv p len)]
  | .blockOut => [(s, p)]
  | .blockIn => [(s * len, min (p * len) e.vl)]
  | .outs => [(0, if s < p then e.outputs else 0)]

/-- The pace of a span. -/
def QEntry.paceOf (e : QEntry) (w : Word) (sp : Span) : Option Pace :=
  let len := blockLen e.cap.fmt
  let m := extent (e.name 0) e.vl
  match sp with
  | .acted => some ⟨1, [(0, 1)], 0⟩
  | .zero => some ⟨1, [(0, 1)], 0⟩
  | .next => some ⟨1, [(1, 1)], 0⟩
  | .prev => some ⟨1, [(0, 1)], 1⟩
  | .up => some ⟨1, [(0, 1)], e.slide⟩
  | .down => some ⟨1, [(e.slide, 1)], 0⟩
  | .steps => some ⟨1, [(0, extent w e.vl)], 0⟩
  | .scales => some ⟨len, [(0, m), (ceilDiv e.vl len * m, extent (e.name 1) e.vl)], 0⟩
  | .per => some ⟨len, [(0, 1)], 0⟩
  | .blockOut => some ⟨1, [(0, 1)], 0⟩
  | .blockIn => some ⟨1, [(0, len)], 0⟩
  | _ => none

/-- The cells of ranges of a name's elements. -/
def rangeCells (w : Word) (first : Nat) (l : List (Nat × Nat)) : List Nat :=
  l.flatMap fun q => (List.range (q.2 - q.1)).flatMap fun i => elemCells w first (q.1 + i)

/-- The use of a name. -/
def QEntry.use (e : QEntry) (w : Word) (r : Role) : Use :=
  let ranges := e.rangesTo w r.span e.total
  let modified := r.span == .next || r.span == .prev || (r.span == .first && r.src) || r.span == .record
  { entry := w, src := r.src, dst := r.dst, pace := e.paceOf w r.span, plain := !modified, ranges := ranges
    cells := rangeCells w e.cap.first ranges }

/-- The uses of the name at place k: one name, or the planes and the scale of a group. -/
def QEntry.placeUses (e : QEntry) (k : Nat) (r : Role) : List Use :=
  match (groupNames e.instr).zipIdx.find? fun g => g.1.1 == k with
  | none => [e.use (e.name k) r]
  | some (_, j) =>
    let n := (planesOf (nW e.cap.fmt)).length
    let g := e.group j
    (g.take n).map (fun w => e.use w r) ++ (g.drop n).map (fun w => e.use w (inn .per))

/-- The uses of plane cells. A layout record counts as unread until its instruction is complete, which reads it again when it is reissued
(R252, R357). -/
def QEntry.nameUses (e : QEntry) : List Use :=
  ((rolesOf e.instr).take e.cap.names.length).zipIdx.flatMap fun p => e.placeUses p.2 p.1

/-- Uses of mask registers. -/
def keyUse (src dst : Bool) (cells : List Nat) : Use := ⟨0, src, dst, none, false, [], cells⟩
def maskUse (src dst : Bool) (m : Nat) : Use := keyUse src dst [maskKey m]
def maskOp (d : MReg) (l : List MReg) : List Use := maskUse false true d.toNat :: l.map fun m => maskUse true false m.toNat

/-- The mask registers that an instruction names. -/
def namedMasks (i : Instr) : List Use :=
  match i with
  | .mand d a b => maskOp d [a, b]
  | .mor d a b => maskOp d [a, b]
  | .mxor d a b => maskOp d [a, b]
  | .mnot d a => maskOp d [a]
  | .mset d _ => maskOp d []
  | .vcmpEq d .. => maskOp d []
  | .vcmpNe d .. => maskOp d []
  | .vcmpLt d .. => maskOp d []
  | .vcmpGe d .. => maskOp d []
  | .vcmpLtu d .. => maskOp d []
  | .vcmpGeu d .. => maskOp d []
  | .vfcmpEq d .. => maskOp d []
  | .vfcmpLt d .. => maskOp d []
  | .vfcmpLe d .. => maskOp d []
  | .vfcmpUn d .. => maskOp d []
  | _ => []

/-- The instruction reads no active mask. -/
def ignoresMask (i : Instr) : Bool :=
  match i with
  | .mand .. => true
  | .mor .. => true
  | .mxor .. => true
  | .mnot .. => true
  | .mset .. => true
  | .mma .. => true
  | .mman .. => true
  | .mmas .. => true
  | .mzero => true
  | .mwait => true
  | .fvv .. => true
  | .retag .. => true
  | .plzero .. => true
  | .plsave .. => true
  | .plload .. => true
  | .sbind .. => true
  | .sunbind .. => true
  | .cupadd .. => true
  | .cupclr .. => true
  | .xgath .. => false
  | i => isJob i

/-- The active mask is read under a masked mode, and always by VMERGE (R65, R170). -/
def QEntry.activeUse (e : QEntry) : List Use :=
  let always := match e.instr with
    | .vmerge .. => true
    | _ => false
  if ignoresMask e.instr || (e.mode == 0 && !always) then [] else [maskUse true false e.act]

/-- The conversion saturates: to an integer, and not one that holds every source (R184). -/
def satConverts (dst src : Nat) : Bool := (idFloat dst).isNone && !((idFloat src).isNone && decide (idWidth src ≤ idWidth dst))

/-- The instructions that can mark offenders (R209). -/
def canOffend (i : Instr) : Bool :=
  match i with
  | .vsadd .. => true
  | .vssub .. => true
  | .vsaddU .. => true
  | .vssubU .. => true
  | .vcvt _ _ dst src => satConverts dst.toNat src.toNat
  | .vnarrow .. => true
  | .vwiden _ _ dst _ => (idFloat dst.toNat).isNone
  | .vhist .. => true
  | .agld .. => true
  | .agadd .. => true
  | .agmerge .. => true
  | _ => false

/-- The carafe cells of a product (R220). -/
def QEntry.productCells (e : QEntry) : List Nat :=
  let m := extent (e.name 0) e.vl
  let n := extent (e.name 1) e.vl
  (List.range m).flatMap fun r => (List.range n).map fun c => carafeKey e.cap.first r c

/-- The uses of carafe cells (R215). -/
def QEntry.carafeUses (e : QEntry) : List Use :=
  let region : List Nat := (List.range (e.vl - e.start)).map fun i =>
    let (m, n) := carOf (e.scal 0) (e.start + i)
    carafeKey e.cap.first m n
  match e.instr with
  | .mma .. => [keyUse true true e.productCells]
  | .mman .. => [keyUse true true e.productCells]
  | .mmas .. => [keyUse true true e.productCells]
  | .mzero => [keyUse false true ((List.range 128).flatMap fun m => (List.range e.cap.width).map fun n => carafeKey e.cap.first m n)]
  | .mrd .. => [keyUse true false region]
  | .mwr .. => [keyUse false true region]
  | _ => []

/-- An instruction with all that it may still touch: the writer of a STORE strip goes back to the first element that it has not stored, which it reads,
writes and stores again after a fault of its store (R267, R357). -/
def QEntry.reaching (e : QEntry) : QEntry :=
  if e.cap.stores.isEmpty then e else { e with cap := { e.cap with vstart := word (min e.start e.stored) } }

/-- The footprint of a queued instruction (R209). -/
def QEntry.footprint (e : QEntry) : List Use :=
  e.reaching.nameUses ++ namedMasks e.instr ++ e.activeUse ++ (if e.offen && canOffend e.instr then [maskUse false true e.off] else []) ++
    e.carafeUses

/-! ### Waits within a queue (R210, R211, R226, R227) -/

/-- Congruent entries (R210). -/
def congruent (a b : Word) : Bool :=
  dKind a == dKind b && dRow0 a == dRow0 b && dEpos a == dEpos b && dEw a == dEw b && dWrap a == dWrap b &&
    (dKind a != 0 || dRows a == dRows b) && dNelem a == dNelem b && (dKind a < 2 || dStep a == dStep b)

/-- Two uses share a cell that one of them writes. -/
def clash (a b : Use) : Bool := (a.dst || b.dst) && a.cells.any fun c => b.cells.contains c

/-- One wait: progress below which the younger instruction may go, whether it stands in the congruent column, and the pipe of the older
instruction: 0 vector, 1 matrix, 2 memory. -/
structure Hold where
  limit : Nat
  chain : Bool
  pipe  : Nat

def pipeOf (i : Instr) : Nat := if isMemPipe i then 2 else if isMatrixPipe i then 1 else 0

/-- The elements of a use that an instruction at progress `k` has not done with (R211, R226, R357): those at and above its VL, and those below
its VSTART, it passes. -/
def Use.left (u : Use) (k : Nat) : List (Nat × Nat) :=
  match u.pace with
  | some p => (p.parts.zip u.ranges).map fun q => (max q.2.1 (q.1.1 + k / p.len * q.1.2 - p.back), q.2.2)
  | none => u.ranges

/-- How far an instruction is done with its operands for good (R357). The writer of a STORE strip whose store traps writes the elements from there
on again (R267), and so reads them again: it is done with those that it has stored. -/
def QEntry.doneTo (e : QEntry) : Nat :=
  if e.cap.stores.isEmpty || e.storing then e.progress else min e.stored e.progress

/-- An element range drawn out to whole cells: the elements that share a cell with its first or its last are in it (R154). -/
def cellRange (w : Word) (first : Nat) (q : Nat × Nat) : Nat × Nat :=
  let near := List.range (32 / dW w)
  let meets (i j : Nat) : Bool := (elemCells w first i).any (elemCells w first j).contains
  if q.1 < q.2 then
    (((near.map (q.1 - ·)).filter (meets q.1)).foldl min q.1, ((near.map (q.2 - 1 + ·)).filter (meets (q.2 - 1))).foldl max (q.2 - 1) + 1)
  else q

/-- The ranges of a use in step with its instruction that it has not done with; of a STORE strip, those not yet stored. -/
def QEntry.leftOf (x : QEntry) (u : Use) : List (Nat × Nat) :=
  u.left (if u.dst && !x.cap.stores.isEmpty then (if x.storing then x.progress else 0) else x.doneTo)

/-- The cells of a use that an instruction has not done with (R205). -/
def QEntry.leftCells (x : QEntry) (u : Use) : List Nat := if u.pace.isNone then u.cells else rangeCells u.entry x.cap.first (x.leftOf u)

/-- The wait of `y` for one pair of uses, the older one of `x`; `none` where it has none. The congruent column takes congruent operands captured
under one window, of an element-wise `y` with sm = 0 (R210, R211). In it `y` waits at its first element that `x` is not done with, or that shares a
cell, and so its tag, with such an element (R154); a whole-result instruction, or the writer of a STORE strip, is done with none before its end. -/
def holdOf (x y : QEntry) (ux uy : Use) : Option Hold :=
  let chain := x.cap.first == y.cap.first && x.cap.width == y.cap.width && congruent ux.entry uy.entry && uy.plain && ux.entry != 0 &&
    !isSerial y.instr
  match ux.pace, uy.pace with
  | some _, some q =>
    if chain && (x.cap.stores.isEmpty || !ux.dst) then (q.first y.start ((x.leftOf ux).map (cellRange ux.entry x.cap.first))).map fun l => ⟨l, true, pipeOf x.instr⟩
    else some ⟨0, chain, pipeOf x.instr⟩
  | _, _ => some ⟨0, chain, pipeOf x.instr⟩

/-- The waits of `y` for an older instruction of its queue. -/
def holdsBy (y : QEntry) (x : QEntry) : List Hold :=
  if x.done then []
  else
    let ys := y.footprint
    x.footprint.flatMap fun ux => (ys.filter (clash ux)).filterMap (holdOf x y ux)

/-- The element of a popped row at which its fill has failed. -/
def fillFault (p : Binding × Nat) : Option (Nat × TrapRec) :=
  match p.1.fault with
  | some t => if p.1.fillPos / dNelem p.1.ring = p.2 then some (p.1.fillPos % dNelem p.1.ring, t) else none
  | none => none

/-- The waits of the entry at place k for cells. -/
def Front.cellHolds (x : Front) (k : Nat) (y : QEntry) : List Hold := (x.queue.take k).flatMap (holdsBy y)

/-- A popped row holds the layout record that the instruction has still to read. -/
def QEntry.recordRow (y : QEntry) (b : Binding) (row : Nat) : Bool :=
  hasRecord y.instr && y.record.isEmpty && y.name 1 == stripOf b.ring (row % dRows b.ring)

/-! ### Released columns (R205) -/

/-- An instruction of the partner of `f` has not done with one of the cells, and was first pushed before clock `at_`, when the cell's column was
the partner's (R205). -/
def State.released (s : State) (f : Nat) (at_ : Int) (uses : List Use) : Bool :=
  let mine := (uses.flatMap (·.cells)).filter fun c => decide (c < 400000)
  (s.front (partner f)).pendingAll.any fun x => decide (x.born < at_) && x.footprint.any fun u => (x.leftCells u).any mine.contains

/-! ### Beats (R212, R358) -/

/-- The last beat boundary of a name at or below element `i`: its window rows, or sixteen elements of a column run or diagonal. -/
def rowFloor (start i : Nat) (w : Word) : Nat :=
  if dKind w = 0 then i / dNelem w * dNelem w else if dKind w = 1 then 0 else start + (i - start) / 16 * 16

/-- The memory instructions that take sixteen addresses in a beat (R271). -/
def isSkewed (i : Instr) : Bool :=
  match i with
  | .vlds .. => true
  | .vsts .. => true
  | .vldx .. => true
  | .vstx .. => true
  | _ => false

def isVst (i : Instr) : Bool :=
  match i with
  | .vst .. => true
  | _ => false

/-- The last of those boundaries that is one of a byte in memory too, for a name of less than a byte: VST puts the elements of a byte there by one
update (R175). -/
def byteFloor (start i : Nat) (w : Word) : Nat :=
  let k := 8 / dW w
  let r := rowFloor start i w
  if dKind w = 0 then i / Nat.lcm (dNelem w) k * Nat.lcm (dNelem w) k else if r % k = 0 then r else start

/-- The last boundary of a beat, or of a group of a product (R226), at or below a progress. -/
def QEntry.beatFloor (e : QEntry) (i : Nat) : Nat :=
  if e.total ≤ i then i
  else if isProduct e.instr then
    (match e.instr with
      | .mma .. => i
      | _ => i / groupOf (nW e.cap.fmt) * groupOf (nW e.cap.fmt))
  else if isSkewed e.instr then e.start + (i - e.start) / 16 * 16
  else if isVst e.instr && decide (dW (e.name 0) < 8) then max e.start (byteFloor e.start i (e.name 0))
  else max e.start (((e.cap.names ++ e.cap.groups.flatten).map (rowFloor e.start i)).foldl max 0)

/-- The first boundary at or above a progress. -/
def QEntry.beatCeil (e : QEntry) (i : Nat) : Nat :=
  (((List.range (e.total - i)).find? fun d => e.beatFloor (i + d) == i + d).map (i + ·)).getD (max i e.total)

/-- A beat has started and has not written all its results: an access of it waits for a peer (R358). -/
def QEntry.midBeat (e : QEntry) : Bool :=
  e.issued && !e.done && e.trap.isNone &&
    (if e.storing then decide (e.stored < e.progress) else !isSerial e.instr && decide (e.start < e.progress) && e.beatFloor e.progress != e.progress)

/-! ### Waits for popped rows (R266) -/

/-- The one element of its source that a broadcast reads, if it lies below VL.LEN (R188, R189). -/
def QEntry.bcast (e : QEntry) : Option Nat :=
  match e.instr with
  | .vbcast .. => some (if (e.scal 0).toNat < e.vl then (e.scal 0).toNat else 0)
  | _ => none

/-- The progress of `y` that a fill which has failed at element `el` of the row in a strip allows: its own first element that reads one from there
on, which for a plain operand is `el` itself; a broadcast that reads a lower element goes to `el` too; an instruction whose elements are not its own needs
the row before it starts (log 31, log 42). -/
def QEntry.fillLimit (y : QEntry) (strip : Word) (el : Nat) : Nat :=
  let l := ((y.nameUses.filter fun u => u.src && u.entry == strip).map fun u =>
    match u.pace with
    | some p => (p.first y.start [(el, dNelem strip)]).getD el
    | none => match y.bcast with
      | some b => if b < el then el else 0
      | none => if isSerial y.instr then 0 else el).foldl min (max el y.total)
  if isProduct y.instr then y.beatFloor l else l

/-- The popped rows that are not filled, each with the progress that it allows, and the fault of a fill that has failed. -/
def Front.openRows (x : Front) (y : QEntry) : List (Nat × Option TrapRec) :=
  (x.unfilled y).map fun p =>
    match fillFault p with
    | some (el, t) => (if y.recordRow p.1 p.2 then 0 else y.fillLimit (stripOf p.1.ring (p.2 % dRows p.1.ring)) el, some t)
    | none => (0, none)

/-- The waits for popped rows. A row whose fill has failed lets the elements before the failing one go, but no read of a record. -/
def Front.rowHolds (x : Front) (y : QEntry) : List Hold := (x.openRows y).map fun p => ⟨p.1, false, 2⟩

/-- The fill whose failure `y` meets first: the progress at which it does, and the trap. -/
def Front.failedRow (x : Front) (y : QEntry) : Option (Nat × TrapRec) :=
  let l := (x.openRows y).filterMap fun p => p.2.map fun t => (p.1, t)
  l.find? fun p => l.all fun q => decide (p.1 ≤ q.1)

/-- Window rows that a range of a name's elements touches. -/
def rowsIn (w : Word) (q : Nat × Nat) : Nat :=
  if q.2 ≤ q.1 then 0 else if dKind w < 2 then rowsOf w q.1 (q.2 - 1) else q.2 - q.1

/-- Rows that the ranges of a name touch, each row once. -/
def rowsOfRanges (w : Word) (l : List (Nat × Nat)) : Nat :=
  match l with
  | a :: b :: r =>
    let shared : Bool := decide (a.1 < a.2 ∧ b.1 < b.2) && (dKind w == 1 || (dKind w == 0 && (a.2 - 1) / dNelem w == b.1 / dNelem w))
    rowsIn w a + rowsOfRanges w (b :: r) - b2n shared
  | [a] => rowsIn w a
  | [] => 0

/-- The names of an instruction, each with the rows that it has touched at progress `p`. -/
def QEntry.rowsAt (e : QEntry) (p : Nat) : List (Word × Nat) :=
  ((rolesOf e.instr).take e.cap.names.length).zipIdx.flatMap fun r =>
    let one (w : Word) (sp : Span) : Word × Nat := (w, rowsOfRanges w (e.rangesTo w sp p))
    match (groupNames e.instr).zipIdx.find? fun g => g.1.1 == r.2 with
    | none => [one (e.name r.2) r.1.span]
    | some (_, j) =>
      let n := (planesOf (nW e.cap.fmt)).length
      ((e.group j).take n).map (fun w => one w r.1.span) ++ ((e.group j).drop n).map fun w => one w .per

/-- Elements that an instruction has acted on up to progress `p`; of VSCALEB, whose progress counts blocks, source elements (log 40). -/
def QEntry.actedTo (e : QEntry) (p : Nat) : Nat :=
  match e.instr with
  | .vscaleb .. => min (p * blockLen e.cap.fmt) e.vl - e.start * blockLen e.cap.fmt
  | _ => p - e.start

/-- Beats of an element-wise instruction up to progress `p`: rows, or sixteen elements of a column run or diagonal, the larger of them (R212). -/
def QEntry.elemBeats (e : QEntry) (p : Nat) : Nat :=
  ((e.rowsAt p).map fun q => if dKind q.1 < 2 then q.2 else ceilDiv (e.actedTo p) 16).foldl max 0

/-- Rows of vd touched up to progress `p` (R271). -/
def QEntry.vdRows (e : QEntry) (p : Nat) : Nat := ((e.rowsAt p).map (·.2)).headD 0

/-- The factor of R212. -/
def beatFactor (e : QEntry) : Nat :=
  let wide : Bool := dW (e.name 0) == 64
  match e.instr with
  | .vfrcp .. => if wide then 4 else 2
  | .vfrsq .. => if wide then 4 else 2
  | .vfexp2 .. => if wide then 4 else 2
  | .vflog2 .. => if wide then 4 else 2
  | .vfdiv .. => if wide then 8 else 4
  | .vfsqrt .. => if wide then 8 else 4
  | _ => 1

/-- Beats of a product up to progress `p`, without the clocks that taken ports add (R225). -/
def QEntry.productBeats (e : QEntry) (p : Nat) : Nat :=
  let k := p - e.start
  let array := match e.instr with
    | .mma _ _ fm => if fm = 2 then 4 * k else k
    | _ => if 5 ≤ nW e.cap.fmt then ceilDiv k 2 else ceilDiv k 4
  max array (ceilDiv ((e.rowsAt p).map (·.2)).sum 3)

/-- Rows of a name's cell list. -/
def wholeBeats (w : Word) : Nat := if dKind w = 0 then dRows w else if dKind w = 1 then 1 else dNelem w

/-- Beats that an instruction has taken at progress `p`, or in all when it is complete (R212, R225, R271, R289). -/
def QEntry.beats (e : QEntry) (p : Nat) (all : Bool) : Nat :=
  let p := if all then e.total else p
  let atEnd (n : Nat) : Nat := if all then n else 0
  let crossed := atEnd (if e.start < e.vl then ceilDiv e.vl 16 else 0)
  match e.instr with
  | .mma .. => e.productBeats p
  | .mman .. => e.productBeats p
  | .mmas .. => e.productBeats p
  | .mzero => atEnd 4
  | .mwait => 0
  | .fvv .. => 0
  | .sbind .. => 0
  | .sunbind .. => 0
  | .retag .. => atEnd (wholeBeats (e.name 0))
  | .plzero .. => atEnd (wholeBeats (e.name 0))
  | .plsave .. => atEnd (wholeBeats (e.name 0))
  | .plload .. => atEnd (wholeBeats (e.name 0))
  | .vperm .. => crossed
  | .vbcast .. => crossed
  | .vcompress .. => atEnd (ceilDiv e.vl 16)
  | .vexpand .. => atEnd (ceilDiv e.vl 16)
  | .vscan .. => crossed
  | .vredsum .. => crossed
  | .vredmax .. => crossed
  | .vredmin .. => crossed
  | .vtopk .. => crossed
  | .vhist .. => crossed
  | .vscadd .. => atEnd (ceilDiv (e.vl - e.start) 16)
  | .xgath .. => atEnd (ceilDiv (e.vl - e.start) 16)
  | .vlds .. => ceilDiv (p - e.start) 16
  | .vsts .. => ceilDiv (p - e.start) 16
  | .vldx .. => ceilDiv (p - e.start) 16
  | .vstx .. => ceilDiv (p - e.start) 16
  | .vstpair .. => 2 * e.vdRows p
  | .vld .. => e.vdRows p
  | .vst .. => e.vdRows p
  | .vldz .. => e.vdRows p
  | .vstz .. => e.vdRows p
  | .vldw .. => e.vdRows p
  | .agld .. => e.vdRows p
  | .agst .. => e.vdRows p
  | .agadd .. => e.vdRows p
  | .agmerge .. => e.vdRows p
  | .mand .. => atEnd 1
  | .mor .. => atEnd 1
  | .mxor .. => atEnd 1
  | .mnot .. => atEnd 1
  | .mset .. => atEnd 1
  | .cupadd .. => atEnd 1
  | .cupclr .. => atEnd 1
  | i => if isJob i then atEnd 1 else beatFactor e * e.elemBeats p

end Sys2Proof.Machine
end

