-- ==== Sys2Proof/Machine/Queue.lean ====
section
/-! DEFINITION. The vector queue at work: the run of each instruction, its issue and its progress (R208, R211, R252, R266, R267), its
completion (R69), and the traps of queued instructions (R72, R73). -/

namespace Sys2Proof.Machine

/-! ### The run of each instruction -/

/-- How a queued instruction runs. The instructions that are never queued run as nothing. -/
def runOf (e : QEntry) (f : Nat) : Run :=
  match e.instr with
  | .vadd _ _ _ sm => intRun ivAdd sm e f
  | .vsub _ _ _ sm => intRun ivSub sm e f
  | .vmul _ _ _ sm => intRun ivMul sm e f
  | .vmulh _ _ _ sm => intRun ivMulh sm e f
  | .vmin _ _ _ sm => intRun ivMin sm e f
  | .vmax _ _ _ sm => intRun ivMax sm e f
  | .vminu _ _ _ sm => intRun ivMinu sm e f
  | .vmaxu _ _ _ sm => intRun ivMaxu sm e f
  | .vand _ _ _ sm => bitRun ivAnd sm e f
  | .vor _ _ _ sm => bitRun ivOr sm e f
  | .vxor _ _ _ sm => bitRun ivXor sm e f
  | .vshl _ _ _ sm => intRun ivShl sm e f
  | .vshr _ _ _ sm => intRun ivShr sm e f
  | .vsra _ _ _ sm => intRun ivSra sm e f
  | .vsadd _ _ _ sm => intRun ivSadd sm e f
  | .vssub _ _ _ sm => intRun ivSsub sm e f
  | .vsaddU _ _ _ sm => intRun ivSaddU sm e f
  | .vssubU _ _ _ sm => intRun ivSsubU sm e f
  | .vmerge _ _ _ sm => mergeRun sm e f
  | .vmv _ _ => moveRun e f
  | .vsplat _ _ => splatRun (e.scal 0).toNat e f
  | .vsplatImm _ n => splatRun (n.signExtend 64).toNat e f
  | .vmvsx _ _ => splat0Run (e.scal 0).toNat e f
  | .vshlImm _ _ n => shiftImmRun ivShl n e f
  | .vshrImm _ _ n => shiftImmRun ivShr n e f
  | .vsraImm _ _ n => shiftImmRun ivSra n e f
  | .vcmpEq md _ _ sm => cmpRun icEq md sm e f
  | .vcmpNe md _ _ sm => cmpRun icNe md sm e f
  | .vcmpLt md _ _ sm => cmpRun icLt md sm e f
  | .vcmpGe md _ _ sm => cmpRun icGe md sm e f
  | .vcmpLtu md _ _ sm => cmpRun icLtu md sm e f
  | .vcmpGeu md _ _ sm => cmpRun icGeu md sm e f
  | .mand md ma mb => maskRun md (fun x => x.mask ma.toNat &&& x.mask mb.toNat) f
  | .mor md ma mb => maskRun md (fun x => x.mask ma.toNat ||| x.mask mb.toNat) f
  | .mxor md ma mb => maskRun md (fun x => x.mask ma.toNat ^^^ x.mask mb.toNat) f
  | .mnot md ma => maskRun md (fun x => ~~~(x.mask ma.toNat)) f
  | .mset md _ => maskRun md (fun _ => BitVec.ofNat 256 (2 ^ min (e.scal 0).toNat 256 - 1)) f
  | .vfadd _ _ _ sm bf => fpRun2 fpAdd sm bf e f
  | .vfsub _ _ _ sm bf => fpRun2 fpSub sm bf e f
  | .vfmul _ _ _ sm bf => fpRun2 fpMul sm bf e f
  | .vfdiv _ _ _ sm bf => fpRun2 fpDiv sm bf e f
  | .vfmin _ _ _ sm bf => fpRun2 fpMin sm bf e f
  | .vfmax _ _ _ sm bf => fpRun2 fpMax sm bf e f
  | .vfma _ _ _ sm bf => fpRun3 fpFma sm bf e f
  | .vfms _ _ _ sm bf => fpRun3 fpFms sm bf e f
  | .vfnma _ _ _ sm bf => fpRun3 fpFnma sm bf e f
  | .vfsqrt _ _ bf => fpRun1 fpSqrt bf e f
  | .vfrcp _ _ bf => fpRun1 fpRcp bf e f
  | .vfrsq _ _ bf => fpRun1 fpRsq bf e f
  | .vfabs _ _ bf => fpRun1 fpAbs bf e f
  | .vfneg _ _ bf => fpRun1 fpNeg bf e f
  | .vfexp2 _ _ bf => fpRun1 fpExp2 bf e f
  | .vflog2 _ _ bf => fpRun1 fpLog2 bf e f
  | .vfclass _ _ bf => classRun bf e f
  | .vfcmpEq md _ _ sm bf => fpCmpRun .eq md sm bf e f
  | .vfcmpLt md _ _ sm bf => fpCmpRun .lt md sm bf e f
  | .vfcmpLe md _ _ sm bf => fpCmpRun .le md sm bf e f
  | .vfcmpUn md _ _ sm bf => fpCmpRun .un md sm bf e f
  | .vcvt _ _ dst src => cvtRun dst src e f
  | .vnarrow _ _ n src => narrowRun n src e f
  | .vwiden _ _ dst n => widenRun dst n e f
  | .vsplitb _ _ n => splitRun n e f
  | .vjoinb _ _ n => joinRun n e f
  | .vscaleb _ _ _ => scalebRun e f
  | .vslideup _ _ _ => slideRun (slideUp (e.scal 0).toNat) e f
  | .vslidedn _ _ _ => slideRun (slideDown (e.scal 0).toNat) e f
  | .vslideupImm _ _ n => slideRun (slideUp n.toNat) e f
  | .vslidednImm _ _ n => slideRun (slideDown n.toNat) e f
  | .vbcast _ _ _ => slideRun (fun _ => some (e.scal 0).toNat) e f
  | .vperm _ _ _ => permRun e f
  | .vcompress _ _ => compressRun e f
  | .vexpand _ _ => expandRun e f
  | .vredsum _ _ ty => redRun .sum ty e f
  | .vredmax _ _ ty => redRun .max ty e f
  | .vredmin _ _ ty => redRun .min ty e f
  | .vscan _ _ ty => scanRun ty e f
  | .vtopk _ _ _ ty => topkRun ty e f
  | .vhist _ _ _ => histRun e f
  | .retag _ t => retagRun t e f
  | .plzero _ => plzeroRun e f
  | .plsave _ _ => plsaveRun e f
  | .plload _ _ => plloadRun e f
  | .mma _ _ fm => mmaRun fm e f
  | .mman _ _ n => mmanRun n e f
  | .mmas _ _ _ n => mmasRun n e f
  | .mzero => mzeroRun e f
  | .mrd _ _ fm => mrdRun fm e f
  | .mwr _ _ fm => mwrRun fm e f
  | .vld _ _ => vldRun e f
  | .vst _ _ => vstRun e f
  | .vlds _ _ => loadRun 1 (strideAddr e) e f
  | .vsts _ _ => storeRun 1 (strideAddr e) e f
  | .vldx _ _ _ => loadRun 2 (indexAddr f e) e f
  | .vstx _ _ _ => storeRun 2 (indexAddr f e) e f
  | .vscadd _ _ _ ty => vscaddRun ty e f
  | .vldz _ _ _ => loadRun 0 (tileAddr e) e f
  | .vstz _ _ _ => storeRun 0 (tileAddr e) e f
  | .vstpair _ _ _ => vstpairRun e f
  | .vldw _ _ _ => vldwRun e f
  | .sbind _ _ _ _ => sbindRun e f
  | .sunbind _ => sunbindRun e f
  | .agld _ _ w32 => agldRun w32 e f
  | .agst _ _ w32 => agstRun w32 e f
  | .agadd _ _ w32 => agaddRun w32 e f
  | .agmerge _ _ w32 => agmergeRun w32 e f
  | .cupclr n => cupclrRun n e f
  | .cupadd n _ _ => cupaddRun n e f
  | i => if isJob i then acceptJob e f else waitRun e f

/-- The layout record that an instruction reads at its issue (R252). One whose captured VSTART is at or above VL.LEN completes without it
(R71). -/
def recordOf (e : QEntry) (f : Nat) : Option (M (List Word)) :=
  if e.vl ≤ e.start then none
  else
    match e.instr with
    | .vldz .. => some (tileRecord e f)
    | .vstz .. => some (tileRecord e f)
    | .vstpair .. => some (pairRecord e f)
    | .vldw .. => some (windowRecord e f)
    | _ => none

/-! ### STORE strips (R265, R267) -/

/-- Element j of each of the strips stored. -/
def storeEach (f : Nat) (e : QEntry) (binds : List (Nat × Binding)) (l : List (Nat × Nat × Nat)) (j : Nat) : M Unit :=
  match l with
  | [] => pure ()
  | (k, row, pos) :: r => do
    match binds.find? fun p => p.1 == k with
    | some (_, b) => stripStore f e b (stripOf b.ring (row % dRows b.ring)) pos j
    | none => pure ()
    storeEach f e binds r j

/-- The stores of an entry's strips, element by element. -/
def stripRun (e : QEntry) (f : Nat) (x : Front) : Run := .elems e.vl 1 (storeEach f e x.binds e.cap.stores)

/-- An entry whose elements are all complete: done, or, for a strip's writer, at its stores: from element 0 the first time, and then from where
they stopped (R267). One whose captured VSTART lies beyond its elements, or blocks, has written nothing and stores nothing (R71; DEDUCED, log 41). -/
def QEntry.finish (e : QEntry) (p : Nat) : QEntry :=
  if !e.cap.stores.isEmpty && !e.storing && (ignoresStart e.instr || decide (e.start < e.total)) then
    { e with advanced := true, storing := true, stored := if e.advanced then e.stored else 0, progress := if e.advanced then e.stored else 0 }
  else { e with progress := p, done := true }

/-! ### Issue and progress -/

/-- What an instruction waits for beside cells: issue in push order (R208), the order of memory events (R277), FVV, which holds no vector or
matrix instruction (R286), and for FVV, CXBAR, MWAIT and SUNBIND the end of what comes before them (R224, R268, R286; R393, which asks of CXBAR
what FVV SYS asks), and the limit on jobs (R298). An older instruction that is to trap performs no further event before KRET (R277), and no job is accepted past an older job
instruction that has not been (R278, R297). -/
def canGo (s : State) (f : Nat) (older : List QEntry) (y : QEntry) : Bool :=
  let x := s.front f
  let live := older.filter fun e => !e.done
  let drained := live.all (fun e => !e.memPending) && (s.jobsOf f).isEmpty && !s.filling f none
  let memory := isMemPipe y.instr || y.storing
  (y.issued || older.all fun e => e.issued || e.done || (isFvv e.instr && !isMemPipe y.instr)) &&
  (!isJob y.instr || live.all fun e => !isJob e.instr) &&
  (match y.instr with
    | .fvv scope => !s.sysWaits (Agent.queuedOn f) scope
    | .cxbar .. => !s.sysWaits (Agent.queuedOn f) .sys
    | _ => true) &&
  (!memory || live.all fun e => e.trap.isSome || (!e.memPending && !isFvv e.instr && (x.unfilled e).isEmpty)) &&
  (!isJob y.instr || decide ((s.jobsOf f).length < 32)) &&
  (!(isFvv y.instr || isCxbar y.instr) || drained) &&
  (!isMwait y.instr || live.all fun e => !isMatrixPipe e.instr) &&
  (match y.instr, y.record with
    | .sunbind _, k :: _ => !s.filling f (some k.toNat) && live.all fun e =>
        (e.cap.pops.all fun p => p.1 != k.toNat) && e.cap.stores.all fun p => p.1 != k.toNat
    | _, _ => true)

/-- How far an instruction may go under its waits, by whole beats (R358), but for a row whose fill has failed at an element (R266). -/
def reach (cells rows : List Hold) (y : QEntry) : Option Nat :=
  least ((((least (cells.map (·.limit))).map y.beatFloor).toList) ++ rows.map (·.limit))

/-- Bodies that an issue of `n` elements runs: to the end of the beat that it starts last (R358). -/
def QEntry.wholeBeats (y : QEntry) (unit n : Nat) : Nat :=
  if y.storing then y.vl else if isSerial y.instr || isProduct y.instr then n else ceilDiv (y.beatCeil (y.progress + n * unit) - y.progress) unit

/-- Bodies of `unit` from progress `p` to `stop` that a bound allows. -/
def bodies (stop unit p : Nat) (bound : Option Nat) : Nat :=
  match bound with
  | none => ceilDiv (stop - p) unit
  | some b => if stop ≤ b then ceilDiv (stop - p) unit else (b - p) / unit

/-- The steps of a `steps` run; what they changed before a stop is kept. They have no faulting element: TRAPELEM is 0, which is DEDUCED
(log 66). -/
def runSteps (n : Nat) (body : Nat → M Unit) (s : State) : State × Option Stop :=
  let (t, _, st) := bodyLoop false 1 (fun k => atElem 0 (body k)) n 0 s
  (t, st)

/-- A run of at most `n` bodies under a bound: the state, the progress reached, a stop, and whether every element is complete. One in a piece
stops at the bound too. -/
def runSome (r : Run) (y : QEntry) (bound : Option Nat) (n : Nat) (s : State) : State × Nat × Option Stop × Bool :=
  match r with
  | .elems stop unit body =>
    let k := if n = 0 then 0 else min (y.wholeBeats unit n) (bodies stop unit y.progress bound)
    let (t, p, st) := bodyLoop true unit body k y.progress s
    (t, min p (max stop y.progress), st, st.isNone && decide (stop ≤ p))
  | .whole m =>
    match m s with
    | .ok (_, t) => (t, y.progress, none, true)
    | .error st => (s, y.progress, some st, false)
  | .steps check k body =>
    match atElem 0 check s with
    | .error st => (s, y.progress, some st, false)
    | .ok (_, t) =>
      let (u, st) := runSteps k body t
      (u, y.progress, st, st.isNone)
  | .part m =>
    let (t, p, st) := m bound s
    (t, p, st, st.isNone && decide (y.total ≤ p))

/-- The trap of a queued instruction, which it takes when it is the oldest (R72). -/
def trapped (s : State) (f : Nat) (y : QEntry) (t : TrapRec) : State :=
  s.modFront f fun x => x.modEntry y.vsn fun e => { e with trap := some t }

/-- A trap that a queued instruction has met: recorded, and logged (R72, R376). -/
def meet (s : State) (f : Nat) (y : QEntry) (t : TrapRec) : State := trapped (logTrap s f t y.vsn.toNat) f y t

/-- A stop of a queued instruction. -/
def halted (s : State) (f : Nat) (y : QEntry) (st : Option Stop) : State :=
  match st with
  | none => s
  | some (.trap t) => meet s f y t
  | some (.wait none) => s
  | some (.wait (some r)) => s.request r

/-- The elements counted so far (R244). -/
def QEntry.ran (e : QEntry) (p : Nat) : QEntry :=
  if e.storing then { e with countedS := max e.countedS p } else { e with counted := max e.counted p }

/-- The entry at the progress that it has reached. -/
def QEntry.reached (e : QEntry) (p : Nat) (all : Bool) : QEntry := if all then e.finish p else { e with progress := p }

/-- The trap of a popped row whose fill has failed: at the element of the instruction that reads the failing one (R266, log 42). -/
def fillTrap (y : QEntry) (p : Nat × TrapRec) : TrapRec := { p.2 with elem := min (max p.1 y.start) 511 }

/-- Progress of an instruction that may go, from its issue on, with the beats that it takes (R406). One that is complete but for a popped row
whose fill has failed beyond its own elements reports it then (R266, log 42), an error that its filler has recorded. -/
def progressEntry (s : State) (f : Nat) (bound : Option Nat) (y : QEntry) (n : Nat) : State :=
  let run := if y.storing then stripRun y f (s.front f) else runOf y f
  let (t, p, st, all) := runSome run y bound n s
  let strips := if y.storing then b2n all * y.cap.stores.length else y.beats p all - y.beats y.progress false
  let late := if (y.reached p all).done then (s.front f).failedRow y else none
  let t := t.modFront f fun x => (x.addCounter 12 strips).modEntry y.vsn fun e =>
    let z := (e.ran p).reached p all
    { z with done := z.done && late.isNone }
  match late with
  | some q => trapped t f y (fillTrap y q)
  | none => halted t f y st

/-- The addresses of element i of an instruction, as far as its operands give them. -/
def elemAddrs (s : State) (f : Nat) (e : QEntry) (i : Nat) : List Nat :=
  let va (m : M Nat) : List Nat := match m s with
    | .ok (a, _) => [a]
    | .error _ => []
  match e.instr with
  | .vldx .. => va (indexAddr f e i)
  | .vstx .. => va (indexAddr f e i)
  | .vscadd .. => va (indexAddr f e i)
  | .vld .. => [(bitAddr e i).1]
  | .vst .. => [(bitAddr e i).1]
  | .vlds .. => va (strideAddr e i)
  | .vsts .. => va (strideAddr e i)
  | .vldz .. => va (tileAddr e i)
  | .vstz .. => va (tileAddr e i)
  | .vstpair .. => [(pairAddr e i).1, (pairAddr e i).2]
  | .vldw .. => (windowAddr e i).toList
  | .agld _ _ w => [agedAddr w e i]
  | .agst _ _ w => [agedAddr w e i]
  | .agadd _ _ w => [agedAddr w e i]
  | .agmerge _ _ w => [agedAddr w e i]
  | _ => []

/-- What an instruction does to the memory of its elements. -/
def readsMem (i : Instr) : Bool :=
  match i with
  | .vst .. => false
  | .vsts .. => false
  | .vstx .. => false
  | .vstz .. => false
  | .vstpair .. => false
  | _ => true
def writesMem (i : Instr) : Bool :=
  match i with
  | .vscadd .. => true
  | .agst .. => true
  | .agadd .. => true
  | .agmerge .. => true
  | i => !readsMem i

/-- A walk asked for, unless a TLB holds the page or the walk waits already (R240). -/
def askWalk (s : State) (f asid va : Nat) (user rd wr : Bool) : State :=
  let w : Walk := ⟨asid, va / 65536 * 65536, coreOf f, user, rd, wr⟩
  let hit := ((s.core (coreOf f)).utlb ++ s.tlb2 (clusterOf f)).any fun t => t.hit asid va
  if hit || (s.die (dieOf f)).walks.contains w then s else s.modDie (dieOf f) fun d => { d with walks := d.walks ++ [w] }

/-- The run-ahead address pipeline: walks for the pages that the active elements from the progress to `stop` touch and that no TLB holds
(R243). -/
def runAhead (s : State) (f stop : Nat) (e : QEntry) : State :=
  let x := s.front f
  let act := ((List.range (stop - e.progress)).map fun i => e.progress + i).filter fun i => activeIn e.mode (x.mask e.act) i
  let base := e.cap.spbase.field 51 20 * 2 ^ 20
  ((act.flatMap (elemAddrs s f e)).filter fun va => decide (va < 2 ^ 52) && !decide (base ≤ va ∧ va < base + 327680)).foldl
    (fun s va => askWalk s f x.asid va (!e.cap.kern) (readsMem e.instr) (writesMem e.instr)) s

/-- The addresses are formed from indices, which an older instruction may still have to write. -/
def isIndexed (i : Instr) : Bool :=
  match i with
  | .vldx .. => true
  | .vstx .. => true
  | _ => false

/-- The first issue of an instruction, which for MWAIT and FVV is no beat (R407): its layout record is read, and the walks of a whole run of addresses are asked for. -/
def issueEntry (s : State) (f : Nat) (y : QEntry) : State × QEntry × Option Stop :=
  let mark (t : State) (ws : List Word) : State := t.modFront f fun x =>
    { x.modEntry y.vsn fun e => { e with issued := true, record := ws } with didIssue := x.didIssue || !(isMwait y.instr || isFvv y.instr) }
  let ahead (t : State) (z : QEntry) : State := if isIndexed z.instr then t else runAhead t f z.vl z
  match recordOf y f with
  | none => (ahead (mark s y.record) y, { y with issued := true }, none)
  | some m =>
    match m s with
    | .ok (ws, t) =>
      let z := { y with issued := true, record := ws }
      (ahead (mark t ws) z, z, none)
    | .error (.trap t) => (mark s [], y, some (.trap t))
    | .error st => (s, y, some st)

/-- An instruction that a filler's failure stops reports it at its element, once all before it is complete; one that needs the row whole before
any element of its own, at its captured VSTART (R266, log 31). The filler has recorded the error itself (R376). -/
def reportFill (s : State) (f : Nat) (y : QEntry) : State :=
  match (s.front f).failedRow y with
  | none => s
  | some q => if q.1 ≤ y.progress then trapped s f y (fillTrap y q) else s

/-- The waits let a first body run, or the instruction has none to run and no row of it is unfilled. -/
def mayStart (cells rows : List Hold) (y : QEntry) : Bool :=
  (if isSerial y.instr then cells.isEmpty else true) &&
    match reach cells rows y with
    | none => true
    | some b => decide (y.progress < b)

/-- An instruction that may go, at most `n` bodies of it; at its first issue it also reads its record. -/
def goOn (s : State) (f n : Nat) (cells rows : List Hold) (y : QEntry) : State :=
  let bound := reach cells rows y
  let s := if isIndexed y.instr && !y.storing then runAhead s f (min y.vl (bound.getD y.vl)) y else s
  if y.issued then progressEntry s f bound y n
  else
    match issueEntry s f y with
    | (t, y, none) => progressEntry t f bound y n
    | (t, y, some st) => halted t f y (some st)

/-- The entry at place k of a queue may make its next events; on a front that a save or a discard has stopped, the rest of a beat that has started (R370). -/
def ready (s : State) (f k : Nat) (y : QEntry) : Bool :=
  (s.runs f || ((s.front f).halt.stopping && !s.pkg.tripped && y.midBeat)) && !y.done && y.trap.isNone &&
    canGo s f ((s.front f).queue.take k) y && !s.released f y.born y.footprint

/-- The oldest unissued instruction of a queue, from place `k` on; MWAIT and FVV take no beat and only wait (R224, R286). -/
def headOf (q : List QEntry) (k : Nat) : Option (Nat × QEntry) :=
  match q with
  | [] => none
  | e :: r => if e.issued || e.done || isMwait e.instr || isFvv e.instr then headOf r (k + 1) else some (k, e)

/-- The candidate of the partner of `f` that issues before `y`: one that is ready and was pushed in an earlier clock, or, in the same clock, of
front 0 (R208). -/
def partnerFirst (s : State) (f : Nat) (y : QEntry) : Option Nat :=
  let g := partner f
  match headOf (s.front g).queue 0 with
  | none => none
  | some (k, z) =>
    let x := s.front g
    if (decide (z.pushed < y.pushed) || (z.pushed == y.pushed && g % 2 == 0)) && ready s g k z && mayStart (x.cellHolds k z) (x.rowHolds z) z
    then some k else none

/-- INSTRUCTION_ISSUE: the entry at place k of the queue of front `f` issues, or goes on, for at most `n` elements, groups or strip stores,
as far as its waits allow. -/
def issueStep (s : State) (f k n : Nat) : State :=
  let x := s.front f
  match x.queue[k]? with
  | none => s
  | some y =>
    if !ready s f k y || (!y.issued && (partnerFirst s f y).isSome) then s
    else if y.storing then goOn s f n [] [] y
    else
      let cells := x.cellHolds k y
      let rows := x.rowHolds y
      if !mayStart cells [] y then s
      else if mayStart cells rows y then goOn s f n cells rows y else reportFill s f y

/-! ### Completion and traps (R69, R72, R73, R379, R412) -/

/-- The done instructions at the head leave the queue; VCP follows (R69). -/
def popDone (vcp : BitVec 32) (q : List QEntry) : BitVec 32 × List QEntry :=
  match q with
  | [] => (vcp, [])
  | e :: r => if e.done then popDone (e.vsn + 1) r else (e.vsn, e :: r)

/-- INSTRUCTION_COMPLETE. -/
def completeStep (s : State) (f : Nat) : State :=
  let x := s.front f
  match x.queue with
  | e :: _ =>
    if s.runs f && e.done then
      (let (vcp, q) := popDone x.vcp x.queue
       s.setFront f { x with queue := q, vcp := vcp, idle := 0 })
    else s
  | [] => s

/-- Of some queued instructions of a front a beat has started and not written its results, or an atomic access of a peer is in flight. -/
def State.beatsOpen (s : State) (f : Nat) (q : List QEntry) : Bool := q.any fun y => y.midBeat || s.inAtomic (.entry f y.vsn)

/-- TRAP_ENTRY: the trap of the instruction at the commit point is taken (R72, R73), once the beats that have started have written their
results (R358), and no atomic access of a peer is in flight, one of the instruction at the front included (R356). -/
def trapStep (s : State) (f : Nat) : State :=
  let x := s.front f
  match x.queue with
  | e :: r =>
    match e.trap with
    | some t => if s.runs f && !s.inAtomic (.front f) && !s.beatsOpen f r then takeTrap s f t x.pc e.vsn else s
    | none => s
  | [] => s

/-- A STEP stop can be taken: nothing older is left but issued products, which keep their progress (R412). -/
def stepStopDue (s : State) (f : Nat) : Bool :=
  s.runs f && (s.front f).stepDue && (s.front f).queue.all fun e => e.done || (e.trap.isNone && e.issued && isProduct e.instr)

/-- SINGLE_STEP_STOP. -/
def stepStop (s : State) (f : Nat) : State :=
  if stepStopDue s f then takeTrap s f ⟨STEP, 0, 0, 0, 0⟩ (s.front f).pc (s.front f).vsn else s

/-- A WATCHDOG is due (R379). -/
def watchdogDue (s : State) (f : Nat) : Bool :=
  let lim := (s.die (dieOf f)).wdlim.field 31 0
  s.runs f && lim != 0 && decide (lim ≤ (s.front f).idle)

/-- WATCHDOG: a trap that the instruction at the commit point has met is older, and taken first (R72); started beats write their results before
it, and no atomic access of a peer is in flight (R356, R358). -/
def watchdogStep (s : State) (f : Nat) : State :=
  let x := s.front f
  if !watchdogDue s f then s
  else if (x.queue.find? fun e => !e.done).any fun e => e.trap.isSome then (if (x.queue.head?).any QEntry.done then completeStep s f else trapStep s f)
  else if s.inAtomic (.front f) || s.beatsOpen f x.queue then s
  else (takeTrap s f ⟨WATCHDOG, 0, 0, 0, 0⟩ x.pc x.vsn).modFront f fun y => { y with idle := 0 }

/-! ### The queue by itself -/

/-- The first entry, from place k on, that an issue step moves. -/
def issueFirst (s : State) (f k n : Nat) : Option State :=
  match n with
  | 0 => none
  | m + 1 =>
    let t := issueStep s f k 256
    if t = s then issueFirst s f (k + 1) m else some t

/-- The partner's candidate that goes first where a candidate of `f` is ready, issued (R208). -/
def issuePartner (s : State) (f : Nat) : Option State :=
  let x := s.front f
  match headOf x.queue 0 with
  | none => none
  | some (k, y) =>
    if ready s f k y && mayStart (x.cellHolds k y) (x.rowHolds y) y then (partnerFirst s f y).map fun j => issueStep s (partner f) j 256 else none

/-- The first binding that a filler moves. -/
def fillFirst (s : State) (f : Nat) (ks : List Nat) : Option State :=
  match ks with
  | [] => none
  | k :: r =>
    let t := streamFillStep s f k
    if t = s then fillFirst s f r else some t

/-- The default progress of the queue of front `f`: its trap, its completion, the first instruction that can go, then its fillers; `none`
where nothing moves. -/
def queueProgress (s : State) (f : Nat) : Option State :=
  let x := s.front f
  let t := trapStep s f
  let c := completeStep s f
  if t ≠ s then some t
  else if c ≠ s then some c
  else
    match issueFirst s f 0 x.queue.length with
    | some u => some u
    | none =>
      match fillFirst s f (x.binds.map (·.1)) with
      | some u => some u
      | none => issuePartner s f

end Sys2Proof.Machine
end

