-- ==== Sys2Proof/Machine/FrontRead.lean ====
section
/-! DEFINITION. Instructions at the front that wait for queued ones: VMVXS (R172), MPOPC and MFIRST (R168), breakpoints (R411), capture
windows (R408, R409) and FVS (R285). -/

namespace Sys2Proof.Machine

/-! ### Waits of front reads (R71, R205) -/

/-- An older queued instruction has still to write some of the cells. -/
def Front.writing (x : Front) (cells : List Nat) : Bool :=
  x.queue.any fun e => !e.done && e.footprint.any fun u => u.dst && u.cells.any fun c => cells.contains c

/-- A read of cells at the front has still to wait. -/
def State.readWaits (s : State) (cells : List Nat) : Bool :=
  s.me.writing cells || s.released s.cur s.clock [keyUse true false cells]

/-! ### VMVXS, MPOPC, MFIRST -/

/-- Element 0 of a name as a result: sign-extended under an INTw tag. -/
def element0 (e : Word) (first f : Nat) : M Nat := do
  let t := ((← getTags f first e 0).headD 0).toNat
  let v ← getElem' f first e 0
  return if t = intTag (dW e) ∧ 8 ≤ dW e then addr64 (signedOf (dW e) v) else v

/-- VMVXS (R172). -/
def execVmvxs (b : SReg) (va : VName) (s : State) : Out :=
  let e := s.me.effective va.toNat
  let win := s.window s.cur
  match edgeCheck e win.2 with
  | some sub => trapAt EDGE sub 0 s
  | none =>
    if s.readWaits (elemCells e win.1 0) then .next (s.blocked .retry)
    else atFrontNext (do setRegM b (← element0 e win.1 s.cur)) s

/-- The bits of a mask below VL.LEN that are 1. -/
def Front.maskBits (x : Front) (m : Nat) : List Nat := (List.range (x.vl.field 8 0)).filter fun i => (x.mask m).getLsbD i

/-- A read of a mask register at the front (R71, R168). -/
def maskRead (ma : MReg) (d : SReg) (g : List Nat → Word) (s : State) : Out :=
  if s.me.writing [maskKey ma.toNat] then .next (s.blocked .retry) else result d (g (s.me.maskBits ma.toNat)) s

/-- MPOPC (R168). -/
def execMpopc (d : SReg) (ma : MReg) (s : State) : Out := maskRead ma d (fun l => word l.length) s

/-- MFIRST (R168). -/
def execMfirst (d : SReg) (ma : MReg) (s : State) : Out := maskRead ma d (fun l => ((l.head?).map word).getD (-1)) s

/-! ### Breakpoints (R411) -/

/-- A breakpoint that fires: it is counted as its trap is taken, once the queue is empty (R72). -/
def fireBrk (code : BitVec 7) (addr : Nat) (s : State) : Out :=
  if s.me.queue.isEmpty then
    .next (takeTrap (s.modFront s.cur fun x => x.addCounter 13 1) s.cur ⟨BREAK, code.toNat, 0, addr, 0⟩ s.me.pc s.me.vsn)
  else .next (s.blocked .retry)

/-- Active elements from VSTART to VL.LEN − 1, by the registers as they stand at the front. -/
def Front.activeNow (x : Front) : List Nat :=
  let m := x.vmc.field 4 3
  let lo := x.vstart.field 8 0
  (List.range (x.vl.field 8 0)).filter fun i => decide (lo ≤ i) && activeIn m (x.mask (x.vmc.field 2 0)) i

/-- A conditional breakpoint: `fires` sees the active elements and the hits. -/
def condBrk (code : BitVec 7) (m : MReg) (fires : List Nat → List Nat → Bool) (s : State) : Out :=
  let x := s.me
  if x.writing [maskKey m.toNat, maskKey (x.vmc.field 2 0)] then .next (s.blocked .retry)
  else
    let act := x.activeNow
    let hit := act.filter fun i => (x.mask m.toNat).getLsbD i
    if fires act hit then fireBrk code (hit.headD 0 + hit.length * 2 ^ 16) s else .next s.advance

/-- BRK (R411). -/
def execBrk (code : BitVec 7) (s : State) : Out := fireBrk code 0 s
/-- BRK, ANY (R411). -/
def execBrkAny (code : BitVec 7) (m : MReg) (s : State) : Out := condBrk code m (fun _ hit => !hit.isEmpty) s
/-- BRK, ALL (R411). -/
def execBrkAll (code : BitVec 7) (m : MReg) (s : State) : Out := condBrk code m (fun act hit => !act.isEmpty && hit == act) s

/-! ### Capture windows (R408, R409) -/

/-- The sixteen doublewords of a packet. -/
def packet (head : Nat) (x : Front) : List Nat := head :: (List.range 15).map fun k => (x.counter k).toNat

/-- Doublewords stored at rising addresses. -/
def storeWords (c : Ctx) (va : Nat) (ws : List Nat) : M Unit := forUp ws.length 0 fun i => storeVa c ((va + 8 * i) % 2 ^ 64) 8 (ws.getD i 0)

def setDbg (g : Word → Word) : M Unit := modify fun s => s.modFront s.cur fun x => { x with dbgctl := g x.dbgctl }

/-- PCAPS. -/
def execPcaps (a : SReg) (s : State) : Out :=
  let va := (s.reg a).toNat
  if va % 256 ≠ 0 then trapAt ALIGN 7 va s
  else if s.me.dbgctl.flag 1 then atFrontNext (setDbg fun d => d ||| 8) s
  else atFrontNext (do
    let _ ← translate s.ctx va .write
    storeWords s.ctx va (packet 1 s.me)
    setDbg fun d => keep d 0 0 ||| 2 ||| keep (word va) 51 8) s

/-- PCAPE. -/
def execPcape (s : State) : Out :=
  let d := s.me.dbgctl
  let va := d.field 51 8 * 256 + 128
  if !d.flag 1 then .next s.advance
  else if !s.me.queue.isEmpty then .next (s.blocked .retry)
  else atFrontNext (do
    let _ ← translate s.ctx va .write
    storeWords s.ctx va (packet (2 + b2n (d.flag 2) * 2 ^ 8 + b2n (d.flag 3) * 2 ^ 9) s.me)
    setDbg fun d => d &&& ~~~(2 : Word)) s

/-! ### FVS (R285) -/

/-- FVS: every memory-pipe instruction, strip store and fill of a row popped before it has been performed; at SYS it waits for their
posted writes to peers too (R285, log 4). -/
def execFvs (scope : Scope) (s : State) : Out :=
  if s.me.queue.all (fun e => !e.memPending && (s.me.unfilled e).isEmpty) && !s.filling s.cur none && !s.sysWaits (Agent.queuedOn s.cur) scope then .next s.advance
  else .next (s.blocked .retry)

end Sys2Proof.Machine
end

