-- ==== Sys2Proof/Machine/Messages.lean ====
section
/-! DEFINITION. What arrives over the fabric: flits (R384, R386), and the delivery of messages (R385, R388, R423, R425; logs 8 and 9). -/

namespace Sys2Proof.Machine

/-! ### Responses -/

/-- A response to a message that came on link `j`: to a host bridge by the same link (R425), to a package by its route; where no live link
reaches it, it is lost. -/
def respond (s : State) (j : Nat) (m : Msg) (cls : Nat) (data : List Byte) : State :=
  if m.host then (if (s.link j).up then s.sendOn j m.src true cls m.tag data.length m.addr data else s)
  else (s.send m.src cls m.tag data.length m.addr data).getD s

/-- A response or refusal that has arrived, for the request of a class with its tag; a restore that waits for it goes on (R371). -/
def answer (s : State) (m : Msg) (cls : Nat) : State :=
  let t := { s with remotes := s.remotes.map fun r =>
      if r.tag = m.tag ∧ r.pkg = m.src ∧ r.cls = cls ∧ r.answer.isNone = true ∧ m.host = false then { r with answer := some (m.data.take m.len) } else r }
  resumeRestores t t.restorers

/-! ### Accesses of other packages and of the host (R388) -/

/-- The location that a message names, if its source may reach it: a host bridge every range, a peer HBM and vaults. -/
def msgLoc (s : State) (m : Msg) : Option Loc :=
  let a := m.addr
  let n := max m.len 1
  if (inHbm a && inHbm (a + n - 1)) || (inVault a && inVault (a + n - 1)) then (if inHbm a && s.pkg.level != 3 then none else some (.mem a))
  else if !m.host then none
  else if inDevice a && inDevice (a + n - 1) then some (.dev a)
  else if (inScratch a && inScratch (a + n - 1)) || (inCxl a && inCxl (a + n - 1) && s.pkg.level == 3) then some (.mem a) else none

/-- The bytes of a message's data. -/
def msgData (m : Msg) : List Byte := m.data.take m.len ++ zeros (m.len - m.data.length)

/-- CLASS 0: a write at its home agent. A unit in error does not take part of a write (R374), which is recorded (R376), and a bad block takes it
and stays bad (R247). -/
def deliverWrite (s : State) (m : Msg) : State :=
  match msgLoc s m with
  | some (.mem a) => if s.partErr a m.len then errRecord s (homeDie a) 0 a 0 1 0 0 0 else s.write a (msgData m)
  | some (.dev a) => devWrite s .host a m.len (leNat (msgData m))
  | _ => s

/-- What a read of `n` bytes returns; nothing where a unit or block fails its check. -/
def readBytes (s : State) (l : Loc) (n : Nat) : List Byte :=
  match l with
  | .mem a => if s.errAt a n || s.badAt a n then [] else s.bytes a n
  | .dev a => leBytes n (devRead s a n)
  | .peer _ _ => []

/-- The record of an error that an access from outside meets in memory (R376). -/
def logOutside (s : State) (l : Loc) (n : Nat) : State :=
  match l with
  | .mem a => logMem s a n
  | _ => s

/-- The stored check of the block at a location, and the record of a bad one (R246, R399). -/
def checkOf (s : State) (l : Loc) : State × List Byte :=
  match l with
  | .mem a =>
    let b := a / 256 * 256
    if s.badAt b 256 then (errRecord s (homeDie b) 0 b 0 5 0 0 0, []) else (s, leBytes 4 (Fp.crc32c (s.bytes b 256)))
  | _ => (s, [])

/-- The check-and-arm of a peer reaches its home agent here as a read of a whole doubleword of memory, since R385 gives it no class: one that is
answered with its data arms a monitor for the package it comes from (R305; DESIGN CHOICE, log 9). -/
def State.watch (s : State) (m : Msg) (l : Loc) : State :=
  match l with
  | .mem a =>
    let w : Monitor := ⟨1024 + m.src, a / 8, false⟩
    if !m.host && m.len == 8 && a % 8 == 0 && !(readBytes s l 8).isEmpty && !s.monitors.contains w then { s with monitors := s.monitors ++ [w] } else s
  | _ => s

/-- CLASS 1: a read, answered with its data, or with none when it is refused or a check fails. One of no bytes asks for the stored check of its
block (log 9). -/
def deliverRead (s : State) (j : Nat) (m : Msg) : State :=
  match msgLoc s m with
  | some l => if m.len = 0 then respond (checkOf s l).1 j m 2 (checkOf s l).2 else respond ((logOutside s l m.len).watch m l) j m 2 (readBytes s l m.len)
  | none => respond s j m 2 []

/-- CLASS 3: an atomic at its home agent, answered with the old word (R231). -/
def deliverAtomic (s : State) (j : Nat) (m : Msg) : State :=
  match msgLoc s m with
  | some l =>
    let old := readBytes s l m.len
    if old.isEmpty then respond (logOutside s l m.len) j m 4 []
    else
      (let t := match Config.atomicEffect m (leNat old), l with
        | some v, .mem a => s.write a (leBytes m.len v)
        | some v, .dev a => devWrite s .host a m.len v
        | _, _ => s
       respond t j m 4 old)
  | none => respond s j m 4 []

/-- CLASS 6: a register access of a host bridge, answered with the register; any other gets LEN 0 and changes nothing (R388, R423). -/
def deliverRegister (s : State) (j : Nat) (m : Msg) : State :=
  if m.host && inDevice m.addr && decide (m.len ≤ 8) then
    (let t := if Config.registerMsgWrites m then devWrite s .host m.addr m.len (leNat (msgData m)) else s
     respond t j m 7 (leBytes m.len (devRead t m.addr m.len)))
  else respond s j m 7 []

/-- CLASS 8: the monitors of waits on a doubleword of the sender fire (R305). -/
def deliverWake (s : State) (m : Msg) : State :=
  { s with monitors := s.monitors.map fun w => if w.unit = monitorUnit (.peer m.src m.addr) then { w with fired := true } else w }

/-- CLASS 5: bytes of a member for a call of a group. -/
def deliverCollective (s : State) (m : Msg) : State :=
  if m.host then s else collectiveBytes s m.src (m.addr % 65536) (m.addr / 65536) (msgData m)

/-- A message that has arrived on link `j`. Reserved classes are ignored. -/
def deliver (s : State) (j : Nat) (m : Msg) : State :=
  if m.cls = 0 then deliverWrite s m
  else if m.cls = 1 then deliverRead s j m
  else if m.cls = 2 then answer s m 1
  else if m.cls = 3 then deliverAtomic s j m
  else if m.cls = 4 then answer s m 3
  else if m.cls = 5 then deliverCollective s m
  else if m.cls = 6 then deliverRegister s j m
  else if m.cls = 7 then answer s m 6
  else if m.cls = 8 then deliverWake s m else s

/-! ### Flits (R384, R386) -/

/-- The messages of a flit's payload, `n` of them. -/
def msgsOf (src : Nat) (host : Bool) (n : Nat) (bs : List Byte) : List Msg :=
  match n with
  | 0 => []
  | k + 1 =>
    let units := rd bs 0 1 % 16
    let m : Msg := ⟨rd bs 0 1 / 16, rd bs 1 1, rd bs 2 2, rd bs 8 8, (bs.drop 16).take (16 * units - 16), src, host⟩
    m :: msgsOf src host k (bs.drop (16 * units))

/-- The flits that an acknowledgement leaves. -/
def ackFlits (ack : Nat) (l : Link) : Link :=
  let first := rd (l.unacked.headD []) 4 4 % 2 ^ 24
  let n := (ack + 2 ^ 24 + 1 - first) % 2 ^ 24
  if l.unacked.isEmpty || n == 0 || decide (l.unacked.length < n) then l else { l with unacked := l.unacked.drop n, owners := l.owners.drop n, replays := 0 }

/-- A flit is intact, and the next one expected. -/
def flitOk (l : Link) (bs : List Byte) : Bool :=
  rd bs 12 4 == Fp.crc32c (bs.take 12 ++ bs.drop 16) && rd bs 4 4 == l.recvSeq.toNat

/-- FLIT_RECEIVE: a flit that fails is discarded; the messages of the others are delivered in order. -/
def receiveFlit (s : State) (j : Nat) (bs : List Byte) : State :=
  let l := s.link j
  if !l.up || !flitOk l bs then s
  else
    let l := { ackFlits (rd bs 9 3) l with recvSeq := l.recvSeq + 1 }
    (msgsOf (rd bs 2 2 % 1024) (bit (rd bs 2 2) 10) (rd bs 8 1 % 4) (bs.drop 16)).foldl (fun s m => deliver s j m) (s.setLink j l)

/-- A write of an agent is lost with the last link to its package: a job ends with the failure, a save reports a fault of its area, and an
instruction, which has retired, learns nothing of it (R386, log 4). -/
def lostWrite (s : State) (a : Agent) : State :=
  match a with
  | .job .. => ((s.jobs.find? fun j => j.agent == a).map (jobLost s)).getD s
  | .save d => s.modDie d fun x => x.pre (x.prectl.flag 9) 2
  | _ => s

/-- The messages of a flit of a dead link sent again by other links, where one reaches their destination; those for a host bridge are lost, and the
writers of the others are told. -/
def reroute (s : State) (bs : List Byte) (who : List Agent) : State :=
  let h := rd bs 0 2
  (flitMsgs bs).zipIdx.foldl (fun s m =>
    let ls := s.liveLinks (h % 1024)
    if bit h 13 then s
    else if ls.isEmpty then (if isWrite m.1 then lostWrite s (who.getD m.2 .gone) else s)
    else s.sendRaw (linkFor ls (rd m.1 8 8)) (h % 1024) false (bits h 12 10) m.1 (who.getD m.2 .gone)) s

/-- The monitors on words of packages that no live link reaches fire: their waits check again, and fail (R386). -/
def loseMonitors (s : State) : State :=
  { s with monitors := s.monitors.map fun w =>
      if 2 ^ 60 ≤ w.unit ∧ (s.liveLinks ((w.unit - 2 ^ 60) / 2 ^ 50)).isEmpty = true then { w with fired := true } else w }

/-- A link goes down: its flits take other links, and requests that no live link can carry are forgotten, so that their access fails. -/
def linkDown (s : State) (j : Nat) : State :=
  let l := s.link j
  let s := s.setLink j { l with up := false, failed := true, unacked := [], owners := [] }
  let s := l.unacked.zipIdx.foldl (fun s p => reroute s p.1 (l.owners.getD p.2 [])) s
  resumeRestores (loseMonitors { s with remotes := s.remotes.filter fun r => r.answer.isSome || !(s.liveLinks r.pkg).isEmpty }) s.restorers

/-- FLIT_REPLAY: the flits not acknowledged are sent again; the link goes down after 8 replays (R386). -/
def replayFlits (s : State) (j : Nat) : State :=
  let l := s.link j
  if !l.up || l.unacked.isEmpty then s
  else if 8 ≤ l.replays then linkDown s j
  else s.setLink j { l with replays := l.replays + 1 }

end Sys2Proof.Machine
end

