-- ==== Sys2Proof/Machine/Events.lean ====
section
/-! DEFINITION. The events of the hardware and of the outside world: the steps of 95_what_each_step_holds.md that no instruction of a front
makes. A package that a thermal trip holds in reset makes none of them but its reset (R421). An event that is a write of a register fires the monitors of the register's doubleword (R305). -/

namespace Sys2Proof.Machine

/-- An event that changes the state. -/
def event (g : State → State) (s : State) : Out := .next (if s.pkg.tripped then s else g s)

/-! ### Fronts and their queues -/

/-- INSTRUCTION_ISSUE (R208, R211): the entry at place k of a queue, for at most n elements, groups or strip stores. -/
def execInstructionIssue (f k n : Nat) (s : State) : Out := event (fun s => issueStep s f k n) s
/-- INSTRUCTION_COMPLETE (R69). -/
def execInstructionComplete (f : Nat) (s : State) : Out := event (fun s => completeStep s f) s
/-- TRAP_ENTRY (R72, R73). -/
def execTrapEntry (f : Nat) (s : State) : Out := event (fun s => trapStep s f) s
/-- SINGLE_STEP_STOP (R412). -/
def execSingleStepStop (f : Nat) (s : State) : Out := event (fun s => stepStop s f) s
/-- WATCHDOG (R379). -/
def execWatchdog (f : Nat) (s : State) : Out := event (fun s => watchdogStep s f) s

/-- PAGE_WALK (R238, R240): the oldest waiting walk of a die; the fault of one that faults is decided by element (R243). -/
def execPageWalk (die : Nat) (s : State) : Out := event (fun s => pageWalk s die) s
/-- STREAM_FILL (R266). -/
def execStreamFill (f i : Nat) (s : State) : Out := event (fun s => if s.runs f then streamFillStep s f i else s) s

/-- A monitor of the front has fired, and a waiting WAITW checks again (R305). -/
def monitorFire (s : State) (f : Nat) : State :=
  if s.monitors.any fun m => m.fid == f && m.fired then s.disarm f else s
/-- The timeout of a waiting WAITW has passed (R304). -/
def waitTimeout (s : State) (f : Nat) : State :=
  match (s.front f).wait with
  | .waitw st lim => if waitOver (st, lim) s.clock then s.disarm f else s
  | _ => s
/-- A TAKE awake again retries (R346). -/
def takeWake (s : State) (f : Nat) : State :=
  if (s.front f).wait = .woken then s.modFront f fun x => { x with wait := .no } else s
/-- A SETVL that waits for lanes goes on once it can own some (R203). -/
def laneTake (s : State) (f : Nat) : State :=
  if (s.front f).wait = .lanes ∧ (s.core (coreOf f)).newOwn f ≠ 0 then s.modFront f fun x => { x with wait := .no } else s

/-- WAITW_MONITOR_FIRE (R305). -/
def execWaitwMonitorFire (f : Nat) (s : State) : Out := event (fun s => monitorFire s f) s
/-- WAITW_TIMEOUT (R304). -/
def execWaitwTimeout (f : Nat) (s : State) : Out := event (fun s => waitTimeout s f) s
/-- WAITW_RECHECK (R305). -/
def execWaitwRecheck (f : Nat) (s : State) : Out := event (fun s => s.disarm f) s
/-- TAKE_WAKE (R346). -/
def execTakeWake (f : Nat) (s : State) : Out := event (fun s => takeWake s f) s
/-- LANE_TAKE (R203). -/
def execLaneTake (f : Nat) (s : State) : Out := event (fun s => laneTake s f) s
/-- FRONT_START (R228). -/
def execFrontStart (f : Nat) (s : State) : Out := event (fun s => startIfOwned s f) s

/-! ### Engine jobs -/

/-- JOB_RELEASE (R297). -/
def execJobRelease (f h : Nat) (s : State) : Out := event (fun s => jobRelease s f h) s
/-- JOB_END (R290 to R293). -/
def execJobEnd (f h : Nat) (s : State) : Out := event (fun s => jobEnd s f h) s
/-- COLLECTIVE_CALL_END (R392). -/
def execCollectiveCallEnd (gid : Nat) (s : State) : Out := event (fun s => collectiveCallEnd s gid) s

/-! ### Launches, slots and pre-emption -/

/-- WQ_DOORBELL (R330). -/
def execWqDoorbell (q : Nat) (tail : BitVec 32) (s : State) : Out :=
  event (fun s => (s.setQueue q (queuePut (s.queue q) 3 (tail.setWidth 64))).woken (0x6240000000 + 0x40 * q + 0x18)) s
/-- LOPEN (R332). -/
def execLopen (q : Nat) (s : State) : Out := event (fun s => (openLaunch s q).woken 0x62E0000000) s
/-- SLOT_BIND (R335, R336). -/
def execSlotBind (f asid lid : Nat) (s : State) : Out := event (fun s => (writeSlotCtl s f 1 asid lid).woken (slotAt f)) s
/-- SLOT_UNBIND (R335). -/
def execSlotUnbind (f : Nat) (s : State) : Out := event (fun s => (writeSlotCtl s f 0 (s.slot f).asid (s.slot f).lid).woken (slotAt f)) s
/-- LAUNCH_END (R338). -/
def execLaunchEnd (lid : Nat) (s : State) : Out := event (fun s => endLaunch s lid) s
/-- PRECTL_SAVE (R370): PRECTL.GO with MODE 0. -/
def execPrectlSave (die core : Nat) (s : State) : Out := event (fun s => (prectlPut s die (word (core + 2 ^ 8))).woken (dieAt die 0x40)) s
/-- PRECTL_SAVE_DONE (R370): the end of a save, or of a discard, once the beats that have started are complete. -/
def execPrectlSaveDone (die : Nat) (s : State) : Out :=
  event (fun s => if (s.stoppedOn die).any fun f => (s.front f).queue.any QEntry.midBeat then s else saveDone s die) s
/-- PRECTL_DISCARD (R370): PRECTL.GO with MODE 1. -/
def execPrectlDiscard (die core : Nat) (s : State) : Out := event (fun s => (prectlPut s die (word (core + 2 ^ 6 + 2 ^ 8))).woken (dieAt die 0x40)) s
/-- RSTCTL_RESTORE (R371): RSTCTL.GO. -/
def execRstctlRestore (die core lid : Nat) (s : State) : Out :=
  event (fun s => (rstctlPut s die (word (core + 2 ^ 8 + lid * 2 ^ 32))).woken (dieAt die 0x58)) s

/-! ### TLB invalidation (R241) -/

/-- TINVC_PAGE (R241). -/
def execTinvcPage (asid : BitVec 14) (s : State) : Out := event (fun s => (tinvGo s asid.toNat 0).woken 0x62F0000010) s
/-- TINVC_ASID (R241). -/
def execTinvcAsid (asid : BitVec 14) (s : State) : Out := event (fun s => (tinvGo s asid.toNat 1).woken 0x62F0000010) s
/-- TINVC_ALL (R241). -/
def execTinvcAll (s : State) : Out := event (fun s => (tinvGo s s.pkg.tinvAsid 2).woken 0x62F0000010) s
/-- TINVC_DONE (R241, R245). -/
def execTinvcDone (s : State) : Out := event tinvEnd s

/-! ### The scrubber and retired lanes (R375 to R377) -/

/-- The physical lanes in use, in order. -/
def liveLanes (lanemap : BitVec 64) : List Nat := (List.range 64).filter fun j => !lanemap.getLsbD j

/-- The logical column of a physical lane (R377). -/
def columnOf (lanemap : BitVec 64) (lane : Nat) : Option Nat := (liveLanes lanemap).idxOf? lane

/-- A value found uncorrectable, in the store where it stands. -/
def Core.markBad (x : Core) (t : Storage) (key : Nat) : Core :=
  match t with
  | .cell => { x with badCells := spSet false x.badCells key true }
  | .tag => { x with badTags := spSet false x.badTags key true }
  | .carafe => { x with badCarafe := spSet false x.badCarafe key true }

/-- What one value that the scrubber finds does: a record, a count for its lane, or an error that stays and, at a cell or its tag, may make
the lane pending (log 45). -/
def scrubCell (k : Nat) (s : State) (c : Found) : State :=
  match columnOf (s.core k).lanemap c.lane with
  | none => s
  | some col =>
    let key := 64 * c.row + col
    if c.fixed then
      errRecord (s.modCore k fun x => { x with corrections := spSet 0 x.corrections c.lane (spGet 0 x.corrections c.lane + 1) })
        (k / 64) 0 0 0 6 (k % 64) 0 0
    else
      let cell := c.store != .carafe
      let again := cell && spGet false (s.core k).rewritten key
      let s := s.modCore k fun x =>
        let y := x.markBad c.store key
        { y with reported := if cell then spSet false y.reported key true else y.reported
                 rewritten := if cell then spSet false y.rewritten key false else y.rewritten
                 pending := if again then y.pending ||| BitVec.ofNat 64 (2 ^ c.lane) else y.pending }
      errRecord s (k / 64) 0 0 0 (if cell then 2 else 3) (k % 64) 0 0

/-- One pass of the scrubber over a core, with what it finds; lanes that become pending are announced. -/
def scrubPass (s : State) (k : Nat) (found : List Found) : State :=
  let before := (s.core k).pending
  let s := found.foldl (scrubCell k) (s.modCore k fun x => { x with corrections := [] })
  let many := (s.core k).corrections.filter fun p => decide (16 ≤ p.2)
  let s := s.modCore k fun x => { x with pending := many.foldl (fun m p => m ||| BitVec.ofNat 64 (2 ^ p.1)) x.pending }
  ((List.range 64).filter fun j => (s.core k).pending.getLsbD j && !before.getLsbD j).foldl
    (fun s _ => errRecord s (k / 64) 0 0 0 7 (k % 64) 0 0) s

/-- SCRUB_PASS (R375 to R377). -/
def execScrubPass (core : Nat) (found : List Found) (s : State) : Out := event (fun s => scrubPass s core found) s

/-- A sparse map of cells after a change of the lane map: each value stays in its physical lane. -/
def steer {α : Type} (old new : BitVec 64) (m : List (Nat × α)) : List (Nat × α) :=
  m.filterMap fun p => ((liveLanes old)[p.1 % 64]?).bind fun lane => (columnOf new lane).map fun c => (p.1 / 64 * 64 + c, p.2)

/-- The pending lanes of a core without a resident front are retired (R377). -/
def retireLanes (s : State) (k : Nat) : State :=
  let x := s.core k
  if x.pending = 0 ∨ !(s.residents k).isEmpty then s
  else
    let old := x.lanemap
    let new := old ||| x.pending
    s.setCore k { x with
      lanemap := new
      pending := 0
      plane := steer old new x.plane
      tags := steer old new x.tags
      carafe := steer old new x.carafe
      badCells := steer old new x.badCells
      badTags := steer old new x.badTags
      badCarafe := steer old new x.badCarafe
      rewritten := steer old new x.rewritten
      reported := steer old new x.reported }

/-- LANE_RETIRE (R377). -/
def execLaneRetire (core : Nat) (s : State) : Out := event (fun s => retireLanes s core) s

/-! ### Reset and bring-up -/

/-- POWER_ON (R413). -/
def execPowerOn (s : State) : Out := .next (afterReset s)
/-- RSTREQ (R413): a write of GO by a source. -/
def execRstreq (src : Src) (s : State) : Out := .next ((regPut s src .rstreq 1).woken 0x62E2000008)
/-- FIRMWARE_CHECK_DONE (R418). -/
def execFirmwareCheckDone (img : Image) (s : State) : Out := event (fun s => firmwareChecked s img) s
/-- DIE_ADMITTED (R415). -/
def execDieAdmitted (die : Nat) (s : State) : Out := event (fun s => admitDie s die) s
/-- HBM_TRAINED (R415, R417). -/
def execHbmTrained (stack : Nat) (s : State) : Out := event (fun s => trainHbm s stack true) s
/-- HBM_TRAIN_FAIL (R415). -/
def execHbmTrainFail (stack : Nat) (s : State) : Out := event (fun s => trainHbm s stack false) s
/-- LINK_TRAINED (R415). -/
def execLinkTrained (link : Nat) (s : State) : Out := event (fun s => trainLink s link true) s
/-- LINK_TRAIN_TIMEOUT (R415). -/
def execLinkTrainTimeout (link : Nat) (s : State) : Out := event (fun s => trainLink s link false) s
/-- ATTCTL_QUOTE (R419). -/
def execAttctlQuote (s : State) : Out := event (fun s => (regPut s .host .attctl 1).woken 0x62E2000030) s
/-- ATTCTL_QUOTE_DONE (R419). -/
def execAttctlQuoteDone (s : State) : Out := event quoteDone s
/-- THERMAL_TRIP (R421): a junction temperature. -/
def execThermalTrip (hot : BitVec 8) (s : State) : Out := event (fun s => heat s hot.toNat) s
/-- POWER_CAP_STEP (R421): the averaged power. -/
def execPowerCapStep (now : BitVec 12) (s : State) : Out := event (fun s => powerStep s now.toNat) s

/-! ### Register writes -/

/-- PWRCAP_WRITE (R421). -/
def execPwrcapWrite (src : Src) (v : Word) (s : State) : Out := event (fun s => (regPut s src .pwrcap v).woken 0x62E2000018) s
/-- STWBASE_WRITE (R420). -/
def execStwbaseWrite (src : Src) (v : Word) (s : State) : Out := event (fun s => (regPut s src .stwbase v).woken 0x62E2000038) s
/-- STEWARD_ACCESS (R420). -/
def execStewardAccess (store : Bool) (run : ByteRun) (v : Word) (s : State) : Out := event (fun s => steward s store run.len run.addr v) s
/-- FABID_WRITE (R425). -/
def execFabidWrite (src : Src) (v : Word) (s : State) : Out := event (fun s => (regPut s src .fabid v).woken 0x62E1000000) s
/-- ROUTE_WRITE (R425). -/
def execRouteWrite (src : Src) (d : Nat) (v : Word) (s : State) : Out := event (fun s => (regPut s src (.route d) v).woken (0x62E1001000 + 8 * d)) s
/-- DBGCTL_WRITE (R410). -/
def execDbgctlWrite (src : Src) (f : Nat) (v : Word) (s : State) : Out := event (fun s => (regPut s src (.dbgctl f) v).woken (dbgctlAt f)) s
/-- REGISTER_WRITE (R7, R414, R423). In the reset that follows a thermal trip, RSTREQ alone is reached (R421). -/
def execRegisterWrite (src : Src) (addr : Nat) (v : Word) (s : State) : Out :=
  .next (if s.pkg.tripped && devReg (addr / 8 * 8) != .rstreq then s else devWrite s src addr 8 v.toNat)

/-! ### The fabric -/

/-- FLIT_RECEIVE (R384, R386). -/
def execFlitReceive (link : Nat) (flit : List Byte) (s : State) : Out := event (fun s => receiveFlit s link flit) s
/-- FLIT_REPLAY (R386). -/
def execFlitReplay (link : Nat) (s : State) : Out := event (fun s => replayFlits s link) s

/-- The link of a message that arrives without its flit: the lowest that is up (log 8). -/
def anyLink (s : State) : Nat := ((List.range 18).find? fun j => (s.link j).up).getD 0

/-- A host's message to RSTREQ, which a package that a thermal trip holds in reset still takes (R388, R413, R421). -/
def hostResets (m : Msg) : Bool := m.host && inDevice m.addr && devReg (m.addr / 8 * 8) == .rstreq

/-- MSG_WRITE (R385, R388). -/
def execMsgWrite (m : Msg) (s : State) : Out := .next (if s.pkg.tripped && !hostResets m then s else deliverWrite s m)
/-- MSG_READ_REQUEST (R385, R388). -/
def execMsgReadRequest (m : Msg) (s : State) : Out := event (fun s => deliverRead s (anyLink s) m) s
/-- MSG_READ_RESPONSE (R385). -/
def execMsgReadResponse (m : Msg) (s : State) : Out := event (fun s => answer s m 1) s
/-- MSG_ATOMIC (R231, R385). -/
def execMsgAtomic (m : Msg) (s : State) : Out := event (fun s => deliverAtomic s (anyLink s) m) s
/-- MSG_ATOMIC_RESPONSE (R385). -/
def execMsgAtomicResponse (m : Msg) (s : State) : Out := event (fun s => answer s m 3) s
/-- MSG_COLLECTIVE (R385, R393). -/
def execMsgCollective (m : Msg) (s : State) : Out := event (fun s => deliverCollective s m) s
/-- MSG_REGISTER_ACCESS (R388, R423). -/
def execMsgRegisterAccess (m : Msg) (s : State) : Out :=
  .next (if s.pkg.tripped && !hostResets m then s else deliverRegister s (anyLink s) m)
/-- MSG_REGISTER_RESPONSE (R385). -/
def execMsgRegisterResponse (m : Msg) (s : State) : Out := event (fun s => answer s m 6) s
/-- MSG_MONITOR_WAKE (R305, R385). -/
def execMsgMonitorWake (m : Msg) (s : State) : Out := event (fun s => deliverWake s m) s

end Sys2Proof.Machine
end

