-- ==== Sys2Proof/Machine/Scalar.lean ====
section
/-! DEFINITION. Integer register operations, shifts and immediates, constants, branches and jumps (R133 to R137, R146, R147). -/

namespace Sys2Proof.Machine

/-! ### The functions of R133 and R134 -/

/-- Number of bits up to the highest one bit. -/
def bitLen (n : Nat) : Nat := if n = 0 then 0 else Nat.log2 n + 1

/-- Trailing zero bits, at most `fuel`. -/
def ctzCount (n fuel : Nat) : Nat :=
  match fuel with
  | 0 => 0
  | k + 1 => if n % 2 = 1 then 0 else ctzCount (n / 2) k + 1

/-- DIV: truncation toward zero; −1 for a zero divisor (R134). -/
def divS (a b : Word) : Word := if b = 0 then BitVec.allOnes 64 else BitVec.ofInt 64 (Int.tdiv a.toInt b.toInt)
/-- REM: the sign of the dividend; A for a zero divisor (R134). -/
def remS (a b : Word) : Word := if b = 0 then a else BitVec.ofInt 64 (Int.tmod a.toInt b.toInt)
/-- DIVU (R134). -/
def divU (a b : Word) : Word := if b = 0 then BitVec.allOnes 64 else a / b
/-- REMU (R134). -/
def remU (a b : Word) : Word := if b = 0 then a else a % b

/-- An operation on two registers. -/
def alu (g : Word → Word → Word) (d a b : SReg) (s : State) : Out := result d (g (s.reg a) (s.reg b)) s
/-- An operation on one register. -/
def alu1 (g : Word → Word) (d a : SReg) (s : State) : Out := result d (g (s.reg a)) s

/-! ### Integer register operations (R133, R134) -/

/-- ADD: A + B (R133). -/
def execAdd (d a b : SReg) (s : State) : Out := alu (fun a b => a + b) d a b s
/-- SUB: A − B (R133). -/
def execSub (d a b : SReg) (s : State) : Out := alu (fun a b => a - b) d a b s
/-- MUL: A × B (R133). -/
def execMul (d a b : SReg) (s : State) : Out := alu (fun a b => a * b) d a b s
/-- MULH: (S(A) × S(B)) >> 64 (R133). -/
def execMulh (d a b : SReg) (s : State) : Out := alu (fun a b => BitVec.ofInt 64 (a.toInt * b.toInt / 2 ^ 64)) d a b s
/-- MULHU: (U(A) × U(B)) >> 64 (R133). -/
def execMulhu (d a b : SReg) (s : State) : Out := alu (fun a b => word (a.toNat * b.toNat / 2 ^ 64)) d a b s
/-- AND: A AND B (R133). -/
def execAnd (d a b : SReg) (s : State) : Out := alu (fun a b => a &&& b) d a b s
/-- OR: A OR B (R133). -/
def execOr (d a b : SReg) (s : State) : Out := alu (fun a b => a ||| b) d a b s
/-- XOR: A XOR B (R133). -/
def execXor (d a b : SReg) (s : State) : Out := alu (fun a b => a ^^^ b) d a b s
/-- ANDN: A AND NOT B (R133). -/
def execAndn (d a b : SReg) (s : State) : Out := alu (fun a b => a &&& ~~~b) d a b s
/-- SHL: A << B[5:0] (R133). -/
def execShl (d a b : SReg) (s : State) : Out := alu (fun a b => a <<< (b.toNat % 64)) d a b s
/-- SHR: U(A) >> B[5:0] (R133). -/
def execShr (d a b : SReg) (s : State) : Out := alu (fun a b => a >>> (b.toNat % 64)) d a b s
/-- SRA: S(A) >> B[5:0] (R133). -/
def execSra (d a b : SReg) (s : State) : Out := alu (fun a b => a.sshiftRight (b.toNat % 64)) d a b s
/-- SLT: 1 if S(A) < S(B) (R133). -/
def execSlt (d a b : SReg) (s : State) : Out := alu (fun a b => ofBool (a.slt b)) d a b s
/-- SLTU: 1 if U(A) < U(B) (R133). -/
def execSltu (d a b : SReg) (s : State) : Out := alu (fun a b => ofBool (a.ult b)) d a b s
/-- MIN: smaller of S(A), S(B) (R133). -/
def execMin (d a b : SReg) (s : State) : Out := alu (fun a b => if a.slt b then a else b) d a b s
/-- MAX: larger of S(A), S(B) (R133). -/
def execMax (d a b : SReg) (s : State) : Out := alu (fun a b => if a.slt b then b else a) d a b s
/-- MINU: smaller of U(A), U(B) (R133). -/
def execMinu (d a b : SReg) (s : State) : Out := alu (fun a b => if a.ult b then a else b) d a b s
/-- MAXU: larger of U(A), U(B) (R133). -/
def execMaxu (d a b : SReg) (s : State) : Out := alu (fun a b => if a.ult b then b else a) d a b s
/-- DIV (R134). -/
def execDiv (d a b : SReg) (s : State) : Out := alu divS d a b s
/-- DIVU (R134). -/
def execDivu (d a b : SReg) (s : State) : Out := alu divU d a b s
/-- REM (R134). -/
def execRem (d a b : SReg) (s : State) : Out := alu remS d a b s
/-- REMU (R134). -/
def execRemu (d a b : SReg) (s : State) : Out := alu remU d a b s
/-- CLZ: leading zero bits (R133). -/
def execClz (d a : SReg) (s : State) : Out := alu1 (fun a => word (64 - bitLen a.toNat)) d a s
/-- CTZ: trailing zero bits (R133). -/
def execCtz (d a : SReg) (s : State) : Out := alu1 (fun a => word (ctzCount a.toNat 64)) d a s
/-- POPC: one bits (R133). -/
def execPopc (d a : SReg) (s : State) : Out := alu1 (fun a => word (popc64 a)) d a s
/-- SEXTB: A[7:0] sign-extended (R133). -/
def execSextb (d a : SReg) (s : State) : Out := alu1 (fun a => sx (a.setWidth 8)) d a s
/-- SEXTH: A[15:0] sign-extended (R133). -/
def execSexth (d a : SReg) (s : State) : Out := alu1 (fun a => sx (a.setWidth 16)) d a s
/-- SEXTW: A[31:0] sign-extended (R133). -/
def execSextw (d a : SReg) (s : State) : Out := alu1 (fun a => sx (a.setWidth 32)) d a s

/-! ### Shifts and operations with immediates (R135, R136) -/

/-- SHLI (R135). -/
def execShli (d a : SReg) (n : BitVec 6) (s : State) : Out := alu1 (fun a => a <<< n.toNat) d a s
/-- SHRI (R135). -/
def execShri (d a : SReg) (n : BitVec 6) (s : State) : Out := alu1 (fun a => a >>> n.toNat) d a s
/-- SRAI (R135). -/
def execSrai (d a : SReg) (n : BitVec 6) (s : State) : Out := alu1 (fun a => a.sshiftRight n.toNat) d a s
/-- ADDI (R136). -/
def execAddi (d a : SReg) (imm : BitVec 16) (s : State) : Out := alu1 (fun a => a + sx imm) d a s
/-- ANDI: the immediate is zero-extended (R102, R136). -/
def execAndi (d a : SReg) (imm : BitVec 16) (s : State) : Out := alu1 (fun a => a &&& zx imm) d a s
/-- ORI (R136). -/
def execOri (d a : SReg) (imm : BitVec 16) (s : State) : Out := alu1 (fun a => a ||| zx imm) d a s
/-- XORI (R136). -/
def execXori (d a : SReg) (imm : BitVec 16) (s : State) : Out := alu1 (fun a => a ^^^ zx imm) d a s
/-- SLTI (R136). -/
def execSlti (d a : SReg) (imm : BitVec 16) (s : State) : Out := alu1 (fun a => ofBool (a.slt (sx imm))) d a s
/-- SLTIU: the sign-extended immediate, compared unsigned (R136). -/
def execSltiu (d a : SReg) (imm : BitVec 16) (s : State) : Out := alu1 (fun a => ofBool (a.ult (sx imm))) d a s

/-- One halfword of a word replaced (R137). -/
def putHalf (w : Word) (hw : Nat) (v : BitVec 16) : Word := word (w.toNat - w.field (16 * hw + 15) (16 * hw) * 2 ^ (16 * hw) + v.toNat * 2 ^ (16 * hw))

/-- LIS (R137). -/
def execLis (d : SReg) (imm : BitVec 16) (hw : BitVec 2) (s : State) : Out := result d (sx imm <<< (16 * hw.toNat)) s
/-- LIH (R137). -/
def execLih (d : SReg) (imm : BitVec 16) (hw : BitVec 2) (s : State) : Out := result d (putHalf (s.reg d) hw.toNat imm) s

/-! ### Branches and jumps (R146, R147) -/

/-- A branch: its target when the condition holds, else the next instruction. -/
def branch {n : Nat} (c : Bool) (disp : BitVec n) (s : State) : Out := .next (s.completeAt (if c then s.target disp else s.me.pc + 4))

/-- BEQ: A = B (R146). -/
def execBeq (a b : SReg) (disp : BitVec 16) (s : State) : Out := branch (s.reg a == s.reg b) disp s
/-- BNE: A ≠ B (R146). -/
def execBne (a b : SReg) (disp : BitVec 16) (s : State) : Out := branch (s.reg a != s.reg b) disp s
/-- BLT: S(A) < S(B) (R146). -/
def execBlt (a b : SReg) (disp : BitVec 16) (s : State) : Out := branch ((s.reg a).slt (s.reg b)) disp s
/-- BGE: S(A) ≥ S(B) (R146). -/
def execBge (a b : SReg) (disp : BitVec 16) (s : State) : Out := branch (!(s.reg a).slt (s.reg b)) disp s
/-- BLTU: U(A) < U(B) (R146). -/
def execBltu (a b : SReg) (disp : BitVec 16) (s : State) : Out := branch ((s.reg a).ult (s.reg b)) disp s
/-- BGEU: U(A) ≥ U(B) (R146). -/
def execBgeu (a b : SReg) (disp : BitVec 16) (s : State) : Out := branch (!(s.reg a).ult (s.reg b)) disp s
/-- JAL (R146). -/
def execJal (d : SReg) (disp : BitVec 21) (s : State) : Out := .next ((s.setReg d (s.me.pc + 4)).completeAt (s.target disp))
/-- JALR: a target that is not a multiple of 4 raises ALIGN with SUB 1 (R147). -/
def execJalr (d a : SReg) (off : BitVec 9) (s : State) : Out :=
  let t := s.reg a + 4 * sx off
  if t.field 1 0 ≠ 0 then trapAt ALIGN 1 t.toNat s
  else .next ((s.setReg d (s.me.pc + 4)).completeAt t)

end Sys2Proof.Machine
end

