-- ==== Sys2Proof/Machine/ScalarFloat.lean ====
section
/-! DEFINITION. Scalar floating point (R138 to R142). -/

namespace Sys2Proof.Machine
open Fp (Env Flags)

/-- The rounding environment at the front (R138). -/
def State.fenv (s : State) : Env := envOf s.me.fcr s.me.gstep

/-- A result with its flags ORed into FFLAGS at execution (R138). -/
def fresult (d : SReg) (r : Nat × Flags) (s : State) : Out :=
  .next (((s.setReg d (word r.1)).modFront s.cur fun x => x.orFlags r.2).advance)

/-- An operation on the operands of width w of its format, rounded as element 0 (R138). -/
def fop (op : FloatOp) (fmt : FFmt) (d a b : SReg) (s : State) : Out :=
  fresult d (op fmt s.fenv 0 (s.reg a).toNat (s.reg b).toNat (s.reg d).toNat) s

/-- FADD (R139). -/
def execFadd (d a b : SReg) (fmt : FFmt) (s : State) : Out := fop fpAdd fmt d a b s
/-- FSUB (R139). -/
def execFsub (d a b : SReg) (fmt : FFmt) (s : State) : Out := fop fpSub fmt d a b s
/-- FMUL (R139). -/
def execFmul (d a b : SReg) (fmt : FFmt) (s : State) : Out := fop fpMul fmt d a b s
/-- FDIV (R139). -/
def execFdiv (d a b : SReg) (fmt : FFmt) (s : State) : Out := fop fpDiv fmt d a b s
/-- FMA (R139). -/
def execFma (d a b : SReg) (fmt : FFmt) (s : State) : Out := fop fpFma fmt d a b s
/-- FSQRT (R139). -/
def execFsqrt (d a : SReg) (fmt : FFmt) (s : State) : Out := fop fpSqrt fmt d a 0 s
/-- FMIN (R140). -/
def execFmin (d a b : SReg) (fmt : FFmt) (s : State) : Out := fop fpMin fmt d a b s
/-- FMAX (R140). -/
def execFmax (d a b : SReg) (fmt : FFmt) (s : State) : Out := fop fpMax fmt d a b s
/-- FCMP (R141). -/
def execFcmp (d a b : SReg) (fmt : FFmt) (s : State) : Out := fresult d (fpCompare fmt s.fenv (s.reg a).toNat (s.reg b).toNat) s

/-- The fixed format id of an operand type (R62, R110). -/
def cvtId : CvtTy → Nat
  | .fp16 => 9 | .bf16 => 10 | .fp32 => 11 | .fp64 => 12 | .int32 => 5 | .uint32 => 6 | .int64 => 7 | .uint64 => 8

/-- FCVT to a floating format: every source is rounded once (R142). -/
def execFcvtToFloat (d a : SReg) (dst : FFmt) (src : CvtTy) (s : State) : Out :=
  let id := cvtId src
  let x := idVal id s.fenv.fzi ((s.reg a).toNat % 2 ^ idWidth id)
  fresult d (Fp.round dst s.fenv 0 0 x) s

/-- FCVT to an integer: Sat of R91, its offender bit discarded; INT32 sign-extended, UINT32 zero-extended (R142). A type that is no
integer does not encode (R110); its word raises ILLEGAL. -/
def execFcvtToInt (d a : SReg) (dst : CvtTy) (src : FFmt) (s : State) : Out :=
  let id := cvtId dst
  if !dst.isInt then trapAt ILLEGAL 0 0 s
  else
    let r := satFixed s.fenv (idWidth id) (idSigned id) 0 0 (arg src s.fenv (s.reg a).toNat)
    let c := if id = 5 then (sx (BitVec.ofNat 32 r.code)).toNat else r.code
    fresult d (c, r.flags) s

end Sys2Proof.Machine
end

