-- ==== Sys2Proof/Machine/Dispatch.lean ====
section
/-! DEFINITION. One arm for each constructor of `Instr`, a direct call of its meaning. -/

namespace Sys2Proof.Machine

def exec (i : Instr) (s : State) : Host.Outcome State Fault Refusal :=
  match i with
  | .add d a b => Sys2Proof.Machine.execAdd d a b s
  | .sub d a b => Sys2Proof.Machine.execSub d a b s
  | .mul d a b => Sys2Proof.Machine.execMul d a b s
  | .mulh d a b => Sys2Proof.Machine.execMulh d a b s
  | .mulhu d a b => Sys2Proof.Machine.execMulhu d a b s
  | .div d a b => Sys2Proof.Machine.execDiv d a b s
  | .divu d a b => Sys2Proof.Machine.execDivu d a b s
  | .rem d a b => Sys2Proof.Machine.execRem d a b s
  | .remu d a b => Sys2Proof.Machine.execRemu d a b s
  | .and d a b => Sys2Proof.Machine.execAnd d a b s
  | .or d a b => Sys2Proof.Machine.execOr d a b s
  | .xor d a b => Sys2Proof.Machine.execXor d a b s
  | .andn d a b => Sys2Proof.Machine.execAndn d a b s
  | .shl d a b => Sys2Proof.Machine.execShl d a b s
  | .shr d a b => Sys2Proof.Machine.execShr d a b s
  | .sra d a b => Sys2Proof.Machine.execSra d a b s
  | .slt d a b => Sys2Proof.Machine.execSlt d a b s
  | .sltu d a b => Sys2Proof.Machine.execSltu d a b s
  | .min d a b => Sys2Proof.Machine.execMin d a b s
  | .max d a b => Sys2Proof.Machine.execMax d a b s
  | .minu d a b => Sys2Proof.Machine.execMinu d a b s
  | .maxu d a b => Sys2Proof.Machine.execMaxu d a b s
  | .clz d a => Sys2Proof.Machine.execClz d a s
  | .ctz d a => Sys2Proof.Machine.execCtz d a s
  | .popc d a => Sys2Proof.Machine.execPopc d a s
  | .sextb d a => Sys2Proof.Machine.execSextb d a s
  | .sexth d a => Sys2Proof.Machine.execSexth d a s
  | .sextw d a => Sys2Proof.Machine.execSextw d a s
  | .shli d a n => Sys2Proof.Machine.execShli d a n s
  | .shri d a n => Sys2Proof.Machine.execShri d a n s
  | .srai d a n => Sys2Proof.Machine.execSrai d a n s
  | .fadd d a b fmt => Sys2Proof.Machine.execFadd d a b fmt s
  | .fsub d a b fmt => Sys2Proof.Machine.execFsub d a b fmt s
  | .fmul d a b fmt => Sys2Proof.Machine.execFmul d a b fmt s
  | .fdiv d a b fmt => Sys2Proof.Machine.execFdiv d a b fmt s
  | .fma d a b fmt => Sys2Proof.Machine.execFma d a b fmt s
  | .fsqrt d a fmt => Sys2Proof.Machine.execFsqrt d a fmt s
  | .fmin d a b fmt => Sys2Proof.Machine.execFmin d a b fmt s
  | .fmax d a b fmt => Sys2Proof.Machine.execFmax d a b fmt s
  | .fcmp d a b fmt => Sys2Proof.Machine.execFcmp d a b fmt s
  | .fcvtToFloat d a dst src => Sys2Proof.Machine.execFcvtToFloat d a dst src s
  | .fcvtToInt d a dst src => Sys2Proof.Machine.execFcvtToInt d a dst src s
  | .jalr d a off => Sys2Proof.Machine.execJalr d a off s
  | .addi d a imm => Sys2Proof.Machine.execAddi d a imm s
  | .andi d a imm => Sys2Proof.Machine.execAndi d a imm s
  | .ori d a imm => Sys2Proof.Machine.execOri d a imm s
  | .xori d a imm => Sys2Proof.Machine.execXori d a imm s
  | .slti d a imm => Sys2Proof.Machine.execSlti d a imm s
  | .sltiu d a imm => Sys2Proof.Machine.execSltiu d a imm s
  | .lis d imm hw => Sys2Proof.Machine.execLis d imm hw s
  | .lih d imm hw => Sys2Proof.Machine.execLih d imm hw s
  | .jal d disp => Sys2Proof.Machine.execJal d disp s
  | .beq a b disp => Sys2Proof.Machine.execBeq a b disp s
  | .bne a b disp => Sys2Proof.Machine.execBne a b disp s
  | .blt a b disp => Sys2Proof.Machine.execBlt a b disp s
  | .bge a b disp => Sys2Proof.Machine.execBge a b disp s
  | .bltu a b disp => Sys2Proof.Machine.execBltu a b disp s
  | .bgeu a b disp => Sys2Proof.Machine.execBgeu a b disp s
  | .ldb d a off => Sys2Proof.Machine.execLdb d a off s
  | .ldbu d a off => Sys2Proof.Machine.execLdbu d a off s
  | .ldh d a off => Sys2Proof.Machine.execLdh d a off s
  | .ldhu d a off => Sys2Proof.Machine.execLdhu d a off s
  | .ldw d a off => Sys2Proof.Machine.execLdw d a off s
  | .ldwu d a off => Sys2Proof.Machine.execLdwu d a off s
  | .ldd d a off => Sys2Proof.Machine.execLdd d a off s
  | .stb a b off => Sys2Proof.Machine.execStb a b off s
  | .sth a b off => Sys2Proof.Machine.execSth a b off s
  | .stw a b off => Sys2Proof.Machine.execStw a b off s
  | .std a b off => Sys2Proof.Machine.execStd a b off s
  | .amoadd d a b w64 => Sys2Proof.Machine.execAmoadd d a b w64 s
  | .amomin d a b w64 uns => Sys2Proof.Machine.execAmomin d a b w64 uns s
  | .amomax d a b w64 uns => Sys2Proof.Machine.execAmomax d a b w64 uns s
  | .amoand d a b w64 => Sys2Proof.Machine.execAmoand d a b w64 s
  | .amoor d a b w64 => Sys2Proof.Machine.execAmoor d a b w64 s
  | .amoxor d a b w64 => Sys2Proof.Machine.execAmoxor d a b w64 s
  | .amoswap d a b w64 => Sys2Proof.Machine.execAmoswap d a b w64 s
  | .amocas d a b w64 => Sys2Proof.Machine.execAmocas d a b w64 s
  | .mfc d cr => Sys2Proof.Machine.execMfc d cr s
  | .mtc cr a => Sys2Proof.Machine.execMtc cr a s
  | .trap n => Sys2Proof.Machine.execTrap n s
  | .kret => Sys2Proof.Machine.execKret s
  | .exit => Sys2Proof.Machine.execExit s
  | .fsv scope => Sys2Proof.Machine.execFsv scope s
  | .fvs scope => Sys2Proof.Machine.execFvs scope s
  | .fvv scope => Sys2Proof.Machine.execFvv scope s
  | .brk code => Sys2Proof.Machine.execBrk code s
  | .brkAny code m => Sys2Proof.Machine.execBrkAny code m s
  | .brkAll code m => Sys2Proof.Machine.execBrkAll code m s
  | .pcaps a => Sys2Proof.Machine.execPcaps a s
  | .pcape => Sys2Proof.Machine.execPcape s
  | .vadd vd va vb sm => Sys2Proof.Machine.execVadd vd va vb sm s
  | .vsub vd va vb sm => Sys2Proof.Machine.execVsub vd va vb sm s
  | .vmul vd va vb sm => Sys2Proof.Machine.execVmul vd va vb sm s
  | .vmulh vd va vb sm => Sys2Proof.Machine.execVmulh vd va vb sm s
  | .vmin vd va vb sm => Sys2Proof.Machine.execVmin vd va vb sm s
  | .vmax vd va vb sm => Sys2Proof.Machine.execVmax vd va vb sm s
  | .vminu vd va vb sm => Sys2Proof.Machine.execVminu vd va vb sm s
  | .vmaxu vd va vb sm => Sys2Proof.Machine.execVmaxu vd va vb sm s
  | .vand vd va vb sm => Sys2Proof.Machine.execVand vd va vb sm s
  | .vor vd va vb sm => Sys2Proof.Machine.execVor vd va vb sm s
  | .vxor vd va vb sm => Sys2Proof.Machine.execVxor vd va vb sm s
  | .vshl vd va vb sm => Sys2Proof.Machine.execVshl vd va vb sm s
  | .vshr vd va vb sm => Sys2Proof.Machine.execVshr vd va vb sm s
  | .vsra vd va vb sm => Sys2Proof.Machine.execVsra vd va vb sm s
  | .vsadd vd va vb sm => Sys2Proof.Machine.execVsadd vd va vb sm s
  | .vssub vd va vb sm => Sys2Proof.Machine.execVssub vd va vb sm s
  | .vmerge vd va vb sm => Sys2Proof.Machine.execVmerge vd va vb sm s
  | .vmv vd va => Sys2Proof.Machine.execVmv vd va s
  | .vsaddU vd va vb sm => Sys2Proof.Machine.execVsaddU vd va vb sm s
  | .vssubU vd va vb sm => Sys2Proof.Machine.execVssubU vd va vb sm s
  | .vsplat vd b => Sys2Proof.Machine.execVsplat vd b s
  | .vmvsx vd b => Sys2Proof.Machine.execVmvsx vd b s
  | .vmvxs b va => Sys2Proof.Machine.execVmvxs b va s
  | .mset md b => Sys2Proof.Machine.execMset md b s
  | .vslideupImm vd va n => Sys2Proof.Machine.execVslideupImm vd va n s
  | .vslidednImm vd va n => Sys2Proof.Machine.execVslidednImm vd va n s
  | .vshlImm vd va n => Sys2Proof.Machine.execVshlImm vd va n s
  | .vshrImm vd va n => Sys2Proof.Machine.execVshrImm vd va n s
  | .vsraImm vd va n => Sys2Proof.Machine.execVsraImm vd va n s
  | .vsplatImm vd n => Sys2Proof.Machine.execVsplatImm vd n s
  | .vcmpEq md va vb sm => Sys2Proof.Machine.execVcmpEq md va vb sm s
  | .vcmpNe md va vb sm => Sys2Proof.Machine.execVcmpNe md va vb sm s
  | .vcmpLt md va vb sm => Sys2Proof.Machine.execVcmpLt md va vb sm s
  | .vcmpGe md va vb sm => Sys2Proof.Machine.execVcmpGe md va vb sm s
  | .vcmpLtu md va vb sm => Sys2Proof.Machine.execVcmpLtu md va vb sm s
  | .vcmpGeu md va vb sm => Sys2Proof.Machine.execVcmpGeu md va vb sm s
  | .mand md ma mb => Sys2Proof.Machine.execMand md ma mb s
  | .mor md ma mb => Sys2Proof.Machine.execMor md ma mb s
  | .mxor md ma mb => Sys2Proof.Machine.execMxor md ma mb s
  | .mnot md ma => Sys2Proof.Machine.execMnot md ma s
  | .mpopc d ma => Sys2Proof.Machine.execMpopc d ma s
  | .mfirst d ma => Sys2Proof.Machine.execMfirst d ma s
  | .vfadd vd va vb sm bf => Sys2Proof.Machine.execVfadd vd va vb sm bf s
  | .vfsub vd va vb sm bf => Sys2Proof.Machine.execVfsub vd va vb sm bf s
  | .vfmul vd va vb sm bf => Sys2Proof.Machine.execVfmul vd va vb sm bf s
  | .vfma vd va vb sm bf => Sys2Proof.Machine.execVfma vd va vb sm bf s
  | .vfms vd va vb sm bf => Sys2Proof.Machine.execVfms vd va vb sm bf s
  | .vfnma vd va vb sm bf => Sys2Proof.Machine.execVfnma vd va vb sm bf s
  | .vfdiv vd va vb sm bf => Sys2Proof.Machine.execVfdiv vd va vb sm bf s
  | .vfsqrt vd va bf => Sys2Proof.Machine.execVfsqrt vd va bf s
  | .vfrcp vd va bf => Sys2Proof.Machine.execVfrcp vd va bf s
  | .vfrsq vd va bf => Sys2Proof.Machine.execVfrsq vd va bf s
  | .vfmin vd va vb sm bf => Sys2Proof.Machine.execVfmin vd va vb sm bf s
  | .vfmax vd va vb sm bf => Sys2Proof.Machine.execVfmax vd va vb sm bf s
  | .vfabs vd va bf => Sys2Proof.Machine.execVfabs vd va bf s
  | .vfneg vd va bf => Sys2Proof.Machine.execVfneg vd va bf s
  | .vfexp2 vd va bf => Sys2Proof.Machine.execVfexp2 vd va bf s
  | .vflog2 vd va bf => Sys2Proof.Machine.execVflog2 vd va bf s
  | .vfclass vd va bf => Sys2Proof.Machine.execVfclass vd va bf s
  | .vfcmpEq md va vb sm bf => Sys2Proof.Machine.execVfcmpEq md va vb sm bf s
  | .vfcmpLt md va vb sm bf => Sys2Proof.Machine.execVfcmpLt md va vb sm bf s
  | .vfcmpLe md va vb sm bf => Sys2Proof.Machine.execVfcmpLe md va vb sm bf s
  | .vfcmpUn md va vb sm bf => Sys2Proof.Machine.execVfcmpUn md va vb sm bf s
  | .vcvt vd va dst src => Sys2Proof.Machine.execVcvt vd va dst src s
  | .vnarrow vd va n src => Sys2Proof.Machine.execVnarrow vd va n src s
  | .vwiden vd va dst n => Sys2Proof.Machine.execVwiden vd va dst n s
  | .vsplitb vd va n => Sys2Proof.Machine.execVsplitb vd va n s
  | .vjoinb vd va n => Sys2Proof.Machine.execVjoinb vd va n s
  | .vscaleb vd va n => Sys2Proof.Machine.execVscaleb vd va n s
  | .vperm vd va vb => Sys2Proof.Machine.execVperm vd va vb s
  | .vcompress vd va => Sys2Proof.Machine.execVcompress vd va s
  | .vexpand vd va => Sys2Proof.Machine.execVexpand vd va s
  | .vredsum vd va ty => Sys2Proof.Machine.execVredsum vd va ty s
  | .vredmax vd va ty => Sys2Proof.Machine.execVredmax vd va ty s
  | .vredmin vd va ty => Sys2Proof.Machine.execVredmin vd va ty s
  | .vscan vd va ty => Sys2Proof.Machine.execVscan vd va ty s
  | .vslideup vd va b => Sys2Proof.Machine.execVslideup vd va b s
  | .vslidedn vd va b => Sys2Proof.Machine.execVslidedn vd va b s
  | .vbcast vd va b => Sys2Proof.Machine.execVbcast vd va b s
  | .vtopk vd va b ty => Sys2Proof.Machine.execVtopk vd va b ty s
  | .vhist vd va b => Sys2Proof.Machine.execVhist vd va b s
  | .carve vd b => Sys2Proof.Machine.execCarve vd b s
  | .carveq vd va b => Sys2Proof.Machine.execCarveq vd va b s
  | .uncarve vd => Sys2Proof.Machine.execUncarve vd s
  | .plzero vd => Sys2Proof.Machine.execPlzero vd s
  | .plsave vd b => Sys2Proof.Machine.execPlsave vd b s
  | .plload vd b => Sys2Proof.Machine.execPlload vd b s
  | .setvl vd b => Sys2Proof.Machine.execSetvl vd b s
  | .lpreq b => Sys2Proof.Machine.execLpreq b s
  | .setvli vd n => Sys2Proof.Machine.execSetvli vd n s
  | .retag vd tag => Sys2Proof.Machine.execRetag vd tag s
  | .mma va vb f => Sys2Proof.Machine.execMma va vb f s
  | .mman va vb n => Sys2Proof.Machine.execMman va vb n s
  | .mmas va vb vc n => Sys2Proof.Machine.execMmas va vb vc n s
  | .mzero => Sys2Proof.Machine.execMzero s
  | .mrd va b f => Sys2Proof.Machine.execMrd va b f s
  | .mwr va b f => Sys2Proof.Machine.execMwr va b f s
  | .mwait => Sys2Proof.Machine.execMwait s
  | .vld vd a => Sys2Proof.Machine.execVld vd a s
  | .vst vd a => Sys2Proof.Machine.execVst vd a s
  | .vlds vd a => Sys2Proof.Machine.execVlds vd a s
  | .vsts vd a => Sys2Proof.Machine.execVsts vd a s
  | .vldx vd a vx => Sys2Proof.Machine.execVldx vd a vx s
  | .vstx vd a vx => Sys2Proof.Machine.execVstx vd a vx s
  | .vscadd vd a vx ty => Sys2Proof.Machine.execVscadd vd a vx ty s
  | .vldz vd a vx => Sys2Proof.Machine.execVldz vd a vx s
  | .vstz vd a vx => Sys2Proof.Machine.execVstz vd a vx s
  | .vstpair vd a vx => Sys2Proof.Machine.execVstpair vd a vx s
  | .vldw vd a vx => Sys2Proof.Machine.execVldw vd a vx s
  | .sbind vd a vx store => Sys2Proof.Machine.execSbind vd a vx store s
  | .sunbind vd => Sys2Proof.Machine.execSunbind vd s
  | .agld vd a aw32 => Sys2Proof.Machine.execAgld vd a aw32 s
  | .agst vd a aw32 => Sys2Proof.Machine.execAgst vd a aw32 s
  | .agadd vd a aw32 => Sys2Proof.Machine.execAgadd vd a aw32 s
  | .agmerge vd a aw32 => Sys2Proof.Machine.execAgmerge vd a aw32 s
  | .xcopy a b c ord => Sys2Proof.Machine.execXcopy a b c ord s
  | .xgath a b c vn ord => Sys2Proof.Machine.execXgath a b c vn ord s
  | .xfill a b c ord => Sys2Proof.Machine.execXfill a b c ord s
  | .xquery a b => Sys2Proof.Machine.execXquery a b s
  | .xcancel a => Sys2Proof.Machine.execXcancel a s
  | .waitw a b c => Sys2Proof.Machine.execWaitw a b c s
  | .take a b c => Sys2Proof.Machine.execTake a b c s
  | .tenq a b c => Sys2Proof.Machine.execTenq a b c s
  | .tdone a b => Sys2Proof.Machine.execTdone a b s
  | .tcancel a b => Sys2Proof.Machine.execTcancel a b s
  | .claim a b c => Sys2Proof.Machine.execClaim a b c s
  | .claimp a b c => Sys2Proof.Machine.execClaimp a b c s
  | .agsweep a b c ord => Sys2Proof.Machine.execAgsweep a b c ord s
  | .step a => Sys2Proof.Machine.execStep a s
  | .unorm a b c ord => Sys2Proof.Machine.execUnorm a b c ord s
  | .uapply a b c ord => Sys2Proof.Machine.execUapply a b c ord s
  | .rsbegin a b => Sys2Proof.Machine.execRsbegin a b s
  | .rsnext a b => Sys2Proof.Machine.execRsnext a b s
  | .rsvisit a b c => Sys2Proof.Machine.execRsvisit a b c s
  | .rsread a b => Sys2Proof.Machine.execRsread a b s
  | .rsend a b => Sys2Proof.Machine.execRsend a b s
  | .cxred a b c cup => Sys2Proof.Machine.execCxred a b c cup s
  | .cxgath a b c => Sys2Proof.Machine.execCxgath a b c s
  | .cxa2a a b c => Sys2Proof.Machine.execCxa2a a b c s
  | .cxbar a b c => Sys2Proof.Machine.execCxbar a b c s
  | .cupclr n => Sys2Proof.Machine.execCupclr n s
  | .cupadd n a b => Sys2Proof.Machine.execCupadd n a b s
  | .illegalWord w => Sys2Proof.Machine.execIllegalWord w s
  | .instructionIssue f k n => Sys2Proof.Machine.execInstructionIssue f k n s
  | .trapEntry f => Sys2Proof.Machine.execTrapEntry f s
  | .singleStepStop f => Sys2Proof.Machine.execSingleStepStop f s
  | .watchdog f => Sys2Proof.Machine.execWatchdog f s
  | .pageWalk die => Sys2Proof.Machine.execPageWalk die s
  | .streamFill f k => Sys2Proof.Machine.execStreamFill f k s
  | .jobRelease f h => Sys2Proof.Machine.execJobRelease f h s
  | .jobEnd f h => Sys2Proof.Machine.execJobEnd f h s
  | .collectiveCallEnd gid => Sys2Proof.Machine.execCollectiveCallEnd gid s
  | .waitwMonitorFire f => Sys2Proof.Machine.execWaitwMonitorFire f s
  | .waitwTimeout f => Sys2Proof.Machine.execWaitwTimeout f s
  | .takeWake f => Sys2Proof.Machine.execTakeWake f s
  | .laneTake f => Sys2Proof.Machine.execLaneTake f s
  | .frontStart f => Sys2Proof.Machine.execFrontStart f s
  | .wqDoorbell q tail => Sys2Proof.Machine.execWqDoorbell q tail s
  | .lopen q => Sys2Proof.Machine.execLopen q s
  | .slotBind f asid lid => Sys2Proof.Machine.execSlotBind f asid lid s
  | .slotUnbind f => Sys2Proof.Machine.execSlotUnbind f s
  | .launchEnd lid => Sys2Proof.Machine.execLaunchEnd lid s
  | .tinvcPage asid => Sys2Proof.Machine.execTinvcPage asid s
  | .tinvcAsid asid => Sys2Proof.Machine.execTinvcAsid asid s
  | .tinvcAll => Sys2Proof.Machine.execTinvcAll s
  | .tinvcDone => Sys2Proof.Machine.execTinvcDone s
  | .prectlSave die core => Sys2Proof.Machine.execPrectlSave die core s
  | .prectlSaveDone die => Sys2Proof.Machine.execPrectlSaveDone die s
  | .prectlDiscard die core => Sys2Proof.Machine.execPrectlDiscard die core s
  | .rstctlRestore die core lid => Sys2Proof.Machine.execRstctlRestore die core lid s
  | .scrubPass core found => Sys2Proof.Machine.execScrubPass core found s
  | .laneRetire core => Sys2Proof.Machine.execLaneRetire core s
  | .powerOn => Sys2Proof.Machine.execPowerOn s
  | .rstreq src => Sys2Proof.Machine.execRstreq src s
  | .firmwareCheckDone img => Sys2Proof.Machine.execFirmwareCheckDone img s
  | .dieAdmitted die => Sys2Proof.Machine.execDieAdmitted die s
  | .hbmTrained stack => Sys2Proof.Machine.execHbmTrained stack s
  | .hbmTrainFail stack => Sys2Proof.Machine.execHbmTrainFail stack s
  | .linkTrained link => Sys2Proof.Machine.execLinkTrained link s
  | .linkTrainTimeout link => Sys2Proof.Machine.execLinkTrainTimeout link s
  | .attctlQuote => Sys2Proof.Machine.execAttctlQuote s
  | .attctlQuoteDone => Sys2Proof.Machine.execAttctlQuoteDone s
  | .thermalTrip hot => Sys2Proof.Machine.execThermalTrip hot s
  | .powerCapStep now => Sys2Proof.Machine.execPowerCapStep now s
  | .pwrcapWrite src v => Sys2Proof.Machine.execPwrcapWrite src v s
  | .stwbaseWrite src v => Sys2Proof.Machine.execStwbaseWrite src v s
  | .stewardAccess store run v => Sys2Proof.Machine.execStewardAccess store run v s
  | .fabidWrite src v => Sys2Proof.Machine.execFabidWrite src v s
  | .routeWrite src d v => Sys2Proof.Machine.execRouteWrite src d v s
  | .dbgctlWrite src f v => Sys2Proof.Machine.execDbgctlWrite src f v s
  | .flitReceive link flit => Sys2Proof.Machine.execFlitReceive link flit s
  | .flitReplay link => Sys2Proof.Machine.execFlitReplay link s
  | .msgWrite m => Sys2Proof.Machine.execMsgWrite m s
  | .msgReadRequest m => Sys2Proof.Machine.execMsgReadRequest m s
  | .msgReadResponse m => Sys2Proof.Machine.execMsgReadResponse m s
  | .msgAtomic m => Sys2Proof.Machine.execMsgAtomic m s
  | .msgAtomicResponse m => Sys2Proof.Machine.execMsgAtomicResponse m s
  | .msgCollective m => Sys2Proof.Machine.execMsgCollective m s
  | .msgRegisterAccess m => Sys2Proof.Machine.execMsgRegisterAccess m s
  | .msgRegisterResponse m => Sys2Proof.Machine.execMsgRegisterResponse m s
  | .msgMonitorWake m => Sys2Proof.Machine.execMsgMonitorWake m s
  | .registerWrite src addr v => Sys2Proof.Machine.execRegisterWrite src addr v s
  | .instructionComplete f => Sys2Proof.Machine.execInstructionComplete f s
  | .waitwRecheck f => Sys2Proof.Machine.execWaitwRecheck f s

end Sys2Proof.Machine
end

