-- ==== Sys2Proof/Machine/Clock.lean ====
section
/-! DEFINITION. What every step adds: one clock of the package (log 1), with the performance counters (R406, R407), the watchdog's count
(R379), the ages of the work queues (R330), the end of requests to peers that nobody waits for any more, and the wakes that peers are due (R305). -/

namespace Sys2Proof.Machine

/-- The waits that keep the first body of an instruction from running, oldest first (R211, R226, R227, R266). -/
def Front.blockers (x : Front) (k : Nat) (y : QEntry) : List Hold :=
  let cells := x.cellHolds k y
  let rows := x.rowHolds y
  (if isSerial y.instr then cells else cells.filter fun h => decide (y.beatFloor h.limit ≤ y.progress)) ++
    rows.filter fun h => decide (h.limit ≤ y.progress)

/-- The slot that a clock of a front is charged to, by the first row of R407 that applies: `x` is the front before the clock, `y` after it. An FVV
that waits is the head where nothing unissued stands behind it, since vector and matrix instructions pass it (DEDUCED, log 46). -/
def accountOf (x y : Front) : Nat :=
  if x.kernel || x.ubusy then 4
  else if y.didIssue then 1
  else
    match headOf x.queue 0 with
    | some (k, e) =>
      match x.blockers k e with
      | h :: r => (if (h :: r).all (·.chain) then 6 else 9) + h.pipe
      | [] => 5
    | none => if x.queue.any fun e => isFvv e.instr && !e.issued && !e.done then 5 else if y.didFront then 2 else 3

/-- One clock of a resident front, which makes no progress only once it has started (R379, R406, R407). -/
def Front.ticked (started : Bool) (x y : Front) : Front :=
  { (y.addCounter 0 1).addCounter (accountOf x y) 1 with
    idle := if !started || y.didFront || x.vcp != y.vcp then 0 else y.idle + 1
    didFront := false
    didIssue := false }

/-- A front counts its clocks while it is resident and no save has stopped it (R373, R406). -/
def State.counts (s : State) (f : Nat) : Bool := s.resident f && !(s.front f).halt.stopping

def tickFronts (s t : State) : State :=
  (t.slots.map (·.1)).foldl (fun (u : State) f =>
    if s.counts f && u.counts f then u.modFront f fun y => (s.front f).ticked ((s.slot f).state == 2) y else u) t

/-- The clocks that the head descriptor of a queue has waited (R330). -/
def WorkQueue.aged (old new : WorkQueue) : WorkQueue :=
  { new with age := if old.served && new.served && old.h == new.h then word (min (new.age.toNat + 1) (2 ^ 32 - 1)) else 0 }

def tickQueues (s t : State) : State :=
  { t with queues := (t.queues.map fun p => (p.1, (s.queue p.1).aged p.2)).filter fun p => p.2 != WorkQueue.reset }

/-- The agent still waits for what it asks of a peer. -/
def State.asks (s : State) (a : Agent) : Bool :=
  match a with
  | .front f => s.resident f && (s.front f).wait != .no
  | .entry f v => (s.front f).queue.any fun e => e.vsn == v && !e.done && e.trap.isNone
  | .filler f k => (s.front f).binds.any fun p => p.1 == k
  | .job l r h => s.jobs.any fun j => j.lid == l && j.rank == r && j.handle == h
  | .restore k _ _ _ => (s.die (k / 64)).rstctl.flag 9
  | .save d => (s.die d).prectl.flag 9
  | .gone => false

/-- The requests whose agent is gone: forgotten once answered, and until then kept for their tags. -/
def sweep (s : State) : State :=
  { s with remotes := s.remotes.filterMap fun r =>
      if s.asks r.agent then some r else if r.answer.isSome then none else some { r with agent := .gone } }

/-- The monitors that a write has fired for other packages: each package is told by a message of CLASS 8, where a live link reaches it (R305, R385, log 9). -/
def sendWakes (s : State) : State :=
  let due (m : Monitor) : Bool := m.fired && decide (1024 ≤ m.fid)
  (s.monitors.filter due).foldl (fun s m => (s.send (m.fid - 1024) 8 0 0 (8 * m.unit) []).getD s)
    { s with monitors := s.monitors.filter fun m => !due m }

/-- The flits of a clock are on their way: they take no further message (R385, log 8). -/
def closeFlits (s : State) : State := { s with links := s.links.map fun p => (p.1, { p.2 with filling := false }) }

/-- The clock that a step takes, from `s` before it to `t` after it. -/
def tick (s t : State) : State := closeFlits (sendWakes (sweep (tickQueues s (tickFronts s { t with clock := t.clock + 1 }))))

end Sys2Proof.Machine
end

