-- ==== Sys2Proof/Machine/Turn.lean ====
section
/-! DEFINITION. A front's turn: what comes before its next instruction, the fetch of that instruction (R99, R103, R234, R238), and what goes
on beside it; and an instruction placed where a front fetches next (log 5). -/

namespace Sys2Proof.Machine

/-- What goes on beside a front: its queue, the page walks of its die, or the engine jobs (log 3). -/
def background (s : State) (f : Nat) : State :=
  match queueProgress s f with
  | some t => t
  | none => if (s.die (dieOf f)).walks.isEmpty then jobsProgress s 256 else pageWalk s (dieOf f)

/-- What goes on before a waiting instruction executes again: its queue, or the engine jobs. -/
def besides (s : State) (f : Nat) : Option State :=
  match queueProgress s f with
  | some t => some t
  | none => if jobsProgress s 256 = s then none else some (jobsProgress s 256)

/-- A waiting instruction executes again in every other clock, and beside it what there is to move moves in the others. -/
def inTurns (s : State) (f : Nat) : Option State := if s.clock % 2 = 1 then none else besides s f

/-- A sleeping WAITW: its timeout, or its monitor, makes it check again; while a peer is asked, it waits for the answer (R304, R305). -/
def waitwSleep (s : State) (f : Nat) (span : Nat × Nat) : Option State :=
  match s.remotes.find? fun r => r.agent == .front f with
  | some r => if r.answer.isNone then some (background s f) else none
  | none =>
    if s.monitors.any fun m => m.fid == f then
      some (if waitOver span s.clock then waitTimeout s f
        else if s.monitors.any fun m => m.fid == f && m.fired then monitorFire s f else background s f)
    else none

/-- What a front does that waits at its instruction; none where the instruction executes again. -/
def asleep (s : State) (f : Nat) : Option State :=
  match (s.front f).wait with
  | .no => none
  | .retry => inTurns s f
  | .atomic _ => inTurns s f
  | .claim .. => inTurns s f
  | .serial _ => inTurns s f
  | .waitw st lim => waitwSleep s f (st, lim)
  | .take _ => some (background s f)
  | .woken => some (takeWake s f)
  | .lanes => some (if (s.core (coreOf f)).newOwn f = 0 then background s f else laneTake s f)

/-- An MWAIT of the front has not completed, and the front waits for it (R222). -/
def Front.mwaits (x : Front) : Bool := x.queue.any fun e => isMwait e.instr && !e.done

/-- A job of the front could not write its completion pair: the front takes the error (R293). -/
def pairError (s : State) (p : Pending) : State :=
  frontTrap { s with pendings := s.pendings.erase p } ⟨MEMERR, 3, 0, p.addr, p.addr⟩

/-- What a turn of the current front is, other than its next instruction: none when that instruction executes. A front that is no longer, or
not yet, running leaves its turn to the engines. No trap of another cause is taken in the middle of an atomic access that a peer has been asked
for (R356). -/
def beforeFetch (s : State) : Option State :=
  let f := s.cur
  let x := s.me
  if (s.slot f).state = 1 ∧ (s.core (coreOf f)).share f ≤ (s.core (coreOf f)).own f then some (startIfOwned s f)
  else if !s.runs f || (x.halt.stopping && !s.inAtomic (.front f)) then some (background s f)
  else if watchdogDue s f && !s.inAtomic (.front f) then some (if watchdogStep s f = s then background s f else watchdogStep s f)
  else if x.stepDue then some (if stepStopDue s f then stepStop s f else background s f)
  else if x.mwaits then some (background s f)
  else
    match s.pendingOf f false with
    | some p => if s.inAtomic (.front f) then asleep s f else some (if x.queue.isEmpty then pairError s p else background s f)
    | none => asleep s f

/-- The word at PC. Its block is verified as a scalar load's is (R248; DEDUCED, log 79). -/
def fetchWord (s : State) : Except Stop (Nat × State) :=
  (do readLoc s.ctx.agent (← translate s.ctx s.me.pc.toNat .fetch) 4 s.me.pc.toNat) s

/-- A front that fetches waits for a peer, and keeps the wait that it is in. -/
def State.fetchWaits (s : State) : State := s.blocked (if s.me.wait = .no then .retry else s.me.wait)

/-- The instruction of the current front that is in the middle of an atomic access of a peer: it is not fetched again, so that nothing can stop
it there (R356). -/
def State.underWay (s : State) : Option Instr :=
  if s.inAtomic (.front s.cur) then
    match s.me.wait with
    | .atomic i => some i
    | .claim i _ _ _ => some i
    | _ => none
  else none

/-- The next instruction of the current front and the state in which it executes, or the state where the fetch traps or waits. A word that is
no instruction is `illegalWord`, which raises ILLEGAL (R103). -/
def fetch (s : State) : Except State (Instr × State) :=
  match s.underWay with
  | some i => .ok (i, s)
  | none =>
    match fetchWord s with
    | .ok (w, t) => .ok ((decode (BitVec.ofNat 32 w)).getD (.illegalWord (BitVec.ofNat 32 w)), t)
    | .error (.trap t) => .error (frontTrap s t)
    | .error (.wait none) => .error s.fetchWaits
    | .error (.wait (some r)) => .error (s.request r).fetchWaits

/-- What follows an instruction at the front: in every 64th clock a move of what goes on beside it (log 3), and the clock. -/
def afterFront (s t : State) : State := tick s (if s.clock % 64 = 63 then background t s.cur else t)

/-- An event of a unit that the package has. A word that does not decode is a front's own. -/
def arrives (i : Instr) : Bool :=
  match i with
  | .illegalWord _ => false
  | i => i.isEvent && i.wf

/-- A function of the next state, if there is one. -/
def onNext (g : State → State) (o : Out) : Out :=
  match o with
  | .next t => .next (g t)
  | .fault r => .fault r
  | .refused r => .refused r

/-- The turn is the current front's: the agent has been named. -/
def State.turnOf (s : State) (r : List Move) (f : Nat) : State := { s with turns := r, cur := f }

/-! ### An instruction placed where it is fetched next -/

/-- A PC and a scratchpad window that holds it: the PC's own megabyte, if the window's part of it can hold four bytes. -/
def placePc (pc : Word) : Word := if pc.field 19 0 + 4 ≤ 327680 ∧ pc.toNat < 2 ^ 52 then pc else pc &&& word (2 ^ 52 - 2 ^ 20)

/-- A front that fetches next, with nothing due before it. -/
def Front.placed (x : Front) : Front :=
  { x with
    pc := placePc x.pc
    spbase := keep (placePc x.pc) 51 20
    wait := .no
    halt := .no
    stepDue := false
    idle := 0
    queue := if x.mwaits then [] else x.queue }

/-- The machine with front 0 running and the bytes at its PC, in the scratchpad of core 0. -/
def placeBytes (s : State) (bs : List Byte) : State :=
  let x := (s.front 0).placed
  let a := scratchBase 0 + x.pc.field 19 0
  let hit (unit u : Nat) : Bool := decide (a < unit * u + unit ∧ unit * u < a + 4)
  { s with
    turns := []
    cur := 0
    mem := putBytes s.mem a bs
    memErr := spEraseAll s.memErr (hit 8)
    badBlk := spEraseAll s.badBlk (hit 256)
    fronts := spSet Front.reset s.fronts 0 x
    slots := spSet SlotRec.reset s.slots 0 { s.slot 0 with state := 2 }
    cores := if (s.core 0).own0 = 0 then spSet Core.reset s.cores 0 { s.core 0 with target := 64, own0 := 64 - (s.core 0).own1 } else s.cores
    pendings := s.pendings.filter fun p => !(p.lid == x.lid && p.rank == x.rank && !p.diverge)
    pkg := { s.pkg with tripped := false } }

end Sys2Proof.Machine
end

