-- ==== Sys2Proof/Machine/Step.lean ====
section
/-! DEFINITION. One step: the move of the agent that `turns` names next, or of the front that moved last. -/

namespace Sys2Proof.Machine

/-- A turn of the current front. -/
def frontStep (s : State) : Host.Outcome State Fault Refusal :=
  match beforeFetch s with
  | some t => .next (tick s t)
  | none =>
    match fetch s with
    | .error t => .next (tick s t)
    | .ok (i, t) => onNext (afterFront s) (exec i t)

/-- An event of the hardware or of the outside world; a term that stands for none is no event. -/
def eventStep (s : State) (i : Instr) : Host.Outcome State Fault Refusal :=
  if arrives i then onNext (tick s) (exec i s) else .fault .noSuchUnit

/-- One step. -/
def step (s : State) : Host.Outcome State Fault Refusal :=
  match s.turns with
  | [] => frontStep s
  | .front f :: r => if f < 1024 then frontStep (s.turnOf r f) else .fault .noSuchUnit
  | .event i :: r => eventStep (s.turnOf r s.cur) i

/-- The machine with an instruction of `nbits` bits `w` where the next step fetches (log 5). -/
def State.withFetchWord (s : State) (nbits w : Nat) : State := placeBytes s (wordBytes (BitVec.ofNat 32 (w % 2 ^ nbits)))

end Sys2Proof.Machine
end

