-- ==== Sys2Proof/Safety.lean ====
section
/-! DEFINITION. What counts as a safe run, and the shapes of what an instruction leaves, in the terms that statements use. -/

namespace Sys2Proof.Machine

/-- The outcome is a next state, neither a fault nor a refusal. -/
def Out.goesOn (o : Out) : Bool :=
  match o with
  | .next _ => true
  | .fault _ => false
  | .refused _ => false

/-- The instruction ends in a next state, of which `P` holds. -/
def Ends (i : Instr) (s : State) (P : State → Prop) : Prop := ∃ t, exec i s = .next t ∧ P t

/-- The instruction is a write of the register at address `a`: it ends in a state of which `P` holds but for the monitors of that doubleword, which have
fired (R305). -/
def Rings (a : Nat) (i : Instr) (s : State) (P : State → Prop) : Prop := ∃ t, exec i s = .next (t.woken a) ∧ P t

/-- The memory keeps its canonical form. -/
def State.memOk (s : State) : Prop := Memory.wf s.mem = true

/-- Every byte of memory reads as before. -/
def SameBytes (s t : State) : Prop := ∀ a, t.byte a = s.byte a

/-- The `n` bytes at `a` hold the number `v`, lowest byte first, and every other byte reads as before. -/
def Stored (s : State) (a n v : Nat) (t : State) : Prop :=
  t.read a n = v % 256 ^ n ∧ ∀ x, ¬ (a ≤ x ∧ x < a + n) → t.byte x = s.byte x

/-- Nothing but front `f` differs: neither another front nor any other part of the package. -/
structure OnlyFront (f : Nat) (s t : State) : Prop where
  rest   : { t with fronts := [] } = { s with fronts := [] }
  others : ∀ g, g ≠ f → t.front g = s.front g

/-- Nothing differs but front `f`, and memory with its errors and marks and the monitors of the doublewords written. -/
structure FrontAndMemory (f : Nat) (s t : State) : Prop where
  rest   : { t with fronts := [], mem := [], memErr := [], badBlk := [], monitors := [] } =
    { s with fronts := [], mem := [], memErr := [], badBlk := [], monitors := [] }
  others : ∀ g, g ≠ f → t.front g = s.front g

/-- A front without what completing an instruction changes: general registers, PC and the bookkeeping of its progress. -/
def Front.base (x : Front) : Front :=
  { x with regs := [], pc := 0, wait := .no, idle := 0, didFront := false, stepDue := false }

/-- The current front has completed an instruction and goes on at `pc`; of its other state, what `view` shows is as before (R132, R412). -/
structure Completed (s : State) (pc : Word) (view : Front → Front) (t : State) : Prop where
  pc   : t.me.pc = pc
  wait : t.me.wait = .no
  step : t.me.stepDue = (s.me.dbgctl.flag 0 && !s.me.kernel && !s.me.ubusy)
  kept : view t.me.base = view s.me.base

/-- `d` holds `v`, or zero for s0, and every other general register is as before (R43). -/
structure Dest (s : State) (d : SReg) (v : Word) (t : State) : Prop where
  dest : t.reg d = if d = 0 then 0 else v
  regs : ∀ r, r ≠ d → t.reg r = s.reg r

/-- An instruction that writes `v` to `d` and goes on at `pc`, and leaves all else as it was, every byte of memory too. -/
structure Writes (s : State) (d : SReg) (v pc : Word) (t : State) : Prop where
  dest : Dest s d v t
  done : Completed s pc id t
  rest : OnlyFront s.cur s t
  mem  : SameBytes s t

/-- An instruction that completes at `pc` and changes nothing else. -/
structure Passes (s : State) (pc : Word) (t : State) : Prop where
  regs : ∀ r, t.reg r = s.reg r
  done : Completed s pc id t
  rest : OnlyFront s.cur s t
  mem  : SameBytes s t

/-- A store of the `n` low bytes of `v` at address `a` of memory, from the state `s` in which its address has been translated: those bytes alone
differ in memory, no general register changes, and the next instruction follows. -/
structure Stores (s : State) (a n v : Nat) (t : State) : Prop where
  bytes : Stored s a n v t
  regs  : ∀ r, t.reg r = s.reg r
  done  : Completed s (s.me.pc + 4) id t
  rest  : FrontAndMemory s.cur s t

/-- An atomic at address `a` of memory: the old word to `d`, sign-extended, and the new one to memory; `none` writes nothing (R259). -/
structure Atomic (s : State) (d : SReg) (a n : Nat) (new : Option Nat) (t : State) : Prop where
  bytes : match new with
    | some v => Stored s a n v t
    | none => SameBytes s t
  dest  : Dest s d ((BitVec.ofNat (8 * n) (s.read a n)).signExtend 64) t
  done  : Completed s (s.me.pc + 4) id t
  rest  : FrontAndMemory s.cur s t

/-- The current front stands as `x` in all that completing an instruction does not change, and goes on at the next instruction. -/
structure CrWritten (s : State) (x : Front) (t : State) : Prop where
  front : t.me.base = x.base
  pc    : t.me.pc = s.me.pc + 4
  wait  : t.me.wait = .no
  step  : t.me.stepDue = (s.me.dbgctl.flag 0 && !s.me.kernel && !s.me.ubusy)
  regs  : ∀ r, t.reg r = s.reg r
  rest  : OnlyFront s.cur s t
  mem   : SameBytes s t

/-- The instructions of a suspend set as KRET pushes them again from number `vsn` on: those not done, in order, each with the next number, not issued;
the faulting one from `start`, every other from its progress; they are pushed in this clock (R205, R208, R360). Everything else of each is as it
was: the instruction, its handle, the clock of its first push, what it captured but for VSTART, and its further state (R74, R358). A STORE strip's writer
has still to store what it had from there on (log 35), and a layout record is read again (R252). -/
def Reissued (clock : Nat) (set : List QEntry) (vsn : BitVec 32) (start : Nat) (q : List QEntry) : Prop :=
  List.Forall₂ (fun e y =>
      let p := e.restart start
      y = { e with vsn := y.vsn, trap := none, issued := false, progress := p, pushed := (clock : Int), cap := { e.cap with vstart := word p },
                   storing := y.storing, stored := y.stored, record := y.record } ∧
      y.storing = (e.storing && isSerial e.instr) ∧ y.stored = (if e.storing then p else min e.stored p) ∧
      y.record = (match e.instr with
        | .sbind .. => e.record
        | .sunbind .. => e.record
        | _ => [])) (set.filter fun e => !e.done) q ∧
    q.map (·.vsn) = (List.range q.length).map fun i => vsn + BitVec.ofNat 32 i

/-- A front without what taking a trap and returning from one change, and without the event counters and the bindings. -/
def Front.untrapped (x : Front) : Front :=
  { x with
    trapcause := 0
    trappc := 0
    trapvsn := 0
    trapelem := 0
    trapaddr := 0
    vstart := 0
    deleg := 0
    kernel := false
    pc := 0
    vsn := 0
    vcp := 0
    queue := []
    userSet := []
    kernelSet := []
    counters := []
    binds := []
    wait := .no
    stepDue := false
    idle := 0
    didFront := false }

/-- A front has returned from a handler to TRAPPC, its suspend set pushed again after what its queue holds (R74, R360); the fillers of its bindings
retry (R266). -/
structure Returned (s : State) (set : List QEntry) (kernel : Bool) (t : State) : Prop where
  pc    : t.me.pc = s.me.trappc
  mode  : t.me.kernel = kernel
  queue : ∃ q, t.me.queue = s.me.queue ++ q ∧ Reissued s.clock set s.me.vsn (s.me.vstart.field 8 0) q ∧
    t.me.vsn = s.me.vsn + BitVec.ofNat 32 q.length
  binds : t.me.binds = s.me.binds.map fun p => (p.1, { p.2 with fault := none })
  regs  : ∀ r, t.reg r = s.reg r
  kept  : t.me.untrapped = s.me.untrapped
  rest  : OnlyFront s.cur s t
  mem   : SameBytes s t

/-- A scalar floating-point instruction: its result to `d`, and its flags ORed into FFLAGS (R138). -/
structure FloatWrites (s : State) (d : SReg) (v : Word) (flags : Nat) (t : State) : Prop where
  dest  : Dest s d v t
  flags : t.me.fflags = s.me.fflags ||| word flags
  done  : Completed s (s.me.pc + 4) (fun x => { x with fflags := 0 }) t
  rest  : OnlyFront s.cur s t
  mem   : SameBytes s t

/-- The front waits at its instruction and will execute it again: nothing else has changed. -/
structure Waits (s : State) (w : Wait) (t : State) : Prop where
  front : t.me = { s.me with wait := w }
  rest  : OnlyFront s.cur s t
  mem   : SameBytes s t

/-- The trap is delivered to the front's own user handler (R54, R73). -/
def Front.delegates (x : Front) (cause : Nat) : Bool :=
  !x.kernel && [3, 4, 5, 6, 13].contains cause && x.deleg.flag cause && !x.ubusy

/-- The queued instructions as a trap suspends them: all of them, in order, as they stand but for being issued; only the one at the head keeps a trap
that it has met (R73, R356, R359). -/
def Suspended (q set : List QEntry) : Prop :=
  List.Forall₂ (fun e y => y = { e with issued := false, trap := y.trap }) q set ∧ (set.take 1).map (·.trap) = (q.take 1).map (·.trap) ∧
    (set.drop 1).all (fun y => y.trap == none) = true

/-- Front `f` has taken a trap that is no double fault (R51, R53, R73, R359): the trap registers, the element-start, the mode and the handler; the queued
instructions go to the suspend set of the handler's level; and nothing else changes, no counter but slot 13 at a BREAK (R411). -/
structure TrapTaken (s : State) (f cause sub elem addr : Nat) (pc : Word) (vsn : BitVec 32) (t : State) : Prop where
  code    : (t.front f).trapcause.field 7 0 = cause
  pmode   : (t.front f).trapcause.flag 8 = (s.front f).kernel
  udeleg  : (t.front f).trapcause.flag 9 = (s.front f).delegates cause
  subcode : (t.front f).trapcause.field 23 16 = sub
  zero    : (t.front f).trapcause.field 15 10 = 0 ∧ (t.front f).trapcause.field 63 24 = 0
  trappc  : (t.front f).trappc = pc
  trapvsn : (t.front f).trapvsn = vsn.setWidth 64
  element : (t.front f).trapelem = word elem
  address : (t.front f).trapaddr = word addr
  vstart  : (t.front f).vstart = word elem
  mode    : (t.front f).kernel = ((s.front f).kernel || !(s.front f).delegates cause)
  target  : (t.front f).pc = if (s.front f).delegates cause then (s.front f).utrapvec else (s.front f).trapvec
  ubusy   : (t.front f).ubusy = ((s.front f).delegates cause || (s.front f).ubusy)
  deleg   : ∀ i, i ≠ 31 → (t.front f).deleg.getLsbD i = (s.front f).deleg.getLsbD i
  nextVsn : (t.front f).vsn = (s.front f).vsn ∧ (t.front f).vcp = (s.front f).vsn
  regs    : ∀ r, (t.front f).reg r = (s.front f).reg r
  queue   : (t.front f).queue = []
  sets    : ∃ q, Suspended (s.front f).queue q ∧
    (t.front f).userSet = (s.front f).userSet ++ (if (s.front f).delegates cause then q else []) ∧
    (t.front f).kernelSet = (s.front f).kernelSet ++ (if (s.front f).delegates cause then [] else q)
  counters : ∀ i, i ≠ 13 ∨ cause ≠ 13 → (t.front f).counter i = (s.front f).counter i
  binds   : (t.front f).binds = (s.front f).binds
  kept    : (t.front f).untrapped = (s.front f).untrapped
  rest    : OnlyFront f s t
  mem     : SameBytes s t

/-- A trap of the instruction at the front, in a state where it is taken at once: no older instruction is queued (R72). -/
def Traps (s : State) (cause sub addr : Nat) (t : State) : Prop := TrapTaken s s.cur cause sub 0 addr s.me.pc s.me.vsn t

/-- A trap of the instruction at the front that an error in storage raises, at location `pa`: an error record of its kind is appended to the ring of the die first
(R376), after those of its walk, if it makes one (log 71). -/
def Fails (s : State) (cause sub va pa kind : Nat) (t : State) : Prop :=
  TrapTaken (errRecord (s.missed s.cur va) (s.cur / 128) va pa s.me.asid kind (s.cur / 2 % 64) (s.cur % 2) s.me.vsn.toNat) s.cur cause sub 0 va s.me.pc s.me.vsn t

/-- The front can take a trap of this cause: nothing older is queued, and the cause is no double fault (R72, R73). -/
def State.trapReady (s : State) (cause : Nat) : Prop := s.me.queue = [] ∧ (s.me.kernel = false ∨ cause = 13 ∨ cause = 14)

/-- What a push captures beside the operands (R70). -/
structure Captured (s : State) (c : Capture) : Prop where
  vl     : c.vl = s.me.vl
  vmc    : c.vmc = s.me.vmc
  vst    : c.vst = s.me.vst
  vstart : c.vstart = s.me.vstart
  fcr    : c.fcr = s.me.fcr
  gstep  : c.gstep = s.me.gstep
  plwin  : (c.first, c.width) = s.window s.cur
  kern   : c.kern = s.me.kernel

/-- The instruction has been pushed (R69, R70): one entry more in the queue, numbered VSN and not issued, in this clock, with the carve entries of `names`
and the values of `regs` captured; VSN one more, VSTART zero, the next instruction; nothing else but the cursors of the front's bindings. -/
structure Pushed (s : State) (i : Instr) (names : List Word) (regs : List Word) (t : State) : Prop where
  entry  : ∃ e, t.me.queue = s.me.queue ++ [e] ∧ e.instr = i ∧ e.vsn = s.me.vsn ∧ e.issued = false ∧ e.done = false ∧ e.trap = none ∧
    e.progress = s.me.vstart.field 8 0 ∧ e.pushed = (s.clock : Int) ∧ e.born = (s.clock : Int) ∧ Captured s e.cap ∧ e.cap.names = names ∧ e.cap.scalars = regs
  vsn    : t.me.vsn = s.me.vsn + 1
  vstart : t.me.vstart = 0
  regs   : ∀ r, t.reg r = s.reg r
  done   : Completed s (s.me.pc + 4) (fun x => { x with queue := [], vsn := 0, vstart := 0, binds := [] }) t
  rest   : OnlyFront s.cur s t
  mem    : SameBytes s t

/-- An entry that every check of R61 and R67 accepts in a window of `width` columns, for `vl` elements. -/
structure EntryFits (e : Word) (width vl : Nat) : Prop where
  valid   : dValid e = true
  widthOk : dEw e ≠ 7
  zero    : e.field 63 50 = 0
  pos     : dLastPos e < epw width (dW e)
  rows    : dLastRow e ≤ 511 ∨ dWrap e = true
  span    : dLastRow e - dRow0 e < 512
  cap     : vl ≤ dCap e
  vlmax   : vl ≤ Sys2Proof.Machine.vlmax width (dW e)

/-- A front that can push: room in the queue, and no stream bindings. -/
def State.canPush (s : State) : Prop := s.me.queue.length < 64 ∧ s.me.binds = []

/-- The carve entry of a name fits the front's window and VL. -/
def State.fits (s : State) (v : VName) : Prop := EntryFits (s.me.entry v.toNat) (s.window s.cur).2 (s.me.vl.field 8 0)

/-- Element width of a name. -/
def State.ew (s : State) (v : VName) : Nat := dW (s.me.entry v.toNat)

/-- The instruction is pushed with the carve entries of `vs` and the values of `rs` captured. -/
def Pushes (i : Instr) (vs : List VName) (rs : List SReg) (s : State) : Prop :=
  Ends i s (Pushed s i (vs.map fun v => s.me.entry v.toNat) (rs.map s.reg))

/-- The instruction, whose push checks and captures what `p` says, is pushed whenever the queue has room and no check of R422 fails; bound names
capture their strips (R265). -/
def PushesAs (i : Instr) (p : PushSpec) : Prop :=
  ∀ s : State, s.me.queue.length < 64 → s.me.pushCheck (s.me.capture (s.window s.cur) p) p = none →
    Ends i s (Pushed s i (p.uses.map s.me.operandEntry) (p.regs.map s.reg))

/-- The carve entry of `v` is `e`, its generation count is one more, every other entry and count and all else is as before, and the next
instruction follows (R58, R158). -/
structure EntrySet (s : State) (v : VName) (e : Word) (t : State) : Prop where
  entry : t.me.entry v.toNat = e
  gen   : t.me.gen v.toNat = s.me.gen v.toNat + 1
  other : ∀ j, j ≠ v.toNat → t.me.entry j = s.me.entry j ∧ t.me.gen j = s.me.gen j
  regs  : ∀ r, t.reg r = s.reg r
  done  : Completed s (s.me.pc + 4) (fun x => { x with carve := [], gens := [] }) t
  rest  : OnlyFront s.cur s t
  mem   : SameBytes s t

/-- The strip boundary of R161 and R203 has been taken: the front owns `new` columns, VL is `g` with the width of entry `e`, the next
instruction follows, and nothing else of the front has changed but general registers and dirty rows. No other front changes but for rows that a
bound partner takes over with its columns. -/
structure Granted (s : State) (new g : Nat) (e : Word) (t : State) : Prop where
  own    : (t.core (s.cur / 2)).own s.cur = new
  target : (t.core (s.cur / 2)).target = (s.core (s.cur / 2)).target
  cells  : (t.core (s.cur / 2)).plane = (s.core (s.cur / 2)).plane ∧ (t.core (s.cur / 2)).tags = (s.core (s.cur / 2)).tags
  vl     : t.me.vl = word (g + dEw e * 2 ^ 9)
  done   : Completed s (s.me.pc + 4) (fun x => { x with vl := 0, dirty := 0 }) t
  others : ∀ g, g ≠ s.cur → { t.front g with dirty := 0 } = { s.front g with dirty := 0 }

/-- Element i of entry `e` of front `f`, in a window that starts at `first`, is `v` cut to the entry's width, and the cells that it touches have the
tags `tags`; every other bit and tag of the plane is as before. The rows touched become dirty, and nothing else changes (R59, R60, R63, R363). -/
structure ElemPut (s : State) (f first : Nat) (e : Word) (i v : Nat) (tags : List Byte) (t : State) : Prop where
  elem   : (t.core (f / 2)).elem e first i = v % 2 ^ dW e
  tags   : (elemCells e first i).map (t.core (f / 2)).tag = tags
  cells  : ∀ c, c ∉ elemCells e first i → (t.core (f / 2)).cell c = (s.core (f / 2)).cell c ∧ (t.core (f / 2)).tag c = (s.core (f / 2)).tag c
  bits   : ∀ c ∈ elemCells e first i, dW e ≤ 32 → ∀ b, ¬ (elemOff e i ≤ b ∧ b < elemOff e i + dW e) →
    ((t.core (f / 2)).cell c).getLsbD b = ((s.core (f / 2)).cell c).getLsbD b
  front  : { t.front f with dirty := 0 } = { s.front f with dirty := 0 }
  dirty  : ∀ r, r < 512 → (t.front f).dirty.getLsbD r = ((s.front f).dirty.getLsbD r || (elemCells e first i).any fun c => c / 64 == r)
  others : ∀ g, g ≠ f → t.front g = s.front g
  rest   : { t with fronts := [], cores := [] } = { s with fronts := [], cores := [] }

/-- No cell of element i of an entry holds an error. -/
def Core.clean (x : Core) (e : Word) (first i : Nat) : Prop := badCell? x (elemCells e first i) true = none

/-- Body i of the run of an entry of front `f` completes in a state of which `P` holds. -/
def RunsElem (e : QEntry) (f i : Nat) (s : State) (P : State → Prop) : Prop :=
  ∃ body t, runOf e f = .elems e.vl 1 body ∧ body i s = .ok ((), t) ∧ P t

/-- Body i of a run of bodies up to `stop`, in steps of `unit`, completes in a state of which `P` holds. -/
def RunsBody (e : QEntry) (f stop unit i : Nat) (s : State) (P : State → Prop) : Prop :=
  ∃ body t, runOf e f = .elems stop unit body ∧ body i s = .ok ((), t) ∧ P t

/-- Body i of such a run raises a trap, before it has had an effect. -/
def StopsBody (e : QEntry) (f stop unit i : Nat) (s : State) (p : TrapRec) : Prop :=
  ∃ body, runOf e f = .elems stop unit body ∧ body i s = .error (.trap p)

/-- Element i of an entry raises a trap, before it has had an effect. -/
def StopsElem (e : QEntry) (f i : Nat) (s : State) (p : TrapRec) : Prop := StopsBody e f e.vl 1 i s p

/-- An entry that runs whole completes in a state of which `P` holds. -/
def RunsWhole (e : QEntry) (f : Nat) (s : State) (P : State → Prop) : Prop :=
  ∃ m t, runOf e f = .whole m ∧ m s = .ok ((), t) ∧ P t

/-- An entry that runs whole raises a trap, before it has had an effect. -/
def StopsWhole (e : QEntry) (f : Nat) (s : State) (p : TrapRec) : Prop := ∃ m, runOf e f = .whole m ∧ m s = .error (.trap p)

/-- An entry that runs in one piece, with nothing that bounds it, goes on from its progress to the progress `stop`, in a state of which `P` holds. -/
def RunsTo (e : QEntry) (f stop : Nat) (s : State) (P : State → Prop) : Prop :=
  ∃ g t, runOf e f = .part g ∧ g none s = (t, stop, none) ∧ P t

/-- `n` moves in a row, numbered from `i` on, each of them as `P` says. -/
def Chain (P : Nat → State → State → Prop) (n i : Nat) (s t : State) : Prop :=
  match n with
  | 0 => t = s
  | k + 1 => ∃ u, P i s u ∧ Chain P k (i + 1) u t

/-- What element i of an entry adds to its result: flags ORed into FFLAGS, and its offender bit, when it offends and OFFEN is set (R66, R82). -/
structure Noted (f : Nat) (e : QEntry) (i : Nat) (off : Bool) (flags : Nat) (s t : State) : Prop where
  rest   : OnlyFront f s t
  front  : { t.front f with masks := [], fflags := 0 } = { s.front f with masks := [], fflags := 0 }
  fflags : (t.front f).fflags = (s.front f).fflags ||| word flags
  masks  : ∀ m q, q < 256 → ((t.front f).mask m).getLsbD q = (((s.front f).mask m).getLsbD q || (off && e.offen && m == e.off && q == i))

/-- Element i of the entry `d` written with the value `v` and the tags given, with its flags and its offender bit. -/
def ElemResult (s : State) (f : Nat) (e : QEntry) (d : Word) (i v : Nat) (tags : List Byte) (off : Bool) (flags : Nat) (t : State) : Prop :=
  ∃ u, ElemPut s f e.cap.first d i v tags u ∧ Noted f e i off flags u t

/-- Every cell of element i of the entry is clean and has the tag `tag`. -/
def Core.tagged (x : Core) (first : Nat) (d : Word) (i tag : Nat) : Prop := x.clean d first i ∧ ∀ c ∈ elemCells d first i, (x.tag c).toNat = tag

/-- Every plane of a narrow group, with its shape, has clean cells of its own tag at element i (R92, R183). -/
def Core.planesTagged (x : Core) (first n : Nat) (ps : List (Word × PlaneShape)) (i : Nat) : Prop :=
  ∀ p ∈ ps, x.tagged first p.1 i (slotTag n p.2.2.2)

/-- The code that the planes of a group hold at element i: each plane's bits from its lowest code bit on (R92). -/
def Core.joined (x : Core) (first : Nat) (ps : List (Word × PlaneShape)) (i : Nat) : Nat :=
  ps.foldr (fun p n => x.elem p.1 first i * 2 ^ p.2.2.1 + n) 0

/-- The planes of a group written with the bits of a code, in order, each with its own tag (R92, R185). -/
def PlanesPut (f first n i code : Nat) (ps : List (Word × PlaneShape)) (s t : State) : Prop :=
  Chain (fun j u v => ∀ p, ps[j]? = some p → ElemPut u f first p.1 i (code / 2 ^ p.2.2.1 % 2 ^ p.2.1)
    ((elemCells p.1 first i).map fun _ => BitVec.ofNat 8 (slotTag n p.2.2.2)) v) ps.length 0 s t

/-- A location of the core's memory that holds `n` bytes without an error. -/
def State.cleanAt (s : State) (p n : Nat) : Prop := s.errAt p n = false ∧ s.badAt p n = false

/-- Nothing differs but the counters of the second-level TLBs (R244). -/
def SameButHot (s t : State) : Prop := { t with l2 := [] } = { s with l2 := [] }

/-- The request of the current front for `n` bytes at `a` of package `d` has been answered with the bytes `b`; `q` is its record. -/
def State.answered (s : State) (d a n cls : Nat) (data b : List Byte) (q : Remote) : Prop :=
  s.remotes.find? (fun r => r.agent == .front s.cur && r.pkg == d && r.addr == a && r.len == n && r.cls == cls && r.data == data) = some q ∧
    q.answer = some b ∧ b ≠ []

/-- The request of the current front has been answered with no data. -/
def State.answeredEmpty (s : State) (d a n cls : Nat) (data : List Byte) : Prop :=
  ∃ q, s.remotes.find? (fun r => r.agent == .front s.cur && r.pkg == d && r.addr == a && r.len == n && r.cls == cls && r.data == data) = some q ∧
    q.answer = some []

/-- The current front has not asked package `d` for this. -/
def State.unasked (s : State) (d a n cls : Nat) (data : List Byte) : Prop :=
  s.remotes.find? (fun r => r.agent == .front s.cur && r.pkg == d && r.addr == a && r.len == n && r.cls == cls && r.data == data) = none

/-- The instruction asks package `d` for `n` bytes at `a` with a free tag, and waits (R385). -/
def Asks (i : Instr) (s t : State) (d a n cls : Nat) (data : List Byte) : Prop :=
  t.unasked d a n cls data → t.liveLinks d ≠ [] → ∀ tag, t.freeTag = some tag →
    Ends i s fun u => u = (s.request ⟨.front s.cur, tag, d, a, n, cls, data, none⟩).blocked .retry

/-- No atomic access of the instruction at the front is known to a peer. -/
def State.noAtomic (s : State) : Prop := ∀ r ∈ s.remotes, r.agent = .front s.cur → r.cls ≠ 3

/-- The request for an atomic access that the instruction at the front has made of a peer. -/
def State.atomicAsked (s : State) (q : Remote) : Prop := s.remotes.find? (fun r => r.agent == .front s.cur && r.cls == 3) = some q

/-- What a write of TARGET leaves of the partner `p` of the current front (R228): it takes no column; a BOUND one starts, with the die's KVEC as its
handler, if it owns its whole share now; otherwise, and if it is not BOUND, nothing of it changes. -/
structure PartnerSettled (s : State) (p target : Nat) (t : State) : Prop where
  own    : (t.core (p / 2)).own p = (s.core (p / 2)).own p
  stays  : (s.slot p).state ≠ 1 ∨ (s.core (p / 2)).own p < (if p % 2 = 0 then target else 64 - target) →
    t.slot p = s.slot p ∧ t.front p = s.front p ∧ t.launches = s.launches
  starts : (s.slot p).state = 1 → (if p % 2 = 0 then target else 64 - target) ≤ (s.core (p / 2)).own p →
    t.slot p = { s.slot p with state := 2 } ∧ (t.launch (s.slot p).lid).started = (s.launch (s.slot p).lid).started + 1 ∧
      t.front p = { s.front p with trapvec := (s.die (p / 128)).kvec }

/-- The job makes its next step: it then stands as `k`, in the state `t`, of which `P` holds. -/
def JobMoves (s : State) (j : Job) (P : Job → State → Prop) : Prop := ∃ k t, jobStep s j = (t.setJob k, true) ∧ P k t

/-- The TAKEs of the current front's launch that sleep on a descriptor have woken, and no other front has changed (R346). -/
def TakesWoken (at_ : Word) (s t : State) : Prop :=
  ∀ g, g ≠ s.cur → t.front g = if (s.front g).lid = s.me.lid ∧ (s.front g).wait = .take at_ then { s.front g with wait := .woken } else s.front g

/-- A sequence of doublewords stored at virtual addresses, one after another: each address is translated, and none faults. -/
def StoresTo (c : Ctx) (l : List (Nat × Nat)) (s t : State) : Prop :=
  match l with
  | [] => t = s
  | (va, v) :: r => ∃ u, storeVa c va 8 v s = .ok ((), u) ∧ StoresTo c r u t

end Sys2Proof.Machine
end

