-- ==== Sys2Proof/Certificates/Slice0/Obligations.lean ====
section
/-! DEFINITION. The statements for the provers. Each docstring names the rules of spec/ that the statement formalises. -/

open Sys2Proof Sys2Proof.Machine

/-! ### Scalar instructions -/

/-- R133: the integer register operations, in every state and mode and for every register; a write to s0 is discarded (R43), no flag, no
other register and no byte of memory changes, and the next instruction follows (R132).
R133: CLZ, CTZ, POPC and the sign extensions. CLZ counts the leading zero bits, 64 of them in zero; CTZ the trailing ones.
R134: division never traps; the quotient truncates toward zero, the corners have the values given, and quotient and remainder satisfy
A = quotient × B + remainder, modulo 2^64, whatever the divisor but zero.
R102, R135, R136, R137: shifts by a count of the word, operations with an immediate, and constants. -/
def Obligations.IntegerOps : Prop :=
  (∀ (s : State) (d a b : SReg),
      let A := s.reg a
      let B := s.reg b
      let n := s.me.pc + 4
      Ends (.add d a b) s (Writes s d (A + B) n) ∧
      Ends (.sub d a b) s (Writes s d (A - B) n) ∧
      Ends (.mul d a b) s (Writes s d (A * B) n) ∧
      Ends (.mulh d a b) s (Writes s d (BitVec.ofInt 64 (A.toInt * B.toInt / 2 ^ 64)) n) ∧
      Ends (.mulhu d a b) s (Writes s d (BitVec.ofNat 64 (A.toNat * B.toNat / 2 ^ 64)) n) ∧
      Ends (.and d a b) s (Writes s d (A &&& B) n) ∧
      Ends (.or d a b) s (Writes s d (A ||| B) n) ∧
      Ends (.xor d a b) s (Writes s d (A ^^^ B) n) ∧
      Ends (.andn d a b) s (Writes s d (A &&& ~~~B) n) ∧
      Ends (.shl d a b) s (Writes s d (A <<< (B.toNat % 64)) n) ∧
      Ends (.shr d a b) s (Writes s d (BitVec.ofNat 64 (A.toNat / 2 ^ (B.toNat % 64))) n) ∧
      Ends (.sra d a b) s (Writes s d (BitVec.ofInt 64 (A.toInt / 2 ^ (B.toNat % 64))) n) ∧
      Ends (.slt d a b) s (Writes s d (if A.toInt < B.toInt then 1 else 0) n) ∧
      Ends (.sltu d a b) s (Writes s d (if A.toNat < B.toNat then 1 else 0) n) ∧
      Ends (.min d a b) s (Writes s d (if A.toInt < B.toInt then A else B) n) ∧
      Ends (.max d a b) s (Writes s d (if A.toInt < B.toInt then B else A) n) ∧
      Ends (.minu d a b) s (Writes s d (if A.toNat < B.toNat then A else B) n) ∧
      Ends (.maxu d a b) s (Writes s d (if A.toNat < B.toNat then B else A) n)) ∧
  (∀ (s : State) (d a : SReg),
      let A := s.reg a
      let n := s.me.pc + 4
      (∃ k, k ≤ 64 ∧ (∀ i, 64 - k ≤ i → A.getLsbD i = false) ∧ (k < 64 → A.getLsbD (63 - k) = true) ∧
        Ends (.clz d a) s (Writes s d (BitVec.ofNat 64 k) n)) ∧
      (∃ k, k ≤ 64 ∧ (∀ i, i < k → A.getLsbD i = false) ∧ (k < 64 → A.getLsbD k = true) ∧
        Ends (.ctz d a) s (Writes s d (BitVec.ofNat 64 k) n)) ∧
      Ends (.popc d a) s (Writes s d (BitVec.ofNat 64 ((List.range 64).filter fun i => A.getLsbD i).length) n) ∧
      Ends (.sextb d a) s (Writes s d ((A.setWidth 8).signExtend 64) n) ∧
      Ends (.sexth d a) s (Writes s d ((A.setWidth 16).signExtend 64) n) ∧
      Ends (.sextw d a) s (Writes s d ((A.setWidth 32).signExtend 64) n)) ∧
  (∀ (s : State) (d a b : SReg),
      let A := s.reg a
      let B := s.reg b
      let n := s.me.pc + 4
      let q : Word := if B = 0 then -1 else if A.toInt = -2 ^ 63 ∧ B.toInt = -1 then BitVec.ofInt 64 (-2 ^ 63) else
        BitVec.ofInt 64 (A.toInt.tdiv B.toInt)
      let r : Word := if B = 0 then A else if A.toInt = -2 ^ 63 ∧ B.toInt = -1 then 0 else
        BitVec.ofInt 64 (A.toInt - B.toInt * A.toInt.tdiv B.toInt)
      let qu : Word := if B = 0 then BitVec.ofNat 64 (2 ^ 64 - 1) else BitVec.ofNat 64 (A.toNat / B.toNat)
      let ru : Word := if B = 0 then A else BitVec.ofNat 64 (A.toNat % B.toNat)
      Ends (.div d a b) s (Writes s d q n) ∧ Ends (.rem d a b) s (Writes s d r n) ∧
      Ends (.divu d a b) s (Writes s d qu n) ∧ Ends (.remu d a b) s (Writes s d ru n) ∧
      (B ≠ 0 → A = q * B + r ∧ A = qu * B + ru)) ∧
  (∀ (s : State) (d a : SReg) (c : BitVec 6) (imm : BitVec 16) (hw : BitVec 2),
      let A := s.reg a
      let D := s.reg d
      let I : Word := imm.signExtend 64
      let Z : Word := imm.setWidth 64
      let k := 16 * hw.toNat
      let n := s.me.pc + 4
      Ends (.shli d a c) s (Writes s d (A <<< c.toNat) n) ∧
      Ends (.shri d a c) s (Writes s d (BitVec.ofNat 64 (A.toNat / 2 ^ c.toNat)) n) ∧
      Ends (.srai d a c) s (Writes s d (BitVec.ofInt 64 (A.toInt / 2 ^ c.toNat)) n) ∧
      Ends (.addi d a imm) s (Writes s d (A + I) n) ∧
      Ends (.andi d a imm) s (Writes s d (A &&& Z) n) ∧
      Ends (.ori d a imm) s (Writes s d (A ||| Z) n) ∧
      Ends (.xori d a imm) s (Writes s d (A ^^^ Z) n) ∧
      Ends (.slti d a imm) s (Writes s d (if A.toInt < I.toInt then 1 else 0) n) ∧
      Ends (.sltiu d a imm) s (Writes s d (if A.toNat < I.toNat then 1 else 0) n) ∧
      Ends (.lis d imm hw) s (Writes s d (I <<< k) n) ∧
      ∃ v : Word, (∀ i, v.getLsbD i = if k ≤ i ∧ i < k + 16 then imm.getLsbD (i - k) else D.getLsbD i) ∧
        Ends (.lih d imm hw) s (Writes s d v n))

/-- R146: branches, and JAL.
R147: JALR jumps to A + off and links, A being read first; a target that is not a multiple of 4 raises ALIGN with SUB 1 and TRAPADDR
the target, and changes neither s[d] nor, but for the handler's address, the PC. -/
def Obligations.Jumps : Prop :=
  (∀ (s : State) (d a b : SReg) (disp : BitVec 16) (far : BitVec 21),
      let A := s.reg a
      let B := s.reg b
      let here := s.me.pc
      let to_ (c : Bool) : Word := if c then here + 4 * disp.signExtend 64 else here + 4
      Ends (.beq a b disp) s (Passes s (to_ (decide (A = B)))) ∧
      Ends (.bne a b disp) s (Passes s (to_ (decide (A ≠ B)))) ∧
      Ends (.blt a b disp) s (Passes s (to_ (decide (A.toInt < B.toInt)))) ∧
      Ends (.bge a b disp) s (Passes s (to_ (decide (B.toInt ≤ A.toInt)))) ∧
      Ends (.bltu a b disp) s (Passes s (to_ (decide (A.toNat < B.toNat)))) ∧
      Ends (.bgeu a b disp) s (Passes s (to_ (decide (B.toNat ≤ A.toNat)))) ∧
      Ends (.jal d far) s (Writes s d (here + 4) (here + 4 * far.signExtend 64))) ∧
  (∀ (s : State) (d a : SReg) (off : BitVec 9),
      let t := s.reg a + 4 * off.signExtend 64
      (t.toNat % 4 = 0 → Ends (.jalr d a off) s (Writes s d (s.me.pc + 4) t)) ∧
      (t.toNat % 4 ≠ 0 → s.trapReady 7 → Ends (.jalr d a off) s (Traps s 7 1 t.toNat)))

/-! ### Loads, stores and atomics -/

/-- R143, R144, R385: the scalar loads. A load from memory or from a device register takes what stands there; one from a peer package asks it, waits, and takes
the answer, or raises ACCESS with SUB 8 where no link reaches it (R386) and, where the answer has no data, INTEGRITY with SUB 0 for memory that peers serve or else ACCESS with SUB 6 (log 9, the
model's choice). A unit of memory in error raises MEMERR with SUB 0, and else a bad block INTEGRITY with SUB 0, each with its error record (R374, R376, R378). `ea` is translated for a read to byte `p`, which leaves the state `t` (the TLBs may have
taken the page in, and errors in its tables be recorded; a trap is taken with those records too, log 71); an address that is not a multiple of the size raises ALIGN with SUB 0
and TRAPADDR the address, whatever it maps to. -/
def Obligations.ScalarLoads : Prop :=
  ∀ (s t : State) (d a : SReg) (off : BitVec 13) (p pkg : Nat) (bs : List Byte) (q : Remote),
    let ea := (s.reg a + off.signExtend 64).toNat
    let Ld (i : SReg → SReg → BitVec 13 → Instr) (n : Nat) (ext : Nat → Word) : Prop :=
      (ea % n = 0 → translate s.ctx ea .read s = .ok (.mem p, t) → t.errAt p n = false → t.badAt p n = false →
        Ends (i d a off) s (Writes t d (ext (t.read p n)) (s.me.pc + 4))) ∧
      (ea % n = 0 → translate s.ctx ea .read s = .ok (.mem p, t) → s.trapReady 0x0A →
        (t.errAt p n = true → Ends (i d a off) s (Fails s 0x0A 0 ea p 1)) ∧
        (t.errAt p n = false → t.badAt p n = true → Ends (i d a off) s (Fails s 0x0B 0 ea p 5))) ∧
      (ea % n = 0 → translate s.ctx ea .read s = .ok (.dev p, t) →
        Ends (i d a off) s (Writes t d (ext ((devWord t p).toNat / 256 ^ (p % 8) % 256 ^ n)) (s.me.pc + 4))) ∧
      (ea % n = 0 → translate s.ctx ea .read s = .ok (.peer pkg p, t) →
        (t.answered pkg p n 1 [] bs q →
          Ends (i d a off) s (Writes { t with remotes := t.remotes.erase q } d (ext (leNat bs)) (s.me.pc + 4))) ∧
        Asks (i d a off) s t pkg p n 1 [] ∧
        (t.answeredEmpty pkg p n 1 [] → s.trapReady 9 →
          Ends (i d a off) s (if inHbm p || inVault p then Fails s 0x0B 0 ea p 5 else Traps (s.missed s.cur ea) 9 6 ea)) ∧
        (t.unasked pkg p n 1 [] → t.liveLinks pkg = [] → s.trapReady 9 → Ends (i d a off) s (Traps (s.missed s.cur ea) 9 8 ea))) ∧
      (ea % n ≠ 0 → s.trapReady 7 → Ends (i d a off) s (Traps s 7 0 ea))
    Ld .ldb 1 (fun v => (BitVec.ofNat 8 v).signExtend 64) ∧ Ld .ldbu 1 (BitVec.ofNat 64) ∧
    Ld .ldh 2 (fun v => (BitVec.ofNat 16 v).signExtend 64) ∧ Ld .ldhu 2 (BitVec.ofNat 64) ∧
    Ld .ldw 4 (fun v => (BitVec.ofNat 32 v).signExtend 64) ∧ Ld .ldwu 4 (BitVec.ofNat 64) ∧ Ld .ldd 8 (BitVec.ofNat 64)

/-- R143, R144, R385: the scalar stores. To a device register the bytes are written as the register takes them; to a peer package they are sent, posted, or ACCESS
with SUB 8 is raised where no link reaches it (R386). A unit in error that the store covers in part raises MEMERR with SUB 0, and else a bad block of which it covers
a part INTEGRITY with SUB 1, each with its error record (R374, R376, R378), after those of its walk (log 71). To memory: the address `ea` is translated for a write to byte `p`; the low bytes of s[b] stand at `p`, lowest
first (R5), and every other byte of memory reads as before. -/
def Obligations.ScalarStores : Prop :=
  ∀ (s t : State) (a b : SReg) (off : BitVec 13) (p pkg : Nat),
    let ea := (s.reg a + off.signExtend 64).toNat
    let St (i : SReg → SReg → BitVec 13 → Instr) (n : Nat) : Prop :=
      (ea % n = 0 → translate s.ctx ea .write s = .ok (.mem p, t) → t.partErr p n = false → t.partBad p n = false →
        Ends (i a b off) s (Stores t p n (s.reg b).toNat)) ∧
      (ea % n = 0 → translate s.ctx ea .write s = .ok (.mem p, t) → s.trapReady 0x0A →
        (t.partErr p n = true → Ends (i a b off) s (Fails s 0x0A 0 ea p 1)) ∧
        (t.partErr p n = false → t.partBad p n = true → Ends (i a b off) s (Fails s 0x0B 1 ea p 5))) ∧
      (ea % n = 0 → translate s.ctx ea .write s = .ok (.dev p, t) →
        let u := devWrite t .kernel p n ((s.reg b).toNat % 256 ^ n)
        Ends (i a b off) s (Passes u (u.me.pc + 4))) ∧
      (ea % n = 0 → translate s.ctx ea .write s = .ok (.peer pkg p, t) →
        (∀ u, t.send pkg 0 0 n p (leBytes n ((s.reg b).toNat % 256 ^ n)) (.front s.cur) = some u → Ends (i a b off) s (Passes u (u.me.pc + 4))) ∧
        (t.liveLinks pkg = [] → s.trapReady 9 → Ends (i a b off) s (Traps (s.missed s.cur ea) 9 8 ea))) ∧
      (ea % n ≠ 0 → s.trapReady 7 → Ends (i a b off) s (Traps s 7 0 ea))
    St .stb 1 ∧ St .sth 2 ∧ St .stw 4 ∧ St .std 8

/-- R259, R260: the atomics, on a word of memory of 4 or 8 bytes: the word written is computed from the old one, s[b] and, for AMOCAS, the old
s[d]; the old word goes to s[d], sign-extended. A device register is read and written the same way; a peer package performs the atomic that it is asked for, told
the operation and the operands (log 9, the model's choice), and answers the old word: asked once, the atomic waits for that answer, and completes with it whatever its
address translates to by then (R356); no live link is ACCESS with SUB 8 (R386), and an answer without data INTEGRITY with SUB 0 for memory that peers serve or
else ACCESS with SUB 6 (log 9). Translation needs RD and WR, and a misaligned address raises ALIGN
with SUB 0; a unit in error MEMERR with SUB 0, and else a bad block INTEGRITY with SUB 0, each with its error record (R374, R376, R378), after those of its walk (log 71). -/
def Obligations.Atomics : Prop :=
  ∀ (s t : State) (d a b : SReg) (w64 uns : Bool) (p pkg : Nat) (bs : List Byte) (q : Remote),
    let n := if w64 then 8 else 4
    let ea := (s.reg a).toNat
    let bv := (s.reg b).toNat % 256 ^ n
    let dv := (s.reg d).toNat % 256 ^ n
    let less (old : Nat) : Bool :=
      if uns then decide (old < bv) else decide ((BitVec.ofNat (8 * n) old).toInt < (BitVec.ofNat (8 * n) bv).toInt)
    let mark := if uns then 8 else 0
    let back (old : Nat) : Word := (BitVec.ofNat (8 * n) old).signExtend 64
    let goes (l : Loc) : Prop := ea % n = 0 ∧ s.noAtomic ∧ translate s.ctx ea .both s = .ok (l, t)
    let Am (i : Instr) (code : Nat) (new : Nat → Option Nat) : Prop :=
      (goes (.mem p) → t.errAt p n = false → t.badAt p n = false → Ends i s (Atomic t d p n (new (t.read p n)))) ∧
      (goes (.mem p) → s.trapReady 0x0A →
        (t.errAt p n = true → Ends i s (Fails s 0x0A 0 ea p 1)) ∧ (t.errAt p n = false → t.badAt p n = true → Ends i s (Fails s 0x0B 0 ea p 5))) ∧
      (goes (.dev p) →
        let old := (devWord t p).toNat / 256 ^ (p % 8) % 256 ^ n
        let u := match new old with
          | some v => devWrite t .kernel p n (v % 256 ^ n)
          | none => t
        Ends i s (Writes u d (back old) (u.me.pc + 4))) ∧
      (goes (.peer pkg p) →
        (t.liveLinks pkg ≠ [] → ∀ tag, t.freeTag = some tag → Ends i s fun u =>
          u = (s.request ⟨.front s.cur, tag, pkg, p, n, 3, Config.atomicPayload code n (bv + dv * 2 ^ 64), none⟩).blocked (.atomic i)) ∧
        (t.liveLinks pkg ≠ [] → t.freeTag = none → Ends i s (Waits s (.atomic i))) ∧
        (t.liveLinks pkg = [] → s.trapReady 9 → Ends i s (Traps (s.missed s.cur ea) 9 8 ea))) ∧
      (ea % n = 0 → s.atomicAsked q →
        (q.answer = some bs → bs ≠ [] → Ends i s (Writes { s with remotes := s.remotes.erase q } d (back (leNat bs)) (s.me.pc + 4))) ∧
        (q.answer = none → Ends i s (Waits s (.atomic i))) ∧
        (q.answer = some [] → s.inAtomic (.front s.cur) = false → translate s.ctx ea .both s = .ok (.peer pkg p, t) → s.trapReady 9 →
          Ends i s (if inHbm p || inVault p then Fails s 0x0B 0 ea p 5 else Traps (s.missed s.cur ea) 9 6 ea))) ∧
      (ea % n ≠ 0 → s.trapReady 7 → Ends i s (Traps s 7 0 ea))
    Am (.amoadd d a b w64) 0 (fun old => some (old + bv)) ∧
    Am (.amomin d a b w64 uns) (1 + mark) (fun old => some (if less old then old else bv)) ∧
    Am (.amomax d a b w64 uns) (2 + mark) (fun old => some (if less old then bv else old)) ∧
    Am (.amoand d a b w64) 3 (fun old => some (Nat.land old bv)) ∧ Am (.amoor d a b w64) 4 (fun old => some (Nat.lor old bv)) ∧
    Am (.amoxor d a b w64) 5 (fun old => some (Nat.xor old bv)) ∧ Am (.amoswap d a b w64) 6 (fun _ => some bv) ∧
    Am (.amocas d a b w64) 7 (fun old => if old = dv then some bv else none)

/-- R234, R236, R238: translation. An address in the front's scratchpad window names the byte of its own core's scratchpad, in every mode and
for every kind of access, and changes nothing. Outside it, an address of 2^52 or more raises ACCESS with SUB 1; a page that the core's micro-TLB
holds is checked against its leaf, RD, then WR, EX and KO, and changes nothing. -/
def Obligations.AddressTranslation : Prop :=
  ∀ (s : State) (c : Ctx) (va : Nat) (need : Need),
    (c.spbase ≤ va → va < c.spbase + 327680 →
      translate c va need s = .ok (.mem (0x6100000000 + c.fid / 2 * 0x80000 + (va - c.spbase)), s)) ∧
    (¬ (c.spbase ≤ va ∧ va < c.spbase + 327680) → 2 ^ 52 ≤ va → translate c va need s = .error (.trap ⟨9, 1, 0, va, 0⟩)) ∧
    ∀ e : Tlb, ¬ (c.spbase ≤ va ∧ va < c.spbase + 327680) → va < 2 ^ 52 →
      (s.core (c.fid / 2)).utlb.find? (fun x => x.hit c.asid va) = some e →
      let rd := bit e.leaf 2
      let wr := bit e.leaf 3
      let ex := bit e.leaf 4
      let ko := bit e.leaf 5
      let pa := bits e.leaf 49 16 * 2 ^ 16 / pageBytes e.size * pageBytes e.size + va % pageBytes e.size
      ((need = .read ∨ need = .both) → rd = false → translate c va need s = .error (.trap ⟨9, 2, 0, va, 0⟩)) ∧
      (need = .write → wr = false → translate c va need s = .error (.trap ⟨9, 3, 0, va, 0⟩)) ∧
      (need = .both → rd = true → wr = false → translate c va need s = .error (.trap ⟨9, 3, 0, va, 0⟩)) ∧
      (need = .fetch → ex = false → translate c va need s = .error (.trap ⟨9, 4, 0, va, 0⟩)) ∧
      (rd = true → wr = true → ex = true → ko = true → c.user = true → translate c va need s = .error (.trap ⟨9, 5, 0, va, 0⟩)) ∧
      (rd = true → wr = true → ex = true → (ko = false ∨ c.user = false) → bits e.leaf 9 8 = 0 → inVault pa = true →
        translate c va need s = .ok (.mem pa, s))

/-- R144, R132, R243: a scalar load, store or atomic whose translation faults traps with that cause and SUB, TRAPADDR at the address, and has no
other effect, but for the error records of its walk (R376, log 71). An atomic that a peer has been asked for is not translated again (R356). -/
def Obligations.ScalarAccessFaults : Prop :=
  ∀ (s : State) (d a b : SReg) (off : BitVec 13) (w64 uns : Bool) (cause sub addr phys : Nat),
    let ea := (s.reg a + off.signExtend 64).toNat
    let va := (s.reg a).toNat
    let n := if w64 then 8 else 4
    cause = 8 ∨ cause = 9 → sub < 256 → s.trapReady cause →
    let fault (need : Need) (x : Nat) : Prop := translate s.ctx x need s = .error (.trap ⟨cause, sub, 0, addr, phys⟩)
    let T (i : Instr) : Prop := Ends i s (Traps (if cause = 9 ∧ sub = 1 then s else s.missed s.cur addr) cause sub addr)
    (fault .read ea → T (.ldb d a off) ∧ T (.ldbu d a off) ∧ (ea % 2 = 0 → T (.ldh d a off) ∧ T (.ldhu d a off)) ∧
      (ea % 4 = 0 → T (.ldw d a off) ∧ T (.ldwu d a off)) ∧ (ea % 8 = 0 → T (.ldd d a off))) ∧
    (fault .write ea → T (.stb a b off) ∧ (ea % 2 = 0 → T (.sth a b off)) ∧ (ea % 4 = 0 → T (.stw a b off)) ∧
      (ea % 8 = 0 → T (.std a b off))) ∧
    (fault .both va → va % n = 0 → s.noAtomic → T (.amoadd d a b w64) ∧ T (.amomin d a b w64 uns) ∧ T (.amomax d a b w64 uns) ∧
      T (.amoand d a b w64) ∧ T (.amoor d a b w64) ∧ T (.amoxor d a b w64) ∧ T (.amoswap d a b w64) ∧ T (.amocas d a b w64))

/-! ### Scalar floating point -/

/-- R138 to R142: the scalar floating-point instructions write the result of the operation on the operands' low bits, rounded under FCR as it
stands and as element 0, the bits above the format zero, OR its flags into FFLAGS, and never trap. The operations themselves are the model's
(Machine/Flags.lean, Machine/Fp.lean); FCMP sets bit 0 where A = B,
bit 1 where A < B, bit 2 where A > B and bit 3 where either is a NaN, a signalling one with NV. -/
def Obligations.ScalarFloat : Prop :=
  ∀ (s : State) (d a b : SReg) (fmt : FFmt),
    let env := envOf s.me.fcr s.me.gstep
    let A := (s.reg a).toNat
    let B := (s.reg b).toNat
    let D := (s.reg d).toNat
    let F (i : Instr) (r : Nat × Nat) : Prop := Ends i s (FloatWrites s d (word r.1) r.2)
    F (.fadd d a b fmt) (fpAdd fmt env 0 A B D) ∧ F (.fsub d a b fmt) (fpSub fmt env 0 A B D) ∧
    F (.fmul d a b fmt) (fpMul fmt env 0 A B D) ∧ F (.fdiv d a b fmt) (fpDiv fmt env 0 A B D) ∧
    F (.fma d a b fmt) (fpFma fmt env 0 A B D) ∧ F (.fsqrt d a fmt) (fpSqrt fmt env 0 A 0 D) ∧
    F (.fmin d a b fmt) (fpMin fmt env 0 A B D) ∧ F (.fmax d a b fmt) (fpMax fmt env 0 A B D) ∧
    F (.fcmp d a b fmt) ((match Fp.cmp (arg fmt env A) (arg fmt env B) with
      | some .eq => 1
      | some .lt => 2
      | some .gt => 4
      | none => 8), Fp.sigFlag [arg fmt env A, arg fmt env B]) ∧
    (∀ src, F (.fcvtToFloat d a fmt src) (Fp.round fmt env 0 0 (idVal (cvtId src) env.fzi (A % 2 ^ idWidth (cvtId src))))) ∧
    (∀ dst : CvtTy, dst.isInt = true →
      let r := satFixed env (idWidth (cvtId dst)) (idSigned (cvtId dst)) 0 0 (arg fmt env A)
      Ends (.fcvtToInt d a dst fmt) s (FloatWrites s d
        (if dst = .int32 then (BitVec.ofNat 32 r.code).signExtend 64 else word r.code) r.flags))

/-! ### Control registers -/

/-- R45, R46, R148: MFC reads each control register in each mode that may read it, at once but for FFLAGS, which waits until no older instruction
is queued (R82); PRIV where the mode has no access. The views PLWIN, LPART and PLDIRTY are computed from the core's partition and the row map
(R50, R199, R362). -/
def Obligations.ReadControlRegisters : Prop :=
  ∀ (s : State) (d : SReg),
    let x := s.me
    let k := s.core (s.cur / 2)
    let R (n : Nat) (v : Word) : Prop := Ends (.mfc d (BitVec.ofNat 12 n)) s (Writes s d v (x.pc + 4))
    R 0x10 x.vl ∧ R 0x11 x.vmc ∧ R 0x12 x.vst ∧ R 0x13 x.vstart ∧ R 0x14 (x.vsn.setWidth 64) ∧ R 0x15 (x.vcp.setWidth 64) ∧
    R 0x20 x.fcr ∧ (x.queue = [] → R 0x21 x.fflags) ∧
    (x.queue ≠ [] → Ends (.mfc d 0x21) s (Waits s .retry)) ∧
    R 0x30 (word ((s.window s.cur).1 + (s.window s.cur).2 * 2 ^ 8)) ∧
    R 0x31 (word (k.target + k.own0 * 2 ^ 8 + k.own1 * 2 ^ 16 + s.cur % 2 * 2 ^ 24 + b2n k.lock * 2 ^ 25 +
      b2n (s.resident (2 * (s.cur / 2))) * 2 ^ 26 + b2n (s.resident (2 * (s.cur / 2) + 1)) * 2 ^ 27)) ∧
    (∃ w : Word, (∀ j, j < 64 → w.getLsbD j = x.dirty.getLsbD (64 * x.dirtyIx + j)) ∧ R 0x32 w) ∧
    R 0x40 x.gstep ∧ (∀ i, i < 16 → R (0x50 + i) (x.decayReg i) ∧ R (0x60 + i) (x.slotReg i)) ∧ R 0x70 x.spbase ∧
    R 0x106 x.utrapvec ∧ R 0x107 x.deleg ∧
    (x.kernel = true ∨ x.ubusy = true →
      R 0x100 x.trapcause ∧ R 0x101 x.trappc ∧ R 0x102 x.trapvsn ∧ R 0x103 x.trapelem ∧ R 0x104 x.trapaddr) ∧
    (x.kernel = true → R 0x105 x.trapvec) ∧
    (x.kernel = false → s.trapReady 2 → Ends (.mfc d 0x105) s (Traps s 2 0 0) ∧
      (x.ubusy = false → ∀ i, i < 5 → Ends (.mfc d (BitVec.ofNat 12 (0x100 + i))) s (Traps s 2 0 0)))

/-- R45 to R49, R53, R54, R80, R81, R87, R148, R149, R233, R307, R308: MTC, in either mode, writes the writable fields of the registers that user mode
may write and ignores a value that its register rejects as a whole; MTC to a number that is read-only in the mode is ignored; PRIV where the mode
has no access. FFLAGS waits until no older instruction is queued.
R45, R53, R54, R149, R199, R200, R233, R362: the registers that kernel mode alone may write. VL ignores LEN above 256 and EWC 7; LPART a TARGET that is
not valid, and otherwise takes TARGET and LOCK, by which a BOUND partner starts that owns its share now (R228); PLDIRTY selects, clears or sets a word of the row map. -/
def Obligations.WriteControlRegisters : Prop :=
  (∀ (s : State) (a : SReg),
      let x := s.me
      let A := s.reg a
      let W (n : Nat) (y : Front) : Prop := Ends (.mtc (BitVec.ofNat 12 n) a) s (CrWritten s y)
      let Ignored (n : Nat) : Prop := Ends (.mtc (BitVec.ofNat 12 n) a) s (Passes s (x.pc + 4))
      let Priv (n : Nat) : Prop := Ends (.mtc (BitVec.ofNat 12 n) a) s (Traps s 2 0 0)
      W 0x11 { x with vmc := if A.field 4 3 = 3 then x.vmc else A &&& 0x1FF } ∧ W 0x12 { x with vst := A } ∧
      W 0x13 { x with vstart := A &&& 0x1FF } ∧
      W 0x20 { x with fcr := if 5 ≤ A.field 2 0 then x.fcr else A &&& 0xFFFFFFFF0000001F } ∧
      (x.queue = [] → W 0x21 { x with fflags := A &&& 0x3F }) ∧
      (x.queue ≠ [] → Ends (.mtc 0x21 a) s (Waits s .retry)) ∧
      W 0x40 { x with gstep := A } ∧
      (∀ i, i < 16 → W (0x50 + i) (if 0x3F800000 < A.field 31 0 then x else
        { x with decay := spSet 0 x.decay i (A &&& 0xFFFFFFFF) })) ∧
      (∀ i, i < 16 → W (0x60 + i) (if slotValid (A &&& 0xFFFFFFFFFFF) then
        { x with fmt := spSet 0 x.fmt i (A &&& 0xFFFFFFFFFFF) } else x)) ∧
      W 0x106 { x with utrapvec := A &&& 0xFFFFFFFFFFFFFFFC } ∧
      Ignored 0x14 ∧ Ignored 0x15 ∧ Ignored 0x30 ∧
      (x.kernel = false → Ignored 0x10 ∧ Ignored 0x31 ∧ Ignored 0x32 ∧ Ignored 0x70 ∧ Ignored 0x107 ∧
        (x.ubusy = true → Ignored 0x100 ∧ Ignored 0x102 ∧ Ignored 0x103 ∧ Ignored 0x104 ∧
          W 0x101 { x with trappc := A &&& 0xFFFFFFFFFFFFFFFC }) ∧
        (s.trapReady 2 → Priv 0x105 ∧ (x.ubusy = false → ∀ i, i < 5 → Priv (0x100 + i))))) ∧
  (∀ (s : State) (a : SReg), s.me.kernel = true →
      let x := s.me
      let A := s.reg a
      let k := s.cur / 2
      let W (n : Nat) (y : Front) : Prop := Ends (.mtc (BitVec.ofNat 12 n) a) s (CrWritten s y)
      W 0x10 { x with vl := if 256 < A.field 8 0 ∨ A.field 11 9 = 7 then x.vl else A &&& 0xFFF } ∧
      (let ok := targetOk (s.core k).live (A.field 6 0) (s.resident (2 * k)) (s.resident (2 * k + 1))
       let p := if s.cur % 2 = 0 then s.cur + 1 else s.cur - 1
       (ok = false → Ends (.mtc 0x31 a) s (Passes s (x.pc + 4))) ∧
       (ok = true → (s.slot s.cur).state ≠ 1 → Ends (.mtc 0x31 a) s fun t => (t.core k).target = A.field 6 0 ∧ (t.core k).lock = A.flag 25 ∧
         (t.core k).own s.cur = (s.core k).own s.cur ∧ (t.core k).plane = (s.core k).plane ∧ (t.core k).tags = (s.core k).tags ∧
         PartnerSettled s p (A.field 6 0) t ∧ (∀ r, t.reg r = s.reg r) ∧ Completed s (x.pc + 4) id t ∧
         (∀ g, g ≠ s.cur → g ≠ p → t.front g = s.front g ∧ t.slot g = s.slot g) ∧ (∀ j, j ≠ k → t.core j = s.core j) ∧
         { t with fronts := [], cores := [], slots := [], launches := [] } = { s with fronts := [], cores := [], slots := [], launches := [] })) ∧
      (∃ y, W 0x32 y ∧ { y with dirty := x.dirty, dirtyIx := x.dirtyIx } = x ∧
        (A.field 7 3 ≠ 0 → y.dirty = x.dirty ∧ y.dirtyIx = x.dirtyIx) ∧
        (A.field 7 3 = 0 → y.dirtyIx = A.field 2 0 ∧ ∀ r, r < 512 → y.dirty.getLsbD r =
          if r / 64 = A.field 2 0 then (if A.flag 8 then false else if A.flag 9 then true else x.dirty.getLsbD r) else x.dirty.getLsbD r)) ∧
      W 0x70 { x with spbase := A &&& 0xFFFFFFFF00000 } ∧ W 0x100 { x with trapcause := A &&& 0xFF03FF } ∧
      W 0x101 { x with trappc := A &&& 0xFFFFFFFFFFFFFFFC } ∧ W 0x102 { x with trapvsn := A &&& 0xFFFFFFFF } ∧
      W 0x103 { x with trapelem := A &&& 0x1FF } ∧ W 0x104 { x with trapaddr := A } ∧
      W 0x105 { x with trapvec := A &&& 0xFFFFFFFFFFFFFFFC } ∧ W 0x107 { x with deleg := A &&& 0x80002078 })

/-! ### Traps -/

/-- R73: TakeTrap for any front, cause, element and address, when it is no double fault: the trap registers, the element-start, the mode and the
handler's address; a delegated cause goes to the user handler and sets UBUSY, every other to the kernel. The queued instructions are suspended as they stand, behind
those of the handler's suspend set (R359), the other set is as it was, and nothing else changes, no counter either.
R73, R359, R369: any other cause in kernel mode is a double fault: no trap register, mode or PC is written, the queue stands as it is, the front
does not run any more, and the die's FAULTST names the front and the cause. -/
def Obligations.TakeTrap : Prop :=
  (∀ (s : State) (f : Nat) (r : TrapRec) (pc : Word) (vsn : BitVec 32), r.cause < 256 → r.sub < 256 → r.elem < 512 →
      ((s.front f).kernel = false ∨ r.cause = 13 ∨ r.cause = 14) →
      TrapTaken s f r.cause r.sub r.elem r.addr pc vsn (takeTrap s f r pc vsn) ∧
      ((takeTrap s f r pc vsn).front f).counters = (s.front f).counters) ∧
  (∀ (s : State) (f : Nat) (r : TrapRec) (pc : Word) (vsn : BitVec 32), (s.front f).kernel = true → r.cause ≠ 13 → r.cause ≠ 14 →
      let t := takeTrap s f r pc vsn
      { t.front f with halt := .no, wait := .no, stepDue := false } = { s.front f with halt := .no, wait := .no, stepDue := false } ∧
      t.runs f = false ∧ (t.die (f / 128)).faultst = word (f / 2 % 64 + f % 2 * 2 ^ 6 + r.cause * 2 ^ 8 + 2 ^ 31) ∧
      (∀ g, g ≠ f → t.front g = s.front g) ∧ (∀ d, d ≠ f / 128 → t.die d = s.die d) ∧ SameBytes s t)

/-- R103, R150, R411: TRAP n, a word that does not decode and an unconditional BRK enter a handler with the instruction's own address in TRAPPC; BRK also
counts in slot 13.
R411: a conditional breakpoint looks at the active elements from VSTART to VL.LEN − 1 as they stand at the front. With no active element neither
form fires; where it fires, TRAPADDR holds the lowest hit and the number of hits; otherwise the instruction changes nothing. -/
def Obligations.TrapsAndBreakpoints : Prop :=
  (∀ s : State,
      (∀ n : BitVec 12, s.trapReady 13 → Ends (.trap n) s fun t => Traps s 13 0xFF n.toNat t ∧ t.me.counter 13 = s.me.counter 13) ∧
      (∀ w : BitVec 32, s.trapReady 1 → Ends (.illegalWord w) s (Traps s 1 0 0)) ∧
      (∀ code : BitVec 7, s.trapReady 13 → Ends (.brk code) s fun t =>
        Traps s 13 code.toNat 0 t ∧ t.me.counter 13 = s.me.counter 13 + 1)) ∧
  (∀ (s : State) (code : BitVec 7) (m : MReg), s.trapReady 13 →
      let x := s.me
      let active (i : Nat) : Bool := decide (x.vstart.field 8 0 ≤ i) && (x.vmc.field 4 3 == 0 || (x.mask (x.vmc.field 2 0)).getLsbD i)
      let act := (List.range (x.vl.field 8 0)).filter active
      let hit := act.filter fun i => (x.mask m.toNat).getLsbD i
      let Fires (i : Instr) : Prop := Ends i s fun t => Traps s 13 code.toNat (hit.headD 0 + hit.length * 2 ^ 16) t ∧
        t.me.counter 13 = x.counter 13 + 1
      let Goes (i : Instr) : Prop := Ends i s (Passes s (x.pc + 4))
      (hit ≠ [] → Fires (.brkAny code m)) ∧ (hit = [] → Goes (.brkAny code m)) ∧
      (act ≠ [] → hit = act → Fires (.brkAll code m)) ∧ (act = [] ∨ hit ≠ act → Goes (.brkAll code m)))

/-- R74, R151, R359, R360: KRET returns to TRAPPC and pushes its level's suspended instructions again, with what they captured and their further state (R358); from
the kernel it restores the mode from PMODE, in a user handler it clears UBUSY; in user mode with UBUSY 0 it raises PRIV; while the queue has no room for them it waits
(R69), in either mode. Where a STORE strip's writer goes on is log 35 (DEDUCED). -/
def Obligations.KretReturns : Prop :=
  ∀ s : State,
    (s.me.kernel = true → s.me.queue.length + (s.me.kernelSet.filter fun e => !e.done).length ≤ 64 → Ends .kret s fun t =>
      Returned s s.me.kernelSet (s.me.trapcause.flag 8) t ∧ t.me.kernelSet = [] ∧ t.me.userSet = s.me.userSet ∧ t.me.deleg = s.me.deleg) ∧
    (s.me.kernel = false → s.me.ubusy = true → s.me.queue.length + (s.me.userSet.filter fun e => !e.done).length ≤ 64 → Ends .kret s fun t =>
      Returned s s.me.userSet false t ∧ t.me.userSet = [] ∧ t.me.kernelSet = s.me.kernelSet ∧ t.me.deleg = s.me.deleg &&& ~~~0x80000000) ∧
    (s.me.kernel = false → s.me.ubusy = false → s.trapReady 2 → Ends .kret s (Traps s 2 0 0)) ∧
    (s.me.kernel = true → 64 < s.me.queue.length + (s.me.kernelSet.filter fun e => !e.done).length → Ends .kret s (Waits s .retry)) ∧
    (s.me.kernel = false → s.me.ubusy = true → 64 < s.me.queue.length + (s.me.userSet.filter fun e => !e.done).length → Ends .kret s (Waits s .retry))

/-! ### The end of a front, fences and capture windows -/

/-- R152, R206, R347, R361, R363: EXIT of a front whose queue is empty: its slot record says so, its lanes are released, its registers, masks, carve table and
suspend sets are discarded, and plane, tags, carafe, memory and the accepted jobs stay as they are; that what is discarded then stands as at reset, all but
the dirty map, is the model's choice (log 6). With instructions queued or a fill in flight, it waits. A front that holds a task performs TDONE's retirement first, once
everything before it is settled and no other front is in the middle of an instruction on the descriptor, and takes its trap if it raises one; in its own middle, when a
peer serves the descriptor, it waits for nothing but that (log 9, the model's choice). -/
def Obligations.ExitEndsFront : Prop :=
  ∀ (s u : State) (n : Nat) (task : Word × Word × Word),
    let Ended (s t : State) : Prop :=
      let k := s.cur / 2
      (t.slot s.cur).state = 3 ∧ t.resident s.cur = false ∧ t.front s.cur = { Front.reset with dirty := s.me.dirty } ∧
      (t.core k).own s.cur = 0 ∧ (t.core k).target = (if s.cur % 2 = 0 then 0 else 64) ∧
      (t.core k).plane = (s.core k).plane ∧ (t.core k).tags = (s.core k).tags ∧ (t.core k).carafe = (s.core k).carafe ∧
      t.jobs = s.jobs ∧ SameBytes s t
    let empty : Bool := s.amid || (s.me.queue.isEmpty && !s.filling s.cur none)
    let go : Bool := s.amid || s.settled s.cur
    (empty = false → Ends .exit s (Waits s .retry)) ∧
    (empty = true → s.me.task = none → Ends .exit s fun t => Ended s t ∧
      ∀ g, g ≠ s.cur → { t.front g with dirty := 0 } = { s.front g with dirty := 0 }) ∧
    (empty = true → s.me.task = some task →
      (go = false ∨ s.serving (descLoc s task.1.toNat) = true → Ends .exit s (Waits s .retry)) ∧
      (go = true → s.serving (descLoc s task.1.toNat) = false → retire s.ctx task s = .ok (n, u) → Ends .exit s fun t => Ended u t ∧
        ∀ g, g ≠ u.cur → { t.front g with dirty := 0, wait := .no } = { u.front g with dirty := 0, wait := .no }) ∧
      ∀ k va, go = true → s.serving (descLoc s task.1.toNat) = false → retire s.ctx task s = .error (.trap ⟨0x10, k, 0, va, 0⟩) → k < 256 →
        s.trapReady 0x10 → Ends .exit s (Traps s 0x10 k va))

/-- R284, R285: FSV goes on at once, every scalar event of the package being performed when its instruction is (log 4, the model's choice); at SYS it
waits while a write to a peer package that a scalar instruction of the front has sent is not acknowledged, and for no other. FVS goes on when no older memory-pipe instruction,
strip store or fill of a popped row is left, and at SYS no such write of a queued instruction; it waits otherwise, and not for engine jobs. Neither changes anything. -/
def Obligations.FencesAtTheFront : Prop :=
  ∀ (s : State) (sc : Scope),
    let scalar : Bool := sc == .sys && s.postedBy fun a => a == .front s.cur
    let queued : Bool := sc == .sys && s.postedBy fun a => match a with
      | .entry g _ => g == s.cur
      | .filler g _ => g == s.cur
      | _ => false
    let quiet : Bool := s.me.queue.all (fun e => !e.memPending && (s.me.unfilled e).isEmpty) && !s.filling s.cur none
    (scalar = false → Ends (.fsv sc) s (Passes s (s.me.pc + 4))) ∧ (scalar = true → Ends (.fsv sc) s (Waits s .retry)) ∧
    (quiet = true → queued = false → Ends (.fvs sc) s (Passes s (s.me.pc + 4))) ∧
    (quiet = false ∨ queued = true → Ends (.fvs sc) s (Waits s .retry))

/-- The packet at `p`: its first doubleword, and the counters 0 to 14 of `x` after it. -/
def PacketAt (s : State) (p head : Nat) (x : Front) : Prop :=
  s.read p 8 = head ∧ ∀ i, i < 15 → s.read (p + 8 * (i + 1)) 8 = (x.counter i).toNat

/-- R408, R409, R410: PCAPS writes the start packet at s[a] and opens the window; in an open window it sets NESTED alone; an address that is no multiple of
256 raises ALIGN with SUB 7. PCAPE writes the stop packet 128 bytes on and closes the window; with none open it does nothing, and with instructions
queued it waits. The page is in memory, and no unit or block of the packet holds an error. -/
def Obligations.CaptureWindows : Prop :=
  ∀ (s : State) (a : SReg),
    let x := s.me
    let va := (s.reg a).toNat
    let stop := x.dbgctl.field 51 8 * 256 + 128
    let Packet (t : State) (p head : Nat) (dbg : Word) (u : State) : Prop :=
      PacketAt u p head x ∧ (∀ b, ¬ (p ≤ b ∧ b < p + 128) → u.byte b = t.byte b) ∧ u.me.dbgctl = dbg ∧
      u.me.pc = x.pc + 4 ∧ (∀ r, u.reg r = s.reg r) ∧ FrontAndMemory s.cur t u
    (va % 256 ≠ 0 → s.trapReady 7 → Ends (.pcaps a) s (Traps s 7 7 va)) ∧
    (va % 256 = 0 → x.dbgctl.flag 1 = true → Ends (.pcaps a) s fun t =>
      t.me.dbgctl = x.dbgctl ||| 8 ∧ t.me.pc = x.pc + 4 ∧ (∀ r, t.reg r = s.reg r) ∧ OnlyFront s.cur s t ∧ SameBytes s t) ∧
    (∀ t p, va % 256 = 0 → x.dbgctl.flag 1 = false → translate s.ctx va .write s = .ok (.mem p, t) → t.errAt p 128 = false →
      t.badAt p 128 = false → Ends (.pcaps a) s (Packet t p 1 ((x.dbgctl &&& 1) ||| 2 ||| (s.reg a &&& 0xFFFFFFFFFFF00)))) ∧
    (x.dbgctl.flag 1 = false → Ends .pcape s (Passes s (x.pc + 4))) ∧
    (x.dbgctl.flag 1 = true → x.queue ≠ [] → Ends .pcape s (Waits s .retry)) ∧
    (∀ t p, x.dbgctl.flag 1 = true → x.queue = [] → translate s.ctx stop .write s = .ok (.mem p, t) → t.errAt p 128 = false →
      t.badAt p 128 = false → Ends .pcape s (Packet t p (2 + b2n (x.dbgctl.flag 2) * 2 ^ 8 + b2n (x.dbgctl.flag 3) * 2 ^ 9) (x.dbgctl &&& ~~~2)))

/-! ### Pushing vector instructions -/

/-- R61, R67, R69, R70, R155: the push of the integer, mask and permutation instructions, of unit-stride memory accesses and of the instructions
without operand names. The front pushes the instruction when its queue has room and every entry is valid in the window, of one element width, and holds
VL.LEN elements.
R155, R177: the push of the floating-point instructions, whose element width must be 16, 32 or 64; the fused ones also read vd. -/
def Obligations.PlainVectorPushes : Prop :=
  (∀ (s : State) (vd va vb : VName) (sm : BitVec 2) (b c : SReg) (n : BitVec 8) (md ma mb : MReg) (cl : BitVec 2) (sc : Scope), s.canPush →
      (s.fits vd → s.fits va → s.fits vb → s.ew va = s.ew vd → s.ew vb = s.ew vd →
        let P (i : Instr) : Prop := Pushes i [vd, va, vb] [] s
        P (.vadd vd va vb sm) ∧ P (.vsub vd va vb sm) ∧ P (.vmul vd va vb sm) ∧ P (.vmulh vd va vb sm) ∧ P (.vmin vd va vb sm) ∧
        P (.vmax vd va vb sm) ∧ P (.vminu vd va vb sm) ∧ P (.vmaxu vd va vb sm) ∧ P (.vand vd va vb sm) ∧ P (.vor vd va vb sm) ∧
        P (.vxor vd va vb sm) ∧ P (.vshl vd va vb sm) ∧ P (.vshr vd va vb sm) ∧ P (.vsra vd va vb sm) ∧ P (.vsadd vd va vb sm) ∧
        P (.vssub vd va vb sm) ∧ P (.vsaddU vd va vb sm) ∧ P (.vssubU vd va vb sm) ∧ P (.vmerge vd va vb sm) ∧ P (.vperm vd va vb)) ∧
      (s.fits vd → s.fits va → s.ew va = s.ew vd →
        let P (i : Instr) : Prop := Pushes i [vd, va] [] s
        P (.vmv vd va) ∧ P (.vshlImm vd va n) ∧ P (.vshrImm vd va n) ∧ P (.vsraImm vd va n) ∧ P (.vslideupImm vd va n) ∧
        P (.vslidednImm vd va n) ∧ P (.vcompress vd va) ∧ P (.vexpand vd va) ∧
        Pushes (.vslideup vd va b) [vd, va] [b] s ∧ Pushes (.vslidedn vd va b) [vd, va] [b] s ∧ Pushes (.vbcast vd va b) [vd, va] [b] s) ∧
      (s.fits va → s.fits vb → s.ew vb = s.ew va →
        let P (i : Instr) : Prop := Pushes i [va, vb] [] s
        P (.vcmpEq md va vb sm) ∧ P (.vcmpNe md va vb sm) ∧ P (.vcmpLt md va vb sm) ∧ P (.vcmpGe md va vb sm) ∧ P (.vcmpLtu md va vb sm) ∧
        P (.vcmpGeu md va vb sm)) ∧
      (s.fits vd →
        Pushes (.vsplat vd b) [vd] [b] s ∧ Pushes (.vmvsx vd b) [vd] [b] s ∧ Pushes (.vsplatImm vd n) [vd] [] s ∧
        Pushes (.vld vd b) [vd] [b] s ∧ Pushes (.vst vd b) [vd] [b] s) ∧
      Pushes (.mand md ma mb) [] [] s ∧ Pushes (.mor md ma mb) [] [] s ∧ Pushes (.mxor md ma mb) [] [] s ∧ Pushes (.mnot md ma) [] [] s ∧
      Pushes (.mset md b) [] [b] s ∧ Pushes .mzero [] [] s ∧ Pushes .mwait [] [] s ∧ Pushes (.fvv sc) [] [] s ∧
      Pushes (.cupclr cl) [] [] s ∧ Pushes (.cupadd cl b c) [] [b, c] s) ∧
  (∀ (s : State) (vd va vb : VName) (sm : BitVec 2) (bf : Bool) (md : MReg), s.canPush → s.fits va → s.ew va ∈ [16, 32, 64] →
      (s.fits vd → s.fits vb → s.ew vd = s.ew va → s.ew vb = s.ew va →
        let P (i : Instr) : Prop := Pushes i [vd, va, vb] [] s
        P (.vfadd vd va vb sm bf) ∧ P (.vfsub vd va vb sm bf) ∧ P (.vfmul vd va vb sm bf) ∧ P (.vfdiv vd va vb sm bf) ∧
        P (.vfmin vd va vb sm bf) ∧ P (.vfmax vd va vb sm bf) ∧ P (.vfma vd va vb sm bf) ∧ P (.vfms vd va vb sm bf) ∧
        P (.vfnma vd va vb sm bf)) ∧
      (s.fits vd → s.ew vd = s.ew va →
        let P (i : Instr) : Prop := Pushes i [vd, va] [] s
        P (.vfsqrt vd va bf) ∧ P (.vfrcp vd va bf) ∧ P (.vfrsq vd va bf) ∧ P (.vfabs vd va bf) ∧ P (.vfneg vd va bf) ∧
        P (.vfexp2 vd va bf) ∧ P (.vflog2 vd va bf) ∧ P (.vfclass vd va bf)) ∧
      (s.fits vb → s.ew vb = s.ew va →
        let P (i : Instr) : Prop := Pushes i [va, vb] [] s
        P (.vfcmpEq md va vb sm bf) ∧ P (.vfcmpLt md va vb sm bf) ∧ P (.vfcmpLe md va vb sm bf) ∧ P (.vfcmpUn md va vb sm bf)))

/-- R69, R70, R155, R156, R183, R422: the push of the conversions, lane operations, whole-name operations and matrix instructions, whose entries name
checks of their own: pushed, when none of the checks of the instruction's entry fails, with its operands captured. -/
def Obligations.CheckedVectorPushes : Prop :=
  ∀ (vd va vb vc : VName) (b : SReg) (n : Slot) (dst src : BitVec 6) (ty : BitVec 2) (fm : BitVec 4) (tag : BitVec 8),
    PushesAs (.vcvt vd va dst src) (cvtSpec vd va dst src) ∧
    PushesAs (.vnarrow vd va n src) (groupSpec vd va n 0 true (fun _ => true) (idWidth src.toNat)) ∧
    PushesAs (.vwiden vd va dst n) (groupSpec vd va n 1 true (fun _ => true) (idWidth dst.toNat)) ∧
    PushesAs (.vsplitb vd va n) (groupSpec vd va n 0 false planar 8) ∧ PushesAs (.vjoinb vd va n) (groupSpec vd va n 1 false planar 8) ∧
    PushesAs (.vscaleb vd va n) (scalebSpec vd va n) ∧
    PushesAs (.vredsum vd va ty) (redSpec vd va ty) ∧ PushesAs (.vredmax vd va ty) (redSpec vd va ty) ∧
    PushesAs (.vredmin vd va ty) (redSpec vd va ty) ∧ PushesAs (.vscan vd va ty) (scanSpec vd va ty) ∧
    PushesAs (.vtopk vd va b ty) (topkSpec vd va b ty) ∧ PushesAs (.vhist vd va b) (histSpec vd va b) ∧
    PushesAs (.retag vd tag) (nameSpec (asDst vd) []) ∧ PushesAs (.plzero vd) (nameSpec (asDst vd) []) ∧
    PushesAs (.plsave vd b) (nameSpec (asSrc vd) [b]) ∧ PushesAs (.plload vd b) (nameSpec (asDst vd) [b]) ∧
    PushesAs (.mma va vb fm) (mmaSpec va vb fm) ∧ PushesAs (.mman va vb n) (mmnSpec va vb none n) ∧
    PushesAs (.mmas va vb vc n) (mmnSpec va vb (some vc) n) ∧
    PushesAs (.mrd va b fm) (carSpec (asDst va) b fm) ∧ PushesAs (.mwr va b fm) (carSpec (asSrc va) b fm)

/-- R69, R70, R174, R254, R256, R269, R289, R294, R314, R391: the push of the vector memory instructions with strides, indices, layout records or windows, of
the aged-word instructions and of the engine jobs: pushed, when none of the checks of the instruction's entry fails, with the address registers captured. -/
def Obligations.MemoryAndJobPushes : Prop :=
  ∀ (vd vx : VName) (a b c : SReg) (ty : BitVec 5) (w32 ord : Bool),
    PushesAs (.vlds vd a) (strideMem (asDst vd) a) ∧ PushesAs (.vsts vd a) (strideMem (asSrc vd) a) ∧
    PushesAs (.vldx vd a vx) (indexMem (asDst vd) a vx) ∧ PushesAs (.vstx vd a vx) (indexMem (asSrc vd) a vx) ∧
    PushesAs (.vscadd vd a vx ty) (scaddMem vd a vx ty.toNat) ∧
    PushesAs (.vldz vd a vx) (recordMem (asDst vd) [a] vx) ∧ PushesAs (.vstz vd a vx) (recordMem (asSrc vd) [a] vx) ∧
    PushesAs (.vstpair vd a vx) (recordMem (asSrc vd) [a, a + 1] vx) ∧ PushesAs (.vldw vd a vx) (windowMem vd a vx) ∧
    PushesAs (.agld vd a w32) (agedMem (asDst vd) a 32) ∧ PushesAs (.agst vd a w32) (agedMem (asSrc vd) a 32) ∧
    PushesAs (.agadd vd a w32) (agedMem (asSrc vd) a 32) ∧ PushesAs (.agmerge vd a w32) (agedMem (asSrc vd) a (if w32 then 32 else 64)) ∧
    PushesAs (.xcopy a b c ord) (jobSpec a b c) ∧ PushesAs (.xgath a b c vx ord) (gathSpec a b c vx) ∧
    PushesAs (.xfill a b c ord) (jobSpec a b c) ∧ PushesAs (.agsweep a b c ord) (jobSpec a b c) ∧
    PushesAs (.unorm a b c ord) (jobSpec a b c) ∧ PushesAs (.uapply a b c ord) (jobSpec a b c) ∧
    PushesAs (.cxred a b c w32) (jobSpec a b c) ∧ PushesAs (.cxgath a b c) (jobSpec a b c) ∧ PushesAs (.cxa2a a b c) (jobSpec a b c) ∧
    PushesAs (.cxbar a b c) (jobSpec a b c)

/-- R264, R265, R268: SBIND, when no check of its entry fails, is pushed and makes a binding of the name: its ring is the captured entry, its base s[a], its
cursor and positions 0. SUNBIND is pushed and closes the binding of its name; on a name that is not bound it changes no binding. -/
def Obligations.StreamPushes : Prop :=
  ∀ (s : State) (vd vx : VName) (a : SReg) (store : Bool), s.me.queue.length < 64 →
    let p := sbindSpec s.me vd a vx
    let c := s.me.capture (s.window s.cur) p
    let q : PushSpec := { PushSpec.plain [asNone vd] [] with width := fun c => firstWidth [narrowEw c] }
    (s.me.binds.length < 4 → s.me.pushCheck c p = none → Ends (.sbind vd a vx store) s fun t =>
      t.me.vsn = s.me.vsn + 1 ∧ t.me.vstart = 0 ∧ t.me.queue.length = s.me.queue.length + 1 ∧
      Completed s (s.me.pc + 4) (fun x => { x with queue := [], vsn := 0, vstart := 0, binds := [] }) t ∧
      (∀ r, t.reg r = s.reg r) ∧ OnlyFront s.cur s t ∧ SameBytes s t ∧
      ∃ k, k < 4 ∧ (∃ x, (k, x) ∈ t.me.binds ∧ x.name = vd.toNat ∧ x.store = store ∧ x.count = 0 ∧ x.pos = 0 ∧ x.fillPos = 0 ∧
        x.base = s.reg a ∧ x.ring = s.me.entry vd.toNat ∧ x.closing = false)) ∧
    (s.me.pushCheck (s.me.capture (s.window s.cur) q) q = none → Ends (.sunbind vd) s fun t =>
      t.me.vsn = s.me.vsn + 1 ∧ t.me.vstart = 0 ∧ t.me.queue.length = s.me.queue.length + 1 ∧
      Completed s (s.me.pc + 4) (fun x => { x with queue := [], vsn := 0, vstart := 0, binds := [] }) t ∧
      (∀ r, t.reg r = s.reg r) ∧ OnlyFront s.cur s t ∧ SameBytes s t ∧
      (s.me.bindOf vd.toNat = none → t.me.binds = s.me.binds) ∧
      ∀ k x, s.me.bindOf vd.toNat = some (k, x) → ∀ y, (k, y) ∈ t.me.binds → y.closing = true)

/-- R69, R72, R73, R422: a push whose checks fail traps with the first failure and pushes nothing; with the queue full the front waits.
R61, R155, R67: the first failing check of a three-name integer instruction: EDGE with the subcode of the first name in field order that is not valid
in the window, then FORMAT with SUB 3 for widths that differ, then CAPACITY with SUB 1 at the first missing element of
the first name that holds fewer than VL, then with SUB 2 at VLMAX; TRAPELEM is VSTART for the first two.
R290, R294: a job instruction whose completion pair is no multiple of 16, or whose card is none of 64, raises ALIGN with SUB 4 and the address in TRAPADDR; the pair
is checked first: that order is the model's choice (log 20). -/
def Obligations.PushChecks : Prop :=
  (∀ (s : State) (i : Instr) (p : PushSpec) (r : TrapRec), exec i s = push i p s →
      (64 ≤ s.me.queue.length → Ends i s (Waits s .retry)) ∧
      (s.me.pushCheck (s.me.capture (s.window s.cur) p) p = some r → s.trapReady r.cause → r.cause < 8 → r.sub < 256 → r.elem < 512 →
        Ends i s (TrapTaken s s.cur r.cause r.sub r.elem r.addr s.me.pc s.me.vsn))) ∧
  (∀ (s : State) (vd va vb : VName) (sm : BitVec 2), s.canPush → s.me.queue = [] → s.me.kernel = false →
      let e (v : VName) : Word := s.me.entry v.toNat
      let vs := s.me.vstart.field 8 0
      let T (cause sub elem : Nat) : Prop := Ends (.vadd vd va vb sm) s (TrapTaken s s.cur cause sub elem 0 s.me.pc s.me.vsn)
      (dValid (e vd) = false → T 3 1 vs) ∧
      (s.fits vd → dValid (e va) = false → T 3 1 vs) ∧
      (s.fits vd → dValid (e va) = true → dEw (e va) = 7 → T 3 2 vs) ∧
      (s.fits vd → s.fits va → s.fits vb → s.ew va ≠ s.ew vd → T 5 3 vs) ∧
      (let vl := s.me.vl.field 8 0
       let w := (s.window s.cur).2
       EntryFits (e vd) w 0 → EntryFits (e va) w 0 → EntryFits (e vb) w 0 → s.ew va = s.ew vd → s.ew vb = s.ew vd →
        (dCap (e vd) < vl → T 4 1 (dCap (e vd))) ∧ (vl ≤ dCap (e vd) → dCap (e va) < vl → T 4 1 (dCap (e va))) ∧
        (vl ≤ dCap (e vd) → vl ≤ dCap (e va) → dCap (e vb) < vl → T 4 1 (dCap (e vb))) ∧
        (vl ≤ dCap (e vd) → vl ≤ dCap (e va) → vl ≤ dCap (e vb) → vlmax w (s.ew vd) < vl → T 4 2 (vlmax w (s.ew vd))))) ∧
  (∀ (s : State) (a b c : SReg) (vx : VName) (o : Bool), s.canPush → s.me.queue = [] → s.me.kernel = false →
      let (card, pair) := ((s.reg a).toNat, (s.reg b).toNat)
      let jobs : List Instr := [.xcopy a b c o, .xfill a b c o, .agsweep a b c o, .unorm a b c o, .uapply a b c o, .cxred a b c o, .cxgath a b c, .cxa2a a b c,
        .cxbar a b c]
      let Stops (i : Instr) : Prop :=
        let T (addr : Nat) : Prop := Ends i s (TrapTaken s s.cur 7 4 (s.me.vstart.field 8 0) addr s.me.pc s.me.vsn)
        (pair % 16 ≠ 0 → T pair) ∧ (pair % 16 = 0 → card % 64 ≠ 0 → T card)
      (∀ i ∈ jobs, Stops i) ∧ (s.fits vx → s.ew vx ∈ [16, 32, 64] → Stops (.xgath a b c vx o)))

/-! ### Carving, vector length, lanes, and reads of the vector state -/

/-- R58, R158, R159, R160: CARVE writes the entry of its name when the entry is not valid or fits the window; UNCARVE writes zero; CARVEQ moves the origin
of va's entry by two signed offsets, row and position, and writes it as vd's. An entry that does not fit raises EDGE and changes nothing. -/
def Obligations.CarveEntries : Prop :=
  ∀ (s : State) (vd va : VName) (b : SReg),
    let w := (s.window s.cur).2
    let e := s.reg b
    let src := s.me.entry va.toNat
    let row : Int := src.field 10 2 + ((s.reg b).setWidth 16).toInt
    let pos : Int := src.field 21 11 + (((s.reg b) >>> 16).setWidth 16).toInt
    let row' := if dWrap src then row % 512 else row
    (dValid e = false → Ends (.carve vd b) s (EntrySet s vd e)) ∧
    (EntryFits e w 0 → Ends (.carve vd b) s (EntrySet s vd e)) ∧
    (dValid e = true → dEw e = 7 → s.trapReady 3 → Ends (.carve vd b) s (Traps s 3 2 0)) ∧
    (dValid e = true → dEw e ≠ 7 → e.field 63 50 = 0 → epw w (dW e) ≤ dLastPos e → s.trapReady 3 → Ends (.carve vd b) s (Traps s 3 3 0)) ∧
    Ends (.uncarve vd) s (EntrySet s vd 0) ∧
    (dValid src = false → s.trapReady 3 → Ends (.carveq vd va b) s (Traps s 3 1 0)) ∧
    (dValid src = true → row' < 0 ∨ 511 < row' → s.trapReady 3 → Ends (.carveq vd va b) s (Traps s 3 4 0)) ∧
    (dValid src = true → 0 ≤ row' → row' ≤ 511 → pos < 0 ∨ 2047 < pos → s.trapReady 3 → Ends (.carveq vd va b) s (Traps s 3 3 0)) ∧
    ∀ n : Word, dValid src = true → (n.field 10 2 : Int) = row' → (n.field 21 11 : Int) = pos →
      (∀ i, ¬ (2 ≤ i ∧ i < 22) → n.getLsbD i = src.getLsbD i) → EntryFits n w 0 → Ends (.carveq vd va b) s (EntrySet s vd n)

/-- R161, R203, R264: SETVL and SETVLI take the strip boundary: the front owns as many columns of its target as its partner leaves, the name's entry, of a bound name
the one that SBIND captured, is
checked against that window, and the grant, at most the request, VLMAX and the capacity, is VL and, for SETVL, s[b]. An undefined name
raises EDGE; with no column to own, the front waits. -/
def Obligations.VectorLength : Prop :=
  ∀ (s : State) (vd : VName) (b : SReg) (n : BitVec 8),
    let f := s.cur
    let k := s.core (f / 2)
    let new := if f % 2 = 0 then min k.target (64 - k.own1) else min (64 - k.target) (64 - k.own0)
    let w := ((k.setOwn f new).window f).2
    let e := s.me.effective vd.toNat
    let grant (r : Nat) := min r (min (vlmax w (dW e)) (dCap e))
    let imm := if n = 0 then 256 else n.toNat
    (EntryFits e w 0 → new ≠ 0 →
      Ends (.setvl vd b) s (fun t => Granted s new (grant (s.reg b).toNat) e t ∧ Dest s b (word (grant (s.reg b).toNat)) t ∧ SameBytes s t) ∧
      Ends (.setvli vd n) s fun t => Granted s new (grant imm) e t ∧ (∀ r, t.reg r = s.reg r) ∧ SameBytes s t) ∧
    (dValid e = true → new = 0 → Ends (.setvl vd b) s (Waits s .lanes) ∧ Ends (.setvli vd n) s (Waits s .lanes)) ∧
    (dValid e = false → s.trapReady 3 → Ends (.setvl vd b) s (Traps s 3 1 0) ∧ Ends (.setvli vd n) s (Traps s 3 1 0))

/-- R162, R200, R202, R228: LPREQ, on a core with no retired lane: a request that is a multiple of 8 from 8 to 64 sets TARGET, within what a resident
partner leaves, by which a BOUND partner starts that owns its share now; any other request, and any while LOCK is set, changes nothing. -/
def Obligations.LaneRequests : Prop :=
  ∀ (s : State) (b : SReg),
    let n := (s.reg b).field 6 0
    let c := s.cur / 2
    let even : Bool := s.cur % 2 == 0
    let p := if even then s.cur + 1 else s.cur - 1
    let res := s.resident p
    let goal := if even then (if res then min n 56 else n) else if res then max (64 - n) 8 else 64 - n
    (n % 8 ≠ 0 ∨ n < 8 ∨ 64 < n ∨ (s.core c).lock = true → Ends (.lpreq b) s (Passes s (s.me.pc + 4))) ∧
    (n % 8 = 0 → 8 ≤ n → n ≤ 64 → (s.core c).lock = false → (s.core c).lanemap = 0 → Ends (.lpreq b) s fun t =>
      (t.core c).target = goal ∧ (t.core c).own s.cur = (s.core c).own s.cur ∧ (t.core c).lock = false ∧
      (t.core c).plane = (s.core c).plane ∧ (t.core c).tags = (s.core c).tags ∧ PartnerSettled s p goal t ∧ (∀ r, t.reg r = s.reg r) ∧
      Completed s (s.me.pc + 4) id t ∧ SameBytes s t ∧ ∀ g, g ≠ s.cur → g ≠ p → t.front g = s.front g)

/-- R168, R172: the reads of the vector state at the front. VMVXS writes element 0 of its name, by the entry that SBIND captured where the name is bound (R264), sign-extended when the tag of its low cell is INTw,
MPOPC the number and MFIRST the lowest index of the 1 bits of a mask below VL.LEN. Each waits while an older queued instruction has still to write
what it reads. -/
def Obligations.VectorStateReads : Prop :=
  ∀ (s : State) (d : SReg) (va : VName) (m : MReg),
    let e := s.me.effective va.toNat
    let win := s.window s.cur
    let k := s.core (s.cur / 2)
    let v := k.elem e win.1 0
    let tag := (k.tag ((elemCells e win.1 0).headD 0)).toNat
    let ones := (List.range (s.me.vl.field 8 0)).filter fun i => (s.me.mask m.toNat).getLsbD i
    (EntryFits e win.2 0 → s.readWaits (elemCells e win.1 0) = false → badCell? k (elemCells e win.1 0) true = none →
      Ends (.vmvxs d va) s (Writes s d (if tag = intTag (dW e) ∧ 8 ≤ dW e then (if v < 2 ^ (dW e - 1) then word v else BitVec.ofInt 64 (v - 2 ^ dW e))
        else word v) (s.me.pc + 4))) ∧
    (EntryFits e win.2 0 → s.readWaits (elemCells e win.1 0) = true → Ends (.vmvxs d va) s (Waits s .retry)) ∧
    (dValid e = false → s.trapReady 3 → Ends (.vmvxs d va) s (Traps s 3 1 0)) ∧
    (s.me.writing [maskKey m.toNat] = false →
      Ends (.mpopc d m) s (Writes s d (word ones.length) (s.me.pc + 4)) ∧
      (ones = [] → Ends (.mfirst d m) s (Writes s d (-1) (s.me.pc + 4))) ∧
      ∀ i, i ∈ ones → (∀ j, j ∈ ones → i ≤ j) → Ends (.mfirst d m) s (Writes s d (word i) (s.me.pc + 4))) ∧
    (s.me.writing [maskKey m.toNat] = true → Ends (.mpopc d m) s (Waits s .retry) ∧ Ends (.mfirst d m) s (Waits s .retry))

/-! ### Jobs, waits, tasks, claims and rated sets at the front -/

/-- R302, R303: XQUERY writes the state of a job of the front, for a running job with a lower bound of its progress; XCANCEL marks a queued job (JobAcceptance says what
its issue then makes of it), and a held or running one ends with CANCELLED, and it writes what it met; once the end of the job is settled it answers 3.
A collective that ends without success has performed nothing (R392). That the end is settled when the status word has been written or sent (R303), or when a member has
told the others that it succeeds, and that a job cancelled while ORD holds it shows as running from then on, so that a second XCANCEL of it answers 2, is the model's
choice (log 36). -/
def Obligations.JobQueries : Prop :=
  ∀ (s : State) (a b : SReg),
    let n := s.me.pc + 4
    let h := (s.reg b).field 31 0
    let c := (s.reg a).field 31 0
    let done (j : Job) : Nat := if 6 ≤ cardKind j.card then 0 else j.prog
    let sure (j : Job) : Nat := if s.postedBy (fun a => a == j.agent) then min j.sure (done j) else done j
    let same (t : State) : Prop := { t with fronts := [], jobs := [], freeCtr := 0 } = { s with fronts := [], jobs := [], freeCtr := 0 }
    (s.jobOf s.cur h = none → s.me.queuedJob h = false → Ends (.xquery a b) s (Writes s a 0 n)) ∧
    (s.jobOf s.cur h = none → s.me.queuedJob h = true → Ends (.xquery a b) s (Writes s a 1 n)) ∧
    (∀ j, s.jobOf s.cur h = some j → j.running = false → Ends (.xquery a b) s (Writes s a 2 n)) ∧
    (∀ j, s.jobOf s.cur h = some j → j.running = true → ∃ p, p ≤ sure j ∧ Ends (.xquery a b) s fun t =>
      Dest s a (word (3 + p * 2 ^ 24)) t ∧ Completed s n id t ∧ same t ∧ t.jobs = s.jobs ∧ SameBytes s t) ∧
    (s.jobOf s.cur c = none → s.me.queuedJob c = false → Ends (.xcancel a) s (Writes s a 0 n)) ∧
    (s.jobOf s.cur c = none → s.me.queuedJob c = true → Ends (.xcancel a) s fun t =>
      Dest s a 1 t ∧ t.me.pc = n ∧ same t ∧ t.jobs = s.jobs ∧ SameBytes s t ∧
      t.me.queue.map (fun e => { e with aux := 0 }) = s.me.queue.map (fun e => { e with aux := 0 }) ∧
      ∀ e ∈ t.me.queue, isJob e.instr = true → e.handle.toNat = c → e.aux = 1) ∧
    (∀ j, s.jobOf s.cur c = some j → j.stage ≠ 0 ∨ j.agreed = true → Ends (.xcancel a) s (Writes s a 3 n)) ∧
    (∀ j, s.jobOf s.cur c = some j → j.stage = 0 → j.agreed = false → Ends (.xcancel a) s fun t =>
      Dest s a (if j.running then 2 else 1) t ∧ t.me.pc = n ∧ same t ∧ SameBytes s t ∧ t.jobs.length = s.jobs.length ∧
      (∀ k ∈ t.jobs, k.agent = j.agent → k.moved = true ∧ k.cause = 0x20 ∧ k.prog = done j) ∧
      ∀ k ∈ s.jobs, k.agent ≠ j.agent → k ∈ t.jobs)

/-- R304, R305: WAITW on a doubleword of memory at `p`: when it equals s[b], or the timeout has passed, it is written to s[c]; otherwise a monitor is
armed and the front sleeps. A misaligned address raises ALIGN. `t` is the state after translation. A word of a peer package is asked for, with the monitor armed from then
on, so that a wake that arrives before the answer is not lost; an answer that differs leaves it armed, and where it has fired, or the timeout has passed, the word
is asked for again, the last time with no monitor. That the peer is asked by a plain read is the model's choice (log 9).
R310, R401: STEP advances GSTEP and writes it to s[a]; it waits for a cupping collective that has not ended, and takes a pending DIVERGENCE, which clears it
and leaves GSTEP and s[a]. -/
def Obligations.WaitForWordAndStep : Prop :=
  (∀ (s t : State) (a b c : SReg) (p pkg : Nat) (bs : List Byte) (q : Remote),
      let va := (s.reg a).toNat
      let since := match s.me.wait with
        | .waitw st lim => (st, lim)
        | _ => (s.clock, (s.reg c).toNat)
      let late : Bool := since.2 != 2 ^ 64 - 1 && decide (since.1 + since.2 ≤ s.clock)
      let quiet (x : State) : State := { x with monitors := x.monitors.filter fun m => m.fid != s.cur }
      let asleep (x : State) : State := x.blocked (.waitw since.1 since.2)
      let mine := s.monitors.filter fun m => m.fid == s.cur
      (va % 8 ≠ 0 → s.trapReady 7 → Ends (.waitw a b c) s (Traps (quiet s) 7 0 va)) ∧
      (va % 8 = 0 → translate s.ctx va .read s = .ok (.mem p, t) → t.errAt p 8 = false → t.badAt p 8 = false →
        (t.read p 8 = (s.reg b).toNat ∨ late = true → Ends (.waitw a b c) s (Writes (quiet t) c (word (t.read p 8)) (s.me.pc + 4))) ∧
        (t.read p 8 ≠ (s.reg b).toNat → late = false → Ends (.waitw a b c) s fun u =>
          u.me = { t.me with wait := .waitw since.1 since.2 } ∧ u.monitors = (quiet t).monitors ++ [⟨s.cur, p / 8, false⟩] ∧
          { u with fronts := [], monitors := [] } = { t with fronts := [], monitors := [] } ∧ SameBytes t u)) ∧
      (va % 8 = 0 → translate s.ctx va .read s = .ok (.peer pkg p, t) →
        (t.unasked pkg p 8 1 [] → t.liveLinks pkg ≠ [] → ∀ tag, t.freeTag = some tag → Ends (.waitw a b c) s fun u =>
          let armed : State := { t with monitors := (quiet t).monitors ++ [⟨s.cur, 2 ^ 60 + pkg * 2 ^ 50 + p / 8, false⟩] }
          u = asleep ((if late then quiet t else armed).request ⟨.front s.cur, tag, pkg, p, 8, 1, [], none⟩)) ∧
        (t.unasked pkg p 8 1 [] → t.liveLinks pkg = [] → s.trapReady 9 → Ends (.waitw a b c) s (Traps ((quiet t).missed s.cur va) 9 8 va)) ∧
        (t.answered pkg p 8 1 [] bs q →
          let v : State := { t with remotes := t.remotes.erase q }
          let done : Prop := leNat bs = (s.reg b).toNat ∨ (late = true ∧ mine = [])
          (done → Ends (.waitw a b c) s (Writes (quiet v) c (word (leNat bs)) (s.me.pc + 4))) ∧
          (¬ done → Ends (.waitw a b c) s fun u => u = asleep (if late || mine.all (fun m => m.fired) then quiet v else v))))) ∧
  (∀ (s : State) (a : SReg),
      (s.cupping s.cur = true → Ends (.step a) s (Waits s .retry)) ∧
      (s.cupping s.cur = false → s.pendingOf s.cur true = none → Ends (.step a) s fun t =>
        t.me.gstep = s.me.gstep + 1 ∧ Dest s a (s.me.gstep + 1) t ∧ Completed s (s.me.pc + 4) (fun x => { x with gstep := 0 }) t ∧
        OnlyFront s.cur s t ∧ SameBytes s t) ∧
      ∀ x, s.cupping s.cur = false → s.pendingOf s.cur true = some x → s.trapReady 0x0C → x.sub < 256 → Ends (.step a) s fun t =>
        TrapTaken { s with pendings := s.pendings.erase x } s.cur 0x0C x.sub 0 x.addr s.me.pc s.me.vsn t ∧ t.me.gstep = s.me.gstep)

/-- R342, R344, R347, R348, R349: TENQ, TDONE and TCANCEL. `d` is the descriptor as read, at the address in s[a] or of the held task, and the later states are
those after the reads and stores that the request makes. TENQ and TDONE wait until everything before them is settled, and a request while another front is in
the middle of one on the descriptor, which a peer serves; a request in its own middle waits for nothing but that (R342; log 9, the model's choice). A parent's COUNT is
decremented; at 0 its continuation is enqueued as TENQ enqueues, and TDONE answers 1. TASKERR of SUB 4 and 7 reports the descriptor, SUB 5 the join
entry, in TRAPADDR: of the addresses that R343 names, the model's choice (log 23). -/
def Obligations.TaskRequests : Prop :=
  ∀ (s t u v : State) (a b c : SReg) (d : TaskDesc) (ty : TaskType),
    let dva := (s.reg a).toNat / 64 * 64
    let q := (s.reg a).toNat % 8
    let r : TaskRec := ⟨s.reg b, s.reg c⟩
    let ticket := (s.reg b).field 34 32
    let pos := (s.reg b).field 31 0
    let go : Bool := s.amid || s.settled s.cur
    let free (x : Nat) : Prop := s.serving (descLoc s x) = false
    let Ans (w : State) (x : Nat) (gone : List Cancelled) (y : State) : Prop :=
      Dest w b (word x) y ∧ Completed w (w.me.pc + 4) id y ∧ { y with fronts := [] } = { w with fronts := [], cancelled := gone } ∧ TakesWoken (word dva) w y
    let here (w : State) (j p : Nat) : Cancelled := ⟨w.me.lid, dva, j, p⟩
    let Put (va j p : Nat) (x : TaskRec) (w y : State) : Prop :=
      StoresTo s.ctx [(d.slot j p, x.lo.toNat), ((d.slot j p + 8) % 2 ^ 64, x.hi.toNat),
        ((va + 8 * (10 + 4 * j)) % 2 ^ 64, d.head j % 2 ^ 32 + (p + 1) % 2 ^ 32 * 2 ^ 32)] w y
    (go = false → Ends (.tenq a b c) s (Waits s .retry) ∧ Ends (.tdone a b) s (Waits s .retry)) ∧
    (¬ free dva → Ends (.tcancel a b) s (Waits s .retry) ∧ (go = true → Ends (.tenq a b c) s (Waits s .retry)) ∧
      (go = true → s.me.task = none → Ends (.tdone a b) s (Waits s .retry))) ∧
    (go = true → free dva → readTasks s.ctx dva s = .ok (d, t) → readType s.ctx d r dva t = .ok (ty, u) → q < d.nq → r.used = false →
      r.lo.field 14 13 = 0 →
      (d.count q < d.size q → Put dva q (d.tail q) r u v →
        Ends (.tenq a b c) s (Ans v (d.tail q + q * 2 ^ 32) (v.cancelled.filter fun k => k != here v q (d.tail q)))) ∧
      (d.size q ≤ d.count q → s.trapReady 0x10 → Ends (.tenq a b c) s (Traps s 0x10 7 dva))) ∧
    (go = true → free dva → s.me.task = none → readTasks s.ctx dva s = .ok (d, t) →
      (d.opens ≠ 0 → StoresTo s.ctx [((dva + 8) % 2 ^ 64, (d.getD 1 0).toNat - 2 ^ 32)] t u → Ends (.tdone a b) s (Ans u 0 u.cancelled)) ∧
      (d.opens = 0 → s.trapReady 0x10 → Ends (.tdone a b) s (Traps s 0x10 4 dva))) ∧
    (∀ dw lo hi, go = true → s.me.task = some (dw, lo, hi) → ¬ free dw.toNat → Ends (.tdone a b) s (Waits s .retry)) ∧
    (∀ dw lo hi, go = true → s.me.task = some (dw, lo, hi) → free dw.toNat → readTasks s.ctx dw.toNat s = .ok (d, t) →
      let entry := ((d.getD 2 0).toNat + 32 * hi.field 31 0) % 2 ^ 64
      let Done (w : State) (x : Nat) (gone : List Cancelled) (y : State) : Prop :=
        Dest w b (word x) y ∧ Completed w (w.me.pc + 4) (fun x => { x with task := none }) y ∧ y.me.task = none ∧ TakesWoken dw w y ∧
        { y with fronts := [], held := [] } = { w with fronts := [], held := [], cancelled := gone } ∧
        match w.held.find? fun h => h.lid == w.me.lid && h.desc == dw && h.lo == lo && h.hi == hi with
          | some h => y.held = w.held.erase h
          | none => y.held = w.held
      (lo.flag 12 = false → Ends (.tdone a b) s (Done t 0 t.cancelled)) ∧
      (lo.flag 12 = true → (d.getD 3 0).field 31 0 ≤ hi.field 31 0 → s.trapReady 0x10 → Ends (.tdone a b) s (Traps s 0x10 5 entry)) ∧
      ∀ n, lo.flag 12 = true → hi.field 31 0 < (d.getD 3 0).field 31 0 → loadVa s.ctx entry 8 t = .ok (n, u) → n < 2 ^ 64 →
        (n % 2 ^ 32 = 0 → s.trapReady 0x10 → Ends (.tdone a b) s (Traps s 0x10 5 entry)) ∧
        (1 < n % 2 ^ 32 → StoresTo s.ctx [(entry, n - 1)] u v → Ends (.tdone a b) s (Done v 0 v.cancelled)) ∧
        ∀ (x : TaskRec) (v1 v2 v3 : State), n % 2 ^ 32 = 1 → StoresTo s.ctx [(entry, n - 1)] u v →
          readRec s.ctx ((entry + 16) % 2 ^ 64) v = .ok (x, v1) → readType s.ctx d x entry v1 = .ok (ty, v2) →
          let j := n / 2 ^ 32 % 8
          j < d.nq → x.used = false → x.lo.field 14 13 = 0 →
          (d.count j < d.size j → Put dw.toNat j (d.tail j) x v2 v3 →
            Ends (.tdone a b) s (Done v3 1 (v3.cancelled.filter fun k => k != ⟨v3.me.lid, dw.toNat, j, d.tail j⟩))) ∧
          (d.size j ≤ d.count j → s.trapReady 0x10 → Ends (.tdone a b) s (Traps s 0x10 7 dw.toNat))) ∧
    (free dva → readTasks s.ctx dva s = .ok (d, t) →
      let behind := sub32 (d.tail ticket) pos
      let met := if t.cancelled.contains (here t ticket pos) then 2 else 1
      (d.nq ≤ ticket ∨ behind = 0 ∨ d.count ticket + d.size ticket ≤ behind → Ends (.tcancel a b) s (Ans t 2 t.cancelled)) ∧
      (ticket < d.nq → d.count ticket < behind → behind < d.count ticket + d.size ticket → Ends (.tcancel a b) s (Ans t met t.cancelled)) ∧
      ∀ x : TaskRec, ticket < d.nq → behind ≠ 0 → behind ≤ d.count ticket → behind < d.count ticket + d.size ticket →
        readRec s.ctx (d.slot ticket pos) t = .ok (x, u) →
        (x.used = true → Ends (.tcancel a b) s (Ans u met u.cancelled)) ∧
        (x.used = false → x.hasParent = false → pos ≠ d.head ticket → StoresTo s.ctx [(d.slot ticket pos, x.lo.toNat + 2 ^ 15)] u v →
          Ends (.tcancel a b) s fun y => here v ticket pos ∈ y.cancelled ∧ Ans v 0 y.cancelled y))

/-- R342, R345, R346: TAKE. The queues are chosen from with the credits as they stand and, if they give none, once more with the credits renewed. A record that the
choice finds is taken: it is marked, its queue's CREDIT is one less, PTR stays while credit is left and else goes to the next queue, and QHEAD passes
records taken and cancelled; the front holds the record, and its entry PC and its two doublewords are written, in order. With nothing to take, no task
open, none held by the launch and none pending, three zeros are written; otherwise the front sleeps. A front that holds a task raises TASKERR with SUB 3. While another
front is in the middle of a request on the descriptor, which a peer serves, it waits (log 9, the model's choice). -/
def Obligations.TakeTask : Prop :=
  ∀ (s t u v w z : State) (a b c : SReg) (d e : TaskDesc) (q va : Nat) (r : TaskRec) (ty : TaskType),
    let dva := (s.reg a).toNat / 64 * 64
    let rows := (s.reg b).field 9 0
    let spad := (s.reg b).field 50 32
    let held := (t.held.filter fun h => h.lid == t.me.lid).map (·.foot)
    let Three (x : State) (p lo hi : Word) (y : State) : Prop :=
      (y.reg c = if c = 0 then 0 else hi) ∧ (b ≠ c → y.reg b = if b = 0 then 0 else lo) ∧ (a ≠ b → a ≠ c → y.reg a = if a = 0 then 0 else p) ∧
      (∀ g, g ≠ a → g ≠ b → g ≠ c → y.reg g = x.reg g) ∧ Completed x (x.me.pc + 4) (fun k => { k with task := none }) y ∧
      { y with fronts := [], held := [] } = { x with fronts := [], held := [] } ∧ TakesWoken (word dva) x y
    let Marked (d : TaskDesc) (x y : State) : Prop :=
      let left := d.credit q - 1
      let turn := if 0 < left then q else (q + 1) % d.nq
      let d' : TaskDesc := (d.set (9 + 4 * q) (word ((d.ctl q).field 15 0 + left * 2 ^ 16))).set 4 (word turn)
      ∃ x1 x2 h, StoresTo s.ctx [(va, r.lo.toNat + 2 ^ 15), ((dva + 8 * (9 + 4 * q)) % 2 ^ 64, (d.ctl q).field 15 0 + left * 2 ^ 16),
          ((dva + 8 * 4) % 2 ^ 64, turn)] x x1 ∧
        headPast s.ctx d' (some va) q (d'.head q) (d'.count q) x1 = .ok (h, x2) ∧
        StoresTo s.ctx [((dva + 8 * (10 + 4 * q)) % 2 ^ 64, h % 2 ^ 32 + d'.tail q % 2 ^ 32 * 2 ^ 32)] x2 y
    let Taken (x : State) : Prop := Ends (.take a b c) s fun y => Three x (word ty.pc) r.lo r.hi y ∧ y.me.task = some (word dva, r.lo, r.hi) ∧
      y.held = x.held ++ [⟨x.me.lid, word dva, r.lo, r.hi, ty.foot⟩]
    (s.serving (descLoc s dva) = true → Ends (.take a b c) s (Waits s .retry)) ∧
    (s.serving (descLoc s dva) = false → readTasks s.ctx dva s = .ok (d, t) →
      (t.me.task ≠ none → s.trapReady 0x10 → Ends (.take a b c) s (Traps s 0x10 3 dva)) ∧
      (t.me.task = none →
        (chooseQueue s.ctx d rows spad held 0 d.nq t = .ok (some (q, va, r, ty), u) → Marked d u v → Taken v) ∧
        (chooseQueue s.ctx d rows spad held 0 d.nq t = .ok (none, u) → renewCredits s.ctx dva d d.nq u = .ok (e, v) →
          (chooseQueue s.ctx e rows spad held 0 e.nq v = .ok (some (q, va, r, ty), w) → Marked e w z → Taken z) ∧
          (chooseQueue s.ctx e rows spad held 0 e.nq v = .ok (none, w) →
            (e.opens ≠ 0 ∨ held ≠ [] → Ends (.take a b c) s (Waits w (.take (word dva)))) ∧
            (∀ x, e.opens = 0 → held = [] → anyPending s.ctx e e.nq w = .ok (true, x) → Ends (.take a b c) s (Waits x (.take (word dva)))) ∧
            (∀ x, e.opens = 0 → held = [] → anyPending s.ctx e e.nq w = .ok (false, x) → Ends (.take a b c) s fun y =>
              Three x 0 0 0 y ∧ y.me.task = x.me.task ∧ y.held = x.held)))))

/-- R350, R351: CLAIM and CLAIMP on memory at `p`. The counter or panel is read and written in one access after the strip boundary; VL is the grant. A grant of
nothing from a panel writes nothing. A front that waits for a counter's peer package keeps its cap, and takes the grant from the answer (log 9, the model's
choice), and one that has not asked the peer yet translates again when it goes on (R241); an answered panel that breaks R351 raises TASKERR with SUB 8, once no older instruction is queued, and holds up no trap of one (R72, R356). -/
def Obligations.Claims : Prop :=
  ∀ (s t : State) (a b c : SReg) (i : Instr) (p : Nat),
    let va := (s.reg a).toNat
    let f := s.cur
    let k := t.core (f / 2)
    let new := if f % 2 = 0 then min k.target (64 - k.own1) else min (64 - k.target) (64 - k.own0)
    let win := ((k.setOwn f new).window f).2
    let e := t.me.effective ((s.reg c).field 5 0)
    let cap := min (s.reg b).toNat (min (vlmax win (dW e)) (dCap e))
    let rd_ (o : Nat) := t.read (p + o) 8
    let Two (x y : Word) (u : State) : Prop :=
      (u.reg c = if c = 0 then 0 else y) ∧ (b ≠ c → u.reg b = if b = 0 then 0 else x) ∧ ∀ g, g ≠ b → g ≠ c → u.reg g = s.reg g
    let fresh : Prop := ∀ j m d l, s.me.wait ≠ .claim j m d l
    (fresh → s.trapReady 7 →
      (va % 16 ≠ 0 → Ends (.claim a b c) s (Traps s 7 0 va)) ∧ (va % 64 ≠ 0 → Ends (.claimp a b c) s (Traps s 7 5 va))) ∧
    (∀ m d l cause sub addr phys, s.me.wait = .claim i m d l → s.noAtomic → cause = 8 ∨ cause = 9 → sub < 256 → s.trapReady cause →
      translate s.ctx va .both s = .error (.trap ⟨cause, sub, 0, addr, phys⟩) →
      let T (i : Instr) : Prop := Ends i s (Traps (if cause = 9 ∧ sub = 1 then s else s.missed s.cur addr) cause sub addr)
      T (.claim a b c) ∧ T (.claimp a b c)) ∧
    (∀ m d q r, s.me.wait = .claim i m d (.peer q p) → s.atomicAsked r → r.answer = none →
      Ends (.claim a b c) s (Waits s (.claim (.claim a b c) m d (.peer q p))) ∧
      Ends (.claimp a b c) s (Waits s (.claim (.claimp a b c) m d (.peer q p)))) ∧
    (∀ m d q bs r, s.me.wait = .claim i m d (.peer q p) → s.atomicAsked r → r.answer = some bs → bs ≠ [] →
      panelOk ((List.range 8).map fun j => word (leNat ((bs.drop (8 * j)).take 8))) = false →
      let ended : State := { s with remotes := s.remotes.filter fun x => !(x.agent == .front s.cur && x.cls == 3) }
      (s.trapReady 0x10 → Ends (.claimp a b c) s (Traps ended 0x10 8 va)) ∧
      (s.me.queue ≠ [] → Ends (.claimp a b c) s (Waits ended (.claim (.claimp a b c) m d (.peer q p))))) ∧
    (∀ m d q bs r, s.me.wait = .claim i m d (.peer q p) → s.atomicAsked r → r.answer = some bs → bs ≠ [] →
      let base := leNat (bs.take 8)
      let limit := leNat ((bs.drop 8).take 8)
      let g := if base < limit then min m (limit - base) else 0
      Ends (.claim a b c) s fun u => u.me.vl = word (g + dEw d * 2 ^ 9) ∧ Two (word base) (word g) u ∧ u.remotes = s.remotes.erase r ∧
        Completed s (s.me.pc + 4) (fun y => { y with vl := 0 }) u ∧ (∀ h, h ≠ s.cur → u.front h = s.front h) ∧ SameBytes s u) ∧
    (fresh → translate s.ctx va .both s = .ok (.mem p, t) → EntryFits e win 0 → new ≠ 0 →
      (va % 16 = 0 → t.errAt p 16 = false → t.badAt p 16 = false →
        let g := if rd_ 0 < rd_ 8 then min cap (rd_ 8 - rd_ 0) else 0
        Ends (.claim a b c) s fun u => Granted t new g e u ∧ Two (word (rd_ 0)) (word g) u ∧ Stored t p 8 (rd_ 0 + g) u) ∧
      (va % 64 = 0 → t.errAt p 64 = false → t.badAt p 64 = false →
        let rows := rd_ 0x10 % 2 ^ 24
        let cols := rd_ 0x10 / 2 ^ 32 % 2 ^ 24
        let tr := rd_ 0x18
        let r0 := rd_ 0x20 % 2 ^ 24
        let c0 := rd_ 0x20 / 2 ^ 32 % 2 ^ 24
        rows ≠ 0 → cols ≠ 0 → rd_ 0x10 / 2 ^ 24 % 256 = 0 → rd_ 0x10 / 2 ^ 56 = 0 → 1 ≤ tr → tr ≤ 512 → rd_ 0x20 / 2 ^ 24 % 256 = 0 →
        rd_ 0x20 / 2 ^ 56 = 0 → rd_ 0x28 = 0 → rd_ 0x30 = 0 → rd_ 0x38 = 0 → c0 < cols →
        let g := min cap (cols - c0)
        let h := min tr (rows - r0)
        let to_ : Word := word (rd_ 0) + word r0 * word (rd_ 8) + word (c0 * dW e / 8)
        (r0 < rows → cap ≠ 0 → Ends (.claimp a b c) s fun u => Granted t new g e u ∧ Two to_ (word (h + r0 * 2 ^ 16 + c0 * 2 ^ 40)) u ∧
          Stored t (p + 0x20) 8 (if c0 + g = cols then r0 + h else r0 + (c0 + g) * 2 ^ 32) u) ∧
        (rows ≤ r0 ∨ cap = 0 → Ends (.claimp a b c) s fun u => Granted t new 0 e u ∧ Two 0 0 u ∧ SameBytes t u)))

/-- R326, R327, R328, R329: the rated-set instructions. `d` is the descriptor as read, and the later states are those after the reads and the stores that the rule
gives; the instruction then writes its result. While another front is in the middle of such an instruction on the set, some of which a peer serves, it waits (log 9, the
model's choice). A misaligned descriptor raises ALIGN, and one whose ACTIVE is wrong raises CAPACITY with SUB 18. -/
def Obligations.RatedSets : Prop :=
  ∀ (s t u v : State) (a b c : SReg) (d : SetDesc) (m : Member) (j : Nat),
    let va := (s.reg a).toNat
    let k := (s.reg b).field 19 0
    let x := (s.reg b).field 63 32
    let y := (s.reg c).field 31 0
    let n := (d.step + 1) % 2 ^ 32
    let (z, zf) := m.visit s.ratedEnv d x y
    let Flagged (w : State) (fl : Nat) : State := w.modFront s.cur fun o => o.orFlags fl
    let W (w : State) (r : SReg) (val : Nat) : State → Prop := Writes w r (word val) (w.me.pc + 4)
    (va % 64 ≠ 0 → s.trapReady 7 →
      Ends (.rsbegin a b) s (Traps s 7 5 va) ∧ Ends (.rsnext a b) s (Traps s 7 5 va) ∧ Ends (.rsvisit a b c) s (Traps s 7 5 va) ∧
      Ends (.rsread a b) s (Traps s 7 5 va) ∧ Ends (.rsend a b) s (Traps s 7 5 va)) ∧
    (va % 64 = 0 → s.serving (descLoc s va) = true → ∀ i ∈ [Instr.rsbegin a b, .rsnext a b, .rsvisit a b c, .rsread a b, .rsend a b], Ends i s (Waits s .retry)) ∧
    (va % 64 = 0 → s.serving (descLoc s va) = false →
      (readSet s.ctx va (some false) s = .ok (d, t) →
        StoresTo s.ctx [(va, n), ((va + 8) % 2 ^ 64, (d.getD 1 0).field 8 0 + 2 ^ 9), ((va + 0x28) % 2 ^ 64, 0)] t u →
        Ends (.rsbegin a b) s (W u b n)) ∧
      (readSet s.ctx va (some true) s = .ok (d, t) → nextDue s.ctx d d.cursor (d.count - d.cursor) t = .ok (some j, u) →
        StoresTo s.ctx [((va + 0x28) % 2 ^ 64, j + 1 + d.visits % 2 ^ 21 * 2 ^ 32)] u v → Ends (.rsnext a b) s (W v b j)) ∧
      (readSet s.ctx va (some true) s = .ok (d, t) → nextDue s.ctx d d.cursor (d.count - d.cursor) t = .ok (none, u) →
        StoresTo s.ctx [((va + 0x28) % 2 ^ 64, d.count + d.visits % 2 ^ 21 * 2 ^ 32)] u v → Ends (.rsnext a b) s (W v b (2 ^ 64 - 1))) ∧
      (readSet s.ctx va (some true) s = .ok (d, t) → k < d.count → readMember s.ctx (d.member k) t = .ok (m, u) →
        (m.seen = false ∨ m.last ≠ d.step) →
        StoresTo s.ctx [(d.member k, z.level + 2 ^ 8 + (d.step + 2 ^ z.level) % 2 ^ 32 * 2 ^ 32),
          ((d.member k + 8) % 2 ^ 64, d.step + x * 2 ^ 32), ((d.member k + 16) % 2 ^ 64, y + z.slope * 2 ^ 32), ((d.member k + 24) % 2 ^ 64, 0),
          ((va + 0x28) % 2 ^ 64, d.cursor + (d.visits + 1) % 2 ^ 21 * 2 ^ 32)] u v →
        Ends (.rsvisit a b c) s (W (Flagged v zf) c (z.level + m.level * 2 ^ 4 + (d.step + 2 ^ z.level) % 2 ^ 32 * 2 ^ 32))) ∧
      (readSet s.ctx va none s = .ok (d, t) → k < d.count → readMember s.ctx (d.member k) t = .ok (m, u) →
        Ends (.rsread a b) s (W (Flagged u (m.read s.ratedEnv d).2) b (m.read s.ratedEnv d).1)) ∧
      (readSet s.ctx va (some true) s = .ok (d, t) → StoresTo s.ctx [((va + 8) % 2 ^ 64, (d.getD 1 0).field 8 0)] t u →
        Ends (.rsend a b) s (W u b d.visits)) ∧
      (loadWords s.ctx va 8 s = .ok (d, t) → d.ok = true → s.trapReady 4 →
        (d.active = true → Ends (.rsbegin a b) s (Traps s 4 18 va)) ∧
        (d.active = false → Ends (.rsnext a b) s (Traps s 4 18 va) ∧ Ends (.rsend a b) s (Traps s 4 18 va))))

/-! ### Events of a queue -/

/-- R69: the done instructions at the head of a queue leave it; VCP names the oldest that stays, or is one past the last that left.
R72, R73, R359, R379, R412: the traps that reach the front. The trap of the instruction at the commit point is taken with the queue suspended as
it stands, once no younger one is in the middle of a beat (R358) and no atomic access of the front to a peer is in flight (R356); a STEP stop follows once nothing older
is left but issued products; the watchdog, once no beat and no such access is open, raises WATCHDOG after LIMIT clocks without progress, and in kernel mode stops
the front as a double fault. That a trap met in the queue is recorded and TRAP_ENTRY takes it, and that WATCHDOG, where none is recorded at the commit point, has the
front's VSN in TRAPVSN, is the model's choice (log 54). -/
def Obligations.QueueEvents : Prop :=
  (∀ (s : State) (f : Nat) (e : QEntry) (r : List QEntry), s.runs f = true → (s.front f).queue = e :: r → e.done = true →
      Ends (.instructionComplete f) s fun t => OnlyFront f s t ∧ SameBytes s t ∧
        (t.front f).queue = (e :: r).dropWhile (fun y => y.done) ∧
        (∀ y q, (t.front f).queue = y :: q → (t.front f).vcp = y.vsn) ∧
        ((t.front f).queue = [] → ∀ y, (e :: r).getLast? = some y → (t.front f).vcp = y.vsn + 1) ∧
        { t.front f with queue := [], vcp := 0, idle := 0 } = { s.front f with queue := [], vcp := 0, idle := 0 }) ∧
  (∀ (s : State) (f : Nat), s.runs f = true →
      let x := s.front f
      let busy (y : QEntry) : Bool := y.midBeat || s.inAtomic (.entry f y.vsn)
      let Taken (e : QEntry) (r : List QEntry) (p : TrapRec) (t : State) : Prop :=
        TrapTaken s f p.cause p.sub p.elem p.addr x.pc e.vsn t ∧
        (x.delegates p.cause = false → (t.front f).kernelSet.map (·.instr) = (x.kernelSet ++ e :: r).map (·.instr) ∧
          (t.front f).kernelSet.map (·.progress) = (x.kernelSet ++ e :: r).map (·.progress)) ∧
        (x.delegates p.cause = true → (t.front f).userSet.map (·.instr) = (x.userSet ++ e :: r).map (·.instr) ∧
          (t.front f).userSet.map (·.progress) = (x.userSet ++ e :: r).map (·.progress))
      let lim := (s.die (f / 128)).wdlim.toNat % 2 ^ 32
      (∀ (e : QEntry) (r : List QEntry) (p : TrapRec), x.queue = e :: r → e.trap = some p → x.kernel = false → p.cause < 256 → p.sub < 256 →
        p.elem < 512 →
        let open_ : Bool := s.inAtomic (.front f) || r.any busy
        (open_ = false → Ends (.trapEntry f) s (Taken e r p) ∧ (e.done = false → lim ≠ 0 → lim ≤ x.idle → Ends (.watchdog f) s (Taken e r p))) ∧
        (open_ = true → Ends (.trapEntry f) s (fun t => t = s) ∧ (e.done = false → lim ≠ 0 → lim ≤ x.idle → Ends (.watchdog f) s fun t => t = s))) ∧
      (x.stepDue = true → x.queue.all (fun e => e.done || (e.trap.isNone && e.issued && isProduct e.instr)) = true →
        Ends (.singleStepStop f) s (TrapTaken s f 14 0 0 0 x.pc x.vsn)) ∧
      (lim = 0 ∨ x.idle < lim → Ends (.watchdog f) s fun t => t = s) ∧
      (lim ≠ 0 → lim ≤ x.idle → ((x.queue.find? fun e => !e.done).any fun e => e.trap.isSome) = false →
        ((s.inAtomic (.front f) || x.queue.any busy) = true → Ends (.watchdog f) s fun t => t = s) ∧
        ((s.inAtomic (.front f) || x.queue.any busy) = false → (x.kernel = false → Ends (.watchdog f) s (TrapTaken s f 19 0 0 0 x.pc x.vsn)) ∧
          (x.kernel = true → Ends (.watchdog f) s fun t => (t.front f).halt = .doubleFault 19 ∧ (t.front f).pc = x.pc ∧
            (t.front f).queue = x.queue ∧ t.runs f = false))))

/-- R71, R208, R211, R267, R358, R406: an instruction in the queue that may go on, or issue, and that nothing older holds, performs the bodies of the beat that its next
element starts; when the last was among them, or VSTART is at VL or beyond, it is done. The writer of a STORE strip stores the strip then, from
element 0 on, in one run, and is done after that; one whose VSTART is at its number of elements, or of blocks, or beyond has written nothing and is done without a store
(log 41, DEDUCED), unless it writes whatever VSTART is. Its first issue reads its layout record, marks it issued, and waits for a candidate of the
other front that goes first. A trap that a body raises is recorded with the element's number, an error in storage with its error record too (R376), and of that body
nothing else. An instruction that has one run is performed whole; one that runs in steps keeps what the steps before a stop have done, and its trap has
element 0 (log 66, DEDUCED); one that runs in a piece is done where it has reached its end. Counter 12 counts the beats. The model's choices in it: that a trap is recorded in the queue when the element meets it (log 54); when a beat is
counted, and that one which a trap cuts counts as far as its rows go (log 46); the beats of names of different shapes (log 40); the walks that `s0` asks for ahead of
an indexed access (log 43); and that no record is read where VSTART is at VL or beyond (log 55). -/
def Obligations.QueueIssues : Prop :=
  ∀ (s t0 : State) (f k : Nat) (y z : QEntry), (s.front f).queue[k]? = some y → ready s f k y = true → (s.front f).rowHolds y = [] →
    (y.storing = true ∨ (s.front f).cellHolds k y = []) →
    let s0 := if isIndexed y.instr && !y.storing then runAhead s f y.vl y else s
    (y.issued = true ∧ z = y ∧ t0 = s0) ∨ (y.issued = false ∧ partnerFirst s f y = none ∧ issueEntry s0 f y = (t0, z, none)) →
    let p := z.progress
    let run : Run := if z.storing then .elems z.vl 1 (storeEach f z (t0.front f).binds z.cap.stores) else runOf z f
    let ended (q : Nat) (e : QEntry) : QEntry :=
      if e.cap.stores ≠ [] ∧ e.storing = false ∧ (ignoresStart e.instr = true ∨ e.cap.vstart.field 8 0 < e.total) then
        { e with advanced := true, storing := true, stored := if e.advanced then e.stored else 0, progress := if e.advanced then e.stored else 0 }
      else { e with progress := q, done := true }
    let counted (q : Nat) (e : QEntry) : QEntry :=
      if e.storing = true then { e with countedS := max e.countedS q } else { e with counted := max e.counted q }
    let moved (q : Nat) (all : Bool) (e : QEntry) : QEntry := if all then ended q (counted q e) else { counted q e with progress := q }
    let beats (q : Nat) (all : Bool) : Nat := if z.storing then (if all then z.cap.stores.length else 0) else z.beats q all - z.beats p false
    let Base (q : Nat) (all : Bool) (g : QEntry → QEntry) (t u : State) : Prop := OnlyFront f t u ∧
      (u.front f).queue = (t.front f).queue.map (fun e => if e.vsn = y.vsn then g (moved q all e) else e) ∧
      (u.front f).counter 12 = (t.front f).counter 12 + word (beats q all) ∧
      { u.front f with queue := [], counters := [] } = { t.front f with queue := [], counters := [] }
    let Goes (q : Nat) (all : Bool) (t : State) : Prop := Ends (.instructionIssue f k 1) s (Base q all id t)
    let Stops (q : Nat) (tr : TrapRec) (t : State) : Prop :=
      Ends (.instructionIssue f k 1) s (Base q false (fun e => { e with trap := some tr }) (logTrap t f tr y.vsn.toNat))
    (∀ stop unit body, run = .elems stop unit body → stop ≤ p → Goes p true t0) ∧
    (∀ stop unit body, run = .elems stop unit body → p < stop → 0 < unit →
      let n := min (if z.storing then z.vl else if isSerial z.instr || isProduct z.instr then 1 else (z.beatCeil (p + unit) - p + unit - 1) / unit)
        ((stop - p + unit - 1) / unit)
      (∀ t, Chain (fun j a b => body (p + j * unit) a = .ok ((), b)) n 0 t0 t → Goes (min (p + n * unit) stop) (decide (stop ≤ p + n * unit)) t) ∧
      (∀ j t tr, j < n → Chain (fun j a b => body (p + j * unit) a = .ok ((), b)) j 0 t0 t → body (p + j * unit) t = .error (.trap tr) →
        Stops (p + j * unit) { tr with elem := p + j * unit } t)) ∧
    (∀ body t, run = .whole body → body t0 = .ok ((), t) → Goes p true t) ∧
    (∀ body tr, run = .whole body → body t0 = .error (.trap tr) → Stops p tr t0) ∧
    (∀ g q t, run = .part g → g none t0 = (t, q, none) → Goes q (decide (z.total ≤ q)) t) ∧
    (∀ g q t tr, run = .part g → g none t0 = (t, q, some (.trap tr)) → Stops q tr t) ∧
    (∀ check n body t1 t, run = .steps check n body → check t0 = .ok ((), t1) → Chain (fun j a b => body j a = .ok ((), b)) n 0 t1 t → Goes p true t) ∧
    (∀ check n body tr, run = .steps check n body → check t0 = .error (.trap tr) → Stops p { tr with elem := 0 } t0) ∧
    (∀ check n body j t1 t tr, run = .steps check n body → check t0 = .ok ((), t1) → j < n → Chain (fun j a b => body j a = .ok ((), b)) j 0 t1 t →
      body j t = .error (.trap tr) → Stops p { tr with elem := 0 } t)

/-- R203, R228, R304, R305, R337, R346: what wakes a front. A monitor that has fired, a timeout that has passed and a recheck disarm the front, so that its WAITW
checks again; a TAKE awake again, and a SETVL that can own columns, go on; a bound front that owns its whole share starts, with the die's KVEC as its
handler. That these events only disarm the front or clear its wait, and the front goes on in a turn of its own, is the model's choice (log 56). -/
def Obligations.Wakes : Prop :=
  ∀ (s : State) (f : Nat), s.pkg.tripped = false →
    let x := s.front f
    let k := s.core (f / 2)
    let own := if f % 2 = 0 then k.own0 else k.own1
    let share := if f % 2 = 0 then k.target else 64 - k.target
    let off (t : State) : Prop := t = { s with monitors := s.monitors.filter fun m => m.fid != f }
    let goes (t : State) : Prop := OnlyFront f s t ∧ t.front f = { x with wait := .no }
    (∀ m ∈ s.monitors, m.fid = f → m.fired = true → Ends (.waitwMonitorFire f) s off) ∧
    (∀ st lim, x.wait = .waitw st lim → lim ≠ 2 ^ 64 - 1 → st + lim ≤ s.clock → Ends (.waitwTimeout f) s off) ∧
    Ends (.waitwRecheck f) s off ∧
    (x.wait = .woken → Ends (.takeWake f) s goes) ∧
    (x.wait = .lanes → 0 < share → 64 - (if f % 2 = 0 then k.own1 else k.own0) ≠ 0 → Ends (.laneTake f) s goes) ∧
    ((s.slot f).state = 1 → share ≤ own → Ends (.frontStart f) s fun t => t.slot f = { s.slot f with state := 2 } ∧
      t.launch (s.slot f).lid = { s.launch (s.slot f).lid with started := (s.launch (s.slot f).lid).started + 1 } ∧
      t.front f = { x with trapvec := (s.die (f / 128)).kvec } ∧ (∀ g, g ≠ f → t.front g = s.front g ∧ t.slot g = s.slot g) ∧
      { t with slots := s.slots, launches := s.launches, fronts := s.fronts } = s)

/-- R237, R238, R239, R240, R380: the oldest waiting walk of a die. A page that no TLB of the core or its cluster holds, and whose three levels lead to a leaf that the
access may use, comes into both; a walk that faults, or whose leaf refuses the access, fills nothing. A doubleword of the tables in error, or in a bad block, is
taken as it stands, and recorded (R376; log 71, the model's choice).
R266, R271: the filler of a LOAD binding fills the rest of its next row, one beat. A position that lies beyond the pattern fills with zero
bits, the cell's tags kept; one that does not is read from memory. A fault stops it there, recorded (R376), and is kept with its element for the instruction that needs it; that counter 12 then counts nothing of the beat
until its row is whole, and that the record holds the number of the instruction that has popped the row, or 0, is the model's choice (logs 46 and 42). -/
def Obligations.WalksAndFills : Prop :=
  (∀ (s : State) (d : Nat) (w : Walk) (r : List Walk), s.pkg.tripped = false → (s.die d).walks = w :: r →
      (s.core w.core).utlb.find? (fun t => t.hit w.asid w.va) = none → (s.tlb2 (w.core / 8)).find? (fun t => t.hit w.asid w.va) = none →
      let need : Need := if w.rd && w.wr then .both else if w.wr then .write else .read
      let y := (s.modDie d fun x => { x with walks := r }).walked (2 * w.core) w.asid w.va
      let Nothing (u : State) : Prop := u = y
      (∀ t l, walk s w.asid w.va = .ok t → leafCheck s w.user need t w.va = .ok l → (s.core w.core).utlb.length < 48 →
        (s.tlb2 (w.core / 8)).length < 2048 →
        Ends (.pageWalk d) s fun u => (u.core w.core).utlb = (s.core w.core).utlb ++ [t] ∧
          u.tlb2 (w.core / 8) = s.tlb2 (w.core / 8) ++ [t] ∧ { u with cores := y.cores, l2 := y.l2 } = y) ∧
      (∀ t n, walk s w.asid w.va = .ok t → leafCheck s w.user need t w.va = .error n → Ends (.pageWalk d) s Nothing) ∧
      (∀ n, walk s w.asid w.va = .error n → Ends (.pageWalk d) s Nothing) ∧ (y.die d).walks = r ∧
      ((∀ a ∈ walkReads s w.asid w.va, s.cleanAt a 8) → y = s.modDie d fun x => { x with walks := r })) ∧
  (∀ (s : State) (f k : Nat) (b : Binding), s.runs f = true → (s.front f).binds.find? (fun p => p.1 == k) = some (k, b) →
      (s.front f).fillable k b = true →
      let n := dNelem b.ring
      let c : Ctx := ⟨.filler f k, f, (s.front f).asid, !b.kern, b.spbase.field 51 20 * 2 ^ 20⟩
      let read (p : Nat) := elemRead c false 0 (dW b.ring / 8) (placeAt b.base b.record p)
      let Fill (p : Nat) (a z : State) : Prop := ∃ v t, ((recLen b.record ≤ p ∧ v = 0 ∧ t = a) ∨ (p < recLen b.record ∧ read p a = .ok (v, t))) ∧
        putKeep f b.first b.ring (p / n % dRows b.ring * n + p % n) v t = .ok ((), z)
      let At (q : Nat) (fault : Option TrapRec) (t u : State) : Prop := OnlyFront f t u ∧
        (u.front f).binds = (t.front f).binds.map (fun p => if p.1 = k then (p.1, { p.2 with fillPos := q, fault := fault }) else p) ∧
        (u.front f).counter 12 = (t.front f).counter 12 + word (q / n - b.fillPos / n) ∧
        { u.front f with binds := [], counters := [] } = { t.front f with binds := [], counters := [] }
      (∀ t, Chain (fun j => Fill (b.fillPos + j)) (n - b.fillPos % n) 0 s t →
        Ends (.streamFill f k) s (At (b.fillPos + (n - b.fillPos % n)) none t)) ∧
      (∀ j t q, j < n - b.fillPos % n → Chain (fun j => Fill (b.fillPos + j)) j 0 s t → b.fillPos + j < recLen b.record →
        read (b.fillPos + j) t = .error (.trap q) →
        let q' : TrapRec := { q with elem := (b.fillPos + j) % n }
        Ends (.streamFill f k) s (At (b.fillPos + j) (some q') (logTrap t f q' (((s.front f).pendingAll.find? fun e =>
          e.cap.pops.contains (k, b.fillPos / n)).map (·.vsn.toNat) |>.getD 0)))))

/-! ### Engine jobs -/

/-- R290, R294, R296, R298, R300, R303, R317, R389, R390, R391: a job instruction at its issue. With 32 jobs of the front accepted and not ended it waits. The card and the pair are translated,
the card is read whole and checked (by the model's function of R296), before the tags of XGATH's index (log 20, DEDUCED), and the job joins the dispatcher's list with its handle, card, pair and value; under ORD it
comes after the front's previous job; it is now the front's previous job. XGATH reads its row numbers, a collective its group and the number of its call, and CXRED.CUP takes its
cupping list; a group table that breaks R389 or does not suit the card traps it too, and one outside every RD region fails the accepted job (log 21, the model's choice). A fault traps it at VSTART, a card that fails its check with CAPACITY, SUB 17,
and it is not accepted. A job that was cancelled in the queue is accepted as one that has ended with CANCELLED, with nothing read (R303; log 36, the model's choice). -/
def Obligations.JobAcceptance : Prop :=
  ∀ (s t1 t2 t u : State) (f : Nat) (e : QEntry) (a b r : SReg) (vx : VName) (ord : Bool) (card : List Word) (l : Loc),
    let x := s.front f
    let c : Ctx := ⟨.entry f e.vsn, f, x.asid, !e.cap.kern, e.cap.spbase.field 51 20 * 2 ^ 20⟩
    let va := (e.scal 0).toNat
    let pair := (e.scal 1).toNat
    let plain : List Instr := [.xcopy a b r ord, .xfill a b r ord, .agsweep a b r ord, .unorm a b r ord, .uapply a b r ord]
    let gath : Instr := .xgath a b r vx ord
    let colls : List Instr := [.cxred a b r false, .cxgath a b r, .cxa2a a b r, .cxbar a b r]
    let cup : Instr := .cxred a b r true
    let any : List Instr := gath :: cup :: (plain ++ colls)
    let job (w : State) (card : List Word) (ordered : Bool) : Job :=
      { fid := f, rank := (w.front f).rank, handle := e.handle, lid := (w.front f).lid, asid := (w.front f).asid, core := f / 2, user := !e.cap.kern, instr := e.instr
        card := card, pair := e.scal 1, pairAt := l, pairPaged := !decide (c.spbase ≤ pair ∧ pair < c.spbase + 327680), value := e.scal 2, running := false, moved := false, cause := 0, sub := 0, stage := 0, agreed := false, cupAt := []
        prog := (card.getD 0 0).field 63 32, sure := (card.getD 0 0).field 63 32, after := if ordered then (w.front f).lastJob else none, gstep := e.cap.gstep, decay := e.cap.decay, acc := []
        rows := [], group := [], call := 0, cup := [], plan := none }
    let Joins (w : State) (j : Job) (y : State) : Prop := y.jobs = w.jobs ++ [j] ∧ (y.front f).lastJob = some e.handle ∧
      { y.front f with lastJob := none } = { w.front f with lastJob := none } ∧ (∀ g, g ≠ f → y.front g = w.front g) ∧
      { y with fronts := [], jobs := [] } = { w with fronts := [], jobs := [] }
    let failed (ok : Bool) (j : Job) : Job := if ok then j else { j with running := true, moved := true, cause := 9, sub := 7, prog := 0 }
    let Stops (p : TrapRec) : Prop := StopsWhole e f s { p with elem := e.start }
    let mine := (s.jobs.filter fun j => j.lid == x.lid && j.rank == x.rank).length
    e.instr ∈ any →
    (32 ≤ mine → ∃ m, runOf e f = .whole m ∧ m s = .error (.wait none)) ∧
    (mine < 32 → e.aux = 1 → translate c pair .write s = .ok (l, t) → e.instr ∈ gath :: plain → RunsWhole e f s
      (Joins t { job t [] ord with running := true, moved := true, cause := 0x20 })) ∧
    (mine < 32 → e.aux ≠ 1 →
      (∀ p, touchPages c .read va 192 4 s = .error (.trap p) → Stops p) ∧
      (touchPages c .read va 192 4 s = .ok ((), t1) →
        (∀ p, translate c pair .write t1 = .error (.trap p) → Stops p) ∧
        (translate c pair .write t1 = .ok (l, t2) →
          (∀ p, loadWords c va 24 t2 = .error (.trap p) → Stops p) ∧
          (loadWords c va 24 t2 = .ok (card, t) →
            (cardOk e.instr card = false → Stops ⟨4, 17, 0, va, 0⟩) ∧
            (cardOk e.instr card = true →
              (e.instr ∈ plain → RunsWhole e f s (Joins t (job t card ord))) ∧
              (∀ rows, e.instr = gath → gathRows e f (e.vl - e.start) e.start t = .ok (rows, u) →
                RunsWhole e f s (Joins u { job t card ord with acc := [e.start], rows := rows })) ∧
              (∀ p, e.instr = gath → gathRows e f (e.vl - e.start) e.start t = .error (.trap p) → Stops p) ∧
              (∀ p, e.instr ∈ cup :: colls → acceptGroup c va card t = .error (.trap p) → Stops p) ∧
              (∀ g call ok, acceptGroup c va card t = .ok ((g, call, ok), u) →
                (e.instr ∈ colls → RunsWhole e f s (Joins u (failed ok { job t card false with group := g, call := call }))) ∧
                (e.instr = cup → RunsWhole e f s (Joins (modCup (t.front f).lid (ctlSel card) (fun _ => []) u)
                  (failed ok { job t card false with group := g, call := call, cup := spGet [] (u.launch (t.front f).lid).cups (ctlSel card) })))))))))

/-- R290, R291, R297, R303, R392: the dispatcher releases a job that nothing orders after another; a running job makes its steps, and one whose payload has ended, and
which no order holds back, writes its status word and then its completion word, each once every write that it has made before has been performed, and is gone; a
completion pair in a peer takes them one at a time (R290; log 4, the model's choice). A member's job of a group's call goes on, and ends with the
call where another member has failed. That JOB_RELEASE only makes the job running and JOB_END is what is left of its payload, and its end, is the
model's choice (log 57).
R299, R300, R301: a position of a COPY, FILL or GATH. R317, R318, R320, R321, R322: an element of AGSWEEP, UNORM and UAPPLY, and the record that each writes. R394,
R395, R396: what a member of a collective reads, and what it writes of the members' data; every member succeeds, or none (R392): that a member, once its writes have been
performed, posts a verdict of two bytes to the others, is settled from then on, and succeeds once every stream holds one, is the model's choice (log 9).
A COPY of whole aligned blocks carries their checks, in whatever order its dimensions walk them (R247, R299), and R376's records of the walks are made. R398: CUPADD and CUPCLR. A fault ends the job with its cause
and SUB (R292). The arithmetic of R318, R322 and the tree of R394 are the model's functions (Machine/Training.lean, Machine/Collectives.lean). -/
def Obligations.JobEvents : Prop :=
  (∀ (s : State) (f h gid : Nat) (j : Job), s.pkg.tripped = false → (s.jobs.find? fun x => x.agent == j.agent) = some j →
    ((s.jobs.find? fun x => x.fid == f && x.handle.toNat == h && x.releasable (s.before x)) = some j →
      Ends (.jobRelease f h) s fun t => t.jobs = s.jobs.map (fun x => if x.agent = j.agent then { j with running := true } else x) ∧
        { t with jobs := s.jobs } = s) ∧
    ((s.jobs.find? fun x => x.fid == f && x.handle.toNat == h && x.running) = some j →
      (∀ p, j.moved = true → j.mayEnd (s.before j) = true → j.group = [] → j.stage = 0 → s.postedBy (fun a => a == j.agent) = false →
        j.pairAt = .mem p → s.partErr p 8 = false → s.partErr (p + 8) 8 = false → s.partBad p 8 = false → s.partBad (p + 8) 8 = false →
        Ends (.jobEnd f h) s fun t =>
          t.jobs = s.jobs.filter (fun x => x.agent != j.agent) ∧ t.read p 8 = j.value.toNat ∧
          t.read (p + 8) 8 = j.cause % 256 + j.sub % 256 * 2 ^ 8 + j.prog % 2 ^ 40 * 2 ^ 24 ∧
          (∀ x, ¬ (p ≤ x ∧ x < p + 16) → t.byte x = s.byte x) ∧ t.fronts = s.fronts ∧ t.cores = s.cores) ∧
      (∀ d a u, j.moved = true → j.mayEnd (s.before j) = true → j.group = [] → s.postedBy (fun a => a == j.agent) = false → j.pairAt = .peer d a →
        (j.stage = 0 → s.send d 0 0 8 (a + 8) (leBytes 8 (j.cause % 256 + j.sub % 256 * 2 ^ 8 + j.prog % 2 ^ 40 * 2 ^ 24)) j.agent = some u →
          u.postedBy (fun a => a == j.agent) = true → Ends (.jobEnd f h) s fun t => t = u.setJob { j with stage := 1 }) ∧
        (j.stage = 1 → s.send d 0 0 8 a (leBytes 8 j.value.toNat) j.agent = some u →
          u.postedBy (fun a => a == j.agent) = true → Ends (.jobEnd f h) s fun t => t = u.setJob { j with stage := 2 }) ∧
        (j.stage = 2 → Ends (.jobEnd f h) s fun t => t.jobs = s.jobs.filter (fun x => x.agent != j.agent) ∧ t.fronts = s.fronts ∧ SameBytes s t)) ∧
      (j.moved = true → j.mayEnd (s.before j) = false ∨ s.postedBy (fun a => a == j.agent) = true → Ends (.jobEnd f h) s fun t => t = s) ∧
      ∀ n t k, n ≤ 2 ^ 44 → Chain (fun _ a b => ∃ x, (a.jobs.find? fun y => y.agent == j.agent) = some x ∧ x.running = true ∧ x.moved = false ∧
          jobStep a (x.checked a) = (b, true)) n 0 s t →
        (t.jobs.find? fun y => y.agent == j.agent) = some k → k.moved = true →
        Ends (.jobEnd f h) s fun u => u = if k.mayEnd (t.before k) then finishJob t k else t) ∧
    ((s.jobs.find? fun x => x.running && !x.moved && !x.group.isEmpty && grpGid x.group == gid) = some j → 6 ≤ cardKind j.card →
      (∀ c sub, callBroken s j = some (c, sub) → Ends (.collectiveCallEnd gid) s fun t =>
        t.jobs = s.jobs.map (fun x => if x.agent = j.agent then j.ended c sub 0 else x) ∧ { t with jobs := s.jobs } = s) ∧
      ∀ t, collectiveStep s j = (t, false) → Ends (.collectiveCallEnd gid) s fun u => u = t)) ∧
  (∀ (s t u : State) (j : Job) (v a b : Nat) (x : Elem),
    let w (k : Nat) : Word := j.card.getD k 0
    let kind := (w 0).field 3 0
    let es := 2 ^ (w 0).field 9 8
    let p := j.prog
    let To (k : Job) (y : State) : Prop := JobMoves s j fun k' y' => k' = k ∧ y' = y
    let next : Job := { j with prog := p + 1 }
    let d := (w 0).field 14 12
    let dims := List.range d
    let ext (k : Nat) := recExt (w (16 + k))
    let n (q k : Nat) := q / ((List.range k).map ext).prod % ext k
    let from_ (q k : Nat) : Int := (n q k : Int) - ((w 20).field (16 * k + 7) (16 * k) : Nat)
    let insideAt (q : Nat) : Prop := ∀ k, k < d → 0 ≤ from_ q k ∧ from_ q k < recExt (w (12 + k))
    let srcAt (q : Nat) := cardAddr (w 10) ((dims.map fun k => from_ q k * recStride (w (12 + k))).sum)
    let goalAt (q : Nat) := cardAddr (w 11) ((dims.map fun k => (n q k : Int) * recStride (w (16 + k))).sum)
    let inside : Prop := insideAt p
    let src := srcAt p
    let goal := goalAt p
    let per := 256 / es
    let total := (dims.map ext).prod
    let blocks : Prop := goal.2 % 256 = 0 ∧ p + per ≤ total ∧ ∀ q, q < per → goalAt (p + q) = (goal.1, goal.2 + es * q)
    let copies : Prop := src.2 % 256 = 0 ∧ ∀ q, q < per → insideAt (p + q) ∧ srcAt (p + q) = (src.1, src.2 + es * q)
    let val := (w 21).toNat % 256 ^ es
    let rlen := (w 13).field 23 0
    let i := j.acc.headD 0 + p / (rlen / es)
    let off : Int := (p % (rlen / es) * es : Nat)
    let count := recExt (w 15) * recExt (w 16)
    let step := j.gstep.toNat
    let aged (q : Nat) := decayed (es == 4) j.decay step q
    let f32 (k lo : Nat) := (w k).toNat / 2 ^ lo % 2 ^ 32
    let mul (y z : Nat) := (mul32 y z).1
    let add (y z : Nat) := (add32 y z).1
    let c := recExt (w 15)
    let at_ (base k : Nat) := cardAddr (w base) ((p % c : Nat) * recStride (w k) + (p / c : Nat) * recStride (w (k + 1)))
    let moment (base : Nat) := cardAddr (w base) (p * es : Nat)
    let logged (z : State) : State := j.paid goal z
    let Read_ (j : Job) : Prop := ∃ s1 s2 s3, payRead j 4 (at_ 10 15) s = .ok (x.w, s1) ∧ payRead j 4 (at_ 12 15) s1 = .ok (x.g, s2) ∧
      payRead j es (moment 13) s2 = .ok (x.qm, s3) ∧ payRead j es (moment 14) s3 = .ok (x.qv, t) ∧
      x.m = add (aged x.qm).1 (mul (f32 19 0) x.g) ∧ x.v = add (aged x.qv).1 (mul (f32 19 32) (mul x.g x.g)) ∧
      x.u = add (d32 x.m (add (sqrt32 x.v) (f32 20 0))) (mul (f32 20 32) x.w) ∧ x.stale = ((aged x.qm).2.1 || (aged x.qv).2.1)
    let sums := j.acc ++ List.replicate (4 - j.acc.length) 0
    let added := sums.take 3 ++ [sums.getD 3 0 + b2n x.stale] ++ sums.drop 4 ++ [mul x.w x.w, mul x.u x.u, mul x.g x.g]
    let (rho, cc, tau, kk) := factors j.card
    let new := (rne (Fp.add .rne (val32 x.w) (Fp.negate (val32 (mul kk x.u))))).1
    let Record (res : Word) (ws : List Nat) : Prop :=
      Chain (fun q a b => payWrite j 8 (cardAddr res (8 * q : Nat)) (ws.getD q 0) a = .ok ((), b)) 4 0 s t → To (j.ended 0 0 p) t
    (kind = 0 → p < total → ¬ blocks → inside → carriesBad s j p = false → payRead j es src s = .ok (v, t) → payWrite j es goal v t = .ok ((), u) → To next u) ∧
    (kind = 0 → p < total → ¬ blocks → inside → carriesBad s j p = true → payLoc j es src .read s = .ok (.mem a, t) →
      payLoc j es goal .write t = .ok (.mem b, u) → u.errAt a es = false → u.partErr b es = false →
      let z := u.write b (leBytes es (u.read a es))
      To next (if (blockMates j p).getLast? = some p then { z with badBlk := spSet false z.badBlk (b / 256) (u.badAt (a / 256 * 256) 256) } else z)) ∧
    (∀ pkg y, kind = 0 → p < total → ¬ blocks → inside → carriesBad s j p = true → payLoc j es src .read s = .ok (.peer pkg a, t) →
      payLoc j es goal .write t = .ok (.mem b, u) → readLoc j.agent (.peer pkg a) es src.rep u = .ok (v, y) → y.partErr b es = false →
      let z := y.write b (leBytes es v)
      To next (if (blockMates j p).getLast? = some p then { z with badBlk := spSet false z.badBlk (b / 256) false } else z)) ∧
    (kind = 0 → p < total → ¬ blocks → ¬ inside → payWrite j es goal val s = .ok ((), t) → To next t) ∧
    (kind = 2 → p < total → ¬ blocks → payWrite j es goal val s = .ok ((), t) → To next t) ∧
    (kind = 0 → p < total → blocks → copies → payLoc j 256 goal .write s = .ok (.mem b, t) →
      payLoc j 256 src .read s = .ok (.mem a, u) → s.errAt a 256 = false →
      let z := s.write b (s.bytes a 256)
      (s.badAt a 256 = false → To { j with prog := p + per } (j.paid src (logged z))) ∧
      (s.badAt a 256 = true → inCxl b = false →
        To { j with prog := p + per } (j.paid src (logged { z with badBlk := spSet false z.badBlk (b / 256) true })))) ∧
    (kind = 0 → p < total → blocks → ¬ copies → payLoc j 256 goal .write s = .ok (.mem b, t) → ∀ vs, readRun per p (copyValue j) s = .ok (vs, u) →
      To { j with prog := p + per } (logged (u.write b (vs.flatMap (leBytes es))))) ∧
    (kind = 2 → p < total → blocks → payLoc j 256 goal .write s = .ok (.mem b, t) →
      To { j with prog := p + per } (logged (s.write b ((List.replicate per val).flatMap (leBytes es))))) ∧
    (kind = 0 ∨ kind = 2 → total ≤ p → To (j.ended 0 0 p) s) ∧
    (kind = 1 → p < j.rows.length * (rlen / es) →
      (j.rows.getD (p / (rlen / es)) none = none → To next s) ∧
      ∀ y, j.rows.getD (p / (rlen / es)) none = some y → payRead j es (cardAddr (w 10) (y * (w 12).toInt + off)) s = .ok (v, t) →
        payWrite j es (cardAddr (w 11) ((i * (w 14).toNat : Nat) + off)) v t = .ok ((), u) → To next u) ∧
    (kind = 3 → p < (w 11).toNat → payLoc j es (moment 10) .both s = .ok (.mem a, t) → t.cleanAt a es →
      match sweepWord (es == 4) j.decay step ((w 13).field 23 0) (t.read a es) with
      | none => To { next with acc := [j.acc.getD 0 0, j.acc.getD 1 0] } t
      | some (y, stale) => JobMoves s j fun k z =>
          k = { next with acc := if stale = 0 then [j.acc.getD 0 0 + 1, j.acc.getD 1 0] else [j.acc.getD 0 0, j.acc.getD 1 0 + 1] } ∧ Stored t a es y z) ∧
    (kind = 4 → p < count → Read_ j → To { next with acc := if added.length = 772 then flushChunk added else added } t) ∧
    (kind = 5 → p < count → (j.planned s).fails p = none → Read_ (j.planned s) → ∀ s1 s2 s3,
      let k := j.planned s
      payWrite k 4 (at_ 10 15) new t = .ok ((), s1) → payWrite k 4 (at_ 11 17) new s1 = .ok ((), s2) →
      payWrite k es (moment 13) (restamp k x.qm x.m) s2 = .ok ((), s3) → payWrite k es (moment 14) (restamp k x.qv x.v) s3 = .ok ((), u) →
      To { k with prog := p + 1, acc := [j.acc.headD 0 + b2n x.stale] } u) ∧
    (kind = 3 → (w 11).toNat ≤ p → Record (w 12) [j.acc.getD 0 0, j.acc.getD 1 0, 0, 0]) ∧
    (kind = 4 → count ≤ p → let z := flushChunk j.acc
      Record (w 23) [z.getD 0 0 + z.getD 1 0 * 2 ^ 32, z.getD 2 0, 0, z.getD 3 0]) ∧
    (kind = 5 → count ≤ p → Record (w 1) [rho + cc * 2 ^ 32, tau + kk * 2 ^ 32, 0, j.acc.headD 0]) ∧
    (∀ q : TrapRec, kind < 3 → p < jobCount j → bodyStep j s = .error (.trap q) →
      jobStep s j = ((logJob s j q).setJob (j.ended q.cause (if q.cause = 0x0A ∨ q.cause = 0x0B then 0 else q.sub) p), false))) ∧
  (∀ (s t : State) (j : Job) (v : Nat) (ds : Nat → List Byte),
    let w (k : Nat) : Word := j.card.getD k 0
    let kind := (w 0).field 3 0
    let es := 2 ^ (w 0).field 9 8
    let count := (w 13).field 39 0
    let size := grpSize j.group
    let To (k : Job) (y : State) : Prop := JobMoves s j fun k' y' => k' = k ∧ y' = y
    let elem (r e : Nat) := leNat (((ds r).drop (e * es)).take es)
    let got := (j.acc.drop 1).length
    let share := if (w 14).flag 16 then count / size else count
    let e := (if (w 14).flag 16 then grpRank j.group * share else 0) + j.prog
    let dst := cardAddr (w 12) (j.prog * es : Nat)
    callBroken s j = none → (j.agreed = true ∨ disagrees s j = false) →
    (kind = 6 ∨ kind = 7 → bodyOf (j.own s) = none → (cupBlocks j.cup).length ≤ j.prog → got < count →
      payRead j es (cardAddr (w 11) (got * es : Nat)) s = .ok (v, t) → To { j with acc := j.acc.headD 0 :: (j.acc.drop 1 ++ [v]) } t) ∧
    ((∀ r, r < size → bodyOf (j.stream s r) ≠ none ∧ j.partOf s r = ds r) → bodyOf (j.own s) ≠ none → rxBad s j = false → j.agreed = false →
      (kind = 7 → j.prog < size * count → (ds (j.prog / count)).length = count * es →
        payWrite j es dst (elem (j.prog / count) (j.prog % count)) s = .ok ((), t) → To { j with prog := j.prog + 1 } t) ∧
      (kind = 6 → j.prog < share → payWrite j es dst (collResult s j e) s = .ok ((), t) → To { j with prog := j.prog + 1 } t) ∧
      (kind = 6 → (w 14).field 1 0 = 0 → (w 14).field 13 8 ∈ [5, 6, 7, 8] → es = idWidth ((w 14).field 13 8) / 8 → 0 < size → size ≤ 1024 →
        (∀ r, r < size → (e + 1) * es ≤ (ds r).length) →
        collResult s j e = ((List.range size).map fun r => elem r e).sum % 256 ^ es) ∧
      (∀ m q, kind = 8 → collWrite s j j.prog = some (m, q, v) → payWrite j m q v s = .ok ((), t) → To { j with prog := j.prog + 1 } t) ∧
      (6 ≤ kind → collWrite s j j.prog = none → s.postedBy (fun a => a == j.agent) = true → jobStep s j = (s, false)) ∧
      (∀ u l, 6 ≤ kind → collWrite s j j.prog = none → s.postedBy (fun a => a == j.agent) = false → cupCheck j s = .ok (l, t) →
        t.post j (fun _ => leBytes 2 0) = some u → To { j with agreed := true, cupAt := l } u) ∧
      (isCupRed j.instr = false → cupCheck j s = .ok ([], s))) ∧
    ((∀ r, r < size → bodyOf (j.stream s r) ≠ none) → bodyOf (j.own s) ≠ none → rxBad s j = false → 6 ≤ kind → j.agreed = true → isCupRed j.instr = false →
      (∀ r, r < size → (verdictsOf (j.stream s r)).length < 2 → jobStep s j = (s, false)) ∧
      ((∀ r, r < size → 2 ≤ (verdictsOf (j.stream s r)).length) → jobStep s j =
        ({ s.setJob (j.ended 0 0 (collProg s j)) with freeCtr := s.freeCtr + 1 }, true)))) ∧
  (∀ (s : State) (f : Nat) (e : QEntry) (n : BitVec 2) (a b : SReg),
    let lid := (s.front f).lid
    let list (t : State) : List (Word × Word) := spGet [] (t.launch lid).cups n.toNat
    let x := e.scal 0
    let y := (e.scal 1).toNat
    let Becomes (l : List (Word × Word)) (t : State) : Prop := list t = l ∧ { t with launches := s.launches } = s ∧
      (∀ m, m ≠ n.toNat → spGet [] (t.launch lid).cups m = spGet [] (s.launch lid).cups m) ∧
      { t.launch lid with cups := [] } = { s.launch lid with cups := [] } ∧ ∀ g, g ≠ lid → t.launch g = s.launch g
    (e.instr = .cupclr n → RunsWhole e f s (Becomes [])) ∧
    (e.instr = .cupadd n a b →
      (x.toNat % 256 ≠ 0 → StopsWhole e f s ⟨7, 6, e.start, x.toNat, 0⟩) ∧
      (x.toNat % 256 = 0 → (y % 256 ≠ 0 ∨ y = 0 ∨ 2 ^ 40 - 256 < y ∨ 16 ≤ (list s).length) → StopsWhole e f s ⟨4, 21, e.start, 0, 0⟩) ∧
      (x.toNat % 256 = 0 → y % 256 = 0 → y ≠ 0 → y ≤ 2 ^ 40 - 256 → (list s).length < 16 →
        RunsWhole e f s (Becomes (list s ++ [(x, e.scal 1)])))))

/-! ### Launches, slots and pre-emption -/

/-- R330, R332, R333, R338: a doorbell writes TAIL; LOPEN of an acceptable head descriptor takes it and opens the lowest free LID; an attempt on an empty or
disabled queue, on one whose ring is not served (log 59, the model's choice), or on one that ageing passes over, and one with no entry free, writes LRES alone. A descriptor
that breaks R331, or whose ASID is not valid, is taken: WQERR records it, and the completion pair of the former is written where it can be; else NOPAIR is set, and a bad block that
stopped it is recorded (R247, R376). A launch that is over, whatever of its fronts' writes to peers has been performed included, writes its completion pair and frees its LID; where the pair cannot be
written, the LID is freed all the same, and LDERR records it with the cause. What is read in error of a descriptor, of its ASID entry and by the walks of its pair is taken as it
stands, and recorded, the walks in die 0's ring (log 71, the model's choice): `u` and `walks` are the states with these records. -/
def Obligations.LaunchEvents : Prop :=
  ∀ (s : State) (q lid : Nat) (tail : BitVec 32), s.pkg.tripped = false →
    let w := s.queue q
    let h := w.head.toNat % 2 ^ 32
    let u := logOpen s q (openErr s q)
    let res (id err : Nat) (t : State) : Prop := t.pkg = { s.pkg with lresLid := id, lresErr := err }
    let alone (err : Nat) (y : State) : Prop := Rings 0x62E0000000 (.lopen q) s fun t => res 0 err t ∧ { t with pkg := y.pkg } = y
    let taken : WorkQueue := { w with head := word ((h + 1) % 2 ^ 32), age := 0 }
    let second (d : List Word) : Nat := ((ldWord d 0x40).toNat + 8) % 2 ^ 64
    let pair (y : State) (d : List Word) (p : Nat) : Prop := engWalk y (ldAsid d) true (ldWord d 0x40).toNat .write = .ok (.mem p) ∧
      engWalk y (ldAsid d) true (second d) .write = .ok (.mem (p + 8))
    let walks (y : State) (d : List Word) : State := pairWalks y (ldAsid d) (ldWord d 0x40).toNat
    let sound (y : State) (p : Nat) : Prop := y.partErr p 8 = false ∧ y.partErr (p + 8) 8 = false ∧ y.partBad p 8 = false ∧ y.partBad (p + 8) 8 = false
    let stopped (y : State) (p : Nat) : Prop := y.partErr (p + 8) 8 = false ∧ y.partBad (p + 8) 8 = true
    let Pair (y : State) (p value status : Nat) (t : State) : Prop := t.read p 8 = value ∧ t.read (p + 8) 8 = status ∧
      ∀ x, ¬ (p ≤ x ∧ x < p + 16) → t.byte x = y.byte x
    let lost (y : State) (d : List Word) (c n : Nat) : Prop := engWalk y (ldAsid d) true (ldWord d 0x40).toNat .write = .error (c, n) ∧
      ∃ x, engWalk y (ldAsid d) true (second d) .write = .error x
    let failing (y : State) (d : List Word) (p : Nat) : State := errRecord (walks y d) (homeDie (p + 8)) (second d) (p + 8) (ldAsid d) 5 0 0 0
    Rings (0x6240000018 + 0x40 * q) (.wqDoorbell q tail) s (fun t => t.queue q = { w with tail := tail.setWidth 64 } ∧ (∀ p, p ≠ q → t.queue p = s.queue p) ∧
      { t with queues := s.queues } = s) ∧
    ((w.ctl.flag 8 = false ∨ h = w.tail.toNat % 2 ^ 32) → alone 1 s) ∧
    (s.serves (w.base.field 49 6 * 64 + 128 * (h % 2 ^ w.ctl.field 4 0)) = false → alone 1 s) ∧
    (openErr s q = 2 → alone 2 s) ∧
    (openErr s q = 0 → (∀ l, l < 16384 → (s.launch l).isOpen = true) → alone 5 u) ∧
    (let d := u.headDesc w
     let Refused (err nopair : Nat) (y t : State) : Prop := t.pkg = { y.pkg with lresLid := 0, lresErr := err } ∧
       t.queue q = { taken with err := word (h + err * 2 ^ 32 + nopair * 2 ^ 40 + 2 ^ 63) } ∧
       (∀ p, p ≠ q → t.queue p = y.queue p) ∧ { t with pkg := y.pkg, queues := y.queues } = y
     let due : Prop := asidValid u (ldAsid d) = true ∧ (ldWord d 0x40).field 3 0 = 0
     (openErr s q = 4 ∨ (openErr s q = 3 ∧ ¬ due) → Rings 0x62E0000000 (.lopen q) s (Refused (openErr s q) 1 u)) ∧
     (∀ c n, openErr s q = 3 → due → lost u d c n → Rings 0x62E0000000 (.lopen q) s (Refused 3 1 (walks u d))) ∧
     (∀ p, openErr s q = 3 → due → pair u d p → stopped (walks u d) p → Rings 0x62E0000000 (.lopen q) s (Refused 3 1 (failing u d p))) ∧
     ∀ p, openErr s q = 3 → due → pair u d p → sound (walks u d) p → Rings 0x62E0000000 (.lopen q) s fun t => res 0 3 t ∧
       Pair (walks u d) p (ldWord d 0x48).toNat (0x10 + 3 * 2 ^ 8) t ∧
       t.queue q = { taken with err := word (h + 3 * 2 ^ 32 + 2 ^ 63) } ∧ t.launches = s.launches ∧ t.fronts = s.fronts) ∧
    (∀ l, openErr s q = 0 → l < 16384 → (s.launch l).isOpen = false → (∀ m, m < l → (s.launch m).isOpen = true) →
      Rings 0x62E0000000 (.lopen q) s fun t => res l 0 t ∧ t.launch l = { Launch.reset with isOpen := true, desc := u.headDesc w } ∧
        t.queue q = taken ∧ { t with pkg := u.pkg, launches := u.launches, queues := u.queues } = u) ∧
    (let d := (s.launch lid).desc
     let Over (t : State) : Prop := (t.launch lid).isOpen = false ∧ t.fronts = s.fronts ∧ t.jobs = s.jobs
     let Lderr (c : Nat) (y t : State) : Prop := Over t ∧ SameBytes y t ∧ t.pkg = { s.pkg with lderr := word (lid + c * 2 ^ 24 + 2 ^ 63) }
     (launchOver s lid = false → Ends (.launchEnd lid) s fun t => t = s) ∧
     (∀ p, launchOver s lid = true → pair s d p → sound (walks s d) p → Ends (.launchEnd lid) s fun t => Over t ∧ t.pkg = s.pkg ∧
       Pair (walks s d) p (ldWord d 0x48).toNat
         ((s.launch lid).cause % 256 + (s.launch lid).sub % 256 * 2 ^ 8 + (s.launch lid).started % 2 ^ 40 * 2 ^ 24) t) ∧
     (∀ c n, launchOver s lid = true → lost s d c n → Ends (.launchEnd lid) s (Lderr c (walks s d))) ∧
     ∀ p, launchOver s lid = true → pair s d p → stopped (walks s d) p → Ends (.launchEnd lid) s (Lderr 0x0B (failing s d p)))

/-- R335, R336, R337, R228: binding and unbinding a front. A bind that R336 allows makes the slot BOUND with the next rank and the front as R337 starts it; one
that it does not leaves the slot FREE and records its reason; that the written ASID and LID stay in the slot record then is the model's choice (log 50).
Unbinding frees a BOUND slot, or an ENDED slot; that the former's columns are free with it is the model's choice (log 72). -/
def Obligations.SlotEvents : Prop :=
  ∀ (s : State) (f asid lid : Nat), s.pkg.tripped = false →
    let l := s.launch lid
    let d := l.desc
    let k := s.core (f / 2)
    let lanes := if (s.slot f).lane.flag 8 then (s.slot f).lane else ldWord d 0x30
    ((s.slot f).state = 0 → bindReason s f asid lid = 0 → k.owner = some lid → Rings (slotAt f) (.slotBind f asid lid) s fun t =>
      let x := t.front f
      t.slot f = { s.slot f with state := 1, asid := asid, lid := lid, rank := l.bound } ∧ (t.launch lid).bound = l.bound + 1 ∧
      x.pc = ldWord d (if f % 2 = 0 then 0x08 else 0x10) ∧ x.reg 2 = ldWord d 0x18 ∧ x.reg 3 = word l.bound ∧ x.reg 4 = word (ldNfront d) ∧
      x.reg 5 = ldWord d 0x20 ∧ (∀ r : SReg, r ∉ [2, 3, 4, 5] → x.reg r = 0) ∧ x.kernel = false ∧ x.spbase = ldWord d 0x28 ∧
      x.gstep = ldWord d 0x38 ∧ x.trapvec = (s.die (f / 128)).kvec ∧ x.vl = 0 ∧ x.vmc = 0 ∧ x.vstart = 0 ∧ x.vsn = 0 ∧ x.fcr = 0 ∧
      x.deleg = 0 ∧ x.queue = [] ∧ x.asid = asid ∧ x.lid = lid ∧ x.rank = l.bound ∧
      (t.core (f / 2)).target = lanes.field 6 0 ∧ (t.core (f / 2)).lock = lanes.flag 7 ∧ SameBytes s t) ∧
    ((s.slot f).state = 0 → bindReason s f asid lid ≠ 0 → Rings (slotAt f) (.slotBind f asid lid) s fun t =>
      t.slot f = { s.slot f with asid := asid, lid := lid } ∧
      (t.die (f / 128)).binderr = word (f % 128 + bindReason s f asid lid * 2 ^ 8 + 2 ^ 31) ∧ t.fronts = s.fronts ∧ t.cores = s.cores ∧
      t.launches = s.launches ∧ SameBytes s t) ∧
    ((s.slot f).state = 1 → Rings (slotAt f) (.slotUnbind f) s fun t => t.slot f = { s.slot f with state := 0 } ∧
      (if f % 2 = 0 then (t.core (f / 2)).own0 else (t.core (f / 2)).own1) = 0 ∧ SameBytes s t ∧ t.launches = s.launches) ∧
    ((s.slot f).state = 3 → Rings (slotAt f) (.slotUnbind f) s fun t => t.slot f = { s.slot f with state := 0 } ∧ { t with slots := s.slots } = s) ∧
    ((s.slot f).state = 2 → Rings (slotAt f) (.slotUnbind f) s fun t => t = s)

/-- R369, R370, R371, R373: pre-emption of a core. A save stops its resident fronts, or refuses with a code: a save area that does not translate gives ERR 2, and nothing
happens. Once no job uses the scratchpad, the records are written and the fronts leave the core, their launch counting them as saved. That the records wait until what the fronts have
written to peers has been performed, and BUSY until the records have (R287), is the model's choice (log 4). A
discard stops the fronts too, lets the beats that have started finish, and vacates the core with no record, its launch's status carrying the fault of a front in double
fault. A restore puts the records' fronts back, RESIDENT (ContextRecords says with what), or refuses with a code. The model's choices: that a front which has left stands as at reset (log 6); that a double
fault is found before an area that does not translate, that what the walks into an area and the reading of a scratchpad meet in error is recorded and taken as it stands (log 71), and that a record which then cannot be written gives ERR 2 and lets the fronts go on (log 47); that ERR 4 of a
restore is found before every other failure, and the order of the rest (log 48). -/
def Obligations.Preemption : Prop :=
  ∀ (s : State) (d c lid : Nat), s.pkg.tripped = false → c < 64 → d < 8 →
    let k := 64 * d + c
    let fs := [2 * k, 2 * k + 1].filter s.resident
    let err (w : Word) := w.field 23 16
    let quiet (f : Nat) : Bool := !(s.inAtomic (.front f)) && (s.front f).queue.all fun e => !e.issued || e.done || e.trap.isSome
    let area (f : Nat) : Bool := areaOk s (s.front f).asid ((s.die d).saveVa f)
    let walked := fs.foldl logArea (s.modDie d fun x => { x with prectl := word (c + 2 ^ 8) &&& 0xFF ||| x.prectl &&& 0xFF0200 })
    let Nothing (n : Nat) (y t : State) : Prop := err (t.die d).prectl = n ∧ (t.die d).prectl.flag 9 = false ∧ t.fronts = s.fronts ∧ t.slots = s.slots ∧ t.cores = s.cores ∧
      SameBytes y t
    let Stopped (y : State) (h : Front → Halt) (t : State) : Prop := (t.die d).prectl.flag 9 = true ∧ err (t.die d).prectl = 0 ∧
      (∀ f ∈ fs, (t.front f).halt = h (s.front f) ∧ (t.front f).pc = (s.front f).pc ∧ (t.front f).queue = (s.front f).queue ∧
        (t.closing f = false → t.runs f = false)) ∧ t.slots = s.slots ∧ SameBytes y t
    let Vacated (gs : List Nat) (cause : Front → Option Nat) (t : State) : Prop := err (t.die d).prectl = 0 ∧ (t.die d).prectl.flag 9 = false ∧
      (∀ f ∈ gs, (t.slot f).state = 0 ∧ t.front f = Front.reset ∧ (t.launch (s.front f).lid).sub = 0xFF) ∧
      (∀ f ∈ gs, ∀ n, cause (s.front f) = some n → (∀ g ∈ gs, g ≠ f → cause (s.front g) = none) → (t.launch (s.front f).lid).cause = n) ∧ SameBytes s t
    let fault (x : Front) : Option Nat := match x.halt with
      | .doubleFault n => some n
      | .discarding (some n) => some n
      | _ => none
    ((s.die d).prectl.flag 9 = false →
      (fs = [] → Rings (dieAt d 0x40) (.prectlSave d c) s (Nothing 1 s) ∧ Rings (dieAt d 0x40) (.prectlDiscard d c) s (Nothing 1 s)) ∧
      (fs ≠ [] → (∀ f ∈ fs, isDouble (s.front f).halt = false) → (∀ f ∈ fs, area f = true) → Rings (dieAt d 0x40) (.prectlSave d c) s (Stopped walked fun _ => .saving)) ∧
      ((∀ f ∈ fs, isDouble (s.front f).halt = false) → (∃ f ∈ fs, area f = false) → Rings (dieAt d 0x40) (.prectlSave d c) s (Nothing 2 walked)) ∧
      ((∃ f ∈ fs, isDouble (s.front f).halt = true) → Rings (dieAt d 0x40) (.prectlSave d c) s (Nothing 4 s)) ∧
      (fs ≠ [] → (∀ f ∈ fs, quiet f = true) → Rings (dieAt d 0x40) (.prectlDiscard d c) s (Vacated fs fault)) ∧
      ((∃ f ∈ fs, quiet f = false) → Rings (dieAt d 0x40) (.prectlDiscard d c) s (Stopped s fun x => .discarding (match x.halt with
        | .doubleFault n => some n
        | _ => none)))) ∧
    (let gs := ((List.range 128).map fun i => 128 * d + i).filter fun f => (s.front f).halt.stopping
     let saving (y : State) : Bool := y.postedBy fun a => a == .save d
     let mine (a : Agent) : Bool := gs.any fun g => match a with
       | .front h => h == g
       | .entry h _ => h == g
       | .filler h _ => h == g
       | _ => false
     let ready : Bool := !padJob s gs && !s.postedBy mine
     let open_ : Bool := gs.any (fun f => (s.front f).queue.any QEntry.midBeat) || gs.any s.closing
     (gs = [] → Ends (.prectlSaveDone d) s fun u => if (s.die d).prectl.flag 9 = true ∧ saving s = false then
       (u.die d).prectl.flag 9 = false ∧ err (u.die d).prectl = err (s.die d).prectl ∧ u.fronts = s.fronts ∧ u.slots = s.slots ∧ SameBytes s u else u = s) ∧
     (gs ≠ [] → open_ = true → Ends (.prectlSaveDone d) s fun u => u = s) ∧
     ∀ f, gs.head? = some f → open_ = false →
       (isDiscarding (s.front f).halt = true → Ends (.prectlSaveDone d) s (Vacated gs fault)) ∧
       (isDiscarding (s.front f).halt = false →
         (ready = false → Ends (.prectlSaveDone d) s fun u => u = s) ∧
         (∀ e, ready = true → writeRecords s gs gs = .error e → Ends (.prectlSaveDone d) s fun u =>
           err (u.die d).prectl = 2 ∧ (u.die d).prectl.flag 9 = false ∧ (∀ g ∈ gs, u.front g = { s.front g with halt := .no }) ∧ u.slots = s.slots ∧
           SameBytes s u) ∧
         ∀ t, ready = true → writeRecords s gs gs = .ok t → Ends (.prectlSaveDone d) s fun u =>
           (∀ g ∈ gs, (u.slot g).state = 0 ∧ u.front g = Front.reset) ∧ err (u.die d).prectl = 0 ∧ (u.die d).prectl.flag 9 = saving t ∧
           (u.launch (s.front f).lid).saved = (t.launch (s.front f).lid).saved + gs.length ∧ SameBytes t u)) ∧
    ((s.die d).rstctl.flag 9 = false → lid < 16384 →
      ((s.launch lid).isOpen = false → Rings (dieAt d 0x58) (.rstctlRestore d c lid) s fun t => err (t.die d).rstctl = 4 ∧ t.fronts = s.fronts ∧
        t.slots = s.slots ∧ SameBytes s t) ∧
      ∀ recs t, (s.launch lid).isOpen = true →
        let s' := s.modDie d fun x => { x with rstctl := word (c + (x.rstctl.field 23 16) * 2 ^ 16 + lid * 2 ^ 32) }
        let a := (s.die d).rstsrc0.field 51 0
        let b := (s.die d).rstsrc1.field 51 0
        let Fails_ (n : Nat) : Prop := Rings (dieAt d 0x58) (.rstctlRestore d c lid) s fun u => err (u.die d).rstctl = n ∧ u.fronts = t.fronts ∧ u.slots = t.slots ∧
          u.cores = t.cores ∧ SameBytes t u
        rstRecords k lid (.restore k lid a b) ([(2 * k, a), (2 * k + 1, b)].filter fun p => p.2 != 0) s' = .ok (recs, t) →
        (recs = [] → Fails_ 1) ∧
        (recs ≠ [] → slotsFree t k lid (recs.map (·.1)) = false → Fails_ 3) ∧
        (recs ≠ [] → slotsFree t k lid (recs.map (·.1)) = true →
          ((∃ p ∈ recs, recordOk t lid p.2 = false) → Fails_ 1) ∧
          ((∀ p ∈ recs, recordOk t lid p.2 = true) → recordFits t k recs = false → Fails_ 0x11) ∧
          ((∀ p ∈ recs, recordOk t lid p.2 = true) → recordFits t k recs = true → Rings (dieAt d 0x58) (.rstctlRestore d c lid) s fun u => err (u.die d).rstctl = 0 ∧
            (u.launch lid).saved = (t.launch lid).saved - recs.length ∧
            ∀ p ∈ recs, (u.slot p.1).state = 2 ∧ (u.slot p.1).lid = lid ∧ (u.front p.1).pc = word (rd p.2 0x180 8 / 4 * 4) ∧
              ∀ r : SReg, r ≠ 0 → (u.front p.1).reg r = word (rd p.2 (0x80 + 8 * r.toNat) 8))))

/-- R364, R365, R366, R368: what the context record of a front holds: the header, the registers, the masks, the carve table with its counts, the dirty rows, the
entries of its queue and suspend sets in order, and the cells and tags of the dirty rows; a cell in error is written as zero, with tag 0 (R375).
R371: what a restore of it writes: the registers, the masks, the carve table, the queue with its numbers and progress, and the rows into the window, every other cell of
which is zero. That a reserved bit of a register in the record is dropped, and that the bits of the record, its header and its entries which have no field hold what a restore needs
beside, is the model's choice (logs 25 and 68); so is that a tag byte is written as the record holds it, whatever its value (log 60). -/
def Obligations.ContextRecords : Prop :=
  (∀ (s : State) (f pv : Nat) (spad : Bool),
    let x := s.front f
    let k := s.core (f / 2)
    let win := s.window f
    let b := recordBytes s f spad pv
    let set := x.queue ++ x.userSet ++ x.kernelSet
    let rows := (List.range 512).filter fun r => x.dirty.getLsbD r
    let lost (q : Nat) : Bool := spGet false k.badCells q || spGet false k.badTags q
    let base := 0x980 + 256 * set.length
    let rowLen := 4 * win.2 + (win.2 + 7) / 8 * 8
    b.length % 256 = 0 ∧ (b.length < 2 ^ 64 → rd b 8 8 = b.length) ∧ rd b 0 2 = 1 ∧ (set.length < 256 → rd b 2 1 = set.length) ∧
    (x.asid < 2 ^ 32 → x.lid < 2 ^ 32 → rd b 0x10 4 = x.asid ∧ rd b 0x14 4 = x.lid) ∧
    (x.rank < 2 ^ 32 → rd b 0x18 4 = x.rank) ∧ rd b 0x180 8 = x.pc.toNat ∧ (rd b 0x188 1).testBit 0 = x.kernel ∧
    (∀ r : SReg, rd b (0x80 + 8 * r.toNat) 8 = (x.reg r).toNat) ∧
    [0x190, 0x198, 0x1A0, 0x1A8, 0x1B0, 0x1B8, 0x1C0, 0x1C8, 0x1E0, 0x1E8, 0x1F0, 0x1F8, 0x200, 0x208, 0x210, 0x218, 0x220, 0x228].map (fun o => rd b o 8) =
      [x.vl.toNat, x.vmc.toNat, x.vst.toNat, x.vstart.toNat, x.vsn.toNat, x.vcp.toNat, x.fcr.toNat, x.fflags.toNat, x.gstep.toNat, x.spbase.toNat, x.trapcause.toNat,
        x.trappc.toNat, x.trapvsn.toNat, x.trapelem.toNat, x.trapaddr.toNat, x.trapvec.toNat, x.utrapvec.toNat, x.deleg.toNat] ∧
    (∀ i, i < 16 → rd b (0x240 + 8 * i) 8 = (x.decayReg i).toNat ∧ rd b (0x2C0 + 8 * i) 8 = (x.slotReg i).toNat) ∧
    (∀ i, i < 15 → rd b (0x340 + 8 * i) 8 = (x.counter i).toNat) ∧
    (∀ m, m < 8 → rd b (0x3C0 + 32 * m) 32 = (x.mask m).toNat) ∧
    (∀ v, v < 64 → rd b (0x4C0 + 8 * v) 8 = (x.entry v).toNat ∧ rd b (0x6C0 + 2 * v) 2 = (x.gen v).toNat) ∧
    rd b 0x740 64 = x.dirty.toNat ∧
    (∀ i e, set[i]? = some e →
      let o := 0x980 + 256 * i
      rd b o 4 = ((encode e.instr).getD 0).toNat ∧ rd b (o + 4) 4 = e.vsn.toNat ∧ rd b (o + 8) 2 % 2 ^ 9 = e.progress % 2 ^ 9 ∧
      (rd b (o + 8) 2).testBit 9 = e.done ∧ rd b (o + 8) 2 / 2 ^ 10 % 4 = (if i < x.queue.length then 0 else if i < x.queue.length + x.userSet.length then 1 else 2) ∧
      rd b (o + 12) 4 = e.handle.toNat) ∧
    ∀ i r c, rows[i]? = some r → c < win.2 →
      let q := 64 * r + win.1 + c
      rd b (base + rowLen * i + 4 * c) 4 = (if lost q then 0 else (k.cell q).toNat) ∧
      rd b (base + rowLen * i + 4 * win.2 + c) 1 = (if lost q then 0 else (k.tag q).toNat)) ∧
  (∀ (s t : State) (d c lid a : Nat) (f : Nat) (b : List Byte), s.pkg.tripped = false → c < 64 → d < 8 → lid < 16384 → (s.die d).rstctl.flag 9 = false →
      (s.launch lid).isOpen = true →
      let k := 64 * d + c
      let s' := s.modDie d fun x => { x with rstctl := word (c + (x.rstctl.field 23 16) * 2 ^ 16 + lid * 2 ^ 32) }
      f / 2 = k → (s.die d).rstsrc0.field 51 0 = (if f % 2 = 0 then a else 0) → (s.die d).rstsrc1.field 51 0 = (if f % 2 = 0 then 0 else a) → a ≠ 0 →
      rstRecords k lid (.restore k lid ((s.die d).rstsrc0.field 51 0) ((s.die d).rstsrc1.field 51 0)) [(f, a)] s' = .ok ([(f, b)], t) →
      slotsFree t k lid [f] = true → recordOk t lid b = true → recordFits t k [(f, b)] = true → Rings (dieAt d 0x58) (.rstctlRestore d c lid) s fun u =>
      let x := u.front f
      let low (o n : Nat) : Word := word (rd b o 8 % 2 ^ n)
      let offs := (List.range (rd b 2 1)).map fun i => 0x980 + 256 * i
      let lev (n : Nat) := offs.filter fun o => rd b (o + 8) 2 / 2 ^ 10 % 4 == n
      let Set_ (l : List QEntry) (n : Nat) : Prop := l.map (fun e => (e.vsn.toNat, e.handle.toNat, e.progress, e.done)) =
          (lev n).map (fun o => (rd b (o + 4) 4, rd b (o + 12) 4, rd b (o + 8) 2 % 2 ^ 9, (rd b (o + 8) 2).testBit 9)) ∧
        l.map (fun e => some e.instr) = (lev n).map (fun o => decode (BitVec.ofNat 32 (rd b o 4))) ∧ ∀ e ∈ l, e.issued = false
      let rows := (List.range 512).filter fun r => x.dirty.getLsbD r
      let width := rd b 0x1D 1 % 2 ^ 7
      let first := (u.window f).1
      let at_ (i : Nat) := 0x980 + 256 * rd b 2 1 + (4 * width + (width + 7) / 8 * 8) * i
      x.kernel = (rd b 0x188 1).testBit 0 ∧ x.vl = low 0x190 12 ∧ x.vmc = low 0x198 9 ∧ x.vst = word (rd b 0x1A0 8) ∧ x.vstart = low 0x1A8 9 ∧
      x.vsn.toNat = rd b 0x1B0 4 ∧ x.vcp.toNat = rd b 0x1B8 4 ∧ x.fflags = low 0x1C8 6 ∧ x.gstep = word (rd b 0x1E0 8) ∧ x.trapaddr = word (rd b 0x210 8) ∧
      x.asid = rd b 0x10 4 % 2 ^ 14 ∧ x.rank = rd b 0x18 4 ∧
      (∀ m, m < 8 → (x.mask m).toNat = rd b (0x3C0 + 32 * m) 32) ∧
      (∀ v, v < 64 → x.entry v = word (rd b (0x4C0 + 8 * v) 8) ∧ (x.gen v).toNat = rd b (0x6C0 + 2 * v) 2) ∧
      x.dirty.toNat = rd b 0x740 64 ∧ Set_ x.queue 0 ∧ Set_ x.userSet 1 ∧ Set_ x.kernelSet 2 ∧
      (∀ i r q, rows[i]? = some r → q < width → ((u.core k).cell (64 * r + first + q)).toNat = rd b (at_ i + 4 * q) 4 ∧
        ((u.core k).tag (64 * r + first + q)).toNat = rd b (at_ i + 4 * width + q) 1) ∧
      ∀ r q, r < 512 → q < (u.window f).2 → r ∉ rows ∨ width ≤ q → (u.core k).cell (64 * r + first + q) = 0 ∧ (u.core k).tag (64 * r + first + q) = 0)

/-! ### TLB invalidation, the scrubber and retired lanes -/

/-- R241: a TINVC write sets its fields, and starts an invalidation of one page, one address space or all, and sets BUSY; while BUSY, GO does nothing: that the other
fields are taken then is the model's choice (log 49). At its end, which waits for the accesses of peers under way (log 49) and for the jobs that hold a covered translation of their completion pair, or of the CUPRES record that they
have still to write (a page of any size, log 49), no TLB of the package and no
job holds an entry that it covers, as the fields stood at GO, and every other entry stays. -/
def Obligations.TlbInvalidation : Prop :=
  ∀ (s : State) (asid : BitVec 14), s.pkg.tripped = false →
    let p := s.pkg
    let Pkg (q : Package) (t : State) : Prop := t = { s with pkg := q }
    let fields (n scope : Nat) : Package := { p with tinvAsid := n, tinvScope := scope }
    let starts (n scope : Nat) : Package := { fields n scope with goVa := p.tinva.field 51 0, goAsid := n, goScope := scope, tinvBusy := true }
    let covers (e : Tlb) : Bool := if p.goScope = 0 then e.hit p.goAsid p.goVa else p.goScope != 1 || e.asid == p.goAsid
    let page (j : Job) (va : Nat) : Bool := covers ⟨j.asid, va / 2 ^ 30 * 2 ^ 30, 2, 0, 0, 0, 0⟩
    let holds (j : Job) : Bool := (j.pairPaged && page j j.pair.toNat) || (!j.cupAt.isEmpty && (j.card.getD 15 0).field 63 62 == 0 &&
      (page j ((j.card.getD 15 0).field 51 0) || page j ((j.card.getD 15 0).field 51 0 + 175)))
    (p.tinvBusy = false → Rings 0x62F0000010 (.tinvcPage asid) s (Pkg (starts asid.toNat 0)) ∧ Rings 0x62F0000010 (.tinvcAsid asid) s (Pkg (starts asid.toNat 1)) ∧
      (p.tinvAsid < 2 ^ 14 → Rings 0x62F0000010 .tinvcAll s (Pkg (starts p.tinvAsid 2))) ∧ Ends .tinvcDone s fun t => t = s) ∧
    (p.tinvBusy = true → Rings 0x62F0000010 (.tinvcPage asid) s (Pkg (fields asid.toNat 0)) ∧ Rings 0x62F0000010 (.tinvcAsid asid) s (Pkg (fields asid.toNat 1)) ∧
      (p.tinvAsid < 2 ^ 14 → Rings 0x62F0000010 .tinvcAll s (Pkg (fields p.tinvAsid 2))) ∧
      (s.peersQuiet = false ∨ (∃ j ∈ s.jobs, holds j = true) → Ends .tinvcDone s fun t => t = s) ∧
      (s.peersQuiet = true → (∀ j ∈ s.jobs, holds j = false) → Ends .tinvcDone s fun t => t.pkg = { p with tinvBusy := false } ∧ t.fronts = s.fronts ∧ t.slots = s.slots ∧
        (spWf Core.reset s.cores = true → ∀ k, (t.core k).utlb = (s.core k).utlb.filter fun e => !covers e) ∧
        (∀ j ∈ t.jobs, ∀ q, j.plan = some q → ∀ e ∈ q.pages, covers e = false) ∧
        ∀ c, c < 64 → t.tlb2 c = (s.tlb2 c).filter fun e => !covers e))

/-- R375, R376, R377: a scrub pass clears the counts of corrections, and counts those that it makes for their lanes; an uncorrectable value stays in error and, when it is
a cell or tag that has been written since its last report, makes its lane pending. A lane with 16 or more corrections in one pass becomes pending, and a
record of kind 7 announces each lane that does. Pending lanes are retired once no front is resident, and each value
stays in its physical lane: that it does is the model's choice (log 45). An error record is 32 bytes in the ring of the die, or a count in DROP where the
ring is disabled or full; that its bytes go nowhere where the ring's memory is not served is the model's choice (log 59). -/
def Obligations.ScrubAndRetire : Prop :=
  ∀ (s : State) (k : Nat) (c : Found), s.pkg.tripped = false →
    let x := s.core k
    Ends (.scrubPass k []) s (fun t => t.core k = { x with corrections := [] } ∧ { t with cores := s.cores } = s) ∧
    (∀ col, c.lane < 64 → (liveLanes x.lanemap).idxOf? c.lane = some col →
      let key := 64 * c.row + col
      let bad (y : Core) : List (Nat × Bool) := match c.store with
        | .cell => y.badCells
        | .tag => y.badTags
        | .carafe => y.badCarafe
      (c.fixed = false → Ends (.scrubPass k [c]) s fun t => spGet false (bad (t.core k)) key = true ∧
        (t.core k).pending = (if c.store ≠ .carafe ∧ spGet false x.rewritten key = true then x.pending ||| BitVec.ofNat 64 (2 ^ c.lane) else x.pending) ∧
        (t.core k).plane = x.plane ∧ (t.core k).tags = x.tags ∧ (t.core k).carafe = x.carafe ∧ t.fronts = s.fronts) ∧
      (c.fixed = true → Ends (.scrubPass k [c]) s fun t => spGet 0 (t.core k).corrections c.lane = 1 ∧ bad (t.core k) = bad x ∧
        (t.core k).pending = x.pending ∧ (t.core k).plane = x.plane ∧ t.fronts = s.fronts)) ∧
    (∀ l : List Found, (∀ c ∈ l, c.fixed = true ∧ c.lane < 64 ∧ x.lanemap.getLsbD c.lane = false) → Ends (.scrubPass k l) s fun t =>
      let ring (u : State) := (u.die (k / 64)).err
      let n := (ring s).ctl.field 4 0
      let head := (ring s).head.field 31 0
      let many (lane : Nat) : Bool := decide (16 ≤ l.countP (·.lane == lane))
      let news := (List.range 64).countP fun lane => many lane && !x.pending.getLsbD lane
      (∀ lane, lane < 64 → (t.core k).pending.getLsbD lane = (x.pending.getLsbD lane || many lane)) ∧
      (t.core k).plane = x.plane ∧ (t.core k).lanemap = x.lanemap ∧ t.fronts = s.fronts ∧
      (n ≠ 0 → (head + 2 ^ 32 - (ring s).tail.field 31 0) % 2 ^ 32 + l.length + news ≤ 2 ^ n →
        (ring t).head.field 31 0 = (head + l.length + news) % 2 ^ 32 ∧
        ((∀ a, (ring s).base.field 49 12 * 4096 ≤ a → a < (ring s).base.field 49 12 * 4096 + 32 * 2 ^ n → s.serves a = true) →
          ∀ i, i < l.length + news →
            (t.byte ((ring s).base.field 49 12 * 4096 + 32 * ((head + i) % 2 ^ n) + 18)).toNat = if i < l.length then 6 else 7))) ∧
    (∀ d va phys asid kind core front seq, kind < 256 →
      let t := errRecord s d va phys asid kind core front seq
      let r := (s.die d).err
      let n := r.ctl.field 4 0
      let head := r.head.field 31 0
      let a := r.base.field 49 12 * 4096 + 32 * (head % 2 ^ n)
      let room : Prop := n ≠ 0 ∧ (head + 2 ^ 32 - r.tail.field 31 0) % 2 ^ 32 ≠ 2 ^ n
      let who := asid % 2 ^ 14 + kind * 2 ^ 16 + core % 64 * 2 ^ 24 + front % 2 * 2 ^ 32
      t.fronts = s.fronts ∧ t.cores = s.cores ∧ (∀ e, e ≠ d → t.die e = s.die e) ∧
      (room → t.die d = { s.die d with err := { r with head := word ((head + 1) % 2 ^ 32) } } ∧
        (s.serves a = true → Stored s a 32 (va % 2 ^ 64 + phys % 2 ^ 64 * 2 ^ 64 + who * 2 ^ 128 + seq % 2 ^ 32 * 2 ^ 192) t) ∧
        (s.serves a = false → SameBytes s t)) ∧
      (¬ room → t.die d = { s.die d with err := { r with drop := word ((r.drop.field 31 0 + 1) % 2 ^ 32) } } ∧ SameBytes s t)) ∧
    (x.pending = 0 ∨ s.residents k ≠ [] → Ends (.laneRetire k) s fun t => t = s) ∧
    (x.pending ≠ 0 → s.residents k = [] → Ends (.laneRetire k) s fun t =>
      (t.core k).lanemap = x.lanemap ||| x.pending ∧ (t.core k).pending = 0 ∧ t.fronts = s.fronts ∧ SameBytes s t ∧
      ∀ lane a b row, (liveLanes x.lanemap)[a]? = some lane → (liveLanes (x.lanemap ||| x.pending))[b]? = some lane →
        (t.core k).cell (64 * row + b) = x.cell (64 * row + a) ∧ (t.core k).tag (64 * row + b) = x.tag (64 * row + a) ∧
        (t.core k).car (64 * row + b) = x.car (64 * row + a))

/-! ### Reset, bring-up and management registers -/

/-- R413, R421: power-on, RSTREQ by the host and a junction temperature of 105 reset the package: fronts, slots, cores, TLBs, queues, launches, jobs and
registers are as after reset, vaults and scratchpads read zero, host memory is kept; what HBM holds is free (log 2). A thermal trip holds the package in
reset, where no event but a reset does anything, and TEMP keeps the temperature: which events those are, and that HOT stands, is the model's choice
(log 51). RSTREQ from another source is ignored. That a misaligned address of the device range stands for the register that contains it is the model's choice too (log 15). -/
def Obligations.Resets : Prop :=
  ∀ (s : State) (hot : BitVec 8) (a : Nat) (w : Word) (m : Msg),
    let After (p : Package) (t : State) : Prop :=
      t.fronts = [] ∧ t.slots = [] ∧ t.cores = [] ∧ t.l2 = [] ∧ t.dies = [] ∧ t.queues = [] ∧ t.launches = [] ∧ t.jobs = [] ∧ t.groups = [] ∧
      t.pendings = [] ∧ t.held = [] ∧ t.links = [] ∧ t.remotes = [] ∧ t.memErr = [] ∧ t.badBlk = [] ∧ t.pkg = p ∧
      (∀ a, inVault a = true ∨ inScratch a = true → t.byte a = 0) ∧ (∀ a, inCxl a = true → t.byte a = s.byte a)
    let cold : Package := { Package.reset with resets := s.pkg.resets + 1 }
    Ends .powerOn s (After cold) ∧ Rings 0x62E2000008 (.rstreq .host) s (After cold) ∧
    Rings 0x62E2000008 (.rstreq .barista) s (fun t => t = s) ∧ Rings 0x62E2000008 (.rstreq .kernel) s (fun t => t = s) ∧
    (devReg (a / 8 * 8) = .rstreq → w.getLsbD 0 = true → Ends (.registerWrite .host a w) s (After cold)) ∧
    (m.host = true → msgLoc s m = some (.dev m.addr) → devReg (m.addr / 8 * 8) = .rstreq → m.len = 8 → leNat (msgData m) % 2 = 1 →
      inDevice m.addr = true → Ends (.msgWrite m) s (After cold)) ∧
    (s.pkg.tripped = false → 105 ≤ hot.toNat → Ends (.thermalTrip hot) s (After { cold with hot := hot.toNat, tripped := true })) ∧
    (s.pkg.tripped = false → hot.toNat < 105 → Ends (.thermalTrip hot) s fun t => t = { s with pkg := { s.pkg with hot := hot.toNat } }) ∧
    (s.pkg.tripped = true → ∀ i : Instr, i.isEvent = true → i ≠ .powerOn → (∀ src, i ≠ .rstreq src) → (∀ w, i ≠ .illegalWord w) →
      (∀ src a w, i = .registerWrite src a w → devReg (a / 8 * 8) ≠ .rstreq) →
      (∀ m, i = .msgWrite m ∨ i = .msgRegisterAccess m → hostResets m = false) → Ends i s fun t => t = s)

/-- R415, R417, R418: the service levels. An image that passes the five checks in order, in both boot ROMs, makes LEVEL 1 and gives VERSION; one that does not leaves
LEVEL 0 and BOOTERR the number of the first that fails, and no later image is taken. The root hash is free, and the byte orders of an
image's modulus and signature are the model's choice (log 12). A die that comes up sets its DIEUP bit and makes LEVEL at least 2; a stack sets HBMUP or HBMFAIL, and a
link comes up or fails at its third attempt. LEVEL becomes 3 when, at 2, every stack has trained and every link is up or has failed. -/
def Obligations.BringUp : Prop :=
  ∀ (s : State) (img : Image) (d stack link : Nat), s.pkg.tripped = false →
    let p := s.pkg
    let l := s.link link
    let at_ (b : List Byte) (o n : Nat) : List Byte := (b.drop o).take n
    let version (b : List Byte) : Nat := leNat (b.take 4)
    let size (b : List Byte) : Nat := leNat (at_ b 4 4)
    let one (b : List Byte) : Nat := if 2 ^ 24 < size b ∨ (∃ x ∈ at_ b 1032 3064, x ≠ 0) then 1
      else if sha512 (at_ b 8 512) ≠ (List.range 64).map Config.rootHash then 2
      else if pssVerifies (at_ b 8 512) (at_ b 520 512) (b.take 520 ++ at_ b 4096 (size b)) = false then 3
      else if version b < Config.minver.toNat then 4 else 0
    let err : Nat := if one img.first ≠ 0 then one img.first else if one img.second ≠ 0 then one img.second
      else if sha512 img.first ≠ sha512 img.second then 5 else 0
    let allLinks (t : State) : Prop := ∀ j, j < 18 → (t.link j).up = true ∨ (t.link j).failed = true
    let full (t u : State) : Prop := (t.pkg.level = 2 ∧ t.pkg.hbmup = 255 ∧ allLinks t → u = { t with pkg := { t.pkg with level := 3 } }) ∧
      (¬ (t.pkg.level = 2 ∧ t.pkg.hbmup = 255 ∧ allLinks t) → u = t)
    let set (n i : Nat) : Nat := if n.testBit i then n else n + 2 ^ i
    (p.level = 0 → p.booterr = 0 → err = 0 → Ends (.firmwareCheckDone img) s fun t =>
      t = { s with pkg := { p with level := 1, version := BitVec.ofNat 32 (version img.first), image := img.first } }) ∧
    (p.level = 0 → p.booterr = 0 → err ≠ 0 → Ends (.firmwareCheckDone img) s fun t => t = { s with pkg := { p with booterr := err } }) ∧
    (p.level ≠ 0 ∨ p.booterr ≠ 0 → Ends (.firmwareCheckDone img) s fun t => t = s) ∧
    (p.level ≠ 0 → Ends (.dieAdmitted d) s (full { s with pkg := { p with dieup := set p.dieup d, level := max p.level 2 } })) ∧
    (p.level = 0 → Ends (.dieAdmitted d) s fun t => t = s) ∧
    (p.hbmup.testBit stack = false → p.hbmfail.testBit stack = false →
      Ends (.hbmTrained stack) s (full { s with pkg := { p with hbmup := set p.hbmup stack } }) ∧
      Ends (.hbmTrainFail stack) s fun t => t = { s with pkg := { p with hbmfail := set p.hbmfail stack } }) ∧
    (l.up = false → l.failed = false →
      Ends (.linkTrained link) s (fun u => ∃ t, full t u ∧ t.link link = { l with up := true } ∧ { t with links := s.links } = s ∧
        ∀ j, j ≠ link → t.link j = s.link j) ∧
      Ends (.linkTrainTimeout link) s (fun u => ∃ t, full t u ∧ t.link link = { l with tries := l.tries + 1, failed := decide (3 ≤ l.tries + 1) } ∧
        { t with links := s.links } = s ∧ ∀ j, j ≠ link → t.link j = s.link j))

/-- R410, R414, R419, R420, R421, R425: the management registers. Each write takes effect for its sources alone, and is ignored from any other. A quote is of the nonce,
the hash of the accepted image, versions, service level and fabric ID. The steward window bounds what Barista reaches: outside it, and in memory that is not
served (log 59, the model's choice), a store is discarded and a load returns zero; an access outside is counted. A store into part of a unit in error is
not made, and a load of a unit in error or a bad block gets a free value; each appends its record (R374, R376): both are the model's choice (log 59). -/
def Obligations.Management : Prop :=
  ∀ (s : State) (src : Src) (v : Word) (f d addr len : Nat) (now : BitVec 12), s.pkg.tripped = false →
    let p := s.pkg
    let b := p.stwbase.field 49 26 * 2 ^ 26
    let Pkg (q : Package) (t : State) : Prop := t = { s with pkg := q }
    (p.attBusy = false → Rings 0x62E2000030 .attctlQuote s (Pkg { p with attBusy := true })) ∧
    (p.attBusy = true → Rings 0x62E2000030 .attctlQuote s (fun t => t = s) ∧
      Ends .attctlQuoteDone s fun t => t.pkg.attBusy = false ∧ t.pkg.quote = (List.range 512).map (Config.quote ((List.range 64).map (spGet 0 p.nonce) ++
          sha512 p.image ++ leBytes 4 p.version.toNat ++ leBytes 4 Config.minver.toNat ++
          leBytes 8 (p.level + p.dieup * 2 ^ 8 + p.hbmup * 2 ^ 16 + p.hbmfail * 2 ^ 24 + p.booterr * 2 ^ 32) ++ leBytes 8 p.fabid)) ∧
        { t with pkg := p } = s) ∧
    Ends (.powerCapStep now) s (Pkg { p with pwrnow := now.toNat, slow := if p.pwrcap < now.toNat then p.slow + 1 else p.slow }) ∧
    (src = .host →
      Rings 0x62E2000018 (.pwrcapWrite src v) s (Pkg { p with pwrcap := max 600 (min (v.field 11 0) 2100) }) ∧
      Rings 0x62E1000000 (.fabidWrite src v) s (Pkg { p with fabid := v.field 9 0 }) ∧
      Rings (0x62E1001000 + 8 * d) (.routeWrite src d v) s (fun t => spGet 0 t.pkg.routes d = word (v.field 17 0) ∧ (∀ j, j ≠ d → spGet 0 t.pkg.routes j = spGet 0 p.routes j) ∧
        t = { s with pkg := { p with routes := t.pkg.routes } }) ∧
      (p.level = 1 → Rings 0x62E2000038 (.stwbaseWrite src v) s (Pkg { p with stwbase := word (v.field 49 26 * 2 ^ 26) })) ∧
      (p.level ≠ 1 → Rings 0x62E2000038 (.stwbaseWrite src v) s fun t => t = s)) ∧
    (src ≠ .host → Rings 0x62E2000018 (.pwrcapWrite src v) s (fun t => t = s) ∧ Rings 0x62E1000000 (.fabidWrite src v) s (fun t => t = s) ∧
      Rings (0x62E1001000 + 8 * d) (.routeWrite src d v) s (fun t => t = s) ∧ Rings 0x62E2000038 (.stwbaseWrite src v) s (fun t => t = s)) ∧
    (src ≠ .barista → Rings (dbgctlAt f) (.dbgctlWrite src f v) s fun t => OnlyFront f s t ∧ SameBytes s t ∧
      ∃ w : Word, t.front f = { s.front f with dbgctl := w } ∧ w.getLsbD 0 = v.getLsbD 0 ∧
        ∀ i, 1 ≤ i → w.getLsbD i = (s.front f).dbgctl.getLsbD i) ∧
    (src = .barista → Rings (dbgctlAt f) (.dbgctlWrite src f v) s fun t => t = s) ∧
    (let inside : Prop := b ≤ addr ∧ addr + len ≤ b + 2 ^ 26
     let serves : Prop := s.serves addr = true ∧ s.serves (addr + len - 1) = true
     let counted : Package := { p with stwerr := word ((p.stwerr.toNat % 2 ^ 32 + 1) % 2 ^ 32) }
     let err (kind : Nat) : State := errRecord s (homeDie addr) 0 addr 0 kind 0 0 0
     (inside → serves → s.partErr addr len = false →
       Ends (.stewardAccess true ⟨addr, len⟩ v) s (fun t => Stored s addr len v.toNat t ∧ t.fronts = s.fronts ∧ t.pkg = p)) ∧
     (inside → serves → s.partErr addr len = true → Ends (.stewardAccess true ⟨addr, len⟩ v) s (fun t => t = err 1)) ∧
     (inside → serves → s.errAt addr len = false → s.badAt addr len = false →
       Ends (.stewardAccess false ⟨addr, len⟩ v) s (Pkg { p with stwload := word (s.read addr len) })) ∧
     (inside → serves → s.errAt addr len = true ∨ s.badAt addr len = true → Ends (.stewardAccess false ⟨addr, len⟩ v) s fun t =>
       t = { err (if s.errAt addr len then 1 else 5) with
         pkg := { p with stwload := word ((Config.lostWord s.freeCtr).toNat % 256 ^ len) }, freeCtr := s.freeCtr + 1 }) ∧
     (inside → ¬ serves → Ends (.stewardAccess true ⟨addr, len⟩ v) s (fun t => t = s) ∧
       Ends (.stewardAccess false ⟨addr, len⟩ v) s (Pkg { p with stwload := 0 })) ∧
     (¬ inside → Ends (.stewardAccess true ⟨addr, len⟩ v) s (Pkg counted) ∧
       Ends (.stewardAccess false ⟨addr, len⟩ v) s (Pkg { counted with stwload := 0 })))

/-- R7, R45, R245, R330, R336, R369, R376, R379, R423: writes of device registers. Bits that a register does not have are dropped, W1C bits clear where a 1 is written,
and an address that names no register, or a read-only one, ignores the write (log 15, the model's choice). Every such write fires the monitors of its doubleword
(R305). -/
def Obligations.RegisterWrites : Prop :=
  ∀ (s : State) (src : Src) (v : Word) (d q k : Nat), s.pkg.tripped = false → d < 8 → q < 32768 → k < 64 →
    let die := 0x6200000000 + 0x1000000 * d
    let queue := 0x6240000000 + 0x40 * q
    let x := s.die d
    let Die_ (o : Nat) (y : Die) : Prop := Rings (die + o) (.registerWrite src (die + o) v) s fun t =>
      t.die d = y ∧ (∀ j, j ≠ d → t.die j = s.die j) ∧ { t with dies := s.dies } = s
    let Queue_ (o : Nat) (y : WorkQueue) : Prop := Rings (queue + o) (.registerWrite src (queue + o) v) s fun t =>
      t.queue q = y ∧ (∀ j, j ≠ q → t.queue j = s.queue j) ∧ { t with queues := s.queues } = s
    let Same (a : Nat) : Prop := Rings a (.registerWrite src a v) s fun t => t = s
    let clear (old : Word) (i : Nat) : Word := if v.flag i then old &&& ~~~((1 : Word) <<< i) else old
    let lowW : Word := v &&& 0xFFFFFFFF
    Die_ 0x00 { x with hot := { x.hot with base := v &&& 0x3FFFFFFFFF000 } } ∧ Die_ 0x08 { x with hot := { x.hot with ctl := v &&& 0x1F } } ∧
    Die_ 0x18 { x with hot := { x.hot with tail := lowW } } ∧ Die_ 0x20 { x with hot := { x.hot with drop := x.hot.drop &&& ~~~v } } ∧
    Die_ 0x80 { x with err := { x.err with base := v &&& 0x3FFFFFFFFF000 } } ∧ Die_ 0x30 { x with binderr := clear x.binderr 31 } ∧
    Die_ 0x38 { x with kvec := v &&& ~~~3 } ∧ Die_ 0x48 { x with presave0 := v &&& 0xFFFFFFFFFFFFF } ∧
    Die_ 0x60 { x with rstsrc0 := v &&& 0xFFFFFFFFFFFFF } ∧ Die_ 0x70 { x with wdlim := lowW } ∧
    Die_ 0x78 { x with faultst := clear x.faultst 31 } ∧ Die_ 0x10 x ∧ Same (die + 0x200 + 8 * k) ∧ Same (die + 0x28) ∧
    (let w := s.queue q
     Queue_ 0x00 { w with base := v &&& 0x3FFFFFFFFFFC0 } ∧
     (v.flag 8 = true → v.field 4 0 = 0 ∨ 16 < v.field 4 0 → Queue_ 0x08 w) ∧
     (v.flag 8 = false ∨ (1 ≤ v.field 4 0 ∧ v.field 4 0 ≤ 16) → Queue_ 0x08 { w with ctl := v &&& 0x11F }) ∧
     Queue_ 0x18 { w with tail := lowW } ∧ Queue_ 0x28 { w with err := clear w.err 63 } ∧ Queue_ 0x10 w ∧ Queue_ 0x20 w) ∧
    Rings 0x62E0000010 (.registerWrite src 0x62E0000010 v) s (fun t => t = { s with pkg := { s.pkg with agelim := word (min (v.field 26 0) 85000000) } }) ∧
    Rings 0x62F0000000 (.registerWrite src 0x62F0000000 v) s (fun t => t = { s with pkg := { s.pkg with asidt := v &&& 0x3FFFFFFFF8000 } }) ∧
    Rings 0x62F0000008 (.registerWrite src 0x62F0000008 v) s (fun t => t = { s with pkg := { s.pkg with tinva := v &&& 0xFFFFFFFFFFFFF } }) ∧
    Same 0x62E2000000 ∧ Same 0x62E2000010 ∧ Same 0x62E2000028 ∧ Same 0x62E1000008

/-! ### The fabric -/

/-- R384, R385, R386: a flit on a link that is down, with a wrong CRC or out of sequence, is discarded. A good one advances the sequence, drops the flits
up to the one that it acknowledges, from which replays count anew, and delivers its messages in order; an acknowledgement of a flit that is not waiting changes nothing (log 8). A replay counts, and the ninth without an acknowledgement takes the link down: that it is the ninth event that does, and that the link then counts as failed,
is the model's choice (log 44). A write of a payload that no other link can carry ends its job with ACCESS, SUB 8: that it is told so, with PROG as far as its writes had certainly been performed, is the model's choice (log 4). No restore is waiting for a peer in these states; one that is goes on when its answer comes (R371).
R305, R385: a response answers the request of its class, tag and package that still waits, and no other; a wake fires the monitors of its doubleword; the bytes of a
collective message join the stream of their sender for the group and call that ADDR names (log 9, the model's choice). -/
def Obligations.FlitsAndResponses : Prop :=
  (∀ (s : State) (j : Nat) (flit : List Byte), s.pkg.tripped = false → (∀ r ∈ s.remotes, ∀ k l a b, r.agent ≠ .restore k l a b) →
      let l := s.link j
      let good : Bool := rd flit 12 4 == Fp.crc32c (flit.take 12 ++ flit.drop 16) && rd flit 4 4 == l.recvSeq.toNat
      (l.up = false ∨ good = false → Ends (.flitReceive j flit) s fun t => t = s) ∧
      let first := rd (l.unacked.headD []) 4 4 % 2 ^ 24
      let acked := (rd flit 9 3 + 2 ^ 24 + 1 - first) % 2 ^ 24
      let after (kept : Link) : Prop :=
        let s' := s.setLink j { kept with recvSeq := l.recvSeq + 1 }
        let ms := msgsOf (rd flit 2 2 % 1024) (bit (rd flit 2 2) 10) (rd flit 8 1 % 4) (flit.drop 16)
        Ends (.flitReceive j flit) s (fun t => t = ms.foldl (fun s m => deliver s j m) s') ∧ s'.link j = { kept with recvSeq := l.recvSeq + 1 } ∧
        ∀ m ∈ ms, m.src = rd flit 2 2 % 1024 ∧ m.host = (rd flit 2 2).testBit 10
      (l.up = true → good = true → l.unacked = [] ∨ acked = 0 ∨ l.unacked.length < acked → after l) ∧
      (l.up = true → good = true → l.unacked ≠ [] → 1 ≤ acked → acked ≤ l.unacked.length →
        after { l with unacked := l.unacked.drop acked, owners := l.owners.drop acked, replays := 0 }) ∧
      (l.up = true → l.unacked ≠ [] → l.replays < 8 → Ends (.flitReplay j) s fun t =>
        t.link j = { l with replays := l.replays + 1 } ∧ { t with links := s.links } = s) ∧
      (l.up = true → l.unacked ≠ [] → 8 ≤ l.replays → Ends (.flitReplay j) s fun t => (t.link j).up = false ∧ (t.link j).failed = true) ∧
      (l.up = true → l.unacked ≠ [] → 8 ≤ l.replays → (∀ os ∈ l.owners, ∀ a ∈ os, (∀ k ∈ s.jobs, k.agent ≠ a) ∧ ∀ d, a ≠ .save d) →
        Ends (.flitReplay j) s fun t => t.fronts = s.fronts ∧ t.jobs = s.jobs ∧ t.dies = s.dies ∧ SameBytes s t) ∧
      (∀ b x k, l.up = true → 8 ≤ l.replays → l.unacked = [b] → flitMsgs b = [x] → l.owners = [[k.agent]] → (rd b 0 2).testBit 13 = false →
        rd x 0 1 / 16 = 0 → (∀ i, i ≠ j → (s.link i).up = true → (spGet 0 s.pkg.routes (rd b 0 2 % 1024)).flag i = false) →
        (s.jobs.find? fun y => y.agent == k.agent) = some k → (k.card.getD 0 0).field 3 0 < 3 → k.moved = false → k.stage = 0 → k.agreed = false →
        Ends (.flitReplay j) s fun t => t.fronts = s.fronts ∧ SameBytes s t ∧
          t.jobs = s.jobs.map fun y => if y.agent = k.agent then k.ended 9 8 k.sure else y) ∧
      (l.up = false ∨ l.unacked = [] → Ends (.flitReplay j) s fun t => t = s)) ∧
  (∀ (s : State) (m : Msg), s.pkg.tripped = false → m.host = false → (∀ r ∈ s.remotes, ∀ k l a b, r.agent ≠ .restore k l a b) →
      let hits (cls : Nat) (r : Remote) : Prop := r.tag = m.tag ∧ r.pkg = m.src ∧ r.cls = cls ∧ r.answer = none
      let Answers (i : Instr) (cls : Nat) : Prop := Ends i s fun t =>
        { t with remotes := s.remotes } = s ∧ List.Forall₂ (fun r y => (hits cls r → y = { r with answer := some (m.data.take m.len) }) ∧
          (¬ hits cls r → y = r)) s.remotes t.remotes
      Answers (.msgReadResponse m) 1 ∧ Answers (.msgAtomicResponse m) 3 ∧ Answers (.msgRegisterResponse m) 6 ∧
      Ends (.msgMonitorWake m) s (fun t => { t with monitors := s.monitors } = s ∧
        List.Forall₂ (fun w y => y = if w.unit = 2 ^ 60 + m.src * 2 ^ 50 + m.addr / 8 then { w with fired := true } else w) s.monitors t.monitors) ∧
      Ends (.msgCollective m) s fun t => t = collectiveBytes s m.src (m.addr % 65536) (m.addr / 65536) (m.data.take m.len ++ zeros (m.len - m.data.length)))

/-- R235, R388, R423: what a message may reach. A host bridge reads and writes device registers, scratchpads and memory; another package, HBM and vaults alone; HBM
and host memory only at FULL. A write elsewhere changes nothing; a read or a register access elsewhere is answered with no data. A device register takes a
host's write of 8 bytes, and a register access that writes, as it takes a REGISTER_WRITE of the host (RegisterWrites says how), and no shorter one. `reply` is the
state after the answer, which a host gets by a link that is up. A write of part of a unit in error is not made, and a read or an atomic that fails a check is answered with no data; each
appends its record (R374, R376). A read of a whole doubleword of memory by a package arms a monitor for it, since R385 gives a check-and-arm no class of its own (R305). A read of no bytes is
answered with the stored check of its block: these two, and that refused requests are answered with LEN 0, what an
atomic message makes of the old word, and which register accesses write, free values, is the model's choice (log 9); so is that the host's answer to a message that comes without its flit
leaves by the lowest live link (log 8). -/
def Obligations.MemoryMessages : Prop :=
  ∀ (s : State) (m : Msg), s.pkg.tripped = false → m.len ≤ 224 → m.data.length = m.len →
    let j := ((List.range 18).find? fun i => (s.link i).up).getD 0
    let a := m.addr
    let far := a + max m.len 1 - 1
    let err (kind : Nat) : State := errRecord s (homeDie a) 0 a 0 kind 0 0 0
    let failed : Bool := s.errAt a m.len || s.badAt a m.len
    let both (p : Nat → Bool) : Bool := p a && p far
    let full : Bool := s.pkg.level == 3
    let mem : Bool := (both inHbm && full) || both inVault || (m.host && (both inScratch || (both inCxl && full)))
    let dev : Bool := m.host && both inDevice
    let outside : Bool := !mem && !dev
    let reply (cls : Nat) (bs : List Byte) (u : State) : State := if m.host then (if (u.link j).up then u.sendOn j m.src true cls m.tag bs.length a bs else u)
      else (u.send m.src cls m.tag bs.length a bs).getD u
    let block := a / 256 * 256
    let old := s.bytes a m.len
    let reg := leBytes m.len (devRead s a m.len)
    let Put (v : Nat) (t : State) : Prop := exec (.registerWrite .host a (word v)) s = .next t
    let arm : Monitor := ⟨1024 + m.src, a / 8, false⟩
    let watched : State := if m.host = false ∧ m.len = 8 ∧ a % 8 = 0 ∧ arm ∉ s.monitors then { s with monitors := s.monitors ++ [arm] } else s
    (mem = true →
      (s.partErr a m.len = true → Ends (.msgWrite m) s fun t => t = err 1) ∧
      (s.partErr a m.len = false → Ends (.msgWrite m) s fun t =>
        Stored s a m.len (leNat m.data) t ∧ t.fronts = s.fronts ∧ t.cores = s.cores ∧ t.pkg = s.pkg) ∧
      (m.len = 0 → s.badAt block 256 = false → Ends (.msgReadRequest m) s fun t => t = reply 2 (leBytes 4 (Fp.crc32c (s.bytes block 256))) s) ∧
      (m.len = 0 → s.badAt block 256 = true → Ends (.msgReadRequest m) s fun t => t = reply 2 [] (errRecord s (homeDie block) 0 block 0 5 0 0 0)) ∧
      (m.len ≠ 0 → failed = false → Ends (.msgReadRequest m) s fun t => t = reply 2 old watched) ∧
      (m.len ≠ 0 → failed = true → Ends (.msgReadRequest m) s fun t => t = reply 2 [] (err (if s.errAt a m.len then 1 else 5))) ∧
      (failed = true → Ends (.msgAtomic m) s fun t => t = reply 4 [] (err (if s.errAt a m.len then 1 else 5))) ∧
      (failed = false → m.len = 0 → Ends (.msgAtomic m) s fun t => t = reply 4 [] s) ∧
      (failed = false → m.len ≠ 0 → Config.atomicEffect m (leNat old) = none → Ends (.msgAtomic m) s fun t => t = reply 4 old s) ∧
      ∀ v, failed = false → m.len ≠ 0 → Config.atomicEffect m (leNat old) = some v → Ends (.msgAtomic m) s fun t =>
        Stored s a m.len v t ∧ t.fronts = s.fronts ∧ t.pkg = s.pkg ∧ t = reply 4 old (s.write a (leBytes m.len v))) ∧
    (dev = true →
      (m.len ≠ 8 → Ends (.msgWrite m) s fun t => t = s) ∧
      (m.len = 8 → Ends (.msgWrite m) s (Put (leNat m.data))) ∧
      Ends (.msgReadRequest m) s (fun t => t = reply 2 reg s) ∧
      (m.len ≠ 8 → Ends (.msgAtomic m) s fun t => t = reply 4 reg s) ∧
      (m.len = 8 → Config.atomicEffect m (leNat reg) = none → Ends (.msgAtomic m) s fun t => t = reply 4 reg s) ∧
      ∀ v, m.len = 8 → Config.atomicEffect m (leNat reg) = some v → Ends (.msgAtomic m) s fun t => ∃ u, Put v u ∧ t = reply 4 reg u) ∧
    (outside = true → Ends (.msgWrite m) s (fun t => t = s) ∧ Ends (.msgReadRequest m) s (fun t => t = reply 2 [] s) ∧
      Ends (.msgAtomic m) s fun t => t = reply 4 [] s) ∧
    (m.host = false ∨ inDevice a = false ∨ 8 < m.len → Ends (.msgRegisterAccess m) s fun t => t = reply 7 [] s) ∧
    (m.host = true → inDevice a = true → m.len ≤ 8 →
      (m.len ≠ 8 ∨ Config.registerMsgWrites m = false → Ends (.msgRegisterAccess m) s fun t => t = reply 7 reg s) ∧
      (m.len = 8 → Config.registerMsgWrites m = true → Ends (.msgRegisterAccess m) s fun t => ∃ u, Put (leNat m.data) u ∧
        t = reply 7 (leBytes 8 (devRead u a 8)) u))

/-! ### What queued vector instructions do -/

/-- R63, R66, R68, R157, R163, R164, R169, R170, R171: element i of an integer instruction. An active element whose sources have an integer tag of the
width gets the result, with the tags of va's cells, and its offender bit where it saturates; one with another tag raises FORMAT with SUB 0; an
inactive one is left, or zeroed under MODE 2. The source modifier takes vb's element from i, i + 1, i − 1 or 0. Bitwise operations and moves check no tag;
VMERGE chooses by the active mask in every mode; splats write INTw, or RAW below 8 bits. RAW for an inactive element below 8 bits
is the model's choice (log 65).
R163, R164: RETAG, PLZERO, PLSAVE and PLLOAD act on the cells of a name, in the order of its cell list, in which no
cell of an entry that R61 accepts stands twice. -/
def Obligations.IntegerElements : Prop :=
  (∀ (s : State) (f i : Nat) (e : QEntry) (vd va vb : VName) (sm : BitVec 2) (n : BitVec 8) (r : SReg),
    let k := s.core (f / 2)
    let (d, a, b) := (e.name 0, e.name 1, e.name 2)
    let o := e.cap.first
    let w := dW d
    let j : Option Nat := if sm = 0 then some i else if sm = 1 then (if i + 1 < e.vl then some (i + 1) else none)
      else if sm = 2 then (if 1 ≤ i then some (i - 1) else none) else some 0
    let x := k.elem a o i
    let y := (j.map (k.elem b o)).getD 0
    let S (v : Nat) : Int := if v < 2 ^ (w - 1) then v else (v : Int) - 2 ^ w
    let wrap (v : Int) : Nat := (v % 2 ^ w).toNat
    let top : Int := 2 ^ (w - 1)
    let good (c : Nat) : Prop := 8 ≤ w ∧ ((k.tag c).toNat = intTag w ∨ (k.tag c).toNat = intTag w + 1)
    let goodA : Prop := ∀ c ∈ elemCells a o i, good c
    let goodB : Prop := ∀ q, j = some q → ∀ c ∈ elemCells b o q, good c
    let ofA := (elemCells a o i).map k.tag
    let int := (elemCells d o i).map fun _ => BitVec.ofNat 8 (intTag w)
    let Puts (ins : Instr) (v : Nat) : Prop := e.instr = ins → RunsElem e f i s (ElemPut s f o d i v ofA)
    let Sats (ins : Instr) (lo hi v : Int) : Prop := e.instr = ins →
      RunsElem e f i s (ElemResult s f e d i (wrap (if v < lo then lo else if hi < v then hi else v)) ofA (decide (v < lo ∨ hi < v)) 0)
    let Idle (tags : List Byte) (ins : Instr) : Prop := e.instr = ins →
      (e.mode ≠ 2 → RunsElem e f i s fun t => t = s) ∧ (e.mode = 2 → RunsElem e f i s (ElemPut s f o d i 0 tags))
    let twos : List Instr := [.vadd vd va vb sm, .vsub vd va vb sm, .vmul vd va vb sm, .vmulh vd va vb sm, .vmin vd va vb sm,
      .vmax vd va vb sm, .vminu vd va vb sm, .vmaxu vd va vb sm, .vshl vd va vb sm, .vshr vd va vb sm, .vsra vd va vb sm,
      .vsadd vd va vb sm, .vssub vd va vb sm, .vsaddU vd va vb sm, .vssubU vd va vb sm]
    let ones : List Instr := [.vshlImm vd va n, .vshrImm vd va n, .vsraImm vd va n]
    let bits : List Instr := [.vand vd va vb sm, .vor vd va vb sm, .vxor vd va vb sm, .vmv vd va]
    let splats : List Instr := [.vsplat vd r, .vsplatImm vd n]
    let one : Prop := dW a = w ∧ k.clean a o i
    let two : Prop := one ∧ dW b = w ∧ ∀ q, j = some q → k.clean b o q
    let active : Bool := activeIn e.mode ((s.front f).mask e.act) i
    dEw d ≠ 7 → i < e.vl → k.clean d o i →
    (active = true →
      (two → Puts (.vand vd va vb sm) (Nat.land x y) ∧ Puts (.vor vd va vb sm) (Nat.lor x y) ∧ Puts (.vxor vd va vb sm) (Nat.xor x y)) ∧
      (one → Puts (.vmv vd va) x) ∧
      (two → goodA → goodB →
        Puts (.vadd vd va vb sm) (x + y) ∧ Puts (.vsub vd va vb sm) (wrap ((x : Int) - y)) ∧ Puts (.vmul vd va vb sm) (x * y) ∧
        Puts (.vmulh vd va vb sm) (wrap (S x * S y / 2 ^ w)) ∧ Puts (.vmin vd va vb sm) (if S x ≤ S y then x else y) ∧
        Puts (.vmax vd va vb sm) (if S x ≤ S y then y else x) ∧ Puts (.vminu vd va vb sm) (min x y) ∧ Puts (.vmaxu vd va vb sm) (max x y) ∧
        Puts (.vshl vd va vb sm) (x * 2 ^ (y % w)) ∧ Puts (.vshr vd va vb sm) (x / 2 ^ (y % w)) ∧
        Puts (.vsra vd va vb sm) (wrap (S x / 2 ^ (y % w))) ∧
        Sats (.vsadd vd va vb sm) (-top) (top - 1) (S x + S y) ∧ Sats (.vssub vd va vb sm) (-top) (top - 1) (S x - S y) ∧
        Sats (.vsaddU vd va vb sm) 0 (2 ^ w - 1) (x + y) ∧ Sats (.vssubU vd va vb sm) 0 (2 ^ w - 1) ((x : Int) - y)) ∧
      (one → goodA →
        Puts (.vshlImm vd va n) (x * 2 ^ (n.toNat % w)) ∧ Puts (.vshrImm vd va n) (x / 2 ^ (n.toNat % w)) ∧
        Puts (.vsraImm vd va n) (wrap (S x / 2 ^ (n.toNat % w)))) ∧
      (one → ¬ goodA → ∀ ins ∈ twos ++ ones, e.instr = ins → StopsElem e f i s ⟨5, 0, i, 0, 0⟩) ∧
      (two → goodA → ¬ goodB → ∀ ins ∈ twos, e.instr = ins → StopsElem e f i s ⟨5, 0, i, 0, 0⟩) ∧
      (e.instr = .vsplat vd r → RunsElem e f i s (ElemPut s f o d i (e.scal 0).toNat int)) ∧
      (e.instr = .vsplatImm vd n → RunsElem e f i s (ElemPut s f o d i (n.signExtend 64).toNat int))) ∧
    (active = false → (∀ ins ∈ twos ++ ones ++ splats, Idle int ins) ∧ (one → ∀ ins ∈ bits, Idle ofA ins)) ∧
    (i = 0 → e.instr = .vmvsx vd r →
      (active = true → RunsBody e f 1 1 0 s (ElemPut s f o d 0 (e.scal 0).toNat int)) ∧
      (active = false → e.mode ≠ 2 → RunsBody e f 1 1 0 s fun t => t = s) ∧
      (active = false → e.mode = 2 → RunsBody e f 1 1 0 s (ElemPut s f o d 0 0 int))) ∧
    (e.instr = .vmerge vd va vb sm → two →
      (((s.front f).mask e.act).getLsbD i = true → RunsElem e f i s (ElemPut s f o d i x ofA)) ∧
      (((s.front f).mask e.act).getLsbD i = false → ∀ q, j = some q → RunsElem e f i s (ElemPut s f o d i y ((elemCells b o q).map k.tag))) ∧
      (((s.front f).mask e.act).getLsbD i = false → j = none → RunsElem e f i s (ElemPut s f o d i 0 ((elemCells d o i).map k.tag))))) ∧
  (∀ (s t : State) (f : Nat) (e : QEntry) (vd : VName) (r : SReg) (tag : Byte),
    let k := s.core (f / 2)
    let d := e.name 0
    let o := e.cap.first
    let cells := cellList d o
    let n := cells.length
    let base := (e.scal 0).toNat
    let c : Ctx := ⟨.entry f e.vsn, f, (s.front f).asid, !e.cap.kern, e.cap.spbase.field 51 20 * 2 ^ 20⟩
    let In (q : Nat) : Bool := (List.range (dCap d)).any fun i => (elemCells d o i).contains q
    let Fronts (v u : State) : Prop := { u.front f with dirty := 0 } = { v.front f with dirty := 0 } ∧ (∀ g, g ≠ f → u.front g = v.front g) ∧
      ∀ row, row < 512 → (u.front f).dirty.getLsbD row = ((v.front f).dirty.getLsbD row || cells.any fun q => q / 64 == row)
    (∀ q, q ∈ cells ↔ In q = true) ∧
    (e.instr = .retag vd tag → RunsWhole e f s fun u => (∀ q, (u.core (f / 2)).tag q = if In q then tag else k.tag q) ∧
      (u.core (f / 2)).plane = k.plane ∧ Fronts s u ∧ SameBytes s u) ∧
    (e.instr = .plzero vd → (∀ i, i < dCap d → k.clean d o i) → RunsWhole e f s
      (Chain (fun i u v => ElemPut u f o d i 0 ((elemCells d o i).map fun _ => 0) v) (dCap d) 0 s)) ∧
    (e.instr = .plsave vd r → ∃ check body, runOf e f = .steps check n body ∧
      (base % 4 ≠ 0 → check s = .error (.trap ⟨7, 2, 0, base, 0⟩)) ∧
      ∀ i q u v, cells[i]? = some q → badCell? k [q] true = none → storeVa c ((base + 4 * i) % 2 ^ 64) 4 (k.cell q).toNat s = .ok ((), u) →
        storeVa c ((base + 4 * n + i) % 2 ^ 64) 1 (k.tag q).toNat u = .ok ((), v) → body i s = .ok ((), v)) ∧
    (e.instr = .plload vd r →
      (base % 4 ≠ 0 → StopsWhole e f s ⟨7, 2, 0, base, 0⟩) ∧
      ∀ u v ws ts, base % 4 = 0 → cells.Nodup → recordCheck e f .read s = .ok ((), t) → readRecord c base 4 n t = .ok (ws, u) →
        readRecord c (base + 4 * n) 1 n u = .ok (ts, v) → (∀ x ∈ ts, tagOk x = true) → RunsWhole e f s fun z =>
          (∀ i q, cells[i]? = some q → (z.core (f / 2)).cell q = BitVec.ofNat 32 (ws.getD i 0) ∧
            (z.core (f / 2)).tag q = BitVec.ofNat 8 (ts.getD i 0)) ∧
          (∀ q, In q = false → (z.core (f / 2)).cell q = (v.core (f / 2)).cell q ∧ (z.core (f / 2)).tag q = (v.core (f / 2)).tag q) ∧
          Fronts v z ∧ SameBytes v z))

/-- R65, R166, R167, R181: compares write bit i of a mask, where element i is active, and clear it where it is not under MODE 2; the mask operations
write a whole mask at once. No other mask and no element changes; a floating compare ORs its flags into FFLAGS: NV for a signalling NaN, and under LT
and LE for any NaN. -/
def Obligations.MaskInstructions : Prop :=
  ∀ (s : State) (f i : Nat) (e : QEntry) (md ma mb : MReg) (va vb : VName) (sm : BitVec 2) (bf : Bool) (r : SReg),
    let k := s.core (f / 2)
    let (a, b) := (e.name 0, e.name 1)
    let o := e.cap.first
    let w := dW a
    let j : Option Nat := if sm = 0 then some i else if sm = 1 then (if i + 1 < e.vl then some (i + 1) else none)
      else if sm = 2 then (if 1 ≤ i then some (i - 1) else none) else some 0
    let (x, y) := (k.elem a o i, (j.map (k.elem b o)).getD 0)
    let S (v : Nat) : Int := if v < 2 ^ (w - 1) then v else (v : Int) - 2 ^ w
    let good (c : Nat) : Prop := 8 ≤ w ∧ ((k.tag c).toNat = intTag w ∨ (k.tag c).toNat = intTag w + 1)
    let fmt : FFmt := if w = 16 then (if bf then .bf16 else .fp16) else if w = 32 then .fp32 else .fp64
    let env := envOf e.cap.fcr e.cap.gstep
    let order := Fp.cmp (arg fmt env x) (arg fmt env y)
    let nv := Fp.sigFlag [arg fmt env x, arg fmt env y]
    let nan := if order = none then Fp.NV else 0
    let m (n : MReg) : BitVec 256 := (s.front f).mask n.toNat
    let Only (fl : Nat) (t : State) : Prop := OnlyFront f s t ∧
      { t.front f with masks := [], fflags := 0 } = { s.front f with masks := [], fflags := 0 } ∧
      (t.front f).fflags = (s.front f).fflags ||| word fl ∧ ∀ q, q ≠ md.toNat → (t.front f).mask q = (s.front f).mask q
    let Sets (ins : Instr) (v : Bool) (fl : Nat) : Prop := e.instr = ins → RunsElem e f i s fun t => Only fl t ∧
      ∀ q, q < 256 → ((t.front f).mask md.toNat).getLsbD q = if q = i then v else (m md).getLsbD q
    let Whole (ins : Instr) (v : BitVec 256) : Prop := e.instr = ins → RunsWhole e f s fun t => Only 0 t ∧ (t.front f).mask md.toNat = v
    let ints : List Instr := [.vcmpEq md va vb sm, .vcmpNe md va vb sm, .vcmpLt md va vb sm, .vcmpGe md va vb sm, .vcmpLtu md va vb sm,
      .vcmpGeu md va vb sm]
    let floats : List Instr := [.vfcmpEq md va vb sm bf, .vfcmpLt md va vb sm bf, .vfcmpLe md va vb sm bf, .vfcmpUn md va vb sm bf]
    let active : Bool := activeIn e.mode ((s.front f).mask e.act) i
    let both (p : Nat → Prop) : Prop := (∀ c ∈ elemCells a o i, p c) ∧ ∀ q, j = some q → ∀ c ∈ elemCells b o q, p c
    (dEw a ≠ 7 → dW b = w → i < e.vl → e.vl ≤ 256 → k.clean a o i → (∀ q, j = some q → k.clean b o q) →
      (active = true → both good →
        Sets (.vcmpEq md va vb sm) (x == y) 0 ∧ Sets (.vcmpNe md va vb sm) (x != y) 0 ∧ Sets (.vcmpLt md va vb sm) (decide (S x < S y)) 0 ∧
        Sets (.vcmpGe md va vb sm) (decide (S y ≤ S x)) 0 ∧ Sets (.vcmpLtu md va vb sm) (decide (x < y)) 0 ∧
        Sets (.vcmpGeu md va vb sm) (decide (y ≤ x)) 0) ∧
      (active = true → w ∈ [16, 32, 64] → both (fun c => (k.tag c).toNat = fpTag fmt) →
        Sets (.vfcmpEq md va vb sm bf) (order == some .eq) nv ∧ Sets (.vfcmpLt md va vb sm bf) (order == some .lt) nan ∧
        Sets (.vfcmpLe md va vb sm bf) (order == some .lt || order == some .eq) nan ∧ Sets (.vfcmpUn md va vb sm bf) (order == none) nv) ∧
      (active = true → (∃ c ∈ elemCells a o i, ¬ good c) → ∀ ins ∈ ints, e.instr = ins → StopsElem e f i s ⟨5, 0, i, 0, 0⟩) ∧
      (active = true → (∃ c ∈ elemCells a o i, (k.tag c).toNat ≠ fpTag fmt) → ∀ ins ∈ floats, e.instr = ins →
        StopsElem e f i s ⟨5, 0, i, 0, 0⟩)) ∧
    (i < e.vl → e.vl ≤ 256 → active = false → ∀ ins ∈ ints ++ floats, (e.mode = 2 → Sets ins false 0) ∧
      (e.mode ≠ 2 → e.instr = ins → RunsElem e f i s fun t => t = s)) ∧
    Whole (.mand md ma mb) (m ma &&& m mb) ∧ Whole (.mor md ma mb) (m ma ||| m mb) ∧ Whole (.mxor md ma mb) (m ma ^^^ m mb) ∧
    Whole (.mnot md ma) (~~~(m ma)) ∧
    (e.instr = .mset md r → RunsWhole e f s fun t => Only 0 t ∧
      ∀ q, q < 256 → ((t.front f).mask md.toNat).getLsbD q = decide (q < (e.scal 0).toNat))

/-- R82, R177, R178, R179, R180: element i of a floating-point instruction, active, with the format's tag on every source cell: the result of the
operation under the captured FCR, rounded as element i, the format's tag on the destination's cells, and its flags in FFLAGS. A source cell with another
tag raises FORMAT with SUB 0; an inactive element is left, or zeroed under MODE 2. The source modifier takes vb's element from i, i + 1, i − 1 or 0.
The operations are the model's (Machine/Flags.lean, Machine/Fp.lean).
R184, R185, R186, R187: the conversions. VCVT, VNARROW and VWIDEN write the converted value, under the block's scale where the slot has one, with the tag of
the destination, the flags and the offender bit; a reserved code raises RESERVED_CODE with SUB 0, an E8 code of 0xFF with SUB 1. VSPLITB and VJOINB move the
bits of a code between a name of 8 bits and its planes; VSCALEB writes the E8 code of a block's largest magnitude. A tie with
no even candidate, the value after the largest one of a slot, and the scale of a slot without a largest magnitude are the model's choice (logs 61, 62
and 16). -/
def Obligations.FloatElements : Prop :=
  (∀ (s : State) (f i : Nat) (e : QEntry) (vd va vb : VName) (sm : BitVec 2) (bf : Bool),
    let k := s.core (f / 2)
    let (d, a, b) := (e.name 0, e.name 1, e.name 2)
    let o := e.cap.first
    let w := dW d
    let fmt : FFmt := if w = 16 then (if bf then .bf16 else .fp16) else if w = 32 then .fp32 else .fp64
    let env := envOf e.cap.fcr e.cap.gstep
    let j : Option Nat := if sm = 0 then some i else if sm = 1 then (if i + 1 < e.vl then some (i + 1) else none)
      else if sm = 2 then (if 1 ≤ i then some (i - 1) else none) else some 0
    let (x, y, z) := (k.elem a o i, (j.map (k.elem b o)).getD 0, k.elem d o i)
    let goodA : Prop := ∀ c ∈ elemCells a o i, (k.tag c).toNat = fpTag fmt
    let goodB : Prop := ∀ q, j = some q → ∀ c ∈ elemCells b o q, (k.tag c).toNat = fpTag fmt
    let goodD : Prop := ∀ c ∈ elemCells d o i, (k.tag c).toNat = fpTag fmt
    let tags (n : Nat) := (elemCells d o i).map fun _ => BitVec.ofNat 8 n
    let Puts (ins : Instr) (tag : Nat) (r : Nat × Nat) : Prop := e.instr = ins →
      RunsElem e f i s (ElemResult s f e d i r.1 (tags tag) false r.2)
    let ones : List Instr := [.vfsqrt vd va bf, .vfrcp vd va bf, .vfrsq vd va bf, .vfabs vd va bf, .vfneg vd va bf, .vfexp2 vd va bf,
      .vflog2 vd va bf]
    let twos : List Instr := [.vfadd vd va vb sm bf, .vfsub vd va vb sm bf, .vfmul vd va vb sm bf, .vfdiv vd va vb sm bf, .vfmin vd va vb sm bf,
      .vfmax vd va vb sm bf, .vfma vd va vb sm bf, .vfms vd va vb sm bf, .vfnma vd va vb sm bf]
    let Idle (tag : Nat) (ins : Instr) : Prop := e.instr = ins →
      (e.mode ≠ 2 → RunsElem e f i s fun t => t = s) ∧ (e.mode = 2 → RunsElem e f i s (ElemPut s f o d i 0 (tags tag)))
    let two : Prop := dW b = w ∧ ∀ q, j = some q → k.clean b o q
    let active : Bool := activeIn e.mode ((s.front f).mask e.act) i
    w ∈ [16, 32, 64] → dW a = w → i < e.vl → k.clean d o i → k.clean a o i →
    (active = true → goodA →
      Puts (.vfsqrt vd va bf) (fpTag fmt) (fpSqrt fmt env i x 0 0) ∧ Puts (.vfrcp vd va bf) (fpTag fmt) (fpRcp fmt env i x 0 0) ∧
      Puts (.vfrsq vd va bf) (fpTag fmt) (fpRsq fmt env i x 0 0) ∧ Puts (.vfexp2 vd va bf) (fpTag fmt) (fpExp2 fmt env i x 0 0) ∧
      Puts (.vflog2 vd va bf) (fpTag fmt) (fpLog2 fmt env i x 0 0) ∧ Puts (.vfabs vd va bf) (fpTag fmt) (x % 2 ^ (w - 1), 0) ∧
      Puts (.vfneg vd va bf) (fpTag fmt) (Nat.xor x (2 ^ (w - 1)), 0) ∧ Puts (.vfclass vd va bf) (uintTag w) (fpClass fmt x, 0)) ∧
    (active = true → two → goodA → goodB →
      Puts (.vfadd vd va vb sm bf) (fpTag fmt) (fpAdd fmt env i x y 0) ∧ Puts (.vfsub vd va vb sm bf) (fpTag fmt) (fpSub fmt env i x y 0) ∧
      Puts (.vfmul vd va vb sm bf) (fpTag fmt) (fpMul fmt env i x y 0) ∧ Puts (.vfdiv vd va vb sm bf) (fpTag fmt) (fpDiv fmt env i x y 0) ∧
      Puts (.vfmin vd va vb sm bf) (fpTag fmt) (fpMin fmt env i x y 0) ∧ Puts (.vfmax vd va vb sm bf) (fpTag fmt) (fpMax fmt env i x y 0)) ∧
    (active = true → two → goodA → goodB → goodD →
      Puts (.vfma vd va vb sm bf) (fpTag fmt) (fpFma fmt env i x y z) ∧ Puts (.vfms vd va vb sm bf) (fpTag fmt) (fpFms fmt env i x y z) ∧
      Puts (.vfnma vd va vb sm bf) (fpTag fmt) (fpFnma fmt env i x y z)) ∧
    (active = true → ¬ goodA → ∀ ins ∈ .vfclass vd va bf :: (ones ++ twos), e.instr = ins → StopsElem e f i s ⟨5, 0, i, 0, 0⟩) ∧
    (active = false → (∀ ins ∈ ones ++ twos, Idle (fpTag fmt) ins) ∧ Idle (uintTag w) (.vfclass vd va bf))) ∧
  (∀ (s : State) (f i : Nat) (e : QEntry) (vd va : VName) (dst src : BitVec 6) (n : Slot),
    let k := s.core (f / 2)
    let (d, a) := (e.name 0, e.name 1)
    let o := e.cap.first
    let fm := e.cap.fmt
    let env := envOf e.cap.fcr e.cap.gstep
    let x := k.elem a o i
    let ps := e.planes 0
    let at_ := i / blockLen fm
    let code := k.elem (e.scaleName 0) o at_
    let scale : Int := if nBlock fm = 0 then 0 else (code : Int) - 127
    let scaled : Prop := nBlock fm = 0 ∨ (k.tagged o (e.scaleName 0) at_ 13 ∧ code ≠ 0xFF)
    let tags (q : Nat) := (elemCells d o i).map fun _ => BitVec.ofNat 8 q
    let source : Prop := k.clean a o i ∧ ∀ c ∈ elemCells a o i, idTagOk src.toNat (k.tag c).toNat = true
    let planes : Prop := k.planesTagged o n.toNat ps i
    let active : Bool := activeIn e.mode ((s.front f).mask e.act) i
    let sat := satSlot fm env i 0 (scaleVal (idVal src.toNat env.fzi x) (-scale))
    let Idle (ins : Instr) (tag : Nat) : Prop := e.instr = ins → (e.mode ≠ 2 → RunsElem e f i s fun t => t = s) ∧
      (e.mode = 2 → RunsElem e f i s (ElemPut s f o d i 0 (tags tag)))
    let IdlePlanes (ins : Instr) : Prop := e.instr = ins → (e.mode ≠ 2 → RunsElem e f i s fun t => t = s) ∧
      (e.mode = 2 → RunsElem e f i s (PlanesPut f o n.toNat i 0 ps s))
    dEw d ≠ 7 → dEw a ≠ 7 → i < e.vl → k.clean d o i → (∀ p ∈ ps, dEw p.1 ≠ 7 ∧ k.clean p.1 o i) →
    (active = true →
      (source → e.instr = .vcvt vd va dst src →
        (¬ (src.toNat = 13 ∧ x = 0xFF) → let r := cvtCode env dst.toNat src.toNat i x
          RunsElem e f i s (ElemResult s f e d i r.code (tags dst.toNat) r.off r.flags)) ∧
        (src.toNat = 13 → x = 0xFF → StopsElem e f i s ⟨6, 1, i, 0, 0⟩)) ∧
      (source → scaled → e.instr = .vnarrow vd va n src → RunsElem e f i s fun t =>
        ∃ u, PlanesPut f o n.toNat i sat.code ps s u ∧ Noted f e i sat.off sat.flags u t) ∧
      (source → nBlock fm ≠ 0 → k.tagged o (e.scaleName 0) at_ 13 → code = 0xFF → e.instr = .vnarrow vd va n src →
        StopsElem e f i s ⟨6, 1, i, 0, 0⟩) ∧
      (planes → scaled → e.instr = .vwiden vd va dst n →
        (∀ v, nDecode fm (k.joined o ps i) = some v → let r := toFixed env dst.toNat i (scaleVal v scale)
          RunsElem e f i s (ElemResult s f e d i r.code (tags dst.toNat) r.off r.flags)) ∧
        (nDecode fm (k.joined o ps i) = none → StopsElem e f i s ⟨6, 0, i, 0, 0⟩)) ∧
      (k.tagged o a i (slotTag n.toNat 0) → e.instr = .vsplitb vd va n → RunsElem e f i s (PlanesPut f o n.toNat i (x % 2 ^ nW fm) ps s)) ∧
      (planes → e.instr = .vjoinb vd va n → RunsElem e f i s (ElemPut s f o d i (k.joined o ps i) (tags (slotTag n.toNat 0)))) ∧
      ((∃ c ∈ elemCells a o i, idTagOk src.toNat (k.tag c).toNat = false) → k.clean a o i →
        e.instr = .vcvt vd va dst src ∨ e.instr = .vnarrow vd va n src → StopsElem e f i s ⟨5, 0, i, 0, 0⟩)) ∧
    (active = false → Idle (.vcvt vd va dst src) dst.toNat ∧ Idle (.vwiden vd va dst n) dst.toNat ∧
      Idle (.vjoinb vd va n) (slotTag n.toNat 0) ∧ IdlePlanes (.vnarrow vd va n src) ∧ IdlePlanes (.vsplitb vd va n))) ∧
  (∀ (s : State) (f b : Nat) (e : QEntry) (vd va : VName) (n : Slot),
    let k := s.core (f / 2)
    let (d, a) := (e.name 0, e.name 1)
    let o := e.cap.first
    let len := blockLen e.cap.fmt
    let env := envOf e.cap.fcr e.cap.gstep
    let act := ((List.range (min len (e.vl - b * len))).map fun i => b * len + i).filter fun i => activeIn e.mode ((s.front f).mask e.act) i
    let fmtAt (i : Nat) : Option FFmt := idFloat (k.tag ((elemCells a o i).headD 0)).toNat
    let exp (i : Nat) : Option Int := (fmtAt i).bind fun fmt => match arg fmt env (k.elem a o i) with
      | .fin _ m ex _ => if m = 0 then none else some (Fp.lead m ex)
      | _ => none
    let exps := act.filterMap exp
    let stop := (e.vl + len - 1) / len
    let Writes_ (code : Nat) : Prop := RunsBody e f stop 1 b s (ElemPut s f o d b code ((elemCells d o b).map fun _ => 13))
    e.instr = .vscaleb vd va n → dEw d ≠ 7 → b < stop → k.clean d o b →
    (∀ i ∈ act, k.clean a o i ∧ ∃ fmt, fmtAt i = some fmt ∧ Fp.width fmt = dW a) →
    (exps = [] → Writes_ 127) ∧
    ∀ q, q ∈ exps → (∀ r ∈ exps, r ≤ q) → Writes_ (min (max (q - slotLog2Max e.cap.fmt + 127) 0) 254).toNat)

/-- R173, R174, R175, R243, R249, R255, R261, R263, R270: element i, active and of 8 bits or more, of a vector memory instruction, at the address that its rule
gives: B + i × w/8, B + i × VST, B + X(i) × w/8, the tile's, the pair's and the window's. A load writes what is there and keeps the cells' tags, a store
writes the element whatever its tags; an address that is no multiple of the element raises ALIGN with SUB 2, and a fault of the access is the element's,
which leaves plane and memory as they are. A paired store that fails a check of either copy stores neither; a padding element of a window needs no access.
Elements of less than a byte go by the bits of their byte, which all of them are stored to together.
R256, R259, R313, R314, R315: element i of an aged-word instruction, and a scatter-add of one element. AGLD writes the decayed value with the tag FP32; AGST,
AGADD and AGMERGE replace the word in one access, by the model's functions of R314 and R315 (Machine/Aged.lean; FZI for AGADD's vector operand alone, one rounding, and no FZO, the model's choice, logs 17 and 64); the offender bit and the flags follow. A
scatter-add of one active element adds it, rounded with RNE, or with wrap, to the word at its address, flags ORed at completion; one of several
elements adds the groups of phase 2 one after another, in order, with no update of it under way at a peer. -/
def Obligations.VectorMemoryElements : Prop :=
  (∀ (s t : State) (f i v p : Nat) (e : QEntry) (vd vx : VName) (r : SReg),
    let k := s.core (f / 2)
    let d := e.name 0
    let ix := e.name 1
    let o := e.cap.first
    let w := dW d
    let n := w / 8
    let base := (e.scal 0).toNat
    let c : Ctx := ⟨.entry f e.vsn, f, (s.front f).asid, !e.cap.kern, e.cap.spbase.field 51 20 * 2 ^ 20⟩
    let active (j : Nat) : Bool := activeIn e.mode ((s.front f).mask e.act) j
    let kept (u : State) : List Byte := (elemCells d o i).map (u.core (f / 2)).tag
    let Loaded (x : Nat) (u : State) : Prop := ∃ t', SameButHot t t' ∧ ElemPut t' f o d i x (kept t) u
    let Load (ins : Instr) (va : Nat) : Prop := e.instr = ins →
      (va % n = 0 → loadVa c va n s = .ok (v, t) → (t.core (f / 2)).clean d o i → RunsElem e f i s (Loaded v)) ∧
      (va % n ≠ 0 → StopsElem e f i s ⟨7, 2, 0, va, 0⟩) ∧
      ∀ q, va % n = 0 → loadVa c va n s = .error (.trap q) → StopsElem e f i s q
    let Store (ins : Instr) (va : Nat) : Prop := e.instr = ins →
      (va % n = 0 → storeVa c va n (k.elem d o i) s = .ok ((), t) → RunsElem e f i s (SameButHot t)) ∧
      (va % n ≠ 0 → StopsElem e f i s ⟨7, 2, 0, va, 0⟩) ∧
      ∀ q, va % n = 0 → storeVa c va n (k.elem d o i) s = .error (.trap q) → StopsElem e f i s q
    let wrap (x : Int) : Nat := (x % 2 ^ 64).toNat
    let xt := (k.tag ((elemCells ix o i).headD 0)).toNat
    let xv := k.elem ix o i
    let Index (x : Int) : Prop := (xt = intTag (dW ix) ∧ x = if xv < 2 ^ (dW ix - 1) then (xv : Int) else (xv : Int) - 2 ^ dW ix) ∨
      (xt = intTag (dW ix) + 1 ∧ x = xv)
    let rec_ (j : Nat) : Word := e.record.getD j 0
    let stride (j : Nat) : Int := (BitVec.ofNat 40 ((rec_ j).field 39 0)).toInt
    let ext (j : Nat) : Nat := (rec_ j).field 63 40
    let side := min (Nat.log2 (ext 1)) (Nat.log2 (ext 0))
    let row := if (rec_ 0).flag 0 then i % ext 1 else i / ext 0
    let col := if (rec_ 0).flag 0 then i / ext 1 else i % ext 0
    let Tile (z : Nat) : Prop := (∀ j, j < side → z.testBit (2 * j) = col.testBit j ∧ z.testBit (2 * j + 1) = row.testBit j) ∧
      z / 2 ^ (2 * side) = col / 2 ^ side + row / 2 ^ side
    let px : Int := (i % ext 0 : Nat)
    let py : Int := (i / ext 0 : Nat)
    let P := wrap (base + px * stride 0 + py * stride 1)
    let Q := wrap ((e.scal 1).toNat + px * stride 2 + py * stride 3)
    let vst := e.cap.vst
    let wx : Int := (i / ext 0 : Nat) - (vst.field 5 0 : Nat)
    let wy : Int := (BitVec.ofNat 16 (vst.field 47 32)).toInt
    let padding : Prop := wy < 0 ∨ ext 2 ≤ wy ∨ wx < 0 ∨ ext 1 ≤ wx
    let padded := if vst.flag 24 then (if w = 32 then vst.field 63 48 * 2 ^ 16 else vst.field 63 48 % 2 ^ w) else 0
    let loads : List Instr := [.vld vd r, .vlds vd r, .vldx vd r vx, .vldz vd r vx, .vldw vd r vx]
    let stores : List Instr := [.vst vd r, .vsts vd r, .vstx vd r vx, .vstz vd r vx, .vstpair vd r vx]
    dEw d ≠ 7 → i < e.vl → k.clean d o i →
    (8 ≤ w → active i = true →
      Load (.vld vd r) ((base + i * n) % 2 ^ 64) ∧ Load (.vlds vd r) ((base + i * vst.toNat) % 2 ^ 64) ∧
      Store (.vst vd r) ((base + i * n) % 2 ^ 64) ∧ Store (.vsts vd r) ((base + i * vst.toNat) % 2 ^ 64) ∧
      (dW ix ∈ [16, 32, 64] → k.clean ix o i →
        (∀ x, Index x → Load (.vldx vd r vx) (wrap (base + x * n)) ∧ Store (.vstx vd r vx) (wrap (base + x * n))) ∧
        (xt ≠ intTag (dW ix) → xt ≠ intTag (dW ix) + 1 → e.instr = .vldx vd r vx ∨ e.instr = .vstx vd r vx →
          StopsElem e f i s ⟨5, 0, i, 0, 0⟩)) ∧
      (∀ z, Tile z → Load (.vldz vd r vx) ((base + z * n) % 2 ^ 64) ∧ Store (.vstz vd r vx) ((base + z * n) % 2 ^ 64)) ∧
      (padding → e.instr = .vldw vd r vx → RunsElem e f i s (ElemPut s f o d i padded (kept s))) ∧
      (¬ padding → Load (.vldw vd r vx) (wrap (base + (i % ext 0 : Nat) * stride 0 + wx * stride 1 + wy * stride 2))) ∧
      (e.instr = .vstpair vd r vx → ∀ u q, translate c P .write s = .ok (.mem p, t) → P % n = 0 → t.cleanAt p n →
        (Q % n ≠ 0 → StopsElem e f i s ⟨7, 2, 0, Q, 0⟩) ∧
        (∀ x, Q % n = 0 → translate c Q .write t = .error (.trap x) → StopsElem e f i s x) ∧
        (Q % n = 0 → translate c Q .write t = .ok (.mem q, u) → u.cleanAt q n → RunsElem e f i s fun z =>
          SameBytes ((u.write p (leBytes n (k.elem d o i))).write q (leBytes n (k.elem d o i))) z ∧ z.fronts = u.fronts ∧ z.cores = u.cores))) ∧
    (active i = false → ∀ ins, e.instr = ins → (ins ∈ stores → RunsElem e f i s fun u => u = s) ∧
      (ins ∈ loads → e.mode ≠ 2 → RunsElem e f i s fun u => u = s) ∧
      (ins ∈ loads → e.mode = 2 → RunsElem e f i s (ElemPut s f o d i 0 (kept s)))) ∧
    (w < 8 → active i = true →
      let va := (base + i * w / 8) % 2 ^ 64
      let mates := ((List.range e.vl).filter fun j => decide (e.start ≤ j) && active j && j * w / 8 == i * w / 8)
      (e.instr = .vld vd r → loadVa c va 1 s = .ok (v, t) → (t.core (f / 2)).clean d o i →
        RunsElem e f i s (Loaded (v / 2 ^ (i * w % 8) % 2 ^ w))) ∧
      (e.instr = .vst vd r → mates.head? = some i → (∀ j ∈ mates, k.clean d o j) → translate c va .write s = .ok (.mem p, t) → t.cleanAt p 1 →
        RunsElem e f i s fun u => (∀ x, x ≠ p → u.byte x = t.byte x) ∧ u.fronts = t.fronts ∧ u.cores = t.cores ∧
          ∀ b, b < 8 → (u.byte p).getLsbD b = match mates.find? fun j => decide (j * w % 8 ≤ b ∧ b < j * w % 8 + w) with
            | some j => (k.elem d o j).testBit (b - j * w % 8)
            | none => (t.byte p).getLsbD b) ∧
      (e.instr = .vst vd r → e.start ≤ i → mates.head? ≠ some i → RunsElem e f i s (SameButHot s)))) ∧
  (∀ (s t : State) (f i q p : Nat) (e : QEntry) (vd : VName) (r : SReg) (w32 : Bool),
    let k := s.core (f / 2)
    let d := e.name 0
    let o := e.cap.first
    let n := if w32 then 4 else 8
    let va := ((e.scal 0).toNat + i * n) % 2 ^ 64
    let c : Ctx := ⟨.entry f e.vsn, f, (s.front f).asid, !e.cap.kern, e.cap.spbase.field 51 20 * 2 ^ 20⟩
    let step := e.cap.gstep.toNat
    let x := k.elem d o i
    let rest (u : State) : State := { u with mem := [], memErr := [], badBlk := [], monitors := [], l2 := [] }
    let Word_ (ins : Instr) (tagged : Bool) (g : Nat → AgedEffect) : Prop := e.instr = ins →
      (tagged = true → ∀ b ∈ elemCells d o i, (k.tag b).toNat = fpTag .fp32) →
      (va % n = 0 → translate c va .both s = .ok (.mem p, t) → t.cleanAt p n → RunsElem e f i s fun u => ∃ t', rest t' = rest t ∧
        (match (g (t.read p n)).1 with
          | some y => Stored t p n y t'
          | none => SameBytes t t') ∧ Noted f e i (g (t.read p n)).2.1 (g (t.read p n)).2.2 t' u) ∧
      (va % n ≠ 0 → StopsElem e f i s ⟨7, 2, 0, va, 0⟩)
    let all : List Instr := [.agst vd r w32, .agadd vd r w32, .agmerge vd r w32]
    let active : Bool := activeIn e.mode ((s.front f).mask e.act) i
    dEw d ≠ 7 → i < e.vl → k.clean d o i →
    (active = true →
      Word_ (.agst vd r w32) true (agStore w32 e.env.fzi step x) ∧ Word_ (.agadd vd r w32) true (agAdd w32 e.env.fzi e.cap.decay step x) ∧
      Word_ (.agmerge vd r w32) false (agMerge w32 e.cap.decay step x) ∧
      ((∃ b ∈ elemCells d o i, (k.tag b).toNat ≠ fpTag .fp32) → e.instr = .agst vd r w32 ∨ e.instr = .agadd vd r w32 →
        StopsElem e f i s ⟨5, 0, i, 0, 0⟩) ∧
      (e.instr = .agld vd r w32 →
        (va % n = 0 → loadVa c va n s = .ok (q, t) → (t.core (f / 2)).clean d o i → RunsElem e f i s fun u => ∃ t', SameButHot t t' ∧
          ElemResult t' f e d i (decayed w32 e.cap.decay step q).1 ((elemCells d o i).map fun _ => BitVec.ofNat 8 (fpTag .fp32))
            (decayed w32 e.cap.decay step q).2.1 (decayed w32 e.cap.decay step q).2.2 u) ∧
        (va % n ≠ 0 → StopsElem e f i s ⟨7, 2, 0, va, 0⟩))) ∧
    (active = false → (∀ ins ∈ all, e.instr = ins → RunsElem e f i s fun u => u = s) ∧
      (e.instr = .agld vd r w32 → (e.mode ≠ 2 → RunsElem e f i s fun u => u = s) ∧
        (e.mode = 2 → RunsElem e f i s (ElemPut s f o d i 0 ((elemCells d o i).map k.tag)))))) ∧
  (∀ (s t : State) (f i p : Nat) (e : QEntry) (vd vx : VName) (r : SReg) (ty : BitVec 5) (gs : List ScGroup),
    let k := s.core (f / 2)
    let (d, ix) := (e.name 0, e.name 1)
    let o := e.cap.first
    let n := dW d / 8
    let env := envOf e.cap.fcr e.cap.gstep
    let act := (List.range e.vl).filter fun j => decide (e.start ≤ j) && activeIn e.mode ((s.front f).mask e.act) j
    let xv := k.elem ix o i
    let xt := (k.tag ((elemCells ix o i).headD 0)).toNat
    let X : Int := if xt = intTag (dW ix) ∧ 2 ^ (dW ix - 1) ≤ xv then (xv : Int) - 2 ^ dW ix else xv
    let va := (((e.scal 0).toNat + X * n) % 2 ^ 64).toNat
    let c : Ctx := ⟨.entry f e.vsn, f, (s.front f).asid, !e.cap.kern, e.cap.spbase.field 51 20 * 2 ^ 20⟩
    let fl := (scAdd ty.toNat env (t.read p n) (k.elem d o i)).2
    let Rest (u v : State) : Prop := v.cores = u.cores ∧ v.pkg = u.pkg ∧ ∀ g, g ≠ f → v.front g = u.front g
    e.instr = .vscadd vd r vx ty → e.aux = 0 → e.flags = 0 → s.asking (.entry f e.vsn) = none →
    (dW d ∈ [8, 16, 32, 64] → dW ix ∈ [16, 32, 64] → act = [i] → k.clean d o i → k.clean ix o i → (xt = intTag (dW ix) ∨ xt = intTag (dW ix) + 1) →
      (∀ b ∈ elemCells d o i, idTagOk ty.toNat (k.tag b).toNat = true) → va % n = 0 → translate c va .both s = .ok (.mem p, t) → t.cleanAt p n →
      RunsTo e f e.vl s fun u => Stored t p n (scAdd ty.toNat env (t.read p n) (k.elem d o i)).1 u ∧ Rest t u ∧
        { u.front f with queue := [], fflags := 0 } = { t.front f with queue := [], fflags := 0 } ∧
        (u.front f).fflags = (t.front f).fflags ||| word fl) ∧
    (scGroups ty.toNat (scElem ty.toNat e f) e f (e.vl - e.start) e.start [] s = .ok (gs, t) → (∀ g ∈ gs, ∃ q, g.loc = .mem q ∧ t.cleanAt q n) →
      RunsTo e f e.vl s fun u => ∃ v, Chain (fun q a b => ∀ g x, gs[q]? = some g → g.loc = .mem x →
        Stored a x n (scAdd ty.toNat env (a.read x n) g.value).1 b ∧ Rest a b) gs.length 0 t v ∧ SameBytes v u ∧ Rest v u))

/-- R214, R222, R223, R363: the carafe. MZERO makes every value of the front's window zero, and clears the carafe flag. MRD rounds the value of element i to the
format, with its tag; MWR widens an element with the format's tag into it; inactive elements are left, or zeroed under MODE 2.
R95, R215, R220: the k-steps of a product. C(r, c) becomes the RNE rounding of itself plus the exact sum of the products of the group's k-steps of A(k, r) and
B(k, c), in MMAS under the scales of row r and column c; flags are ORed, nothing else of plane and carafe changes. A wrong tag raises FORMAT with the element's
place in TRAPADDR (the exact sum and the rounding are the model's, Machine/Fp.lean). -/
def Obligations.Carafe : Prop :=
  (∀ (s : State) (f i : Nat) (e : QEntry) (va : VName) (r : SReg) (fm : BitVec 4),
    let k := s.core (f / 2)
    let d := e.name 0
    let o := e.cap.first
    let fmt := mmFmt fm.toNat
    let b := e.scal 0
    let nc := b.field 22 16
    let key := (b.field 6 0 + i / nc) * 64 + o + (b.field 13 8 + i % nc)
    let env := envOf e.cap.fcr e.cap.gstep
    let out := Fp.round fmt env i 0 (Fp.decode .fp32 (k.car key).toNat)
    let inp := Fp.round .fp32 Fp.rneEnv 0 0 (arg fmt env (k.elem d o i))
    let tags := (elemCells d o i).map fun _ => BitVec.ofNat 8 (fpTag fmt)
    let active : Bool := activeIn e.mode ((s.front f).mask e.act) i
    let CarPut (v fl : Nat) (t : State) : Prop := (t.core (f / 2)).car key = BitVec.ofNat 32 v ∧
      (∀ q, q ≠ key → (t.core (f / 2)).car q = k.car q) ∧ (t.core (f / 2)).plane = k.plane ∧ (t.core (f / 2)).tags = k.tags ∧
      { t.front f with cdirty := false, fflags := 0 } = { s.front f with cdirty := false, fflags := 0 } ∧ (t.front f).cdirty = true ∧
      (t.front f).fflags = (s.front f).fflags ||| word fl ∧ (∀ g, g ≠ f → t.front g = s.front g) ∧ SameBytes s t
    (e.instr = .mzero → o + e.cap.width ≤ 64 → RunsWhole e f s fun t =>
      (∀ m n, m < 128 → n < 64 → (t.core (f / 2)).car (m * 64 + n) = if o ≤ n ∧ n < o + e.cap.width then 0 else k.car (m * 64 + n)) ∧
      (t.core (f / 2)).plane = k.plane ∧ (t.front f).cdirty = false ∧
      { t.front f with cdirty := false } = { s.front f with cdirty := false } ∧ SameBytes s t) ∧
    (i < e.vl → dW d = Fp.width fmt → k.clean d o i →
      (active = true → spGet false k.badCarafe key = false → e.instr = .mrd va r fm → RunsElem e f i s
        (ElemResult s f e d i out.1 tags false out.2)) ∧
      (active = true → (∀ c ∈ elemCells d o i, (k.tag c).toNat = fpTag fmt) → e.instr = .mwr va r fm → RunsElem e f i s (CarPut inp.1 inp.2)) ∧
      (active = true → (∃ c ∈ elemCells d o i, (k.tag c).toNat ≠ fpTag fmt) → e.instr = .mwr va r fm → StopsElem e f i s ⟨5, 0, i, 0, 0⟩) ∧
      (active = false → e.mode ≠ 2 → e.instr = .mrd va r fm ∨ e.instr = .mwr va r fm → RunsElem e f i s fun t => t = s) ∧
      (active = false → e.mode = 2 → (e.instr = .mrd va r fm → RunsElem e f i s (ElemPut s f o d i 0 tags)) ∧
        (e.instr = .mwr va r fm → RunsElem e f i s (CarPut 0 0))))) ∧
  (∀ (s : State) (f ks : Nat) (e : QEntry) (va vb vc : VName) (fm : BitVec 4) (n : Slot) (A B : Nat → Fp.Val),
    let k := s.core (f / 2)
    let o := e.cap.first
    let steps_ (g : Nat) := min (ks + g) e.vl - ks
    let M_ := extent (e.name 0) e.vl
    let N_ := extent (e.name 1) e.vl
    let env := envOf e.cap.fcr e.cap.gstep
    let key (r c : Nat) := r * 64 + o + c
    let Product (g : Nat) (shift : Nat → Nat → Int) (t : State) : Prop :=
      let new (r c : Nat) : Nat × Nat :=
        let sum := dot ((List.range (steps_ g)).map fun q => (A ((ks + q) * M_ + r), B ((ks + q) * N_ + c)))
        accumulate env (k.car (key r c)).toNat (scaleVal sum.1 (shift r c), sum.2)
      (∀ r c, r < M_ → c < N_ → (t.core (f / 2)).car (key r c) = BitVec.ofNat 32 (new r c).1) ∧
      (∀ q, (∀ r c, r < M_ → c < N_ → q ≠ key r c) → (t.core (f / 2)).car q = k.car q) ∧
      (t.core (f / 2)).plane = k.plane ∧ (t.core (f / 2)).tags = k.tags ∧
      (∀ q, q < 64 → (t.front f).fflags.getLsbD q = ((s.front f).fflags.getLsbD q ||
        (List.range M_).any fun r => (List.range N_).any fun c => (new r c).2.testBit q)) ∧
      { t.front f with fflags := 0, cdirty := true } = { s.front f with fflags := 0, cdirty := true } ∧
      (0 < M_ → 0 < N_ → (t.front f).cdirty = true) ∧ (∀ g, g ≠ f → t.front g = s.front g) ∧ SameBytes s t
    let fmt := mmFmt fm.toNat
    let G := if nW e.cap.fmt ≤ 4 then 4 else 2
    let In (len g q : Nat) : Prop := ks * len ≤ q ∧ q < (ks + steps_ g) * len
    let wide (o_ : Nat) (V : Nat → Fp.Val) (q : Nat) : Prop := k.tagged o (e.name o_) q (fpTag fmt) ∧ V q = arg fmt env (k.elem (e.name o_) o q)
    let narrow (o_ : Nat) (V : Nat → Fp.Val) (q : Nat) : Prop := k.planesTagged o n.toNat (e.planes o_) q ∧
      nDecode e.cap.fmt (k.joined o (e.planes o_) q) = some (V q)
    let len := blockLen e.cap.fmt
    let sa (r : Nat) := ks / len * M_ + r
    let sb (c : Nat) := (e.vl + len - 1) / len * M_ + ks / len * N_ + c
    let scale (q : Nat) : Prop := k.tagged o (e.name 2) q 13 ∧ k.elem (e.name 2) o q ≠ 0xFF
    let exp (q : Nat) : Int := (k.elem (e.name 2) o q : Int) - 127
    ks < e.vl → o + N_ ≤ 64 → (∀ r c, r < M_ → c < N_ → spGet false k.badCarafe (key r c) = false) →
    (e.instr = .mma va vb fm → (∀ q, In M_ 1 q → wide 0 A q) → (∀ q, In N_ 1 q → wide 1 B q) →
      RunsBody e f e.vl 1 ks s (Product 1 fun _ _ => 0)) ∧
    (e.instr = .mma va vb fm → 0 < M_ → k.clean (e.name 0) o (ks * M_) → (∃ c ∈ elemCells (e.name 0) o (ks * M_), (k.tag c).toNat ≠ fpTag fmt) →
      StopsBody e f e.vl 1 ks s ⟨5, 0, 0, ks * M_, 0⟩) ∧
    (ks % G = 0 → (∀ q, In M_ G q → narrow 0 A q) → (∀ q, In N_ G q → narrow 1 B q) →
      (e.instr = .mman va vb n → RunsBody e f e.vl G ks s (Product G fun _ _ => 0)) ∧
      (e.instr = .mmas va vb vc n → (∀ r, r < M_ → scale (sa r)) → (∀ c, c < N_ → scale (sb c)) →
        RunsBody e f e.vl G ks s (Product G fun r c => exp (sa r) + exp (sb c)))))

/-- R188, R189: slides, VBCAST and VPERM write, element after element from its progress on, the source element that their rule names, as it stands when the instruction runs (as it stood before
the instruction, where that has not begun; that one resumed at a progress above zero reads its sources as they stand then is the model's choice, log 28), with its tags: zero bits and the
old tags where it lies beyond VL.LEN; an element that VSLIDEUP does not reach is not written. A wrong index tag of VPERM raises FORMAT.
R190: VCOMPRESS packs the active elements, VEXPAND spreads the first elements over the active ones.
R96, R97, R191 to R195: reductions, scans, VTOPK and VHIST of integers, by value; those of floating formats by the tree of R96, the steps of R97 and the
comparison of R194 (the operations are the model's, Machine/Lanes.lean). FZI and FZO inside a tree and a scan, the tag below 8 bits and the
element of the report are the model's choice (logs 63, 65 and 27). A wrong tag raises FORMAT with SUB 0 at the captured VSTART, TRAPADDR its
element. -/
def Obligations.LaneResults : Prop :=
  ∀ (s : State) (f : Nat) (e : QEntry) (vd va vb : VName) (r : SReg) (n : BitVec 8) (ty : BitVec 2),
    let k := s.core (f / 2)
    let (d, a, b) := (e.name 0, e.name 1, e.name 2)
    let o := e.cap.first
    let w := dW a
    let B := (e.scal 0).toNat
    let active (i : Nat) : Bool := activeIn e.mode ((s.front f).mask e.act) i
    let all := (List.range e.vl).filter active
    let act := all.filter fun i => decide (e.start ≤ i)
    let x (i : Nat) : Nat := k.elem a o i
    let tagsOf (v : Word) (i : Nat) : List Byte := (elemCells v o i).map k.tag
    let kept (u : State) (i : Nat) : List Byte := (elemCells d o i).map (u.core (f / 2)).tag
    let flat (i tag : Nat) : List Byte := (elemCells d o i).map fun _ => BitVec.ofNat 8 tag
    let Moved (src : Nat → Option Nat) (i : Nat) (u t : State) : Prop := match src i with
      | none => t = u
      | some j =>
        if active i = true then
          (if j < e.vl then ElemPut u f o d i (x j) (tagsOf a j) t else ElemPut u f o d i 0 (kept u i) t)
        else if e.mode = 2 then ElemPut u f o d i 0 (kept u i) t else t = u
    let Moves (ins : Instr) (src : Nat → Option Nat) : Prop := e.instr = ins → e.progress ≤ e.vl →
      RunsTo e f e.vl s (Chain (Moved src) (e.vl - e.progress) e.progress s)
    let fmt : Option FFmt := if ty = 0 then none else some (if w = 16 then (if ty = 2 then .bf16 else .fp16) else if w = 32 then .fp32 else .fp64)
    let good (t : Nat) : Prop := match fmt with
      | none => 8 ≤ w ∧ (t = intTag w ∨ t = intTag w + 1)
      | some q => t = fpTag q
    let goodAt (v : Word) (i : Nat) : Prop := ∀ c ∈ elemCells v o i, good (k.tag c).toNat
    let S (v : Nat) : Int := if v < 2 ^ (w - 1) then v else (v : Int) - 2 ^ w
    let int := tyTag ty w
    let leaf (i : Nat) := redLeaf ty w (envOf e.cap.fcr e.cap.gstep) (x i)
    let slots := (List.range 256).map fun i => if act.contains i then some (leaf i).1 else none
    let tree (op : RedOp) := treeOf (combine op ty w (envOf e.cap.fcr e.cap.gstep)) 8 slots
    let leafFlags := act.foldl (fun fl i => fl ||| (leaf i).2) 0
    let Reduced (ins : Instr) (op : RedOp) (v : Nat → Prop) : Prop := e.instr = ins → RunsWhole e f s fun t => ∃ q fl,
      ElemResult s f e d 0 q (flat 0 int) false fl t ∧ (ty = 0 → v q ∧ fl = 0) ∧ (ty ≠ 0 → q = (tree op).1.getD 0 ∧ fl = (tree op).2 ||| leafFlags)
    let best (le : Int → Int → Prop) (q : Nat) : Prop := (act = [] ∧ q = 0) ∨ ∃ i ∈ act, q = x i ∧ ∀ j ∈ act, le (S (x j)) (S q)
    let upTo (i : Nat) := act.filter fun j => decide (j ≤ i)
    let run (i : Nat) : Nat × Nat := (upTo i).foldl (fun p j =>
      scanStep ty w (envOf e.cap.fcr e.cap.gstep) j (if (upTo i).head? = some j then none else some p.1) (x j)) (0, 0)
    let gk := topkK (e.scal 0)
    let g := if (e.scal 0).field 24 16 = 0 then e.vl else (e.scal 0).field 24 16
    let cand (j : Nat) := act.filter fun i => decide (j * g ≤ i ∧ i < j * g + g)
    let ahead (c q : Nat) : Bool := decide (S (x q) < S (x c) ∨ (S (x c) = S (x q) ∧ c < q))
    let Ranked (i v : Nat) : Prop := ((cand (i / gk)).length ≤ i % gk ∧ v = 2 ^ dW d - 1) ∨
      ∃ c ∈ cand (i / gk), ((cand (i / gk)).filter fun q => ahead q c).length = i % gk ∧ v = c - i / gk * g
    dEw d ≠ 7 → dEw a ≠ 7 → (∀ i, i < 256 → k.clean d o i) → (∀ i, i < e.vl → k.clean a o i) → e.vl ≤ 256 →
    (dW d = w →
      Moves (.vslideup vd va r) (fun i => if B ≤ i then some (i - B) else none) ∧ Moves (.vslidedn vd va r) (fun i => some (i + B)) ∧
      Moves (.vslideupImm vd va n) (fun i => if n.toNat ≤ i then some (i - n.toNat) else none) ∧
      Moves (.vslidednImm vd va n) (fun i => some (i + n.toNat)) ∧ Moves (.vbcast vd va r) (fun _ => some B) ∧
      (e.instr = .vperm vd va vb → dW b = w → ty = 0 → (∀ i ∈ act, k.clean b o i ∧ goodAt b i) →
        RunsWhole e f s (Chain (Moved fun i => some (k.elem b o i)) (e.vl - e.start) e.start s)) ∧
      (e.instr = .vperm vd va vb → dW b = w → ty = 0 → (∀ i ∈ act, k.clean b o i) → ∀ i ∈ act, (∀ j ∈ act, j < i → goodAt b j) → ¬ goodAt b i →
        StopsWhole e f s ⟨5, 0, e.start, i, 0⟩) ∧
      (e.instr = .vcompress vd va → RunsWhole e f s (Chain (fun p u t => ∀ j, all[p]? = some j → ElemPut u f o d p (x j) (tagsOf a j) t)
        all.length 0 s)) ∧
      (e.instr = .vexpand vd va →
        let goals := all ++ if e.mode = 2 then (List.range e.vl).filter fun i => !active i else []
        RunsWhole e f s (Chain (fun p u t => ∀ i, goals[p]? = some i →
          if p < all.length then ElemPut u f o d i (x p) (tagsOf a p) t else ElemPut u f o d i 0 (kept u i) t) goals.length 0 s))) ∧
    (e.start < e.vl → dW d = w → (ty ≠ 0 → w ∈ [16, 32, 64]) → (∀ i ∈ act, goodAt a i) →
      Reduced (.vredsum vd va ty) .sum (fun q => q = (act.map x).sum % 2 ^ w) ∧ Reduced (.vredmax vd va ty) .max (best (· ≤ ·)) ∧
      Reduced (.vredmin vd va ty) .min (best (fun u v => v ≤ u))) ∧
    (e.instr = .vscan vd va ty → dW d = w → (ty ≠ 0 → w ∈ [16, 32, 64]) → (∀ i ∈ act, goodAt a i) → e.progress = e.start → e.start ≤ e.vl →
      e.aux = 0 → (s.front f).queue.find? (fun y => y.vsn == e.vsn) = some e →
      RunsTo e f e.vl s (Chain (fun i u t =>
        if active i = true then ∃ v, ElemPut u f o d i (run i).1 (flat i int) v ∧ OnlyFront f v t ∧
          (ty = 0 → (run i).1 = ((upTo i).map x).sum % 2 ^ w) ∧ (t.front f).fflags = (v.front f).fflags ||| word (run i).2 ∧
          { t.front f with queue := [], fflags := 0 } = { v.front f with queue := [], fflags := 0 }
        else if e.mode = 2 then ElemPut u f o d i 0 (flat i int) t else t = u) (e.vl - e.start) e.start s)) ∧
    (e.instr = .vtopk vd va r ty → e.start < e.vl → w = dW d → 0 < gk → gk ≤ g → e.vl / g * gk ≤ 256 → (∀ i ∈ act, goodAt a i) → ty = 0 →
      RunsWhole e f s fun t => ∃ u, Chain (fun i p q => ∃ v, Ranked i v ∧ ElemPut p f o d i v (flat i (uintTag (dW d))) q) (e.vl / g * gk) 0 s u ∧
        Noted f e 0 false 0 u t) ∧
    (e.instr = .vtopk vd va r ty → e.start < e.vl → w = dW d → w ∈ [16, 32, 64] → e.vl / g * gk ≤ 256 → (∀ i ∈ act, goodAt a i) → ty ≠ 0 →
      let outs := (List.range (e.vl / g)).flatMap (topkGroup ty w (envOf e.cap.fcr e.cap.gstep) (act.map fun i => (i, x i)) gk g)
      RunsWhole e f s fun t => ∃ u, Chain (fun i p q => ElemPut p f o d i (outs.getD i 0) (flat i (uintTag (dW d))) q) outs.length 0 s u ∧
        Noted f e 0 false (act.foldl (fun fl i => fl ||| (topkNaN ty w (envOf e.cap.fcr e.cap.gstep) (x i)).2) 0) u t) ∧
    (e.instr = .vhist vd va r → e.start < e.vl → w = dW d → B ≤ 256 → ty = 0 → (∀ i ∈ act, goodAt a i) → RunsWhole e f s fun t =>
      ∃ u, Chain (fun i p q => ElemPut p f o d i (act.filter fun j => x j == i).length (flat i (uintTag w)) q) B 0 s u ∧ OnlyFront f u t ∧
        { t.front f with masks := [] } = { u.front f with masks := [] } ∧
        ∀ m q, q < 256 → ((t.front f).mask m).getLsbD q = (((u.front f).mask m).getLsbD q ||
          (e.offen && m == e.off && act.any fun j => j == q && decide (B ≤ x j)))) ∧
    (e.start < e.vl → w = dW d → (ty ≠ 0 → w ∈ [16, 32, 64]) → ∀ i ∈ act, (∀ j ∈ act, j < i → goodAt a j) → ¬ goodAt a i →
      e.instr = .vredsum vd va ty ∨ e.instr = .vredmax vd va ty ∨ e.instr = .vredmin vd va ty ∨ e.instr = .vtopk vd va r ty ∨
        (ty = 0 ∧ e.instr = .vhist vd va r) → StopsWhole e f s ⟨5, 0, e.start, i, 0⟩)

/-! ### The whole machine -/

/-- R99, R103, R132: a step runs what the word at PC decodes to. The front that moves is the one that the next turn names, or else the one that moved
last (log 3, the model's choice). With nothing due before its fetch, and no atomic access of a peer under way (R356; its instruction then goes on without a fetch), the word at PC is read through its translation; the step is exec of the decoded
instruction, or of ILLEGAL_WORD for a word that decodes to none, in the state that the translation left, and then in every 64th clock a move of what goes
on beside the front, and one clock (logs 1 and 3, the model's). A turn that names an event of a unit that exists runs it, and takes one clock. -/
def Obligations.StepRunsDecoded : Prop :=
  ∀ (s u t : State) (p : Nat) (r : List Move) (i : Instr),
    let w := BitVec.ofNat 32 (t.read p 4)
    let after (x : State) : State := tick u (if u.clock % 64 = 63 then background x u.cur else x)
    ((s.turns = [] ∧ u = s) ∨ (∃ f, s.turns = .front f :: r ∧ f < 1024 ∧ u = { s with turns := r, cur := f }) →
      beforeFetch u = none → (∀ i, u.underWay = some i → step s = onNext after (exec i u)) ∧ (u.underWay = none → translate u.ctx u.me.pc.toNat .fetch u = .ok (.mem p, t) → t.errAt p 4 = false → t.badAt p 4 = false →
      (decode w = some i → step s = onNext after (exec i t)) ∧
      (decode w = none → step s = onNext after (exec (.illegalWord w) t)))) ∧
    (s.turns = .event i :: r → u = { s with turns := r } → i.isEvent = true → i.wf = true → (∀ v, i ≠ .illegalWord v) →
      step s = onNext (tick u) (exec i u))

/-- R99, R104 to R131: one word of each format, its fields written out, decodes to the instruction that it stands for: d, a, b of SR and XE; the
immediates of SI, SB and SJ; the names of VR, VS, VI, VM and MX. Words with a reserved bit set, and the unassigned opcodes, decode to none (R101, R103). -/
def Obligations.DecodeWords : Prop :=
  decode 0b000001_00011_00001_00010_00000000000 = some (.add 3 1 2) ∧
  decode 0b000001_00101_00110_00111_10_001_0_10_000 = some (.fmul 5 6 7 .fp32) ∧
  decode 0b000010_11111_00100_1111111111111111 = some (.addi 31 4 0xFFFF) ∧
  decode 0b001010_00001_00010_0000000000000100 = some (.beq 1 2 4) ∧
  decode 0b001001_00001_100000000000000000001 = some (.jal 1 0x100001) ∧
  decode 0b100001_00001_00010_011_0000000001000 = some (.std 1 2 8) ∧
  decode 0b010000_000001_000010_000011_01_000000 = some (.vadd 1 2 3 1) ∧
  decode 0b010010_000001_000010_00000101_000010 = some (.vshlImm 1 2 5) ∧
  decode 0b101000_000001_000000_00111_000000000 = some (.carve 1 7) ∧
  decode 0b100011_000001_00010_000011_000000100 = some (.vldx 1 2 3) ∧
  decode 0b101010_000001_000010_000000_0001_0000 = some (.mma 1 2 1) ∧
  decode 0b101110_00001_00010_00011_00000010000 = some (.xcopy 1 2 3 true) ∧
  decode 0b111010_00000_00000_0011_000000000000 = some .kret ∧
  decode 0b000001_00011_00001_00010_00001000000 = none ∧ decode 0b111010_00000_00000_0011_000000000001 = none ∧
  ∀ w : BitVec 32, w.toNat / 2 ^ 26 ∈ [0x00, 0x1B, 0x1C, 0x1D, 0x1E, 0x1F, 0x24, 0x25, 0x26, 0x27, 0x2B, 0x2C, 0x2D, 0x30, 0x31, 0x32, 0x33, 0x37, 0x38, 0x39,
    0x3D, 0x3E, 0x3F] → decode w = none

/-- R99 to R131: the encoder and the decoder agree, on every instruction and on every word: each well-formed instruction with a word decodes from it with
every operand as it was, and each word that decodes is the word of a well-formed instruction, so no two words stand for one instruction and no
reserved bit is dropped. -/
def Obligations.EncodeDecode : Prop :=
  (∀ i : Instr, i.wf = true → i.isEvent = false → ∃ w, encode i = some w ∧ decode w = some i) ∧
  ∀ (w : BitVec 32) (i : Instr), decode w = some i → i.wf = true ∧ i.isEvent = false ∧ encode i = some w

/-- R199, R334, R413, R414, R421: the package right after reset: no front, job, launch, TLB entry or request is held, queue registers and slot records are as
after a discard, plane, tags, carafe, scratchpads and vaults are zero, no core or front runs, the service level is 0 and the power cap 2,100. That no
byte of memory is listed, and so every other byte reads zero too, is the model's choice (log 2). -/
def Obligations.ResetState : Prop :=
  let s := State.reset
  s.fronts = [] ∧ s.jobs = [] ∧ s.launches = [] ∧ s.remotes = [] ∧ s.monitors = [] ∧ s.groups = [] ∧ s.memOk ∧
  (∀ k, (s.core k).utlb = [] ∧ s.tlb2 k = []) ∧
  (∀ q, (s.queue q) = WorkQueue.reset) ∧ (∀ f, s.slot f = SlotRec.reset ∧ s.runs f = false) ∧
  (∀ k c, (s.core k).cell c = 0 ∧ (s.core k).tag c = 0 ∧ (s.core k).car c = 0) ∧
  (∀ a, inVault a = true ∨ inScratch a = true → s.byte a = 0) ∧
  s.pkg.level = 0 ∧ s.pkg.pwrcap = 2100

/-- The memory keeps its canonical form: addresses strictly rising, and no entry equal to what an unlisted address reads as. The form is the model's own
(log 2); every step of every agent keeps it. -/
def Obligations.MemoryStaysCanonical : Prop :=
  ∀ s t : State, s.memOk → step s = .next t → t.memOk
end

