-- ==== Sys2Proof/Laws/Sparse.lean ====
section
/-! SUPPORT. Sparse maps: a read after a write, and the canonical form, which every operation keeps. -/

namespace Sys2Proof.Machine

variable {α : Type}

@[simp] theorem spGet_nil (d : α) (k : Nat) : spGet d [] k = d := rfl

theorem spGet_spInsert (d : α) (m : List (Nat × α)) (k j : Nat) (v : α) (h : ∀ p ∈ m, p.1 ≠ k) :
    spGet d (spInsert m k v) j = if j = k then v else spGet d m j := by
  induction m with
  | nil => simp [spInsert, spGet, eq_comm]
  | cons p r ih =>
    obtain ⟨i, w⟩ := p
    have hi : i ≠ k := h (i, w) (by simp)
    have hr := ih fun p hp => h p (by simp [hp])
    simp only [spInsert]
    split
    · simp [spGet, eq_comm]
    · simp only [spGet, hr]
      by_cases hj : i = j
      · subst hj
        simp [hi]
      · simp [hj]

theorem spErase_ne (m : List (Nat × α)) (k : Nat) : ∀ p ∈ spErase m k, p.1 ≠ k := by
  intro p hp
  simpa [spErase] using (List.mem_filter.mp hp).2

theorem spGet_filter (d : α) (m : List (Nat × α)) (q : Nat → Bool) (k : Nat) :
    spGet d (m.filter fun p => q p.1) k = if q k then spGet d m k else d := by
  induction m with
  | nil => simp
  | cons p r ih =>
    obtain ⟨i, w⟩ := p
    by_cases hq : q i
    · simp only [List.filter_cons, hq, ite_true, spGet, ih]
      by_cases hi : i = k
      · subst hi; simp [hq]
      · simp [hi]
    · rw [List.filter_cons_of_neg (by simpa using hq), ih]
      by_cases hi : i = k
      · subst hi; simp [hq]
      · simp [spGet, hi]

theorem spGet_spErase (d : α) (m : List (Nat × α)) (k j : Nat) :
    spGet d (spErase m k) j = if j = k then d else spGet d m j := by
  rw [spErase, spGet_filter d m (fun i => i != k)]
  by_cases h : j = k <;> simp [h]

theorem spGet_spEraseAll (d : α) (m : List (Nat × α)) (p : Nat → Bool) (k : Nat) :
    spGet d (spEraseAll m p) k = if p k then d else spGet d m k := by
  rw [spEraseAll, spGet_filter d m (fun i => !p i)]
  cases p k <;> simp

/-- A read after a write. -/
theorem spGet_spSet [DecidableEq α] (d : α) (m : List (Nat × α)) (k j : Nat) (v : α) :
    spGet d (spSet d m k v) j = if j = k then v else spGet d m j := by
  unfold spSet
  split
  · next h => subst h; exact spGet_spErase v m k j
  · rw [spGet_spInsert d _ k j v (spErase_ne m k), spGet_spErase]
    split <;> rfl

@[simp] theorem spGet_spSet_self [DecidableEq α] (d : α) (m : List (Nat × α)) (k : Nat) (v : α) :
    spGet d (spSet d m k v) k = v := by simp [spGet_spSet]

theorem spGet_spSet_other [DecidableEq α] (d : α) (m : List (Nat × α)) {k j : Nat} (v : α) (h : j ≠ k) :
    spGet d (spSet d m k v) j = spGet d m j := by simp [spGet_spSet, h]

/-! ### The canonical form -/

/-- The canonical form as rising keys and no default. -/
theorem spWf_iff [DecidableEq α] (d : α) (m : List (Nat × α)) :
    spWf d m = true ↔ m.Pairwise (fun p q => p.1 < q.1) ∧ ∀ p ∈ m, p.2 ≠ d := by
  induction m with
  | nil => simp [spWf]
  | cons p r ih =>
    obtain ⟨i, v⟩ := p
    cases r with
    | nil => simp [spWf]
    | cons q t =>
      obtain ⟨j, w⟩ := q
      simp only [spWf, Bool.and_eq_true, decide_eq_true_eq, bne_iff_ne, ih]
      constructor
      · rintro ⟨⟨hv, hij⟩, hp, hd⟩
        refine ⟨List.pairwise_cons.mpr ⟨?_, hp⟩, ?_⟩
        · intro x hx
          rcases List.mem_cons.mp hx with rfl | hx
          · exact hij
          · exact Nat.lt_trans hij (List.rel_of_pairwise_cons hp hx)
        · intro x hx
          rcases List.mem_cons.mp hx with rfl | hx
          · exact hv
          · exact hd x hx
      · rintro ⟨hp, hd⟩
        have h := List.pairwise_cons.mp hp
        exact ⟨⟨hd (i, v) (by simp), h.1 (j, w) (by simp)⟩, h.2, fun x hx => hd x (List.mem_cons_of_mem _ hx)⟩

theorem spWf_filter [DecidableEq α] (d : α) (m : List (Nat × α)) (q : Nat × α → Bool) (h : spWf d m = true) :
    spWf d (m.filter q) = true := by
  rw [spWf_iff] at *
  exact ⟨h.1.filter q, fun p hp => h.2 p (List.mem_of_mem_filter hp)⟩

theorem mem_spInsert (m : List (Nat × α)) (k : Nat) (v : α) (x : Nat × α) : x ∈ spInsert m k v ↔ x = (k, v) ∨ x ∈ m := by
  induction m with
  | nil => simp [spInsert]
  | cons p r ih =>
    simp only [spInsert]
    split <;> simp [ih, or_left_comm]

theorem spWf_spSet [DecidableEq α] (d : α) (m : List (Nat × α)) (k : Nat) (v : α) (h : spWf d m = true) :
    spWf d (spSet d m k v) = true := by
  have he : spWf d (spErase m k) = true := spWf_filter d m _ h
  unfold spSet
  split
  · exact he
  · next hv =>
    rw [spWf_iff] at *
    refine ⟨?_, ?_⟩
    · have hn := spErase_ne m k
      generalize spErase m k = l at he hn
      induction l with
      | nil => simp [spInsert]
      | cons p r ih =>
        obtain ⟨i, w⟩ := p
        have hp := List.pairwise_cons.mp he.1
        simp only [spInsert]
        split
        · next hk =>
          refine List.pairwise_cons.mpr ⟨?_, he.1⟩
          intro x hx
          rcases List.mem_cons.mp hx with rfl | hx
          · exact hk
          · exact Nat.lt_trans hk (hp.1 x hx)
        · next hk =>
          refine List.pairwise_cons.mpr ⟨?_, ih ⟨hp.2, fun x hx => he.2 x (by simp [hx])⟩ fun x hx => hn x (by simp [hx])⟩
          intro x hx
          rcases (mem_spInsert r k v x).mp hx with rfl | hx
          · have := hn (i, w) (by simp)
            omega
          · exact hp.1 x hx
    · intro x hx
      rcases (mem_spInsert _ k v x).mp hx with rfl | hx
      · exact hv
      · exact he.2 x hx

theorem spWf_spEraseAll [DecidableEq α] (d : α) (m : List (Nat × α)) (p : Nat → Bool) (h : spWf d m = true) :
    spWf d (spEraseAll m p) = true := spWf_filter d m _ h

end Sys2Proof.Machine
end

