-- ==== Sys2Proof/Laws/State.lean ====
section
/-! SUPPORT. What each update of the state leaves, field by field and through each reader; what each update of a front leaves. -/

namespace Sys2Proof.Machine

/-! ### Fields of the state after an update -/

@[simp] theorem setFront_turns (s : State) (f : Nat) (x : Front) : (s.setFront f x).turns = s.turns := rfl
@[simp] theorem setFront_cur (s : State) (f : Nat) (x : Front) : (s.setFront f x).cur = s.cur := rfl
@[simp] theorem setFront_freeCtr (s : State) (f : Nat) (x : Front) : (s.setFront f x).freeCtr = s.freeCtr := rfl
@[simp] theorem setFront_clock (s : State) (f : Nat) (x : Front) : (s.setFront f x).clock = s.clock := rfl
@[simp] theorem setFront_mem (s : State) (f : Nat) (x : Front) : (s.setFront f x).mem = s.mem := rfl
@[simp] theorem setFront_memErr (s : State) (f : Nat) (x : Front) : (s.setFront f x).memErr = s.memErr := rfl
@[simp] theorem setFront_badBlk (s : State) (f : Nat) (x : Front) : (s.setFront f x).badBlk = s.badBlk := rfl
@[simp] theorem setFront_slots (s : State) (f : Nat) (x : Front) : (s.setFront f x).slots = s.slots := rfl
@[simp] theorem setFront_cores (s : State) (f : Nat) (x : Front) : (s.setFront f x).cores = s.cores := rfl
@[simp] theorem setFront_l2 (s : State) (f : Nat) (x : Front) : (s.setFront f x).l2 = s.l2 := rfl
@[simp] theorem setFront_dies (s : State) (f : Nat) (x : Front) : (s.setFront f x).dies = s.dies := rfl
@[simp] theorem setFront_queues (s : State) (f : Nat) (x : Front) : (s.setFront f x).queues = s.queues := rfl
@[simp] theorem setFront_launches (s : State) (f : Nat) (x : Front) : (s.setFront f x).launches = s.launches := rfl
@[simp] theorem setFront_jobs (s : State) (f : Nat) (x : Front) : (s.setFront f x).jobs = s.jobs := rfl
@[simp] theorem setFront_groups (s : State) (f : Nat) (x : Front) : (s.setFront f x).groups = s.groups := rfl
@[simp] theorem setFront_contribs (s : State) (f : Nat) (x : Front) : (s.setFront f x).contribs = s.contribs := rfl
@[simp] theorem setFront_pendings (s : State) (f : Nat) (x : Front) : (s.setFront f x).pendings = s.pendings := rfl
@[simp] theorem setFront_held (s : State) (f : Nat) (x : Front) : (s.setFront f x).held = s.held := rfl
@[simp] theorem setFront_cancelled (s : State) (f : Nat) (x : Front) : (s.setFront f x).cancelled = s.cancelled := rfl
@[simp] theorem setFront_monitors (s : State) (f : Nat) (x : Front) : (s.setFront f x).monitors = s.monitors := rfl
@[simp] theorem setFront_remotes (s : State) (f : Nat) (x : Front) : (s.setFront f x).remotes = s.remotes := rfl
@[simp] theorem setFront_links (s : State) (f : Nat) (x : Front) : (s.setFront f x).links = s.links := rfl
@[simp] theorem setFront_pkg (s : State) (f : Nat) (x : Front) : (s.setFront f x).pkg = s.pkg := rfl
@[simp] theorem modFront_turns (s : State) (f : Nat) (g : Front → Front) : (s.modFront f g).turns = s.turns := rfl
@[simp] theorem modFront_cur (s : State) (f : Nat) (g : Front → Front) : (s.modFront f g).cur = s.cur := rfl
@[simp] theorem modFront_freeCtr (s : State) (f : Nat) (g : Front → Front) : (s.modFront f g).freeCtr = s.freeCtr := rfl
@[simp] theorem modFront_clock (s : State) (f : Nat) (g : Front → Front) : (s.modFront f g).clock = s.clock := rfl
@[simp] theorem modFront_mem (s : State) (f : Nat) (g : Front → Front) : (s.modFront f g).mem = s.mem := rfl
@[simp] theorem modFront_memErr (s : State) (f : Nat) (g : Front → Front) : (s.modFront f g).memErr = s.memErr := rfl
@[simp] theorem modFront_badBlk (s : State) (f : Nat) (g : Front → Front) : (s.modFront f g).badBlk = s.badBlk := rfl
@[simp] theorem modFront_slots (s : State) (f : Nat) (g : Front → Front) : (s.modFront f g).slots = s.slots := rfl
@[simp] theorem modFront_cores (s : State) (f : Nat) (g : Front → Front) : (s.modFront f g).cores = s.cores := rfl
@[simp] theorem modFront_l2 (s : State) (f : Nat) (g : Front → Front) : (s.modFront f g).l2 = s.l2 := rfl
@[simp] theorem modFront_dies (s : State) (f : Nat) (g : Front → Front) : (s.modFront f g).dies = s.dies := rfl
@[simp] theorem modFront_queues (s : State) (f : Nat) (g : Front → Front) : (s.modFront f g).queues = s.queues := rfl
@[simp] theorem modFront_launches (s : State) (f : Nat) (g : Front → Front) : (s.modFront f g).launches = s.launches := rfl
@[simp] theorem modFront_jobs (s : State) (f : Nat) (g : Front → Front) : (s.modFront f g).jobs = s.jobs := rfl
@[simp] theorem modFront_groups (s : State) (f : Nat) (g : Front → Front) : (s.modFront f g).groups = s.groups := rfl
@[simp] theorem modFront_contribs (s : State) (f : Nat) (g : Front → Front) : (s.modFront f g).contribs = s.contribs := rfl
@[simp] theorem modFront_pendings (s : State) (f : Nat) (g : Front → Front) : (s.modFront f g).pendings = s.pendings := rfl
@[simp] theorem modFront_held (s : State) (f : Nat) (g : Front → Front) : (s.modFront f g).held = s.held := rfl
@[simp] theorem modFront_cancelled (s : State) (f : Nat) (g : Front → Front) : (s.modFront f g).cancelled = s.cancelled := rfl
@[simp] theorem modFront_monitors (s : State) (f : Nat) (g : Front → Front) : (s.modFront f g).monitors = s.monitors := rfl
@[simp] theorem modFront_remotes (s : State) (f : Nat) (g : Front → Front) : (s.modFront f g).remotes = s.remotes := rfl
@[simp] theorem modFront_links (s : State) (f : Nat) (g : Front → Front) : (s.modFront f g).links = s.links := rfl
@[simp] theorem modFront_pkg (s : State) (f : Nat) (g : Front → Front) : (s.modFront f g).pkg = s.pkg := rfl
@[simp] theorem setCore_turns (s : State) (k : Nat) (x : Core) : (s.setCore k x).turns = s.turns := rfl
@[simp] theorem setCore_cur (s : State) (k : Nat) (x : Core) : (s.setCore k x).cur = s.cur := rfl
@[simp] theorem setCore_freeCtr (s : State) (k : Nat) (x : Core) : (s.setCore k x).freeCtr = s.freeCtr := rfl
@[simp] theorem setCore_clock (s : State) (k : Nat) (x : Core) : (s.setCore k x).clock = s.clock := rfl
@[simp] theorem setCore_mem (s : State) (k : Nat) (x : Core) : (s.setCore k x).mem = s.mem := rfl
@[simp] theorem setCore_memErr (s : State) (k : Nat) (x : Core) : (s.setCore k x).memErr = s.memErr := rfl
@[simp] theorem setCore_badBlk (s : State) (k : Nat) (x : Core) : (s.setCore k x).badBlk = s.badBlk := rfl
@[simp] theorem setCore_fronts (s : State) (k : Nat) (x : Core) : (s.setCore k x).fronts = s.fronts := rfl
@[simp] theorem setCore_slots (s : State) (k : Nat) (x : Core) : (s.setCore k x).slots = s.slots := rfl
@[simp] theorem setCore_l2 (s : State) (k : Nat) (x : Core) : (s.setCore k x).l2 = s.l2 := rfl
@[simp] theorem setCore_dies (s : State) (k : Nat) (x : Core) : (s.setCore k x).dies = s.dies := rfl
@[simp] theorem setCore_queues (s : State) (k : Nat) (x : Core) : (s.setCore k x).queues = s.queues := rfl
@[simp] theorem setCore_launches (s : State) (k : Nat) (x : Core) : (s.setCore k x).launches = s.launches := rfl
@[simp] theorem setCore_jobs (s : State) (k : Nat) (x : Core) : (s.setCore k x).jobs = s.jobs := rfl
@[simp] theorem setCore_groups (s : State) (k : Nat) (x : Core) : (s.setCore k x).groups = s.groups := rfl
@[simp] theorem setCore_contribs (s : State) (k : Nat) (x : Core) : (s.setCore k x).contribs = s.contribs := rfl
@[simp] theorem setCore_pendings (s : State) (k : Nat) (x : Core) : (s.setCore k x).pendings = s.pendings := rfl
@[simp] theorem setCore_held (s : State) (k : Nat) (x : Core) : (s.setCore k x).held = s.held := rfl
@[simp] theorem setCore_cancelled (s : State) (k : Nat) (x : Core) : (s.setCore k x).cancelled = s.cancelled := rfl
@[simp] theorem setCore_monitors (s : State) (k : Nat) (x : Core) : (s.setCore k x).monitors = s.monitors := rfl
@[simp] theorem setCore_remotes (s : State) (k : Nat) (x : Core) : (s.setCore k x).remotes = s.remotes := rfl
@[simp] theorem setCore_links (s : State) (k : Nat) (x : Core) : (s.setCore k x).links = s.links := rfl
@[simp] theorem setCore_pkg (s : State) (k : Nat) (x : Core) : (s.setCore k x).pkg = s.pkg := rfl
@[simp] theorem modCore_turns (s : State) (k : Nat) (g : Core → Core) : (s.modCore k g).turns = s.turns := rfl
@[simp] theorem modCore_cur (s : State) (k : Nat) (g : Core → Core) : (s.modCore k g).cur = s.cur := rfl
@[simp] theorem modCore_freeCtr (s : State) (k : Nat) (g : Core → Core) : (s.modCore k g).freeCtr = s.freeCtr := rfl
@[simp] theorem modCore_clock (s : State) (k : Nat) (g : Core → Core) : (s.modCore k g).clock = s.clock := rfl
@[simp] theorem modCore_mem (s : State) (k : Nat) (g : Core → Core) : (s.modCore k g).mem = s.mem := rfl
@[simp] theorem modCore_memErr (s : State) (k : Nat) (g : Core → Core) : (s.modCore k g).memErr = s.memErr := rfl
@[simp] theorem modCore_badBlk (s : State) (k : Nat) (g : Core → Core) : (s.modCore k g).badBlk = s.badBlk := rfl
@[simp] theorem modCore_fronts (s : State) (k : Nat) (g : Core → Core) : (s.modCore k g).fronts = s.fronts := rfl
@[simp] theorem modCore_slots (s : State) (k : Nat) (g : Core → Core) : (s.modCore k g).slots = s.slots := rfl
@[simp] theorem modCore_l2 (s : State) (k : Nat) (g : Core → Core) : (s.modCore k g).l2 = s.l2 := rfl
@[simp] theorem modCore_dies (s : State) (k : Nat) (g : Core → Core) : (s.modCore k g).dies = s.dies := rfl
@[simp] theorem modCore_queues (s : State) (k : Nat) (g : Core → Core) : (s.modCore k g).queues = s.queues := rfl
@[simp] theorem modCore_launches (s : State) (k : Nat) (g : Core → Core) : (s.modCore k g).launches = s.launches := rfl
@[simp] theorem modCore_jobs (s : State) (k : Nat) (g : Core → Core) : (s.modCore k g).jobs = s.jobs := rfl
@[simp] theorem modCore_groups (s : State) (k : Nat) (g : Core → Core) : (s.modCore k g).groups = s.groups := rfl
@[simp] theorem modCore_contribs (s : State) (k : Nat) (g : Core → Core) : (s.modCore k g).contribs = s.contribs := rfl
@[simp] theorem modCore_pendings (s : State) (k : Nat) (g : Core → Core) : (s.modCore k g).pendings = s.pendings := rfl
@[simp] theorem modCore_held (s : State) (k : Nat) (g : Core → Core) : (s.modCore k g).held = s.held := rfl
@[simp] theorem modCore_cancelled (s : State) (k : Nat) (g : Core → Core) : (s.modCore k g).cancelled = s.cancelled := rfl
@[simp] theorem modCore_monitors (s : State) (k : Nat) (g : Core → Core) : (s.modCore k g).monitors = s.monitors := rfl
@[simp] theorem modCore_remotes (s : State) (k : Nat) (g : Core → Core) : (s.modCore k g).remotes = s.remotes := rfl
@[simp] theorem modCore_links (s : State) (k : Nat) (g : Core → Core) : (s.modCore k g).links = s.links := rfl
@[simp] theorem modCore_pkg (s : State) (k : Nat) (g : Core → Core) : (s.modCore k g).pkg = s.pkg := rfl
@[simp] theorem modDie_turns (s : State) (d : Nat) (g : Die → Die) : (s.modDie d g).turns = s.turns := rfl
@[simp] theorem modDie_cur (s : State) (d : Nat) (g : Die → Die) : (s.modDie d g).cur = s.cur := rfl
@[simp] theorem modDie_freeCtr (s : State) (d : Nat) (g : Die → Die) : (s.modDie d g).freeCtr = s.freeCtr := rfl
@[simp] theorem modDie_clock (s : State) (d : Nat) (g : Die → Die) : (s.modDie d g).clock = s.clock := rfl
@[simp] theorem modDie_mem (s : State) (d : Nat) (g : Die → Die) : (s.modDie d g).mem = s.mem := rfl
@[simp] theorem modDie_memErr (s : State) (d : Nat) (g : Die → Die) : (s.modDie d g).memErr = s.memErr := rfl
@[simp] theorem modDie_badBlk (s : State) (d : Nat) (g : Die → Die) : (s.modDie d g).badBlk = s.badBlk := rfl
@[simp] theorem modDie_fronts (s : State) (d : Nat) (g : Die → Die) : (s.modDie d g).fronts = s.fronts := rfl
@[simp] theorem modDie_slots (s : State) (d : Nat) (g : Die → Die) : (s.modDie d g).slots = s.slots := rfl
@[simp] theorem modDie_cores (s : State) (d : Nat) (g : Die → Die) : (s.modDie d g).cores = s.cores := rfl
@[simp] theorem modDie_l2 (s : State) (d : Nat) (g : Die → Die) : (s.modDie d g).l2 = s.l2 := rfl
@[simp] theorem modDie_queues (s : State) (d : Nat) (g : Die → Die) : (s.modDie d g).queues = s.queues := rfl
@[simp] theorem modDie_launches (s : State) (d : Nat) (g : Die → Die) : (s.modDie d g).launches = s.launches := rfl
@[simp] theorem modDie_jobs (s : State) (d : Nat) (g : Die → Die) : (s.modDie d g).jobs = s.jobs := rfl
@[simp] theorem modDie_groups (s : State) (d : Nat) (g : Die → Die) : (s.modDie d g).groups = s.groups := rfl
@[simp] theorem modDie_contribs (s : State) (d : Nat) (g : Die → Die) : (s.modDie d g).contribs = s.contribs := rfl
@[simp] theorem modDie_pendings (s : State) (d : Nat) (g : Die → Die) : (s.modDie d g).pendings = s.pendings := rfl
@[simp] theorem modDie_held (s : State) (d : Nat) (g : Die → Die) : (s.modDie d g).held = s.held := rfl
@[simp] theorem modDie_cancelled (s : State) (d : Nat) (g : Die → Die) : (s.modDie d g).cancelled = s.cancelled := rfl
@[simp] theorem modDie_monitors (s : State) (d : Nat) (g : Die → Die) : (s.modDie d g).monitors = s.monitors := rfl
@[simp] theorem modDie_remotes (s : State) (d : Nat) (g : Die → Die) : (s.modDie d g).remotes = s.remotes := rfl
@[simp] theorem modDie_links (s : State) (d : Nat) (g : Die → Die) : (s.modDie d g).links = s.links := rfl
@[simp] theorem modDie_pkg (s : State) (d : Nat) (g : Die → Die) : (s.modDie d g).pkg = s.pkg := rfl
@[simp] theorem setSlot_turns (s : State) (f : Nat) (x : SlotRec) : (s.setSlot f x).turns = s.turns := rfl
@[simp] theorem setSlot_cur (s : State) (f : Nat) (x : SlotRec) : (s.setSlot f x).cur = s.cur := rfl
@[simp] theorem setSlot_freeCtr (s : State) (f : Nat) (x : SlotRec) : (s.setSlot f x).freeCtr = s.freeCtr := rfl
@[simp] theorem setSlot_clock (s : State) (f : Nat) (x : SlotRec) : (s.setSlot f x).clock = s.clock := rfl
@[simp] theorem setSlot_mem (s : State) (f : Nat) (x : SlotRec) : (s.setSlot f x).mem = s.mem := rfl
@[simp] theorem setSlot_memErr (s : State) (f : Nat) (x : SlotRec) : (s.setSlot f x).memErr = s.memErr := rfl
@[simp] theorem setSlot_badBlk (s : State) (f : Nat) (x : SlotRec) : (s.setSlot f x).badBlk = s.badBlk := rfl
@[simp] theorem setSlot_fronts (s : State) (f : Nat) (x : SlotRec) : (s.setSlot f x).fronts = s.fronts := rfl
@[simp] theorem setSlot_cores (s : State) (f : Nat) (x : SlotRec) : (s.setSlot f x).cores = s.cores := rfl
@[simp] theorem setSlot_l2 (s : State) (f : Nat) (x : SlotRec) : (s.setSlot f x).l2 = s.l2 := rfl
@[simp] theorem setSlot_dies (s : State) (f : Nat) (x : SlotRec) : (s.setSlot f x).dies = s.dies := rfl
@[simp] theorem setSlot_queues (s : State) (f : Nat) (x : SlotRec) : (s.setSlot f x).queues = s.queues := rfl
@[simp] theorem setSlot_launches (s : State) (f : Nat) (x : SlotRec) : (s.setSlot f x).launches = s.launches := rfl
@[simp] theorem setSlot_jobs (s : State) (f : Nat) (x : SlotRec) : (s.setSlot f x).jobs = s.jobs := rfl
@[simp] theorem setSlot_groups (s : State) (f : Nat) (x : SlotRec) : (s.setSlot f x).groups = s.groups := rfl
@[simp] theorem setSlot_contribs (s : State) (f : Nat) (x : SlotRec) : (s.setSlot f x).contribs = s.contribs := rfl
@[simp] theorem setSlot_pendings (s : State) (f : Nat) (x : SlotRec) : (s.setSlot f x).pendings = s.pendings := rfl
@[simp] theorem setSlot_held (s : State) (f : Nat) (x : SlotRec) : (s.setSlot f x).held = s.held := rfl
@[simp] theorem setSlot_cancelled (s : State) (f : Nat) (x : SlotRec) : (s.setSlot f x).cancelled = s.cancelled := rfl
@[simp] theorem setSlot_monitors (s : State) (f : Nat) (x : SlotRec) : (s.setSlot f x).monitors = s.monitors := rfl
@[simp] theorem setSlot_remotes (s : State) (f : Nat) (x : SlotRec) : (s.setSlot f x).remotes = s.remotes := rfl
@[simp] theorem setSlot_links (s : State) (f : Nat) (x : SlotRec) : (s.setSlot f x).links = s.links := rfl
@[simp] theorem setSlot_pkg (s : State) (f : Nat) (x : SlotRec) : (s.setSlot f x).pkg = s.pkg := rfl
@[simp] theorem setQueue_turns (s : State) (q : Nat) (x : WorkQueue) : (s.setQueue q x).turns = s.turns := rfl
@[simp] theorem setQueue_cur (s : State) (q : Nat) (x : WorkQueue) : (s.setQueue q x).cur = s.cur := rfl
@[simp] theorem setQueue_freeCtr (s : State) (q : Nat) (x : WorkQueue) : (s.setQueue q x).freeCtr = s.freeCtr := rfl
@[simp] theorem setQueue_clock (s : State) (q : Nat) (x : WorkQueue) : (s.setQueue q x).clock = s.clock := rfl
@[simp] theorem setQueue_mem (s : State) (q : Nat) (x : WorkQueue) : (s.setQueue q x).mem = s.mem := rfl
@[simp] theorem setQueue_memErr (s : State) (q : Nat) (x : WorkQueue) : (s.setQueue q x).memErr = s.memErr := rfl
@[simp] theorem setQueue_badBlk (s : State) (q : Nat) (x : WorkQueue) : (s.setQueue q x).badBlk = s.badBlk := rfl
@[simp] theorem setQueue_fronts (s : State) (q : Nat) (x : WorkQueue) : (s.setQueue q x).fronts = s.fronts := rfl
@[simp] theorem setQueue_slots (s : State) (q : Nat) (x : WorkQueue) : (s.setQueue q x).slots = s.slots := rfl
@[simp] theorem setQueue_cores (s : State) (q : Nat) (x : WorkQueue) : (s.setQueue q x).cores = s.cores := rfl
@[simp] theorem setQueue_l2 (s : State) (q : Nat) (x : WorkQueue) : (s.setQueue q x).l2 = s.l2 := rfl
@[simp] theorem setQueue_dies (s : State) (q : Nat) (x : WorkQueue) : (s.setQueue q x).dies = s.dies := rfl
@[simp] theorem setQueue_launches (s : State) (q : Nat) (x : WorkQueue) : (s.setQueue q x).launches = s.launches := rfl
@[simp] theorem setQueue_jobs (s : State) (q : Nat) (x : WorkQueue) : (s.setQueue q x).jobs = s.jobs := rfl
@[simp] theorem setQueue_groups (s : State) (q : Nat) (x : WorkQueue) : (s.setQueue q x).groups = s.groups := rfl
@[simp] theorem setQueue_contribs (s : State) (q : Nat) (x : WorkQueue) : (s.setQueue q x).contribs = s.contribs := rfl
@[simp] theorem setQueue_pendings (s : State) (q : Nat) (x : WorkQueue) : (s.setQueue q x).pendings = s.pendings := rfl
@[simp] theorem setQueue_held (s : State) (q : Nat) (x : WorkQueue) : (s.setQueue q x).held = s.held := rfl
@[simp] theorem setQueue_cancelled (s : State) (q : Nat) (x : WorkQueue) : (s.setQueue q x).cancelled = s.cancelled := rfl
@[simp] theorem setQueue_monitors (s : State) (q : Nat) (x : WorkQueue) : (s.setQueue q x).monitors = s.monitors := rfl
@[simp] theorem setQueue_remotes (s : State) (q : Nat) (x : WorkQueue) : (s.setQueue q x).remotes = s.remotes := rfl
@[simp] theorem setQueue_links (s : State) (q : Nat) (x : WorkQueue) : (s.setQueue q x).links = s.links := rfl
@[simp] theorem setQueue_pkg (s : State) (q : Nat) (x : WorkQueue) : (s.setQueue q x).pkg = s.pkg := rfl
@[simp] theorem setLaunch_turns (s : State) (l : Nat) (x : Launch) : (s.setLaunch l x).turns = s.turns := rfl
@[simp] theorem setLaunch_cur (s : State) (l : Nat) (x : Launch) : (s.setLaunch l x).cur = s.cur := rfl
@[simp] theorem setLaunch_freeCtr (s : State) (l : Nat) (x : Launch) : (s.setLaunch l x).freeCtr = s.freeCtr := rfl
@[simp] theorem setLaunch_clock (s : State) (l : Nat) (x : Launch) : (s.setLaunch l x).clock = s.clock := rfl
@[simp] theorem setLaunch_mem (s : State) (l : Nat) (x : Launch) : (s.setLaunch l x).mem = s.mem := rfl
@[simp] theorem setLaunch_memErr (s : State) (l : Nat) (x : Launch) : (s.setLaunch l x).memErr = s.memErr := rfl
@[simp] theorem setLaunch_badBlk (s : State) (l : Nat) (x : Launch) : (s.setLaunch l x).badBlk = s.badBlk := rfl
@[simp] theorem setLaunch_fronts (s : State) (l : Nat) (x : Launch) : (s.setLaunch l x).fronts = s.fronts := rfl
@[simp] theorem setLaunch_slots (s : State) (l : Nat) (x : Launch) : (s.setLaunch l x).slots = s.slots := rfl
@[simp] theorem setLaunch_cores (s : State) (l : Nat) (x : Launch) : (s.setLaunch l x).cores = s.cores := rfl
@[simp] theorem setLaunch_l2 (s : State) (l : Nat) (x : Launch) : (s.setLaunch l x).l2 = s.l2 := rfl
@[simp] theorem setLaunch_dies (s : State) (l : Nat) (x : Launch) : (s.setLaunch l x).dies = s.dies := rfl
@[simp] theorem setLaunch_queues (s : State) (l : Nat) (x : Launch) : (s.setLaunch l x).queues = s.queues := rfl
@[simp] theorem setLaunch_jobs (s : State) (l : Nat) (x : Launch) : (s.setLaunch l x).jobs = s.jobs := rfl
@[simp] theorem setLaunch_groups (s : State) (l : Nat) (x : Launch) : (s.setLaunch l x).groups = s.groups := rfl
@[simp] theorem setLaunch_contribs (s : State) (l : Nat) (x : Launch) : (s.setLaunch l x).contribs = s.contribs := rfl
@[simp] theorem setLaunch_pendings (s : State) (l : Nat) (x : Launch) : (s.setLaunch l x).pendings = s.pendings := rfl
@[simp] theorem setLaunch_held (s : State) (l : Nat) (x : Launch) : (s.setLaunch l x).held = s.held := rfl
@[simp] theorem setLaunch_cancelled (s : State) (l : Nat) (x : Launch) : (s.setLaunch l x).cancelled = s.cancelled := rfl
@[simp] theorem setLaunch_monitors (s : State) (l : Nat) (x : Launch) : (s.setLaunch l x).monitors = s.monitors := rfl
@[simp] theorem setLaunch_remotes (s : State) (l : Nat) (x : Launch) : (s.setLaunch l x).remotes = s.remotes := rfl
@[simp] theorem setLaunch_links (s : State) (l : Nat) (x : Launch) : (s.setLaunch l x).links = s.links := rfl
@[simp] theorem setLaunch_pkg (s : State) (l : Nat) (x : Launch) : (s.setLaunch l x).pkg = s.pkg := rfl
@[simp] theorem setLink_turns (s : State) (j : Nat) (x : Link) : (s.setLink j x).turns = s.turns := rfl
@[simp] theorem setLink_cur (s : State) (j : Nat) (x : Link) : (s.setLink j x).cur = s.cur := rfl
@[simp] theorem setLink_freeCtr (s : State) (j : Nat) (x : Link) : (s.setLink j x).freeCtr = s.freeCtr := rfl
@[simp] theorem setLink_clock (s : State) (j : Nat) (x : Link) : (s.setLink j x).clock = s.clock := rfl
@[simp] theorem setLink_mem (s : State) (j : Nat) (x : Link) : (s.setLink j x).mem = s.mem := rfl
@[simp] theorem setLink_memErr (s : State) (j : Nat) (x : Link) : (s.setLink j x).memErr = s.memErr := rfl
@[simp] theorem setLink_badBlk (s : State) (j : Nat) (x : Link) : (s.setLink j x).badBlk = s.badBlk := rfl
@[simp] theorem setLink_fronts (s : State) (j : Nat) (x : Link) : (s.setLink j x).fronts = s.fronts := rfl
@[simp] theorem setLink_slots (s : State) (j : Nat) (x : Link) : (s.setLink j x).slots = s.slots := rfl
@[simp] theorem setLink_cores (s : State) (j : Nat) (x : Link) : (s.setLink j x).cores = s.cores := rfl
@[simp] theorem setLink_l2 (s : State) (j : Nat) (x : Link) : (s.setLink j x).l2 = s.l2 := rfl
@[simp] theorem setLink_dies (s : State) (j : Nat) (x : Link) : (s.setLink j x).dies = s.dies := rfl
@[simp] theorem setLink_queues (s : State) (j : Nat) (x : Link) : (s.setLink j x).queues = s.queues := rfl
@[simp] theorem setLink_launches (s : State) (j : Nat) (x : Link) : (s.setLink j x).launches = s.launches := rfl
@[simp] theorem setLink_jobs (s : State) (j : Nat) (x : Link) : (s.setLink j x).jobs = s.jobs := rfl
@[simp] theorem setLink_groups (s : State) (j : Nat) (x : Link) : (s.setLink j x).groups = s.groups := rfl
@[simp] theorem setLink_contribs (s : State) (j : Nat) (x : Link) : (s.setLink j x).contribs = s.contribs := rfl
@[simp] theorem setLink_pendings (s : State) (j : Nat) (x : Link) : (s.setLink j x).pendings = s.pendings := rfl
@[simp] theorem setLink_held (s : State) (j : Nat) (x : Link) : (s.setLink j x).held = s.held := rfl
@[simp] theorem setLink_cancelled (s : State) (j : Nat) (x : Link) : (s.setLink j x).cancelled = s.cancelled := rfl
@[simp] theorem setLink_monitors (s : State) (j : Nat) (x : Link) : (s.setLink j x).monitors = s.monitors := rfl
@[simp] theorem setLink_remotes (s : State) (j : Nat) (x : Link) : (s.setLink j x).remotes = s.remotes := rfl
@[simp] theorem setLink_pkg (s : State) (j : Nat) (x : Link) : (s.setLink j x).pkg = s.pkg := rfl
@[simp] theorem setTlb2_turns (s : State) (c : Nat) (x : List Tlb) : (s.setTlb2 c x).turns = s.turns := rfl
@[simp] theorem setTlb2_cur (s : State) (c : Nat) (x : List Tlb) : (s.setTlb2 c x).cur = s.cur := rfl
@[simp] theorem setTlb2_freeCtr (s : State) (c : Nat) (x : List Tlb) : (s.setTlb2 c x).freeCtr = s.freeCtr := rfl
@[simp] theorem setTlb2_clock (s : State) (c : Nat) (x : List Tlb) : (s.setTlb2 c x).clock = s.clock := rfl
@[simp] theorem setTlb2_mem (s : State) (c : Nat) (x : List Tlb) : (s.setTlb2 c x).mem = s.mem := rfl
@[simp] theorem setTlb2_memErr (s : State) (c : Nat) (x : List Tlb) : (s.setTlb2 c x).memErr = s.memErr := rfl
@[simp] theorem setTlb2_badBlk (s : State) (c : Nat) (x : List Tlb) : (s.setTlb2 c x).badBlk = s.badBlk := rfl
@[simp] theorem setTlb2_fronts (s : State) (c : Nat) (x : List Tlb) : (s.setTlb2 c x).fronts = s.fronts := rfl
@[simp] theorem setTlb2_slots (s : State) (c : Nat) (x : List Tlb) : (s.setTlb2 c x).slots = s.slots := rfl
@[simp] theorem setTlb2_cores (s : State) (c : Nat) (x : List Tlb) : (s.setTlb2 c x).cores = s.cores := rfl
@[simp] theorem setTlb2_dies (s : State) (c : Nat) (x : List Tlb) : (s.setTlb2 c x).dies = s.dies := rfl
@[simp] theorem setTlb2_queues (s : State) (c : Nat) (x : List Tlb) : (s.setTlb2 c x).queues = s.queues := rfl
@[simp] theorem setTlb2_launches (s : State) (c : Nat) (x : List Tlb) : (s.setTlb2 c x).launches = s.launches := rfl
@[simp] theorem setTlb2_jobs (s : State) (c : Nat) (x : List Tlb) : (s.setTlb2 c x).jobs = s.jobs := rfl
@[simp] theorem setTlb2_groups (s : State) (c : Nat) (x : List Tlb) : (s.setTlb2 c x).groups = s.groups := rfl
@[simp] theorem setTlb2_contribs (s : State) (c : Nat) (x : List Tlb) : (s.setTlb2 c x).contribs = s.contribs := rfl
@[simp] theorem setTlb2_pendings (s : State) (c : Nat) (x : List Tlb) : (s.setTlb2 c x).pendings = s.pendings := rfl
@[simp] theorem setTlb2_held (s : State) (c : Nat) (x : List Tlb) : (s.setTlb2 c x).held = s.held := rfl
@[simp] theorem setTlb2_cancelled (s : State) (c : Nat) (x : List Tlb) : (s.setTlb2 c x).cancelled = s.cancelled := rfl
@[simp] theorem setTlb2_monitors (s : State) (c : Nat) (x : List Tlb) : (s.setTlb2 c x).monitors = s.monitors := rfl
@[simp] theorem setTlb2_remotes (s : State) (c : Nat) (x : List Tlb) : (s.setTlb2 c x).remotes = s.remotes := rfl
@[simp] theorem setTlb2_links (s : State) (c : Nat) (x : List Tlb) : (s.setTlb2 c x).links = s.links := rfl
@[simp] theorem setTlb2_pkg (s : State) (c : Nat) (x : List Tlb) : (s.setTlb2 c x).pkg = s.pkg := rfl
@[simp] theorem modPkg_turns (s : State) (g : Package → Package) : (s.modPkg g).turns = s.turns := rfl
@[simp] theorem modPkg_cur (s : State) (g : Package → Package) : (s.modPkg g).cur = s.cur := rfl
@[simp] theorem modPkg_freeCtr (s : State) (g : Package → Package) : (s.modPkg g).freeCtr = s.freeCtr := rfl
@[simp] theorem modPkg_clock (s : State) (g : Package → Package) : (s.modPkg g).clock = s.clock := rfl
@[simp] theorem modPkg_mem (s : State) (g : Package → Package) : (s.modPkg g).mem = s.mem := rfl
@[simp] theorem modPkg_memErr (s : State) (g : Package → Package) : (s.modPkg g).memErr = s.memErr := rfl
@[simp] theorem modPkg_badBlk (s : State) (g : Package → Package) : (s.modPkg g).badBlk = s.badBlk := rfl
@[simp] theorem modPkg_fronts (s : State) (g : Package → Package) : (s.modPkg g).fronts = s.fronts := rfl
@[simp] theorem modPkg_slots (s : State) (g : Package → Package) : (s.modPkg g).slots = s.slots := rfl
@[simp] theorem modPkg_cores (s : State) (g : Package → Package) : (s.modPkg g).cores = s.cores := rfl
@[simp] theorem modPkg_l2 (s : State) (g : Package → Package) : (s.modPkg g).l2 = s.l2 := rfl
@[simp] theorem modPkg_dies (s : State) (g : Package → Package) : (s.modPkg g).dies = s.dies := rfl
@[simp] theorem modPkg_queues (s : State) (g : Package → Package) : (s.modPkg g).queues = s.queues := rfl
@[simp] theorem modPkg_launches (s : State) (g : Package → Package) : (s.modPkg g).launches = s.launches := rfl
@[simp] theorem modPkg_jobs (s : State) (g : Package → Package) : (s.modPkg g).jobs = s.jobs := rfl
@[simp] theorem modPkg_groups (s : State) (g : Package → Package) : (s.modPkg g).groups = s.groups := rfl
@[simp] theorem modPkg_contribs (s : State) (g : Package → Package) : (s.modPkg g).contribs = s.contribs := rfl
@[simp] theorem modPkg_pendings (s : State) (g : Package → Package) : (s.modPkg g).pendings = s.pendings := rfl
@[simp] theorem modPkg_held (s : State) (g : Package → Package) : (s.modPkg g).held = s.held := rfl
@[simp] theorem modPkg_cancelled (s : State) (g : Package → Package) : (s.modPkg g).cancelled = s.cancelled := rfl
@[simp] theorem modPkg_monitors (s : State) (g : Package → Package) : (s.modPkg g).monitors = s.monitors := rfl
@[simp] theorem modPkg_remotes (s : State) (g : Package → Package) : (s.modPkg g).remotes = s.remotes := rfl
@[simp] theorem modPkg_links (s : State) (g : Package → Package) : (s.modPkg g).links = s.links := rfl
@[simp] theorem write_turns (s : State) (a : Nat) (bs : List Byte) : (s.write a bs).turns = s.turns := rfl
@[simp] theorem write_cur (s : State) (a : Nat) (bs : List Byte) : (s.write a bs).cur = s.cur := rfl
@[simp] theorem write_freeCtr (s : State) (a : Nat) (bs : List Byte) : (s.write a bs).freeCtr = s.freeCtr := rfl
@[simp] theorem write_clock (s : State) (a : Nat) (bs : List Byte) : (s.write a bs).clock = s.clock := rfl
@[simp] theorem write_fronts (s : State) (a : Nat) (bs : List Byte) : (s.write a bs).fronts = s.fronts := rfl
@[simp] theorem write_slots (s : State) (a : Nat) (bs : List Byte) : (s.write a bs).slots = s.slots := rfl
@[simp] theorem write_cores (s : State) (a : Nat) (bs : List Byte) : (s.write a bs).cores = s.cores := rfl
@[simp] theorem write_l2 (s : State) (a : Nat) (bs : List Byte) : (s.write a bs).l2 = s.l2 := rfl
@[simp] theorem write_dies (s : State) (a : Nat) (bs : List Byte) : (s.write a bs).dies = s.dies := rfl
@[simp] theorem write_queues (s : State) (a : Nat) (bs : List Byte) : (s.write a bs).queues = s.queues := rfl
@[simp] theorem write_launches (s : State) (a : Nat) (bs : List Byte) : (s.write a bs).launches = s.launches := rfl
@[simp] theorem write_jobs (s : State) (a : Nat) (bs : List Byte) : (s.write a bs).jobs = s.jobs := rfl
@[simp] theorem write_groups (s : State) (a : Nat) (bs : List Byte) : (s.write a bs).groups = s.groups := rfl
@[simp] theorem write_contribs (s : State) (a : Nat) (bs : List Byte) : (s.write a bs).contribs = s.contribs := rfl
@[simp] theorem write_pendings (s : State) (a : Nat) (bs : List Byte) : (s.write a bs).pendings = s.pendings := rfl
@[simp] theorem write_held (s : State) (a : Nat) (bs : List Byte) : (s.write a bs).held = s.held := rfl
@[simp] theorem write_cancelled (s : State) (a : Nat) (bs : List Byte) : (s.write a bs).cancelled = s.cancelled := rfl
@[simp] theorem write_remotes (s : State) (a : Nat) (bs : List Byte) : (s.write a bs).remotes = s.remotes := rfl
@[simp] theorem write_links (s : State) (a : Nat) (bs : List Byte) : (s.write a bs).links = s.links := rfl
@[simp] theorem write_pkg (s : State) (a : Nat) (bs : List Byte) : (s.write a bs).pkg = s.pkg := rfl
@[simp] theorem woken_turns (s : State) (a : Nat) : (s.woken a).turns = s.turns := rfl
@[simp] theorem woken_cur (s : State) (a : Nat) : (s.woken a).cur = s.cur := rfl
@[simp] theorem woken_freeCtr (s : State) (a : Nat) : (s.woken a).freeCtr = s.freeCtr := rfl
@[simp] theorem woken_clock (s : State) (a : Nat) : (s.woken a).clock = s.clock := rfl
@[simp] theorem woken_mem (s : State) (a : Nat) : (s.woken a).mem = s.mem := rfl
@[simp] theorem woken_memErr (s : State) (a : Nat) : (s.woken a).memErr = s.memErr := rfl
@[simp] theorem woken_badBlk (s : State) (a : Nat) : (s.woken a).badBlk = s.badBlk := rfl
@[simp] theorem woken_fronts (s : State) (a : Nat) : (s.woken a).fronts = s.fronts := rfl
@[simp] theorem woken_slots (s : State) (a : Nat) : (s.woken a).slots = s.slots := rfl
@[simp] theorem woken_cores (s : State) (a : Nat) : (s.woken a).cores = s.cores := rfl
@[simp] theorem woken_l2 (s : State) (a : Nat) : (s.woken a).l2 = s.l2 := rfl
@[simp] theorem woken_dies (s : State) (a : Nat) : (s.woken a).dies = s.dies := rfl
@[simp] theorem woken_queues (s : State) (a : Nat) : (s.woken a).queues = s.queues := rfl
@[simp] theorem woken_launches (s : State) (a : Nat) : (s.woken a).launches = s.launches := rfl
@[simp] theorem woken_jobs (s : State) (a : Nat) : (s.woken a).jobs = s.jobs := rfl
@[simp] theorem woken_groups (s : State) (a : Nat) : (s.woken a).groups = s.groups := rfl
@[simp] theorem woken_contribs (s : State) (a : Nat) : (s.woken a).contribs = s.contribs := rfl
@[simp] theorem woken_pendings (s : State) (a : Nat) : (s.woken a).pendings = s.pendings := rfl
@[simp] theorem woken_held (s : State) (a : Nat) : (s.woken a).held = s.held := rfl
@[simp] theorem woken_cancelled (s : State) (a : Nat) : (s.woken a).cancelled = s.cancelled := rfl
@[simp] theorem woken_remotes (s : State) (a : Nat) : (s.woken a).remotes = s.remotes := rfl
@[simp] theorem woken_links (s : State) (a : Nat) : (s.woken a).links = s.links := rfl
@[simp] theorem woken_pkg (s : State) (a : Nat) : (s.woken a).pkg = s.pkg := rfl
@[simp] theorem setReg_turns (s : State) (r : SReg) (v : Word) : (s.setReg r v).turns = s.turns := rfl
@[simp] theorem setReg_cur (s : State) (r : SReg) (v : Word) : (s.setReg r v).cur = s.cur := rfl
@[simp] theorem setReg_freeCtr (s : State) (r : SReg) (v : Word) : (s.setReg r v).freeCtr = s.freeCtr := rfl
@[simp] theorem setReg_clock (s : State) (r : SReg) (v : Word) : (s.setReg r v).clock = s.clock := rfl
@[simp] theorem setReg_mem (s : State) (r : SReg) (v : Word) : (s.setReg r v).mem = s.mem := rfl
@[simp] theorem setReg_memErr (s : State) (r : SReg) (v : Word) : (s.setReg r v).memErr = s.memErr := rfl
@[simp] theorem setReg_badBlk (s : State) (r : SReg) (v : Word) : (s.setReg r v).badBlk = s.badBlk := rfl
@[simp] theorem setReg_slots (s : State) (r : SReg) (v : Word) : (s.setReg r v).slots = s.slots := rfl
@[simp] theorem setReg_cores (s : State) (r : SReg) (v : Word) : (s.setReg r v).cores = s.cores := rfl
@[simp] theorem setReg_l2 (s : State) (r : SReg) (v : Word) : (s.setReg r v).l2 = s.l2 := rfl
@[simp] theorem setReg_dies (s : State) (r : SReg) (v : Word) : (s.setReg r v).dies = s.dies := rfl
@[simp] theorem setReg_queues (s : State) (r : SReg) (v : Word) : (s.setReg r v).queues = s.queues := rfl
@[simp] theorem setReg_launches (s : State) (r : SReg) (v : Word) : (s.setReg r v).launches = s.launches := rfl
@[simp] theorem setReg_jobs (s : State) (r : SReg) (v : Word) : (s.setReg r v).jobs = s.jobs := rfl
@[simp] theorem setReg_groups (s : State) (r : SReg) (v : Word) : (s.setReg r v).groups = s.groups := rfl
@[simp] theorem setReg_contribs (s : State) (r : SReg) (v : Word) : (s.setReg r v).contribs = s.contribs := rfl
@[simp] theorem setReg_pendings (s : State) (r : SReg) (v : Word) : (s.setReg r v).pendings = s.pendings := rfl
@[simp] theorem setReg_held (s : State) (r : SReg) (v : Word) : (s.setReg r v).held = s.held := rfl
@[simp] theorem setReg_cancelled (s : State) (r : SReg) (v : Word) : (s.setReg r v).cancelled = s.cancelled := rfl
@[simp] theorem setReg_monitors (s : State) (r : SReg) (v : Word) : (s.setReg r v).monitors = s.monitors := rfl
@[simp] theorem setReg_remotes (s : State) (r : SReg) (v : Word) : (s.setReg r v).remotes = s.remotes := rfl
@[simp] theorem setReg_links (s : State) (r : SReg) (v : Word) : (s.setReg r v).links = s.links := rfl
@[simp] theorem setReg_pkg (s : State) (r : SReg) (v : Word) : (s.setReg r v).pkg = s.pkg := rfl
@[simp] theorem completeAt_turns (s : State) (p : Word) : (s.completeAt p).turns = s.turns := rfl
@[simp] theorem completeAt_cur (s : State) (p : Word) : (s.completeAt p).cur = s.cur := rfl
@[simp] theorem completeAt_freeCtr (s : State) (p : Word) : (s.completeAt p).freeCtr = s.freeCtr := rfl
@[simp] theorem completeAt_clock (s : State) (p : Word) : (s.completeAt p).clock = s.clock := rfl
@[simp] theorem completeAt_mem (s : State) (p : Word) : (s.completeAt p).mem = s.mem := rfl
@[simp] theorem completeAt_memErr (s : State) (p : Word) : (s.completeAt p).memErr = s.memErr := rfl
@[simp] theorem completeAt_badBlk (s : State) (p : Word) : (s.completeAt p).badBlk = s.badBlk := rfl
@[simp] theorem completeAt_slots (s : State) (p : Word) : (s.completeAt p).slots = s.slots := rfl
@[simp] theorem completeAt_cores (s : State) (p : Word) : (s.completeAt p).cores = s.cores := rfl
@[simp] theorem completeAt_l2 (s : State) (p : Word) : (s.completeAt p).l2 = s.l2 := rfl
@[simp] theorem completeAt_dies (s : State) (p : Word) : (s.completeAt p).dies = s.dies := rfl
@[simp] theorem completeAt_queues (s : State) (p : Word) : (s.completeAt p).queues = s.queues := rfl
@[simp] theorem completeAt_launches (s : State) (p : Word) : (s.completeAt p).launches = s.launches := rfl
@[simp] theorem completeAt_jobs (s : State) (p : Word) : (s.completeAt p).jobs = s.jobs := rfl
@[simp] theorem completeAt_groups (s : State) (p : Word) : (s.completeAt p).groups = s.groups := rfl
@[simp] theorem completeAt_contribs (s : State) (p : Word) : (s.completeAt p).contribs = s.contribs := rfl
@[simp] theorem completeAt_pendings (s : State) (p : Word) : (s.completeAt p).pendings = s.pendings := rfl
@[simp] theorem completeAt_held (s : State) (p : Word) : (s.completeAt p).held = s.held := rfl
@[simp] theorem completeAt_cancelled (s : State) (p : Word) : (s.completeAt p).cancelled = s.cancelled := rfl
@[simp] theorem completeAt_monitors (s : State) (p : Word) : (s.completeAt p).monitors = s.monitors := rfl
@[simp] theorem completeAt_remotes (s : State) (p : Word) : (s.completeAt p).remotes = s.remotes := rfl
@[simp] theorem completeAt_links (s : State) (p : Word) : (s.completeAt p).links = s.links := rfl
@[simp] theorem completeAt_pkg (s : State) (p : Word) : (s.completeAt p).pkg = s.pkg := rfl
@[simp] theorem advance_turns (s : State) : s.advance.turns = s.turns := rfl
@[simp] theorem advance_cur (s : State) : s.advance.cur = s.cur := rfl
@[simp] theorem advance_freeCtr (s : State) : s.advance.freeCtr = s.freeCtr := rfl
@[simp] theorem advance_clock (s : State) : s.advance.clock = s.clock := rfl
@[simp] theorem advance_mem (s : State) : s.advance.mem = s.mem := rfl
@[simp] theorem advance_memErr (s : State) : s.advance.memErr = s.memErr := rfl
@[simp] theorem advance_badBlk (s : State) : s.advance.badBlk = s.badBlk := rfl
@[simp] theorem advance_slots (s : State) : s.advance.slots = s.slots := rfl
@[simp] theorem advance_cores (s : State) : s.advance.cores = s.cores := rfl
@[simp] theorem advance_l2 (s : State) : s.advance.l2 = s.l2 := rfl
@[simp] theorem advance_dies (s : State) : s.advance.dies = s.dies := rfl
@[simp] theorem advance_queues (s : State) : s.advance.queues = s.queues := rfl
@[simp] theorem advance_launches (s : State) : s.advance.launches = s.launches := rfl
@[simp] theorem advance_jobs (s : State) : s.advance.jobs = s.jobs := rfl
@[simp] theorem advance_groups (s : State) : s.advance.groups = s.groups := rfl
@[simp] theorem advance_contribs (s : State) : s.advance.contribs = s.contribs := rfl
@[simp] theorem advance_pendings (s : State) : s.advance.pendings = s.pendings := rfl
@[simp] theorem advance_held (s : State) : s.advance.held = s.held := rfl
@[simp] theorem advance_cancelled (s : State) : s.advance.cancelled = s.cancelled := rfl
@[simp] theorem advance_monitors (s : State) : s.advance.monitors = s.monitors := rfl
@[simp] theorem advance_remotes (s : State) : s.advance.remotes = s.remotes := rfl
@[simp] theorem advance_links (s : State) : s.advance.links = s.links := rfl
@[simp] theorem advance_pkg (s : State) : s.advance.pkg = s.pkg := rfl
@[simp] theorem blocked_turns (s : State) (w : Wait) : (s.blocked w).turns = s.turns := rfl
@[simp] theorem blocked_cur (s : State) (w : Wait) : (s.blocked w).cur = s.cur := rfl
@[simp] theorem blocked_freeCtr (s : State) (w : Wait) : (s.blocked w).freeCtr = s.freeCtr := rfl
@[simp] theorem blocked_clock (s : State) (w : Wait) : (s.blocked w).clock = s.clock := rfl
@[simp] theorem blocked_mem (s : State) (w : Wait) : (s.blocked w).mem = s.mem := rfl
@[simp] theorem blocked_memErr (s : State) (w : Wait) : (s.blocked w).memErr = s.memErr := rfl
@[simp] theorem blocked_badBlk (s : State) (w : Wait) : (s.blocked w).badBlk = s.badBlk := rfl
@[simp] theorem blocked_slots (s : State) (w : Wait) : (s.blocked w).slots = s.slots := rfl
@[simp] theorem blocked_cores (s : State) (w : Wait) : (s.blocked w).cores = s.cores := rfl
@[simp] theorem blocked_l2 (s : State) (w : Wait) : (s.blocked w).l2 = s.l2 := rfl
@[simp] theorem blocked_dies (s : State) (w : Wait) : (s.blocked w).dies = s.dies := rfl
@[simp] theorem blocked_queues (s : State) (w : Wait) : (s.blocked w).queues = s.queues := rfl
@[simp] theorem blocked_launches (s : State) (w : Wait) : (s.blocked w).launches = s.launches := rfl
@[simp] theorem blocked_jobs (s : State) (w : Wait) : (s.blocked w).jobs = s.jobs := rfl
@[simp] theorem blocked_groups (s : State) (w : Wait) : (s.blocked w).groups = s.groups := rfl
@[simp] theorem blocked_contribs (s : State) (w : Wait) : (s.blocked w).contribs = s.contribs := rfl
@[simp] theorem blocked_pendings (s : State) (w : Wait) : (s.blocked w).pendings = s.pendings := rfl
@[simp] theorem blocked_held (s : State) (w : Wait) : (s.blocked w).held = s.held := rfl
@[simp] theorem blocked_cancelled (s : State) (w : Wait) : (s.blocked w).cancelled = s.cancelled := rfl
@[simp] theorem blocked_monitors (s : State) (w : Wait) : (s.blocked w).monitors = s.monitors := rfl
@[simp] theorem blocked_remotes (s : State) (w : Wait) : (s.blocked w).remotes = s.remotes := rfl
@[simp] theorem blocked_links (s : State) (w : Wait) : (s.blocked w).links = s.links := rfl
@[simp] theorem blocked_pkg (s : State) (w : Wait) : (s.blocked w).pkg = s.pkg := rfl

/-! ### Readers after an update of something else -/

@[simp] theorem core_setFront (s : State) (f : Nat) (x : Front) (j : Nat) : (s.setFront f x).core j = s.core j := rfl
@[simp] theorem die_setFront (s : State) (f : Nat) (x : Front) (e : Nat) : (s.setFront f x).die e = s.die e := rfl
@[simp] theorem slot_setFront (s : State) (f : Nat) (x : Front) (g : Nat) : (s.setFront f x).slot g = s.slot g := rfl
@[simp] theorem queue_setFront (s : State) (f : Nat) (x : Front) (p : Nat) : (s.setFront f x).queue p = s.queue p := rfl
@[simp] theorem launch_setFront (s : State) (f : Nat) (x : Front) (m : Nat) : (s.setFront f x).launch m = s.launch m := rfl
@[simp] theorem link_setFront (s : State) (f : Nat) (x : Front) (i : Nat) : (s.setFront f x).link i = s.link i := rfl
@[simp] theorem tlb2_setFront (s : State) (f : Nat) (x : Front) (e : Nat) : (s.setFront f x).tlb2 e = s.tlb2 e := rfl
@[simp] theorem byte_setFront (s : State) (f : Nat) (x : Front) (b : Nat) : (s.setFront f x).byte b = s.byte b := rfl
@[simp] theorem core_modFront (s : State) (f : Nat) (g : Front → Front) (j : Nat) : (s.modFront f g).core j = s.core j := rfl
@[simp] theorem die_modFront (s : State) (f : Nat) (g : Front → Front) (e : Nat) : (s.modFront f g).die e = s.die e := rfl
@[simp] theorem slot_modFront (s : State) (f : Nat) (g : Front → Front) (g' : Nat) : (s.modFront f g).slot g' = s.slot g' := rfl
@[simp] theorem queue_modFront (s : State) (f : Nat) (g : Front → Front) (p : Nat) : (s.modFront f g).queue p = s.queue p := rfl
@[simp] theorem launch_modFront (s : State) (f : Nat) (g : Front → Front) (m : Nat) : (s.modFront f g).launch m = s.launch m := rfl
@[simp] theorem link_modFront (s : State) (f : Nat) (g : Front → Front) (i : Nat) : (s.modFront f g).link i = s.link i := rfl
@[simp] theorem tlb2_modFront (s : State) (f : Nat) (g : Front → Front) (e : Nat) : (s.modFront f g).tlb2 e = s.tlb2 e := rfl
@[simp] theorem byte_modFront (s : State) (f : Nat) (g : Front → Front) (b : Nat) : (s.modFront f g).byte b = s.byte b := rfl
@[simp] theorem front_setCore (s : State) (k : Nat) (x : Core) (g : Nat) : (s.setCore k x).front g = s.front g := rfl
@[simp] theorem die_setCore (s : State) (k : Nat) (x : Core) (e : Nat) : (s.setCore k x).die e = s.die e := rfl
@[simp] theorem slot_setCore (s : State) (k : Nat) (x : Core) (g : Nat) : (s.setCore k x).slot g = s.slot g := rfl
@[simp] theorem queue_setCore (s : State) (k : Nat) (x : Core) (p : Nat) : (s.setCore k x).queue p = s.queue p := rfl
@[simp] theorem launch_setCore (s : State) (k : Nat) (x : Core) (m : Nat) : (s.setCore k x).launch m = s.launch m := rfl
@[simp] theorem link_setCore (s : State) (k : Nat) (x : Core) (i : Nat) : (s.setCore k x).link i = s.link i := rfl
@[simp] theorem tlb2_setCore (s : State) (k : Nat) (x : Core) (e : Nat) : (s.setCore k x).tlb2 e = s.tlb2 e := rfl
@[simp] theorem byte_setCore (s : State) (k : Nat) (x : Core) (b : Nat) : (s.setCore k x).byte b = s.byte b := rfl
@[simp] theorem front_modCore (s : State) (k : Nat) (g : Core → Core) (g' : Nat) : (s.modCore k g).front g' = s.front g' := rfl
@[simp] theorem die_modCore (s : State) (k : Nat) (g : Core → Core) (e : Nat) : (s.modCore k g).die e = s.die e := rfl
@[simp] theorem slot_modCore (s : State) (k : Nat) (g : Core → Core) (g' : Nat) : (s.modCore k g).slot g' = s.slot g' := rfl
@[simp] theorem queue_modCore (s : State) (k : Nat) (g : Core → Core) (p : Nat) : (s.modCore k g).queue p = s.queue p := rfl
@[simp] theorem launch_modCore (s : State) (k : Nat) (g : Core → Core) (m : Nat) : (s.modCore k g).launch m = s.launch m := rfl
@[simp] theorem link_modCore (s : State) (k : Nat) (g : Core → Core) (i : Nat) : (s.modCore k g).link i = s.link i := rfl
@[simp] theorem tlb2_modCore (s : State) (k : Nat) (g : Core → Core) (e : Nat) : (s.modCore k g).tlb2 e = s.tlb2 e := rfl
@[simp] theorem byte_modCore (s : State) (k : Nat) (g : Core → Core) (b : Nat) : (s.modCore k g).byte b = s.byte b := rfl
@[simp] theorem front_modDie (s : State) (d : Nat) (g : Die → Die) (g' : Nat) : (s.modDie d g).front g' = s.front g' := rfl
@[simp] theorem core_modDie (s : State) (d : Nat) (g : Die → Die) (j : Nat) : (s.modDie d g).core j = s.core j := rfl
@[simp] theorem slot_modDie (s : State) (d : Nat) (g : Die → Die) (g' : Nat) : (s.modDie d g).slot g' = s.slot g' := rfl
@[simp] theorem queue_modDie (s : State) (d : Nat) (g : Die → Die) (p : Nat) : (s.modDie d g).queue p = s.queue p := rfl
@[simp] theorem launch_modDie (s : State) (d : Nat) (g : Die → Die) (m : Nat) : (s.modDie d g).launch m = s.launch m := rfl
@[simp] theorem link_modDie (s : State) (d : Nat) (g : Die → Die) (i : Nat) : (s.modDie d g).link i = s.link i := rfl
@[simp] theorem tlb2_modDie (s : State) (d : Nat) (g : Die → Die) (e : Nat) : (s.modDie d g).tlb2 e = s.tlb2 e := rfl
@[simp] theorem byte_modDie (s : State) (d : Nat) (g : Die → Die) (b : Nat) : (s.modDie d g).byte b = s.byte b := rfl
@[simp] theorem front_setSlot (s : State) (f : Nat) (x : SlotRec) (g : Nat) : (s.setSlot f x).front g = s.front g := rfl
@[simp] theorem core_setSlot (s : State) (f : Nat) (x : SlotRec) (j : Nat) : (s.setSlot f x).core j = s.core j := rfl
@[simp] theorem die_setSlot (s : State) (f : Nat) (x : SlotRec) (e : Nat) : (s.setSlot f x).die e = s.die e := rfl
@[simp] theorem queue_setSlot (s : State) (f : Nat) (x : SlotRec) (p : Nat) : (s.setSlot f x).queue p = s.queue p := rfl
@[simp] theorem launch_setSlot (s : State) (f : Nat) (x : SlotRec) (m : Nat) : (s.setSlot f x).launch m = s.launch m := rfl
@[simp] theorem link_setSlot (s : State) (f : Nat) (x : SlotRec) (i : Nat) : (s.setSlot f x).link i = s.link i := rfl
@[simp] theorem tlb2_setSlot (s : State) (f : Nat) (x : SlotRec) (e : Nat) : (s.setSlot f x).tlb2 e = s.tlb2 e := rfl
@[simp] theorem byte_setSlot (s : State) (f : Nat) (x : SlotRec) (b : Nat) : (s.setSlot f x).byte b = s.byte b := rfl
@[simp] theorem front_setQueue (s : State) (q : Nat) (x : WorkQueue) (g : Nat) : (s.setQueue q x).front g = s.front g := rfl
@[simp] theorem core_setQueue (s : State) (q : Nat) (x : WorkQueue) (j : Nat) : (s.setQueue q x).core j = s.core j := rfl
@[simp] theorem die_setQueue (s : State) (q : Nat) (x : WorkQueue) (e : Nat) : (s.setQueue q x).die e = s.die e := rfl
@[simp] theorem slot_setQueue (s : State) (q : Nat) (x : WorkQueue) (g : Nat) : (s.setQueue q x).slot g = s.slot g := rfl
@[simp] theorem launch_setQueue (s : State) (q : Nat) (x : WorkQueue) (m : Nat) : (s.setQueue q x).launch m = s.launch m := rfl
@[simp] theorem link_setQueue (s : State) (q : Nat) (x : WorkQueue) (i : Nat) : (s.setQueue q x).link i = s.link i := rfl
@[simp] theorem tlb2_setQueue (s : State) (q : Nat) (x : WorkQueue) (e : Nat) : (s.setQueue q x).tlb2 e = s.tlb2 e := rfl
@[simp] theorem byte_setQueue (s : State) (q : Nat) (x : WorkQueue) (b : Nat) : (s.setQueue q x).byte b = s.byte b := rfl
@[simp] theorem front_setLaunch (s : State) (l : Nat) (x : Launch) (g : Nat) : (s.setLaunch l x).front g = s.front g := rfl
@[simp] theorem core_setLaunch (s : State) (l : Nat) (x : Launch) (j : Nat) : (s.setLaunch l x).core j = s.core j := rfl
@[simp] theorem die_setLaunch (s : State) (l : Nat) (x : Launch) (e : Nat) : (s.setLaunch l x).die e = s.die e := rfl
@[simp] theorem slot_setLaunch (s : State) (l : Nat) (x : Launch) (g : Nat) : (s.setLaunch l x).slot g = s.slot g := rfl
@[simp] theorem queue_setLaunch (s : State) (l : Nat) (x : Launch) (p : Nat) : (s.setLaunch l x).queue p = s.queue p := rfl
@[simp] theorem link_setLaunch (s : State) (l : Nat) (x : Launch) (i : Nat) : (s.setLaunch l x).link i = s.link i := rfl
@[simp] theorem tlb2_setLaunch (s : State) (l : Nat) (x : Launch) (e : Nat) : (s.setLaunch l x).tlb2 e = s.tlb2 e := rfl
@[simp] theorem byte_setLaunch (s : State) (l : Nat) (x : Launch) (b : Nat) : (s.setLaunch l x).byte b = s.byte b := rfl
@[simp] theorem front_setLink (s : State) (j : Nat) (x : Link) (g : Nat) : (s.setLink j x).front g = s.front g := rfl
@[simp] theorem core_setLink (s : State) (j : Nat) (x : Link) (j' : Nat) : (s.setLink j x).core j' = s.core j' := rfl
@[simp] theorem die_setLink (s : State) (j : Nat) (x : Link) (e : Nat) : (s.setLink j x).die e = s.die e := rfl
@[simp] theorem slot_setLink (s : State) (j : Nat) (x : Link) (g : Nat) : (s.setLink j x).slot g = s.slot g := rfl
@[simp] theorem queue_setLink (s : State) (j : Nat) (x : Link) (p : Nat) : (s.setLink j x).queue p = s.queue p := rfl
@[simp] theorem launch_setLink (s : State) (j : Nat) (x : Link) (m : Nat) : (s.setLink j x).launch m = s.launch m := rfl
@[simp] theorem tlb2_setLink (s : State) (j : Nat) (x : Link) (e : Nat) : (s.setLink j x).tlb2 e = s.tlb2 e := rfl
@[simp] theorem byte_setLink (s : State) (j : Nat) (x : Link) (b : Nat) : (s.setLink j x).byte b = s.byte b := rfl
@[simp] theorem front_setTlb2 (s : State) (c : Nat) (x : List Tlb) (g : Nat) : (s.setTlb2 c x).front g = s.front g := rfl
@[simp] theorem core_setTlb2 (s : State) (c : Nat) (x : List Tlb) (j : Nat) : (s.setTlb2 c x).core j = s.core j := rfl
@[simp] theorem die_setTlb2 (s : State) (c : Nat) (x : List Tlb) (e : Nat) : (s.setTlb2 c x).die e = s.die e := rfl
@[simp] theorem slot_setTlb2 (s : State) (c : Nat) (x : List Tlb) (g : Nat) : (s.setTlb2 c x).slot g = s.slot g := rfl
@[simp] theorem queue_setTlb2 (s : State) (c : Nat) (x : List Tlb) (p : Nat) : (s.setTlb2 c x).queue p = s.queue p := rfl
@[simp] theorem launch_setTlb2 (s : State) (c : Nat) (x : List Tlb) (m : Nat) : (s.setTlb2 c x).launch m = s.launch m := rfl
@[simp] theorem link_setTlb2 (s : State) (c : Nat) (x : List Tlb) (i : Nat) : (s.setTlb2 c x).link i = s.link i := rfl
@[simp] theorem byte_setTlb2 (s : State) (c : Nat) (x : List Tlb) (b : Nat) : (s.setTlb2 c x).byte b = s.byte b := rfl
@[simp] theorem front_modPkg (s : State) (g : Package → Package) (g' : Nat) : (s.modPkg g).front g' = s.front g' := rfl
@[simp] theorem core_modPkg (s : State) (g : Package → Package) (j : Nat) : (s.modPkg g).core j = s.core j := rfl
@[simp] theorem die_modPkg (s : State) (g : Package → Package) (e : Nat) : (s.modPkg g).die e = s.die e := rfl
@[simp] theorem slot_modPkg (s : State) (g : Package → Package) (g' : Nat) : (s.modPkg g).slot g' = s.slot g' := rfl
@[simp] theorem queue_modPkg (s : State) (g : Package → Package) (p : Nat) : (s.modPkg g).queue p = s.queue p := rfl
@[simp] theorem launch_modPkg (s : State) (g : Package → Package) (m : Nat) : (s.modPkg g).launch m = s.launch m := rfl
@[simp] theorem link_modPkg (s : State) (g : Package → Package) (i : Nat) : (s.modPkg g).link i = s.link i := rfl
@[simp] theorem tlb2_modPkg (s : State) (g : Package → Package) (e : Nat) : (s.modPkg g).tlb2 e = s.tlb2 e := rfl
@[simp] theorem byte_modPkg (s : State) (g : Package → Package) (b : Nat) : (s.modPkg g).byte b = s.byte b := rfl
@[simp] theorem front_write (s : State) (a : Nat) (bs : List Byte) (g : Nat) : (s.write a bs).front g = s.front g := rfl
@[simp] theorem core_write (s : State) (a : Nat) (bs : List Byte) (j : Nat) : (s.write a bs).core j = s.core j := rfl
@[simp] theorem die_write (s : State) (a : Nat) (bs : List Byte) (e : Nat) : (s.write a bs).die e = s.die e := rfl
@[simp] theorem slot_write (s : State) (a : Nat) (bs : List Byte) (g : Nat) : (s.write a bs).slot g = s.slot g := rfl
@[simp] theorem queue_write (s : State) (a : Nat) (bs : List Byte) (p : Nat) : (s.write a bs).queue p = s.queue p := rfl
@[simp] theorem launch_write (s : State) (a : Nat) (bs : List Byte) (m : Nat) : (s.write a bs).launch m = s.launch m := rfl
@[simp] theorem link_write (s : State) (a : Nat) (bs : List Byte) (i : Nat) : (s.write a bs).link i = s.link i := rfl
@[simp] theorem tlb2_write (s : State) (a : Nat) (bs : List Byte) (e : Nat) : (s.write a bs).tlb2 e = s.tlb2 e := rfl
@[simp] theorem front_woken (s : State) (a : Nat) (g : Nat) : (s.woken a).front g = s.front g := rfl
@[simp] theorem core_woken (s : State) (a : Nat) (j : Nat) : (s.woken a).core j = s.core j := rfl
@[simp] theorem die_woken (s : State) (a : Nat) (e : Nat) : (s.woken a).die e = s.die e := rfl
@[simp] theorem slot_woken (s : State) (a : Nat) (g : Nat) : (s.woken a).slot g = s.slot g := rfl
@[simp] theorem queue_woken (s : State) (a : Nat) (p : Nat) : (s.woken a).queue p = s.queue p := rfl
@[simp] theorem launch_woken (s : State) (a : Nat) (m : Nat) : (s.woken a).launch m = s.launch m := rfl
@[simp] theorem link_woken (s : State) (a : Nat) (i : Nat) : (s.woken a).link i = s.link i := rfl
@[simp] theorem tlb2_woken (s : State) (a : Nat) (e : Nat) : (s.woken a).tlb2 e = s.tlb2 e := rfl
@[simp] theorem byte_woken (s : State) (a : Nat) (b : Nat) : (s.woken a).byte b = s.byte b := rfl
@[simp] theorem core_setReg (s : State) (r : SReg) (v : Word) (j : Nat) : (s.setReg r v).core j = s.core j := rfl
@[simp] theorem die_setReg (s : State) (r : SReg) (v : Word) (e : Nat) : (s.setReg r v).die e = s.die e := rfl
@[simp] theorem slot_setReg (s : State) (r : SReg) (v : Word) (g : Nat) : (s.setReg r v).slot g = s.slot g := rfl
@[simp] theorem queue_setReg (s : State) (r : SReg) (v : Word) (p : Nat) : (s.setReg r v).queue p = s.queue p := rfl
@[simp] theorem launch_setReg (s : State) (r : SReg) (v : Word) (m : Nat) : (s.setReg r v).launch m = s.launch m := rfl
@[simp] theorem link_setReg (s : State) (r : SReg) (v : Word) (i : Nat) : (s.setReg r v).link i = s.link i := rfl
@[simp] theorem tlb2_setReg (s : State) (r : SReg) (v : Word) (e : Nat) : (s.setReg r v).tlb2 e = s.tlb2 e := rfl
@[simp] theorem byte_setReg (s : State) (r : SReg) (v : Word) (b : Nat) : (s.setReg r v).byte b = s.byte b := rfl
@[simp] theorem core_completeAt (s : State) (p : Word) (j : Nat) : (s.completeAt p).core j = s.core j := rfl
@[simp] theorem die_completeAt (s : State) (p : Word) (e : Nat) : (s.completeAt p).die e = s.die e := rfl
@[simp] theorem slot_completeAt (s : State) (p : Word) (g : Nat) : (s.completeAt p).slot g = s.slot g := rfl
@[simp] theorem queue_completeAt (s : State) (p : Word) (p' : Nat) : (s.completeAt p).queue p' = s.queue p' := rfl
@[simp] theorem launch_completeAt (s : State) (p : Word) (m : Nat) : (s.completeAt p).launch m = s.launch m := rfl
@[simp] theorem link_completeAt (s : State) (p : Word) (i : Nat) : (s.completeAt p).link i = s.link i := rfl
@[simp] theorem tlb2_completeAt (s : State) (p : Word) (e : Nat) : (s.completeAt p).tlb2 e = s.tlb2 e := rfl
@[simp] theorem byte_completeAt (s : State) (p : Word) (b : Nat) : (s.completeAt p).byte b = s.byte b := rfl
@[simp] theorem core_advance (s : State) (j : Nat) : s.advance.core j = s.core j := rfl
@[simp] theorem die_advance (s : State) (e : Nat) : s.advance.die e = s.die e := rfl
@[simp] theorem slot_advance (s : State) (g : Nat) : s.advance.slot g = s.slot g := rfl
@[simp] theorem queue_advance (s : State) (p : Nat) : s.advance.queue p = s.queue p := rfl
@[simp] theorem launch_advance (s : State) (m : Nat) : s.advance.launch m = s.launch m := rfl
@[simp] theorem link_advance (s : State) (i : Nat) : s.advance.link i = s.link i := rfl
@[simp] theorem tlb2_advance (s : State) (e : Nat) : s.advance.tlb2 e = s.tlb2 e := rfl
@[simp] theorem byte_advance (s : State) (b : Nat) : s.advance.byte b = s.byte b := rfl
@[simp] theorem core_blocked (s : State) (w : Wait) (j : Nat) : (s.blocked w).core j = s.core j := rfl
@[simp] theorem die_blocked (s : State) (w : Wait) (e : Nat) : (s.blocked w).die e = s.die e := rfl
@[simp] theorem slot_blocked (s : State) (w : Wait) (g : Nat) : (s.blocked w).slot g = s.slot g := rfl
@[simp] theorem queue_blocked (s : State) (w : Wait) (p : Nat) : (s.blocked w).queue p = s.queue p := rfl
@[simp] theorem launch_blocked (s : State) (w : Wait) (m : Nat) : (s.blocked w).launch m = s.launch m := rfl
@[simp] theorem link_blocked (s : State) (w : Wait) (i : Nat) : (s.blocked w).link i = s.link i := rfl
@[simp] theorem tlb2_blocked (s : State) (w : Wait) (e : Nat) : (s.blocked w).tlb2 e = s.tlb2 e := rfl
@[simp] theorem byte_blocked (s : State) (w : Wait) (b : Nat) : (s.blocked w).byte b = s.byte b := rfl

/-! ### Readers after an update of the same thing -/

theorem front_setFront (s : State) (k j : Nat) (x : Front) : (s.setFront k x).front j = if j = k then x else s.front j := spGet_spSet _ _ _ _ _
@[simp] theorem front_setFront_self (s : State) (k : Nat) (x : Front) : (s.setFront k x).front k = x := by simp [front_setFront]
theorem front_setFront_other (s : State) {k j : Nat} (x : Front) (h : j ≠ k) : (s.setFront k x).front j = s.front j := by simp [front_setFront, h]
theorem core_setCore (s : State) (k j : Nat) (x : Core) : (s.setCore k x).core j = if j = k then x else s.core j := spGet_spSet _ _ _ _ _
@[simp] theorem core_setCore_self (s : State) (k : Nat) (x : Core) : (s.setCore k x).core k = x := by simp [core_setCore]
theorem core_setCore_other (s : State) {k j : Nat} (x : Core) (h : j ≠ k) : (s.setCore k x).core j = s.core j := by simp [core_setCore, h]
theorem slot_setSlot (s : State) (k j : Nat) (x : SlotRec) : (s.setSlot k x).slot j = if j = k then x else s.slot j := spGet_spSet _ _ _ _ _
@[simp] theorem slot_setSlot_self (s : State) (k : Nat) (x : SlotRec) : (s.setSlot k x).slot k = x := by simp [slot_setSlot]
theorem slot_setSlot_other (s : State) {k j : Nat} (x : SlotRec) (h : j ≠ k) : (s.setSlot k x).slot j = s.slot j := by simp [slot_setSlot, h]
theorem queue_setQueue (s : State) (k j : Nat) (x : WorkQueue) : (s.setQueue k x).queue j = if j = k then x else s.queue j := spGet_spSet _ _ _ _ _
@[simp] theorem queue_setQueue_self (s : State) (k : Nat) (x : WorkQueue) : (s.setQueue k x).queue k = x := by simp [queue_setQueue]
theorem queue_setQueue_other (s : State) {k j : Nat} (x : WorkQueue) (h : j ≠ k) : (s.setQueue k x).queue j = s.queue j := by simp [queue_setQueue, h]
theorem launch_setLaunch (s : State) (k j : Nat) (x : Launch) : (s.setLaunch k x).launch j = if j = k then x else s.launch j := spGet_spSet _ _ _ _ _
@[simp] theorem launch_setLaunch_self (s : State) (k : Nat) (x : Launch) : (s.setLaunch k x).launch k = x := by simp [launch_setLaunch]
theorem launch_setLaunch_other (s : State) {k j : Nat} (x : Launch) (h : j ≠ k) : (s.setLaunch k x).launch j = s.launch j := by simp [launch_setLaunch, h]
theorem link_setLink (s : State) (k j : Nat) (x : Link) : (s.setLink k x).link j = if j = k then x else s.link j := spGet_spSet _ _ _ _ _
@[simp] theorem link_setLink_self (s : State) (k : Nat) (x : Link) : (s.setLink k x).link k = x := by simp [link_setLink]
theorem link_setLink_other (s : State) {k j : Nat} (x : Link) (h : j ≠ k) : (s.setLink k x).link j = s.link j := by simp [link_setLink, h]
theorem tlb2_setTlb2 (s : State) (k j : Nat) (x : List Tlb) : (s.setTlb2 k x).tlb2 j = if j = k then x else s.tlb2 j := spGet_spSet _ _ _ _ _
@[simp] theorem tlb2_setTlb2_self (s : State) (k : Nat) (x : List Tlb) : (s.setTlb2 k x).tlb2 k = x := by simp [tlb2_setTlb2]
theorem tlb2_setTlb2_other (s : State) {k j : Nat} (x : List Tlb) (h : j ≠ k) : (s.setTlb2 k x).tlb2 j = s.tlb2 j := by simp [tlb2_setTlb2, h]
theorem front_modFront (s : State) (k j : Nat) (g : Front → Front) :
    (s.modFront k g).front j = if j = k then g (s.front k) else s.front j := front_setFront _ _ _ _
@[simp] theorem front_modFront_self (s : State) (k : Nat) (g : Front → Front) : (s.modFront k g).front k = g (s.front k) := by
  simp [front_modFront]
theorem front_modFront_other (s : State) {k j : Nat} (g : Front → Front) (h : j ≠ k) : (s.modFront k g).front j = s.front j := by
  simp [front_modFront, h]
theorem core_modCore (s : State) (k j : Nat) (g : Core → Core) :
    (s.modCore k g).core j = if j = k then g (s.core k) else s.core j := core_setCore _ _ _ _
@[simp] theorem core_modCore_self (s : State) (k : Nat) (g : Core → Core) : (s.modCore k g).core k = g (s.core k) := by
  simp [core_modCore]
theorem core_modCore_other (s : State) {k j : Nat} (g : Core → Core) (h : j ≠ k) : (s.modCore k g).core j = s.core j := by
  simp [core_modCore, h]
theorem die_modDie (s : State) (k j : Nat) (g : Die → Die) :
    (s.modDie k g).die j = if j = k then g (s.die k) else s.die j := spGet_spSet _ _ _ _ _
@[simp] theorem die_modDie_self (s : State) (k : Nat) (g : Die → Die) : (s.modDie k g).die k = g (s.die k) := by
  simp [die_modDie]
theorem die_modDie_other (s : State) {k j : Nat} (g : Die → Die) (h : j ≠ k) : (s.modDie k g).die j = s.die j := by
  simp [die_modDie, h]
@[simp] theorem modPkg_pkg (s : State) (g : Package → Package) : (s.modPkg g).pkg = g s.pkg := rfl
@[simp] theorem write_mem (s : State) (a : Nat) (bs : List Byte) : (s.write a bs).mem = putBytes s.mem a bs := rfl

/-! ### Fields of a front after an update -/

@[simp] theorem Front.setReg_pc (x : Front) (r : SReg) (v : Word) : (x.setReg r v).pc = x.pc := by unfold Front.setReg; split <;> rfl
@[simp] theorem Front.setReg_kernel (x : Front) (r : SReg) (v : Word) : (x.setReg r v).kernel = x.kernel := by unfold Front.setReg; split <;> rfl
@[simp] theorem Front.setReg_vl (x : Front) (r : SReg) (v : Word) : (x.setReg r v).vl = x.vl := by unfold Front.setReg; split <;> rfl
@[simp] theorem Front.setReg_vmc (x : Front) (r : SReg) (v : Word) : (x.setReg r v).vmc = x.vmc := by unfold Front.setReg; split <;> rfl
@[simp] theorem Front.setReg_vst (x : Front) (r : SReg) (v : Word) : (x.setReg r v).vst = x.vst := by unfold Front.setReg; split <;> rfl
@[simp] theorem Front.setReg_vstart (x : Front) (r : SReg) (v : Word) : (x.setReg r v).vstart = x.vstart := by unfold Front.setReg; split <;> rfl
@[simp] theorem Front.setReg_vsn (x : Front) (r : SReg) (v : Word) : (x.setReg r v).vsn = x.vsn := by unfold Front.setReg; split <;> rfl
@[simp] theorem Front.setReg_vcp (x : Front) (r : SReg) (v : Word) : (x.setReg r v).vcp = x.vcp := by unfold Front.setReg; split <;> rfl
@[simp] theorem Front.setReg_fcr (x : Front) (r : SReg) (v : Word) : (x.setReg r v).fcr = x.fcr := by unfold Front.setReg; split <;> rfl
@[simp] theorem Front.setReg_fflags (x : Front) (r : SReg) (v : Word) : (x.setReg r v).fflags = x.fflags := by unfold Front.setReg; split <;> rfl
@[simp] theorem Front.setReg_dirty (x : Front) (r : SReg) (v : Word) : (x.setReg r v).dirty = x.dirty := by unfold Front.setReg; split <;> rfl
@[simp] theorem Front.setReg_dirtyIx (x : Front) (r : SReg) (v : Word) : (x.setReg r v).dirtyIx = x.dirtyIx := by unfold Front.setReg; split <;> rfl
@[simp] theorem Front.setReg_cdirty (x : Front) (r : SReg) (v : Word) : (x.setReg r v).cdirty = x.cdirty := by unfold Front.setReg; split <;> rfl
@[simp] theorem Front.setReg_gstep (x : Front) (r : SReg) (v : Word) : (x.setReg r v).gstep = x.gstep := by unfold Front.setReg; split <;> rfl
@[simp] theorem Front.setReg_decay (x : Front) (r : SReg) (v : Word) : (x.setReg r v).decay = x.decay := by unfold Front.setReg; split <;> rfl
@[simp] theorem Front.setReg_fmt (x : Front) (r : SReg) (v : Word) : (x.setReg r v).fmt = x.fmt := by unfold Front.setReg; split <;> rfl
@[simp] theorem Front.setReg_spbase (x : Front) (r : SReg) (v : Word) : (x.setReg r v).spbase = x.spbase := by unfold Front.setReg; split <;> rfl
@[simp] theorem Front.setReg_trapcause (x : Front) (r : SReg) (v : Word) : (x.setReg r v).trapcause = x.trapcause := by unfold Front.setReg; split <;> rfl
@[simp] theorem Front.setReg_trappc (x : Front) (r : SReg) (v : Word) : (x.setReg r v).trappc = x.trappc := by unfold Front.setReg; split <;> rfl
@[simp] theorem Front.setReg_trapvsn (x : Front) (r : SReg) (v : Word) : (x.setReg r v).trapvsn = x.trapvsn := by unfold Front.setReg; split <;> rfl
@[simp] theorem Front.setReg_trapelem (x : Front) (r : SReg) (v : Word) : (x.setReg r v).trapelem = x.trapelem := by unfold Front.setReg; split <;> rfl
@[simp] theorem Front.setReg_trapaddr (x : Front) (r : SReg) (v : Word) : (x.setReg r v).trapaddr = x.trapaddr := by unfold Front.setReg; split <;> rfl
@[simp] theorem Front.setReg_trapvec (x : Front) (r : SReg) (v : Word) : (x.setReg r v).trapvec = x.trapvec := by unfold Front.setReg; split <;> rfl
@[simp] theorem Front.setReg_utrapvec (x : Front) (r : SReg) (v : Word) : (x.setReg r v).utrapvec = x.utrapvec := by unfold Front.setReg; split <;> rfl
@[simp] theorem Front.setReg_deleg (x : Front) (r : SReg) (v : Word) : (x.setReg r v).deleg = x.deleg := by unfold Front.setReg; split <;> rfl
@[simp] theorem Front.setReg_masks (x : Front) (r : SReg) (v : Word) : (x.setReg r v).masks = x.masks := by unfold Front.setReg; split <;> rfl
@[simp] theorem Front.setReg_carve (x : Front) (r : SReg) (v : Word) : (x.setReg r v).carve = x.carve := by unfold Front.setReg; split <;> rfl
@[simp] theorem Front.setReg_gens (x : Front) (r : SReg) (v : Word) : (x.setReg r v).gens = x.gens := by unfold Front.setReg; split <;> rfl
@[simp] theorem Front.setReg_queue (x : Front) (r : SReg) (v : Word) : (x.setReg r v).queue = x.queue := by unfold Front.setReg; split <;> rfl
@[simp] theorem Front.setReg_userSet (x : Front) (r : SReg) (v : Word) : (x.setReg r v).userSet = x.userSet := by unfold Front.setReg; split <;> rfl
@[simp] theorem Front.setReg_kernelSet (x : Front) (r : SReg) (v : Word) : (x.setReg r v).kernelSet = x.kernelSet := by unfold Front.setReg; split <;> rfl
@[simp] theorem Front.setReg_binds (x : Front) (r : SReg) (v : Word) : (x.setReg r v).binds = x.binds := by unfold Front.setReg; split <;> rfl
@[simp] theorem Front.setReg_asid (x : Front) (r : SReg) (v : Word) : (x.setReg r v).asid = x.asid := by unfold Front.setReg; split <;> rfl
@[simp] theorem Front.setReg_lid (x : Front) (r : SReg) (v : Word) : (x.setReg r v).lid = x.lid := by unfold Front.setReg; split <;> rfl
@[simp] theorem Front.setReg_rank (x : Front) (r : SReg) (v : Word) : (x.setReg r v).rank = x.rank := by unfold Front.setReg; split <;> rfl
@[simp] theorem Front.setReg_task (x : Front) (r : SReg) (v : Word) : (x.setReg r v).task = x.task := by unfold Front.setReg; split <;> rfl
@[simp] theorem Front.setReg_lastJob (x : Front) (r : SReg) (v : Word) : (x.setReg r v).lastJob = x.lastJob := by unfold Front.setReg; split <;> rfl
@[simp] theorem Front.setReg_wait (x : Front) (r : SReg) (v : Word) : (x.setReg r v).wait = x.wait := by unfold Front.setReg; split <;> rfl
@[simp] theorem Front.setReg_halt (x : Front) (r : SReg) (v : Word) : (x.setReg r v).halt = x.halt := by unfold Front.setReg; split <;> rfl
@[simp] theorem Front.setReg_stepDue (x : Front) (r : SReg) (v : Word) : (x.setReg r v).stepDue = x.stepDue := by unfold Front.setReg; split <;> rfl
@[simp] theorem Front.setReg_counters (x : Front) (r : SReg) (v : Word) : (x.setReg r v).counters = x.counters := by unfold Front.setReg; split <;> rfl
@[simp] theorem Front.setReg_dbgctl (x : Front) (r : SReg) (v : Word) : (x.setReg r v).dbgctl = x.dbgctl := by unfold Front.setReg; split <;> rfl
@[simp] theorem Front.setReg_idle (x : Front) (r : SReg) (v : Word) : (x.setReg r v).idle = x.idle := by unfold Front.setReg; split <;> rfl
@[simp] theorem Front.setReg_didFront (x : Front) (r : SReg) (v : Word) : (x.setReg r v).didFront = x.didFront := by unfold Front.setReg; split <;> rfl
@[simp] theorem Front.setReg_didIssue (x : Front) (r : SReg) (v : Word) : (x.setReg r v).didIssue = x.didIssue := by unfold Front.setReg; split <;> rfl
@[simp] theorem Front.setMask_regs (x : Front) (m : Nat) (v : BitVec 256) : (x.setMask m v).regs = x.regs := rfl
@[simp] theorem Front.setMask_pc (x : Front) (m : Nat) (v : BitVec 256) : (x.setMask m v).pc = x.pc := rfl
@[simp] theorem Front.setMask_kernel (x : Front) (m : Nat) (v : BitVec 256) : (x.setMask m v).kernel = x.kernel := rfl
@[simp] theorem Front.setMask_vl (x : Front) (m : Nat) (v : BitVec 256) : (x.setMask m v).vl = x.vl := rfl
@[simp] theorem Front.setMask_vmc (x : Front) (m : Nat) (v : BitVec 256) : (x.setMask m v).vmc = x.vmc := rfl
@[simp] theorem Front.setMask_vst (x : Front) (m : Nat) (v : BitVec 256) : (x.setMask m v).vst = x.vst := rfl
@[simp] theorem Front.setMask_vstart (x : Front) (m : Nat) (v : BitVec 256) : (x.setMask m v).vstart = x.vstart := rfl
@[simp] theorem Front.setMask_vsn (x : Front) (m : Nat) (v : BitVec 256) : (x.setMask m v).vsn = x.vsn := rfl
@[simp] theorem Front.setMask_vcp (x : Front) (m : Nat) (v : BitVec 256) : (x.setMask m v).vcp = x.vcp := rfl
@[simp] theorem Front.setMask_fcr (x : Front) (m : Nat) (v : BitVec 256) : (x.setMask m v).fcr = x.fcr := rfl
@[simp] theorem Front.setMask_fflags (x : Front) (m : Nat) (v : BitVec 256) : (x.setMask m v).fflags = x.fflags := rfl
@[simp] theorem Front.setMask_dirty (x : Front) (m : Nat) (v : BitVec 256) : (x.setMask m v).dirty = x.dirty := rfl
@[simp] theorem Front.setMask_dirtyIx (x : Front) (m : Nat) (v : BitVec 256) : (x.setMask m v).dirtyIx = x.dirtyIx := rfl
@[simp] theorem Front.setMask_cdirty (x : Front) (m : Nat) (v : BitVec 256) : (x.setMask m v).cdirty = x.cdirty := rfl
@[simp] theorem Front.setMask_gstep (x : Front) (m : Nat) (v : BitVec 256) : (x.setMask m v).gstep = x.gstep := rfl
@[simp] theorem Front.setMask_decay (x : Front) (m : Nat) (v : BitVec 256) : (x.setMask m v).decay = x.decay := rfl
@[simp] theorem Front.setMask_fmt (x : Front) (m : Nat) (v : BitVec 256) : (x.setMask m v).fmt = x.fmt := rfl
@[simp] theorem Front.setMask_spbase (x : Front) (m : Nat) (v : BitVec 256) : (x.setMask m v).spbase = x.spbase := rfl
@[simp] theorem Front.setMask_trapcause (x : Front) (m : Nat) (v : BitVec 256) : (x.setMask m v).trapcause = x.trapcause := rfl
@[simp] theorem Front.setMask_trappc (x : Front) (m : Nat) (v : BitVec 256) : (x.setMask m v).trappc = x.trappc := rfl
@[simp] theorem Front.setMask_trapvsn (x : Front) (m : Nat) (v : BitVec 256) : (x.setMask m v).trapvsn = x.trapvsn := rfl
@[simp] theorem Front.setMask_trapelem (x : Front) (m : Nat) (v : BitVec 256) : (x.setMask m v).trapelem = x.trapelem := rfl
@[simp] theorem Front.setMask_trapaddr (x : Front) (m : Nat) (v : BitVec 256) : (x.setMask m v).trapaddr = x.trapaddr := rfl
@[simp] theorem Front.setMask_trapvec (x : Front) (m : Nat) (v : BitVec 256) : (x.setMask m v).trapvec = x.trapvec := rfl
@[simp] theorem Front.setMask_utrapvec (x : Front) (m : Nat) (v : BitVec 256) : (x.setMask m v).utrapvec = x.utrapvec := rfl
@[simp] theorem Front.setMask_deleg (x : Front) (m : Nat) (v : BitVec 256) : (x.setMask m v).deleg = x.deleg := rfl
@[simp] theorem Front.setMask_carve (x : Front) (m : Nat) (v : BitVec 256) : (x.setMask m v).carve = x.carve := rfl
@[simp] theorem Front.setMask_gens (x : Front) (m : Nat) (v : BitVec 256) : (x.setMask m v).gens = x.gens := rfl
@[simp] theorem Front.setMask_queue (x : Front) (m : Nat) (v : BitVec 256) : (x.setMask m v).queue = x.queue := rfl
@[simp] theorem Front.setMask_userSet (x : Front) (m : Nat) (v : BitVec 256) : (x.setMask m v).userSet = x.userSet := rfl
@[simp] theorem Front.setMask_kernelSet (x : Front) (m : Nat) (v : BitVec 256) : (x.setMask m v).kernelSet = x.kernelSet := rfl
@[simp] theorem Front.setMask_binds (x : Front) (m : Nat) (v : BitVec 256) : (x.setMask m v).binds = x.binds := rfl
@[simp] theorem Front.setMask_asid (x : Front) (m : Nat) (v : BitVec 256) : (x.setMask m v).asid = x.asid := rfl
@[simp] theorem Front.setMask_lid (x : Front) (m : Nat) (v : BitVec 256) : (x.setMask m v).lid = x.lid := rfl
@[simp] theorem Front.setMask_rank (x : Front) (m : Nat) (v : BitVec 256) : (x.setMask m v).rank = x.rank := rfl
@[simp] theorem Front.setMask_task (x : Front) (m : Nat) (v : BitVec 256) : (x.setMask m v).task = x.task := rfl
@[simp] theorem Front.setMask_lastJob (x : Front) (m : Nat) (v : BitVec 256) : (x.setMask m v).lastJob = x.lastJob := rfl
@[simp] theorem Front.setMask_wait (x : Front) (m : Nat) (v : BitVec 256) : (x.setMask m v).wait = x.wait := rfl
@[simp] theorem Front.setMask_halt (x : Front) (m : Nat) (v : BitVec 256) : (x.setMask m v).halt = x.halt := rfl
@[simp] theorem Front.setMask_stepDue (x : Front) (m : Nat) (v : BitVec 256) : (x.setMask m v).stepDue = x.stepDue := rfl
@[simp] theorem Front.setMask_counters (x : Front) (m : Nat) (v : BitVec 256) : (x.setMask m v).counters = x.counters := rfl
@[simp] theorem Front.setMask_dbgctl (x : Front) (m : Nat) (v : BitVec 256) : (x.setMask m v).dbgctl = x.dbgctl := rfl
@[simp] theorem Front.setMask_idle (x : Front) (m : Nat) (v : BitVec 256) : (x.setMask m v).idle = x.idle := rfl
@[simp] theorem Front.setMask_didFront (x : Front) (m : Nat) (v : BitVec 256) : (x.setMask m v).didFront = x.didFront := rfl
@[simp] theorem Front.setMask_didIssue (x : Front) (m : Nat) (v : BitVec 256) : (x.setMask m v).didIssue = x.didIssue := rfl
@[simp] theorem Front.setEntry_regs (x : Front) (v : Nat) (e : Word) : (x.setEntry v e).regs = x.regs := rfl
@[simp] theorem Front.setEntry_pc (x : Front) (v : Nat) (e : Word) : (x.setEntry v e).pc = x.pc := rfl
@[simp] theorem Front.setEntry_kernel (x : Front) (v : Nat) (e : Word) : (x.setEntry v e).kernel = x.kernel := rfl
@[simp] theorem Front.setEntry_vl (x : Front) (v : Nat) (e : Word) : (x.setEntry v e).vl = x.vl := rfl
@[simp] theorem Front.setEntry_vmc (x : Front) (v : Nat) (e : Word) : (x.setEntry v e).vmc = x.vmc := rfl
@[simp] theorem Front.setEntry_vst (x : Front) (v : Nat) (e : Word) : (x.setEntry v e).vst = x.vst := rfl
@[simp] theorem Front.setEntry_vstart (x : Front) (v : Nat) (e : Word) : (x.setEntry v e).vstart = x.vstart := rfl
@[simp] theorem Front.setEntry_vsn (x : Front) (v : Nat) (e : Word) : (x.setEntry v e).vsn = x.vsn := rfl
@[simp] theorem Front.setEntry_vcp (x : Front) (v : Nat) (e : Word) : (x.setEntry v e).vcp = x.vcp := rfl
@[simp] theorem Front.setEntry_fcr (x : Front) (v : Nat) (e : Word) : (x.setEntry v e).fcr = x.fcr := rfl
@[simp] theorem Front.setEntry_fflags (x : Front) (v : Nat) (e : Word) : (x.setEntry v e).fflags = x.fflags := rfl
@[simp] theorem Front.setEntry_dirty (x : Front) (v : Nat) (e : Word) : (x.setEntry v e).dirty = x.dirty := rfl
@[simp] theorem Front.setEntry_dirtyIx (x : Front) (v : Nat) (e : Word) : (x.setEntry v e).dirtyIx = x.dirtyIx := rfl
@[simp] theorem Front.setEntry_cdirty (x : Front) (v : Nat) (e : Word) : (x.setEntry v e).cdirty = x.cdirty := rfl
@[simp] theorem Front.setEntry_gstep (x : Front) (v : Nat) (e : Word) : (x.setEntry v e).gstep = x.gstep := rfl
@[simp] theorem Front.setEntry_decay (x : Front) (v : Nat) (e : Word) : (x.setEntry v e).decay = x.decay := rfl
@[simp] theorem Front.setEntry_fmt (x : Front) (v : Nat) (e : Word) : (x.setEntry v e).fmt = x.fmt := rfl
@[simp] theorem Front.setEntry_spbase (x : Front) (v : Nat) (e : Word) : (x.setEntry v e).spbase = x.spbase := rfl
@[simp] theorem Front.setEntry_trapcause (x : Front) (v : Nat) (e : Word) : (x.setEntry v e).trapcause = x.trapcause := rfl
@[simp] theorem Front.setEntry_trappc (x : Front) (v : Nat) (e : Word) : (x.setEntry v e).trappc = x.trappc := rfl
@[simp] theorem Front.setEntry_trapvsn (x : Front) (v : Nat) (e : Word) : (x.setEntry v e).trapvsn = x.trapvsn := rfl
@[simp] theorem Front.setEntry_trapelem (x : Front) (v : Nat) (e : Word) : (x.setEntry v e).trapelem = x.trapelem := rfl
@[simp] theorem Front.setEntry_trapaddr (x : Front) (v : Nat) (e : Word) : (x.setEntry v e).trapaddr = x.trapaddr := rfl
@[simp] theorem Front.setEntry_trapvec (x : Front) (v : Nat) (e : Word) : (x.setEntry v e).trapvec = x.trapvec := rfl
@[simp] theorem Front.setEntry_utrapvec (x : Front) (v : Nat) (e : Word) : (x.setEntry v e).utrapvec = x.utrapvec := rfl
@[simp] theorem Front.setEntry_deleg (x : Front) (v : Nat) (e : Word) : (x.setEntry v e).deleg = x.deleg := rfl
@[simp] theorem Front.setEntry_masks (x : Front) (v : Nat) (e : Word) : (x.setEntry v e).masks = x.masks := rfl
@[simp] theorem Front.setEntry_queue (x : Front) (v : Nat) (e : Word) : (x.setEntry v e).queue = x.queue := rfl
@[simp] theorem Front.setEntry_userSet (x : Front) (v : Nat) (e : Word) : (x.setEntry v e).userSet = x.userSet := rfl
@[simp] theorem Front.setEntry_kernelSet (x : Front) (v : Nat) (e : Word) : (x.setEntry v e).kernelSet = x.kernelSet := rfl
@[simp] theorem Front.setEntry_binds (x : Front) (v : Nat) (e : Word) : (x.setEntry v e).binds = x.binds := rfl
@[simp] theorem Front.setEntry_asid (x : Front) (v : Nat) (e : Word) : (x.setEntry v e).asid = x.asid := rfl
@[simp] theorem Front.setEntry_lid (x : Front) (v : Nat) (e : Word) : (x.setEntry v e).lid = x.lid := rfl
@[simp] theorem Front.setEntry_rank (x : Front) (v : Nat) (e : Word) : (x.setEntry v e).rank = x.rank := rfl
@[simp] theorem Front.setEntry_task (x : Front) (v : Nat) (e : Word) : (x.setEntry v e).task = x.task := rfl
@[simp] theorem Front.setEntry_lastJob (x : Front) (v : Nat) (e : Word) : (x.setEntry v e).lastJob = x.lastJob := rfl
@[simp] theorem Front.setEntry_wait (x : Front) (v : Nat) (e : Word) : (x.setEntry v e).wait = x.wait := rfl
@[simp] theorem Front.setEntry_halt (x : Front) (v : Nat) (e : Word) : (x.setEntry v e).halt = x.halt := rfl
@[simp] theorem Front.setEntry_stepDue (x : Front) (v : Nat) (e : Word) : (x.setEntry v e).stepDue = x.stepDue := rfl
@[simp] theorem Front.setEntry_counters (x : Front) (v : Nat) (e : Word) : (x.setEntry v e).counters = x.counters := rfl
@[simp] theorem Front.setEntry_dbgctl (x : Front) (v : Nat) (e : Word) : (x.setEntry v e).dbgctl = x.dbgctl := rfl
@[simp] theorem Front.setEntry_idle (x : Front) (v : Nat) (e : Word) : (x.setEntry v e).idle = x.idle := rfl
@[simp] theorem Front.setEntry_didFront (x : Front) (v : Nat) (e : Word) : (x.setEntry v e).didFront = x.didFront := rfl
@[simp] theorem Front.setEntry_didIssue (x : Front) (v : Nat) (e : Word) : (x.setEntry v e).didIssue = x.didIssue := rfl
@[simp] theorem Front.addCounter_regs (x : Front) (n k : Nat) : (x.addCounter n k).regs = x.regs := rfl
@[simp] theorem Front.addCounter_pc (x : Front) (n k : Nat) : (x.addCounter n k).pc = x.pc := rfl
@[simp] theorem Front.addCounter_kernel (x : Front) (n k : Nat) : (x.addCounter n k).kernel = x.kernel := rfl
@[simp] theorem Front.addCounter_vl (x : Front) (n k : Nat) : (x.addCounter n k).vl = x.vl := rfl
@[simp] theorem Front.addCounter_vmc (x : Front) (n k : Nat) : (x.addCounter n k).vmc = x.vmc := rfl
@[simp] theorem Front.addCounter_vst (x : Front) (n k : Nat) : (x.addCounter n k).vst = x.vst := rfl
@[simp] theorem Front.addCounter_vstart (x : Front) (n k : Nat) : (x.addCounter n k).vstart = x.vstart := rfl
@[simp] theorem Front.addCounter_vsn (x : Front) (n k : Nat) : (x.addCounter n k).vsn = x.vsn := rfl
@[simp] theorem Front.addCounter_vcp (x : Front) (n k : Nat) : (x.addCounter n k).vcp = x.vcp := rfl
@[simp] theorem Front.addCounter_fcr (x : Front) (n k : Nat) : (x.addCounter n k).fcr = x.fcr := rfl
@[simp] theorem Front.addCounter_fflags (x : Front) (n k : Nat) : (x.addCounter n k).fflags = x.fflags := rfl
@[simp] theorem Front.addCounter_dirty (x : Front) (n k : Nat) : (x.addCounter n k).dirty = x.dirty := rfl
@[simp] theorem Front.addCounter_dirtyIx (x : Front) (n k : Nat) : (x.addCounter n k).dirtyIx = x.dirtyIx := rfl
@[simp] theorem Front.addCounter_cdirty (x : Front) (n k : Nat) : (x.addCounter n k).cdirty = x.cdirty := rfl
@[simp] theorem Front.addCounter_gstep (x : Front) (n k : Nat) : (x.addCounter n k).gstep = x.gstep := rfl
@[simp] theorem Front.addCounter_decay (x : Front) (n k : Nat) : (x.addCounter n k).decay = x.decay := rfl
@[simp] theorem Front.addCounter_fmt (x : Front) (n k : Nat) : (x.addCounter n k).fmt = x.fmt := rfl
@[simp] theorem Front.addCounter_spbase (x : Front) (n k : Nat) : (x.addCounter n k).spbase = x.spbase := rfl
@[simp] theorem Front.addCounter_trapcause (x : Front) (n k : Nat) : (x.addCounter n k).trapcause = x.trapcause := rfl
@[simp] theorem Front.addCounter_trappc (x : Front) (n k : Nat) : (x.addCounter n k).trappc = x.trappc := rfl
@[simp] theorem Front.addCounter_trapvsn (x : Front) (n k : Nat) : (x.addCounter n k).trapvsn = x.trapvsn := rfl
@[simp] theorem Front.addCounter_trapelem (x : Front) (n k : Nat) : (x.addCounter n k).trapelem = x.trapelem := rfl
@[simp] theorem Front.addCounter_trapaddr (x : Front) (n k : Nat) : (x.addCounter n k).trapaddr = x.trapaddr := rfl
@[simp] theorem Front.addCounter_trapvec (x : Front) (n k : Nat) : (x.addCounter n k).trapvec = x.trapvec := rfl
@[simp] theorem Front.addCounter_utrapvec (x : Front) (n k : Nat) : (x.addCounter n k).utrapvec = x.utrapvec := rfl
@[simp] theorem Front.addCounter_deleg (x : Front) (n k : Nat) : (x.addCounter n k).deleg = x.deleg := rfl
@[simp] theorem Front.addCounter_masks (x : Front) (n k : Nat) : (x.addCounter n k).masks = x.masks := rfl
@[simp] theorem Front.addCounter_carve (x : Front) (n k : Nat) : (x.addCounter n k).carve = x.carve := rfl
@[simp] theorem Front.addCounter_gens (x : Front) (n k : Nat) : (x.addCounter n k).gens = x.gens := rfl
@[simp] theorem Front.addCounter_queue (x : Front) (n k : Nat) : (x.addCounter n k).queue = x.queue := rfl
@[simp] theorem Front.addCounter_userSet (x : Front) (n k : Nat) : (x.addCounter n k).userSet = x.userSet := rfl
@[simp] theorem Front.addCounter_kernelSet (x : Front) (n k : Nat) : (x.addCounter n k).kernelSet = x.kernelSet := rfl
@[simp] theorem Front.addCounter_binds (x : Front) (n k : Nat) : (x.addCounter n k).binds = x.binds := rfl
@[simp] theorem Front.addCounter_asid (x : Front) (n k : Nat) : (x.addCounter n k).asid = x.asid := rfl
@[simp] theorem Front.addCounter_lid (x : Front) (n k : Nat) : (x.addCounter n k).lid = x.lid := rfl
@[simp] theorem Front.addCounter_rank (x : Front) (n k : Nat) : (x.addCounter n k).rank = x.rank := rfl
@[simp] theorem Front.addCounter_task (x : Front) (n k : Nat) : (x.addCounter n k).task = x.task := rfl
@[simp] theorem Front.addCounter_lastJob (x : Front) (n k : Nat) : (x.addCounter n k).lastJob = x.lastJob := rfl
@[simp] theorem Front.addCounter_wait (x : Front) (n k : Nat) : (x.addCounter n k).wait = x.wait := rfl
@[simp] theorem Front.addCounter_halt (x : Front) (n k : Nat) : (x.addCounter n k).halt = x.halt := rfl
@[simp] theorem Front.addCounter_stepDue (x : Front) (n k : Nat) : (x.addCounter n k).stepDue = x.stepDue := rfl
@[simp] theorem Front.addCounter_dbgctl (x : Front) (n k : Nat) : (x.addCounter n k).dbgctl = x.dbgctl := rfl
@[simp] theorem Front.addCounter_idle (x : Front) (n k : Nat) : (x.addCounter n k).idle = x.idle := rfl
@[simp] theorem Front.addCounter_didFront (x : Front) (n k : Nat) : (x.addCounter n k).didFront = x.didFront := rfl
@[simp] theorem Front.addCounter_didIssue (x : Front) (n k : Nat) : (x.addCounter n k).didIssue = x.didIssue := rfl
@[simp] theorem Front.orFlags_regs (x : Front) (n : Nat) : (x.orFlags n).regs = x.regs := rfl
@[simp] theorem Front.orFlags_pc (x : Front) (n : Nat) : (x.orFlags n).pc = x.pc := rfl
@[simp] theorem Front.orFlags_kernel (x : Front) (n : Nat) : (x.orFlags n).kernel = x.kernel := rfl
@[simp] theorem Front.orFlags_vl (x : Front) (n : Nat) : (x.orFlags n).vl = x.vl := rfl
@[simp] theorem Front.orFlags_vmc (x : Front) (n : Nat) : (x.orFlags n).vmc = x.vmc := rfl
@[simp] theorem Front.orFlags_vst (x : Front) (n : Nat) : (x.orFlags n).vst = x.vst := rfl
@[simp] theorem Front.orFlags_vstart (x : Front) (n : Nat) : (x.orFlags n).vstart = x.vstart := rfl
@[simp] theorem Front.orFlags_vsn (x : Front) (n : Nat) : (x.orFlags n).vsn = x.vsn := rfl
@[simp] theorem Front.orFlags_vcp (x : Front) (n : Nat) : (x.orFlags n).vcp = x.vcp := rfl
@[simp] theorem Front.orFlags_fcr (x : Front) (n : Nat) : (x.orFlags n).fcr = x.fcr := rfl
@[simp] theorem Front.orFlags_dirty (x : Front) (n : Nat) : (x.orFlags n).dirty = x.dirty := rfl
@[simp] theorem Front.orFlags_dirtyIx (x : Front) (n : Nat) : (x.orFlags n).dirtyIx = x.dirtyIx := rfl
@[simp] theorem Front.orFlags_cdirty (x : Front) (n : Nat) : (x.orFlags n).cdirty = x.cdirty := rfl
@[simp] theorem Front.orFlags_gstep (x : Front) (n : Nat) : (x.orFlags n).gstep = x.gstep := rfl
@[simp] theorem Front.orFlags_decay (x : Front) (n : Nat) : (x.orFlags n).decay = x.decay := rfl
@[simp] theorem Front.orFlags_fmt (x : Front) (n : Nat) : (x.orFlags n).fmt = x.fmt := rfl
@[simp] theorem Front.orFlags_spbase (x : Front) (n : Nat) : (x.orFlags n).spbase = x.spbase := rfl
@[simp] theorem Front.orFlags_trapcause (x : Front) (n : Nat) : (x.orFlags n).trapcause = x.trapcause := rfl
@[simp] theorem Front.orFlags_trappc (x : Front) (n : Nat) : (x.orFlags n).trappc = x.trappc := rfl
@[simp] theorem Front.orFlags_trapvsn (x : Front) (n : Nat) : (x.orFlags n).trapvsn = x.trapvsn := rfl
@[simp] theorem Front.orFlags_trapelem (x : Front) (n : Nat) : (x.orFlags n).trapelem = x.trapelem := rfl
@[simp] theorem Front.orFlags_trapaddr (x : Front) (n : Nat) : (x.orFlags n).trapaddr = x.trapaddr := rfl
@[simp] theorem Front.orFlags_trapvec (x : Front) (n : Nat) : (x.orFlags n).trapvec = x.trapvec := rfl
@[simp] theorem Front.orFlags_utrapvec (x : Front) (n : Nat) : (x.orFlags n).utrapvec = x.utrapvec := rfl
@[simp] theorem Front.orFlags_deleg (x : Front) (n : Nat) : (x.orFlags n).deleg = x.deleg := rfl
@[simp] theorem Front.orFlags_masks (x : Front) (n : Nat) : (x.orFlags n).masks = x.masks := rfl
@[simp] theorem Front.orFlags_carve (x : Front) (n : Nat) : (x.orFlags n).carve = x.carve := rfl
@[simp] theorem Front.orFlags_gens (x : Front) (n : Nat) : (x.orFlags n).gens = x.gens := rfl
@[simp] theorem Front.orFlags_queue (x : Front) (n : Nat) : (x.orFlags n).queue = x.queue := rfl
@[simp] theorem Front.orFlags_userSet (x : Front) (n : Nat) : (x.orFlags n).userSet = x.userSet := rfl
@[simp] theorem Front.orFlags_kernelSet (x : Front) (n : Nat) : (x.orFlags n).kernelSet = x.kernelSet := rfl
@[simp] theorem Front.orFlags_binds (x : Front) (n : Nat) : (x.orFlags n).binds = x.binds := rfl
@[simp] theorem Front.orFlags_asid (x : Front) (n : Nat) : (x.orFlags n).asid = x.asid := rfl
@[simp] theorem Front.orFlags_lid (x : Front) (n : Nat) : (x.orFlags n).lid = x.lid := rfl
@[simp] theorem Front.orFlags_rank (x : Front) (n : Nat) : (x.orFlags n).rank = x.rank := rfl
@[simp] theorem Front.orFlags_task (x : Front) (n : Nat) : (x.orFlags n).task = x.task := rfl
@[simp] theorem Front.orFlags_lastJob (x : Front) (n : Nat) : (x.orFlags n).lastJob = x.lastJob := rfl
@[simp] theorem Front.orFlags_wait (x : Front) (n : Nat) : (x.orFlags n).wait = x.wait := rfl
@[simp] theorem Front.orFlags_halt (x : Front) (n : Nat) : (x.orFlags n).halt = x.halt := rfl
@[simp] theorem Front.orFlags_stepDue (x : Front) (n : Nat) : (x.orFlags n).stepDue = x.stepDue := rfl
@[simp] theorem Front.orFlags_counters (x : Front) (n : Nat) : (x.orFlags n).counters = x.counters := rfl
@[simp] theorem Front.orFlags_dbgctl (x : Front) (n : Nat) : (x.orFlags n).dbgctl = x.dbgctl := rfl
@[simp] theorem Front.orFlags_idle (x : Front) (n : Nat) : (x.orFlags n).idle = x.idle := rfl
@[simp] theorem Front.orFlags_didFront (x : Front) (n : Nat) : (x.orFlags n).didFront = x.didFront := rfl
@[simp] theorem Front.orFlags_didIssue (x : Front) (n : Nat) : (x.orFlags n).didIssue = x.didIssue := rfl
@[simp] theorem Front.complete_regs (x : Front) (p : Word) : (x.complete p).regs = x.regs := rfl
@[simp] theorem Front.complete_kernel (x : Front) (p : Word) : (x.complete p).kernel = x.kernel := rfl
@[simp] theorem Front.complete_vl (x : Front) (p : Word) : (x.complete p).vl = x.vl := rfl
@[simp] theorem Front.complete_vmc (x : Front) (p : Word) : (x.complete p).vmc = x.vmc := rfl
@[simp] theorem Front.complete_vst (x : Front) (p : Word) : (x.complete p).vst = x.vst := rfl
@[simp] theorem Front.complete_vstart (x : Front) (p : Word) : (x.complete p).vstart = x.vstart := rfl
@[simp] theorem Front.complete_vsn (x : Front) (p : Word) : (x.complete p).vsn = x.vsn := rfl
@[simp] theorem Front.complete_vcp (x : Front) (p : Word) : (x.complete p).vcp = x.vcp := rfl
@[simp] theorem Front.complete_fcr (x : Front) (p : Word) : (x.complete p).fcr = x.fcr := rfl
@[simp] theorem Front.complete_fflags (x : Front) (p : Word) : (x.complete p).fflags = x.fflags := rfl
@[simp] theorem Front.complete_dirty (x : Front) (p : Word) : (x.complete p).dirty = x.dirty := rfl
@[simp] theorem Front.complete_dirtyIx (x : Front) (p : Word) : (x.complete p).dirtyIx = x.dirtyIx := rfl
@[simp] theorem Front.complete_cdirty (x : Front) (p : Word) : (x.complete p).cdirty = x.cdirty := rfl
@[simp] theorem Front.complete_gstep (x : Front) (p : Word) : (x.complete p).gstep = x.gstep := rfl
@[simp] theorem Front.complete_decay (x : Front) (p : Word) : (x.complete p).decay = x.decay := rfl
@[simp] theorem Front.complete_fmt (x : Front) (p : Word) : (x.complete p).fmt = x.fmt := rfl
@[simp] theorem Front.complete_spbase (x : Front) (p : Word) : (x.complete p).spbase = x.spbase := rfl
@[simp] theorem Front.complete_trapcause (x : Front) (p : Word) : (x.complete p).trapcause = x.trapcause := rfl
@[simp] theorem Front.complete_trappc (x : Front) (p : Word) : (x.complete p).trappc = x.trappc := rfl
@[simp] theorem Front.complete_trapvsn (x : Front) (p : Word) : (x.complete p).trapvsn = x.trapvsn := rfl
@[simp] theorem Front.complete_trapelem (x : Front) (p : Word) : (x.complete p).trapelem = x.trapelem := rfl
@[simp] theorem Front.complete_trapaddr (x : Front) (p : Word) : (x.complete p).trapaddr = x.trapaddr := rfl
@[simp] theorem Front.complete_trapvec (x : Front) (p : Word) : (x.complete p).trapvec = x.trapvec := rfl
@[simp] theorem Front.complete_utrapvec (x : Front) (p : Word) : (x.complete p).utrapvec = x.utrapvec := rfl
@[simp] theorem Front.complete_deleg (x : Front) (p : Word) : (x.complete p).deleg = x.deleg := rfl
@[simp] theorem Front.complete_masks (x : Front) (p : Word) : (x.complete p).masks = x.masks := rfl
@[simp] theorem Front.complete_carve (x : Front) (p : Word) : (x.complete p).carve = x.carve := rfl
@[simp] theorem Front.complete_gens (x : Front) (p : Word) : (x.complete p).gens = x.gens := rfl
@[simp] theorem Front.complete_queue (x : Front) (p : Word) : (x.complete p).queue = x.queue := rfl
@[simp] theorem Front.complete_userSet (x : Front) (p : Word) : (x.complete p).userSet = x.userSet := rfl
@[simp] theorem Front.complete_kernelSet (x : Front) (p : Word) : (x.complete p).kernelSet = x.kernelSet := rfl
@[simp] theorem Front.complete_binds (x : Front) (p : Word) : (x.complete p).binds = x.binds := rfl
@[simp] theorem Front.complete_asid (x : Front) (p : Word) : (x.complete p).asid = x.asid := rfl
@[simp] theorem Front.complete_lid (x : Front) (p : Word) : (x.complete p).lid = x.lid := rfl
@[simp] theorem Front.complete_rank (x : Front) (p : Word) : (x.complete p).rank = x.rank := rfl
@[simp] theorem Front.complete_task (x : Front) (p : Word) : (x.complete p).task = x.task := rfl
@[simp] theorem Front.complete_lastJob (x : Front) (p : Word) : (x.complete p).lastJob = x.lastJob := rfl
@[simp] theorem Front.complete_halt (x : Front) (p : Word) : (x.complete p).halt = x.halt := rfl
@[simp] theorem Front.complete_counters (x : Front) (p : Word) : (x.complete p).counters = x.counters := rfl
@[simp] theorem Front.complete_dbgctl (x : Front) (p : Word) : (x.complete p).dbgctl = x.dbgctl := rfl
@[simp] theorem Front.complete_didIssue (x : Front) (p : Word) : (x.complete p).didIssue = x.didIssue := rfl
@[simp] theorem Front.complete_pc (x : Front) (p : Word) : (x.complete p).pc = p := rfl
@[simp] theorem Front.complete_wait (x : Front) (p : Word) : (x.complete p).wait = .no := rfl

/-! ### Registers -/

/-- A register after a write: s0 reads as zero, and every other register but the one written is as before. -/
theorem Front.reg_setReg (x : Front) (r q : SReg) (v : Word) :
    (x.setReg r v).reg q = if q = 0 then 0 else if q = r then v else x.reg q := by
  unfold Front.reg Front.setReg
  by_cases hq : q = 0
  · simp [hq]
  · by_cases hr : r = 0
    · subst hr; simp only [hq, ite_false, ite_true]
    · simp only [hq, hr, ite_false]
      rw [spGet_spSet]
      simp [BitVec.toNat_inj]

@[simp] theorem Front.reg_zero (x : Front) : x.reg 0 = 0 := by simp [Front.reg]
@[simp] theorem Front.reg_complete (x : Front) (p : Word) (q : SReg) : (x.complete p).reg q = x.reg q := rfl
@[simp] theorem Front.reg_orFlags (x : Front) (n : Nat) (q : SReg) : (x.orFlags n).reg q = x.reg q := rfl
@[simp] theorem Front.reg_setMask (x : Front) (m : Nat) (v : BitVec 256) (q : SReg) : (x.setMask m v).reg q = x.reg q := rfl
@[simp] theorem Front.reg_setEntry (x : Front) (v : Nat) (e : Word) (q : SReg) : (x.setEntry v e).reg q = x.reg q := rfl

theorem Front.mask_setMask (x : Front) (m j : Nat) (v : BitVec 256) : (x.setMask m v).mask j = if j = m then v else x.mask j :=
  spGet_spSet _ _ _ _ _
theorem Front.entry_setEntry (x : Front) (v j : Nat) (e : Word) : (x.setEntry v e).entry j = if j = v then e else x.entry j :=
  spGet_spSet _ _ _ _ _

@[simp] theorem me_setReg (s : State) (r : SReg) (v : Word) : (s.setReg r v).me = s.me.setReg r v := by
  simp [State.me, State.setReg]
@[simp] theorem me_completeAt (s : State) (p : Word) : (s.completeAt p).me = s.me.complete p := by
  simp [State.me, State.completeAt]
@[simp] theorem me_advance (s : State) : s.advance.me = s.me.complete (s.me.pc + 4) := by simp [State.advance]
@[simp] theorem me_blocked (s : State) (w : Wait) : (s.blocked w).me = { s.me with wait := w } := by
  simp [State.me, State.blocked]

theorem front_setReg_other (s : State) (r : SReg) (v : Word) {g : Nat} (h : g ≠ s.cur) : (s.setReg r v).front g = s.front g :=
  front_modFront_other s _ h
theorem front_completeAt_other (s : State) (p : Word) {g : Nat} (h : g ≠ s.cur) : (s.completeAt p).front g = s.front g :=
  front_modFront_other s _ h
theorem front_advance_other (s : State) {g : Nat} (h : g ≠ s.cur) : s.advance.front g = s.front g :=
  front_modFront_other s _ h

/-- A register of the current front after a write. -/
theorem reg_setReg (s : State) (r q : SReg) (v : Word) :
    (s.setReg r v).reg q = if q = 0 then 0 else if q = r then v else s.reg q := by
  simp [State.reg, Front.reg_setReg]
@[simp] theorem reg_completeAt (s : State) (p : Word) (q : SReg) : (s.completeAt p).reg q = s.reg q := by simp [State.reg]
@[simp] theorem reg_advance (s : State) (q : SReg) : s.advance.reg q = s.reg q := by simp [State.reg]

end Sys2Proof.Machine
end

