-- ==== Sys2Proof/Laws/Fabric.lean ====
section
/-! SUPPORT. What a message sent to a peer changes, and that the clock of a step leaves memory as it is. -/

namespace Sys2Proof.Machine

/-- A message put on a link changes that link alone (R385). -/
theorem sendRaw_eq (s : State) (j dest : Nat) (hostd : Bool) (vch : Nat) (msg : List Byte) (who : Agent) :
    ∃ l, s.sendRaw j dest hostd vch msg who = s.setLink j l := by
  unfold State.sendRaw
  dsimp only
  split
  · exact ⟨_, rfl⟩
  · exact ⟨_, rfl⟩

/-- A message to a package goes by a live link, and changes it alone (R386, R387). -/
theorem send_eq {s t : State} {d cls tag len addr : Nat} {data : List Byte} {who : Agent} (h : s.send d cls tag len addr data who = some t) :
    s.liveLinks d ≠ [] ∧ ∃ l, t = s.setLink (linkFor (s.liveLinks d) addr) l := by
  simp only [State.send] at h
  split at h
  · cases h
  · rename_i live
    obtain ⟨l, hl⟩ := sendRaw_eq s (linkFor (s.liveLinks d) addr) d false (vchOf cls) (msgBytes cls tag len addr data) who
    refine ⟨by simpa using live, l, ?_⟩
    rw [← hl]
    exact (Option.some.inj h).symm

@[simp] theorem sendOr_mem (s : State) (d cls tag len addr : Nat) (data : List Byte) (who : Agent) :
    ((s.send d cls tag len addr data who).getD s).mem = s.mem := by
  cases h : s.send d cls tag len addr data who with
  | none => rfl
  | some t =>
    obtain ⟨-, l, rfl⟩ := send_eq h
    rfl

/-- Wakes for peers leave memory as it is. -/
@[simp] theorem sendWakes_mem (s : State) : (sendWakes s).mem = s.mem := by
  have h (l : List Monitor) (u : State) :
      (l.foldl (fun u m => (u.send (m.fid - 1024) 8 0 0 (8 * m.unit) []).getD u) u).mem = u.mem := by
    induction l generalizing u with
    | nil => rfl
    | cons m r ih => simp [ih]
  simp [sendWakes, h]

@[simp] theorem tickFronts_mem (s t : State) : (tickFronts s t).mem = t.mem := by
  have h (l : List Nat) (u : State) : (l.foldl (fun (u : State) f =>
      if s.counts f && u.counts f then u.modFront f fun y => (s.front f).ticked ((s.slot f).state == 2) y else u) u).mem = u.mem := by
    induction l generalizing u with
    | nil => rfl
    | cons f r ih =>
      rw [List.foldl_cons, ih]
      split
      · exact modFront_mem ..
      · rfl
  exact h _ _

/-- The clock of a step leaves memory as it is. -/
@[simp] theorem tick_mem (s t : State) : (tick s t).mem = t.mem := by
  have c (u : State) : (closeFlits u).mem = u.mem := rfl
  have w (u : State) : (sweep u).mem = u.mem := rfl
  have q (u v : State) : (tickQueues u v).mem = v.mem := rfl
  simp [tick, c, w, q]

end Sys2Proof.Machine
end

