-- ==== Sys2Proof/Laws/Memory.lean ====
section
/-! SUPPORT. Bytes of memory: reads after writes, numbers as bytes, and the canonical form, which a write keeps. -/

namespace Sys2Proof.Machine

theorem spGet_putBytes (m : List Host.Cell) (a j : Nat) (bs : List Byte) :
    spGet emptyByte (putBytes m a bs) j =
      if a ≤ j ∧ j < a + bs.length then bs.getD (j - a) 0 else spGet emptyByte m j := by
  induction bs generalizing m a with
  | nil =>
    simp [putBytes]
  | cons b r ih =>
    rw [putBytes, ih]
    simp only [List.length_cons]
    by_cases h : j = a
    · subst h
      have h2 : j ≤ j ∧ j < j + (r.length + 1) := by omega
      simp [h2]
    · by_cases hin : a + 1 ≤ j ∧ j < a + 1 + r.length
      · have h2 : a ≤ j ∧ j < a + (r.length + 1) := by omega
        have h3 : j - a = (j - (a + 1)) + 1 := by omega
        simp only [hin, h2, and_self, ite_true, h3, List.getD_cons_succ]
      · have h2 : ¬ (a ≤ j ∧ j < a + (r.length + 1)) := by omega
        rw [if_neg hin, if_neg h2, spGet_spSet_other _ _ _ h]

/-- One byte after a write. -/
theorem byte_write (s : State) (a j : Nat) (bs : List Byte) :
    (s.write a bs).byte j = if a ≤ j ∧ j < a + bs.length then bs.getD (j - a) 0 else s.byte j :=
  spGet_putBytes s.mem a j bs

/-- A write leaves every byte outside it. -/
theorem byte_write_outside (s : State) (a j : Nat) (bs : List Byte) (h : j < a ∨ a + bs.length ≤ j) :
    (s.write a bs).byte j = s.byte j := by
  rw [byte_write, if_neg]
  omega

@[simp] theorem bytes_length (s : State) (a n : Nat) : (s.bytes a n).length = n := by simp [State.bytes]
@[simp] theorem leBytes_length (n v : Nat) : (leBytes n v).length = n := by simp [leBytes]

/-- The bytes just written. -/
theorem bytes_write_self (s : State) (a : Nat) (bs : List Byte) : (s.write a bs).bytes a bs.length = bs := by
  apply List.ext_getElem
  · simp
  · intro i h1 h2
    have hi : a ≤ a + i ∧ a + i < a + bs.length := by omega
    simp [State.bytes, byte_write, h2]

/-- Bytes that a write does not reach. -/
theorem bytes_write_outside (s : State) (a j n : Nat) (bs : List Byte) (h : j + n ≤ a ∨ a + bs.length ≤ j) :
    (s.write a bs).bytes j n = s.bytes j n := by
  unfold State.bytes
  apply List.map_congr_left
  intro i hi
  have := List.mem_range.mp hi
  exact byte_write_outside s a (j + i) bs (by omega)

/-- A number read back from its bytes (R5). -/
theorem leNat_leBytes (n v : Nat) : leNat (leBytes n v) = v % 256 ^ n := by
  induction n generalizing v with
  | zero => simp [leBytes, leNat, Nat.mod_one]
  | succ k ih =>
    have hr : leBytes (k + 1) v = BitVec.ofNat 8 v :: leBytes k (v / 256) := by
      unfold leBytes
      rw [List.range_succ_eq_map, List.map_cons, List.map_map]
      congr 1
      · simp
      · apply List.map_congr_left
        intro i _
        simp only [Function.comp, Nat.succ_eq_add_one, Nat.pow_succ']
        rw [Nat.div_div_eq_div_mul]
    rw [hr]
    have hc : leNat (BitVec.ofNat 8 v :: leBytes k (v / 256)) = (BitVec.ofNat 8 v).toNat + 256 * leNat (leBytes k (v / 256)) := rfl
    rw [hc, ih, BitVec.toNat_ofNat]
    have h := Nat.mod_mul (x := v) (a := 256) (b := 256 ^ k)
    rw [show 256 ^ (k + 1) = 256 * 256 ^ k from Nat.pow_succ', h]

/-- The number just written (R5, R144). -/
theorem read_write_self (s : State) (a n v : Nat) : (s.write a (leBytes n v)).read a n = v % 256 ^ n := by
  have h := bytes_write_self s a (leBytes n v)
  rw [leBytes_length] at h
  rw [State.read, h, leNat_leBytes]

/-- A number that a write does not reach. -/
theorem read_write_outside (s : State) (a j n : Nat) (bs : List Byte) (h : j + n ≤ a ∨ a + bs.length ≤ j) :
    (s.write a bs).read j n = s.read j n := by rw [State.read, bytes_write_outside s a j n bs h, State.read]

/-! ### The canonical form -/

theorem wf_putBytes (m : List Host.Cell) (a : Nat) (bs : List Byte) (h : Memory.wf m = true) : Memory.wf (putBytes m a bs) = true := by
  induction bs generalizing m a with
  | nil => exact h
  | cons b r ih => exact ih _ _ (spWf_spSet _ _ _ _ h)

/-- A write keeps the canonical form. -/
theorem wf_write (s : State) (a : Nat) (bs : List Byte) (h : Memory.wf s.mem = true) : Memory.wf (s.write a bs).mem = true :=
  wf_putBytes _ _ _ h

/-- Dropping cells keeps the canonical form. -/
theorem wf_eraseAll (m : List Host.Cell) (p : Nat → Bool) (h : Memory.wf m = true) : Memory.wf (spEraseAll m p) = true :=
  spWf_spEraseAll _ _ _ h

/-- The memory of a machine just reset. -/
theorem wf_reset : Memory.wf State.reset.mem = true := rfl

end Sys2Proof.Machine
end

