-- ==== Sys2Proof/Laws/Front.lean ====
section
/-! SUPPORT. Instructions at the front: one lemma for each way in which they end, on all that it changes (R43, R69 to R75, R132). -/

namespace Sys2Proof.Machine

/-! ### Changes of one front -/

/-- A change of one front changes nothing else. -/
theorem onlyFront_setFront (s : State) (f : Nat) (x : Front) : OnlyFront f s (s.setFront f x) where
  rest := rfl
  others _ h := front_setFront_other s x h

theorem onlyFront_modFront (s : State) (f : Nat) (g : Front → Front) : OnlyFront f s (s.modFront f g) := onlyFront_setFront s f _

theorem OnlyFront.refl (f : Nat) (s : State) : OnlyFront f s s := ⟨rfl, fun _ _ => rfl⟩

theorem OnlyFront.trans {f : Nat} {s t u : State} (h : OnlyFront f s t) (k : OnlyFront f t u) : OnlyFront f s u :=
  ⟨k.rest.trans h.rest, fun g hg => (k.others g hg).trans (h.others g hg)⟩

theorem OnlyFront.cur {f : Nat} {s t : State} (h : OnlyFront f s t) : t.cur = s.cur := (congrArg State.cur h.rest : _)

theorem OnlyFront.mem {f : Nat} {s t : State} (h : OnlyFront f s t) : t.mem = s.mem := (congrArg State.mem h.rest : _)

theorem OnlyFront.sameBytes {f : Nat} {s t : State} (h : OnlyFront f s t) : SameBytes s t := fun a => by
  simp only [State.byte, h.mem]

/-- What is shown of the front after its instruction has completed. -/
theorem completed_of (s : State) (pc : Word) (view : Front → Front) (y : Front) (hd : y.dbgctl = s.me.dbgctl)
    (hk : y.kernel = s.me.kernel) (hu : y.deleg = s.me.deleg) (hv : view y.base = view s.me.base) (t : State)
    (ht : t.me = y.complete pc) : Completed s pc view t := by
  refine ⟨by rw [ht]; rfl, by rw [ht]; rfl, ?_, ?_⟩
  · rw [ht]
    simp only [Front.complete, Front.ubusy, hd, hk, hu]
  · rw [ht]
    exact hv

/-- An instruction that completes and changes nothing else. -/
theorem passes_completeAt (s : State) (pc : Word) : Passes s pc (s.completeAt pc) where
  regs r := by simp
  done := completed_of s pc id s.me rfl rfl rfl rfl _ (me_completeAt s pc)
  rest := onlyFront_modFront _ _ _
  mem := (onlyFront_modFront s s.cur _).sameBytes

theorem passes_advance (s : State) : Passes s (s.me.pc + 4) s.advance := passes_completeAt s _

/-- An instruction that writes a register and completes. -/
theorem writes_completeAt (s : State) (d : SReg) (v pc : Word) : Writes s d v pc ((s.setReg d v).completeAt pc) where
  dest := by
    refine ⟨?_, fun r hr => ?_⟩
    · simp only [reg_completeAt, reg_setReg]
      split <;> simp
    · simp only [reg_completeAt, reg_setReg, hr, ite_false]
      split
      · next h => rw [h]; exact (Front.reg_zero _).symm
      · rfl
  done := by
    refine completed_of s pc id (s.me.setReg d v) (by simp) (by simp) (by simp) ?_ _ (by simp)
    unfold Front.setReg
    split <;> rfl
  rest := (onlyFront_modFront s s.cur _).trans (onlyFront_modFront _ _ _)
  mem := (onlyFront_modFront s s.cur _).trans (onlyFront_modFront _ _ _) |>.sameBytes

/-- What `result` does. -/
theorem ends_result (s : State) (d : SReg) (v : Word) {i : Instr} (h : exec i s = result d v s) : Ends i s (Writes s d v (s.me.pc + 4)) := by
  refine ⟨_, h, ?_⟩
  have hp : (s.setReg d v).me.pc = s.me.pc := by simp
  have := writes_completeAt s d v (s.me.pc + 4)
  rw [State.advance, hp]
  exact this

/-- What `branch` does. -/
theorem ends_branch {n : Nat} (s : State) (c : Bool) (disp : BitVec n) {i : Instr} (h : exec i s = branch c disp s) :
    Ends i s (Passes s (if c then s.me.pc + 4 * disp.signExtend 64 else s.me.pc + 4)) :=
  ⟨_, h, passes_completeAt s _⟩

/-- A front that waits. -/
theorem waits_blocked (s : State) (w : Wait) : Waits s w (s.blocked w) where
  front := by simp
  rest := onlyFront_modFront _ _ _
  mem := (onlyFront_modFront s s.cur _).sameBytes

/-! ### Taking a trap (R73) -/

theorem field_word (n hi lo : Nat) (h : hi < 64) : (word n).field hi lo = bits n hi lo := by
  have hp : (2 : Nat) ^ 64 = 2 ^ (hi + 1 - lo) * 2 ^ lo * 2 ^ (64 - (hi + 1 - lo) - lo) ∨ hi + 1 ≤ lo := by
    by_cases hl : hi + 1 ≤ lo
    · exact .inr hl
    · left
      rw [← Nat.pow_add, ← Nat.pow_add]
      congr 1
      omega
  unfold Word.field bits word
  rw [BitVec.toNat_ofNat]
  rcases hp with hp | hp
  · rw [hp, Nat.mul_assoc, Nat.mul_comm (2 ^ lo), ← Nat.mul_assoc, Nat.mul_comm _ (2 ^ lo), Nat.mod_mul_right_div_self,
      Nat.mod_mul_right_mod]
  · have : hi + 1 - lo = 0 := by omega
    simp [this, Nat.mod_one]

theorem flag_field (w : Word) (i : Nat) : w.flag i = (w.field i i == 1) := by
  rw [Word.flag, Word.field, bit, bits, Nat.add_sub_cancel_left, Nat.pow_one]

theorem delegable_iff (c : Nat) : delegable c = [3, 4, 5, 6, 13].contains c := by
  by_cases h : c ≤ 13
  · interval_cases c <;> rfl
  · have h1 : delegable c = false := by
      simp only [delegable, BREAK, Bool.or_eq_false_iff, decide_eq_false_iff_not, beq_eq_false_iff_ne]
      omega
    have h2 : [3, 4, 5, 6, 13].contains c = false := by
      simp only [List.contains_eq_mem, List.mem_cons, List.not_mem_nil, or_false, decide_eq_false_iff_not]
      omega
    rw [h1, h2]

theorem delegates_eq (x : Front) (c : Nat) : x.delegates c = (!x.kernel && delegable c && x.deleg.flag c && !x.ubusy) := by
  rw [Front.delegates, delegable_iff]

/-- What `suspend` makes of a queue. -/
theorem suspended_suspend (q : List QEntry) : Suspended q (suspend q) := by
  cases q with
  | nil => exact ⟨.nil, rfl, rfl⟩
  | cons e r =>
    refine ⟨.cons rfl ?_, rfl, by simp [suspend]⟩
    induction r with
    | nil => exact .nil
    | cons a r ih => exact .cons rfl ih

/-- The trap registers of TakeTrap, and the rest of the front (R73, R359). -/
theorem trapTaken_setFront (s : State) (f : Nat) (t : TrapRec) (pc : Word) (vsn : BitVec 32) (hc : t.cause < 256) (hs : t.sub < 256)
    (he : t.elem < 512) : TrapTaken s f t.cause t.sub t.elem t.addr pc vsn (s.setFront f ((s.front f).trapped t pc vsn)) := by
  have hb (b : Bool) : b2n b < 2 := by cases b <;> decide
  have hv : word vsn.toNat = vsn.setWidth 64 := by
    apply BitVec.eq_of_toNat_eq
    rw [word, BitVec.toNat_ofNat, BitVec.toNat_setWidth]
  have hd := delegates_eq (s.front f) t.cause
  have hk := hb (s.front f).kernel
  have hg := hb ((s.front f).delegates t.cause)
  have hf (b : Bool) : (b2n b == 1) = b := by cases b <;> rfl
  have code : ((s.front f).trapped t pc vsn).trapcause =
      word (t.cause + b2n (s.front f).kernel * 2 ^ 8 + b2n ((s.front f).delegates t.cause) * 2 ^ 9 + t.sub * 2 ^ 16) := by
    unfold Front.trapped
    rw [← hd]
    have h1 : t.cause % 256 = t.cause := Nat.mod_eq_of_lt hc
    have h2 : t.sub % 256 = t.sub := Nat.mod_eq_of_lt hs
    cases (s.front f).delegates t.cause <;> simp [h1, h2]
  have hel : t.elem % 512 = t.elem := Nat.mod_eq_of_lt he
  have hu (w : Word) : (w ||| word (2 ^ 31)).flag 31 = true := by
    have : (w ||| word (2 ^ 31)).getLsbD 31 = true := by simp [word]
    rw [Word.flag, bit]
    rw [BitVec.getLsbD, Nat.testBit, Nat.shiftRight_eq_div_pow, Nat.and_comm, Nat.and_one_is_mod] at this
    simpa using this
  constructor
  case code => simp only [front_setFront_self, code]; rw [field_word _ _ _ (by omega), bits]; omega
  case pmode =>
    simp only [front_setFront_self, code]
    have : (word (t.cause + b2n (s.front f).kernel * 2 ^ 8 + b2n ((s.front f).delegates t.cause) * 2 ^ 9 + t.sub * 2 ^ 16)).field 8 8 =
      b2n (s.front f).kernel := by rw [field_word _ _ _ (by omega), bits]; omega
    rw [flag_field, this, hf]
  case udeleg =>
    simp only [front_setFront_self, code]
    have : (word (t.cause + b2n (s.front f).kernel * 2 ^ 8 + b2n ((s.front f).delegates t.cause) * 2 ^ 9 + t.sub * 2 ^ 16)).field 9 9 =
      b2n ((s.front f).delegates t.cause) := by rw [field_word _ _ _ (by omega), bits]; omega
    rw [flag_field, this, hf]
  case subcode => simp only [front_setFront_self, code]; rw [field_word _ _ _ (by omega), bits]; omega
  case zero =>
    simp only [front_setFront_self, code]
    constructor
    · rw [field_word _ _ _ (by omega), bits]; omega
    · rw [field_word _ _ _ (by omega), bits]; omega
  all_goals try simp only [front_setFront_self]
  case rest => exact onlyFront_setFront _ _ _
  case mem => exact (onlyFront_setFront s f _).sameBytes
  case regs => intro r; unfold Front.trapped; rw [← hd]; cases (s.front f).delegates t.cause <;> rfl
  case mode => unfold Front.trapped; rw [← hd]; cases (s.front f).delegates t.cause <;> simp
  case target => unfold Front.trapped; rw [← hd]; cases (s.front f).delegates t.cause <;> rfl
  case ubusy =>
    unfold Front.trapped
    rw [← hd]
    cases h : (s.front f).delegates t.cause
    · simp [Front.ubusy]
    · simp only [Front.ubusy, ite_true, hu, Bool.true_or]
  case kept => unfold Front.trapped; rw [← hd]; cases (s.front f).delegates t.cause <;> rfl
  case deleg =>
    intro i hi
    unfold Front.trapped
    rw [← hd]
    cases (s.front f).delegates t.cause
    · rfl
    · have : (word (2 ^ 31)).getLsbD i = false := by
        rw [word, BitVec.getLsbD_ofNat, Nat.testBit_two_pow]
        simp [Ne.symm hi]
      simp only [ite_true, BitVec.getLsbD_or, this, Bool.or_false]
  case sets =>
    refine ⟨_, suspended_suspend _, ?_, ?_⟩ <;> unfold Front.trapped <;> rw [← hd] <;> cases (s.front f).delegates t.cause <;> simp
  case counters => intro i _; unfold Front.trapped; rw [← hd]; cases (s.front f).delegates t.cause <;> rfl
  case trapvsn => rw [← hv]; unfold Front.trapped; rw [← hd]; cases (s.front f).delegates t.cause <;> rfl
  all_goals (unfold Front.trapped; rw [← hd]; cases (s.front f).delegates t.cause <;> simp [hel])

/-- A trap that is logged nowhere: neither MEMERR nor INTEGRITY, nor a fault of a walk. -/
theorem logTrap_other (s : State) (f : Nat) (t : TrapRec) (n : Nat) (h1 : t.cause ≠ 11) (h2 : t.cause ≠ 10) (h3 : t.cause ≠ 8)
    (h4 : t.cause = 9 → t.sub = 1) : logTrap s f t n = s := by
  simp only [logTrap, INTEGRITY, MEMERR, PAGE, ACCESS, h1, h2, h3, false_and, if_false]
  simp
  intro h
  exact fun k => absurd (h4 h) k

/-- A trap of the instruction at the front, taken at once (R72, R73). -/
theorem traps_frontTrap (s : State) (t : TrapRec) (hr : s.trapReady t.cause) (he : t.elem = 0) (hc : t.cause < 256) (hs : t.sub < 256)
    (h1 : t.cause ≠ 11) (h2 : t.cause ≠ 10) (h3 : t.cause ≠ 8) (h4 : t.cause = 9 → t.sub = 1) : Traps s t.cause t.sub t.addr (frontTrap s t) := by
  obtain ⟨hq, hm⟩ := hr
  have hd : (s.me.kernel && t.cause != BREAK && t.cause != STEP) = false := by
    rcases hm with h | h | h <;> simp [h, BREAK, STEP]
  have : frontTrap s t = s.setFront s.cur ((s.front s.cur).trapped t s.me.pc s.me.vsn) := by
    simp only [frontTrap, hq, List.isEmpty_nil, ite_true, logTrap_other s s.cur t _ h1 h2 h3 h4, takeTrap]
    rw [State.me] at hd
    simp only [hd]
    rfl
  rw [this, Traps, ← he]
  exact trapTaken_setFront s s.cur t s.me.pc s.me.vsn hc hs (by omega)

/-- What `trapAt` does. -/
theorem ends_trapAt (s : State) (cause sub addr : Nat) {i : Instr} (h : exec i s = trapAt cause sub addr s) (hr : s.trapReady cause)
    (hc : cause < 256) (hs : sub < 256) (h1 : cause ≠ 11) (h2 : cause ≠ 10) (h3 : cause ≠ 8) (h4 : cause = 9 → sub = 1) : Ends i s (Traps s cause sub addr) :=
  ⟨_, h, traps_frontTrap s ⟨cause, sub, 0, addr, 0⟩ hr rfl hc hs h1 h2 h3 h4⟩

end Sys2Proof.Machine
end

