-- ==== Sys2Proof/Laws/PerInstr.lean ====
section
/-! SUPPORT. Statements about every constructor of `Instr`, one lemma for each. -/

namespace Sys2Proof.Laws

theorem b2n_lt (b : Bool) : b2n b < 2 := by cases b <;> decide
theorem ffmt_code_lt (f : FFmt) : f.code < 4 := by cases f <;> decide
theorem cvtTy_code_lt (t : CvtTy) : t.code < 8 := by cases t <;> decide
theorem scope_code_lt (s : Scope) : s.code < 4 := by cases s <;> decide

/-- The encoding of an instruction is a number of 32 bits: no field of R99 to R131 runs into another. -/
def Fits.Statement (i : Instr) : Prop := ∀ n, encodeNat i = some n → n < 2 ^ 32

theorem fits_of {i : Instr} {m : Nat} (h : encodeNat i = some m) (hm : m < 2 ^ 32) : Fits.Statement i := by
  intro n hn
  rw [h] at hn
  exact Option.some.inj hn ▸ hm

theorem fits_none {i : Instr} (h : encodeNat i = none) : Fits.Statement i := by
  intro n hn
  rw [h] at hn
  exact absurd hn (by simp)

theorem Fits.add (d : SReg) (a : SReg) (b : SReg) : Fits.Statement (.add d a b) := fits_of rfl (by have := d.isLt; have := a.isLt; have := b.isLt; unfold packSR; omega)
theorem Fits.sub (d : SReg) (a : SReg) (b : SReg) : Fits.Statement (.sub d a b) := fits_of rfl (by have := d.isLt; have := a.isLt; have := b.isLt; unfold packSR; omega)
theorem Fits.mul (d : SReg) (a : SReg) (b : SReg) : Fits.Statement (.mul d a b) := fits_of rfl (by have := d.isLt; have := a.isLt; have := b.isLt; unfold packSR; omega)
theorem Fits.mulh (d : SReg) (a : SReg) (b : SReg) : Fits.Statement (.mulh d a b) := fits_of rfl (by have := d.isLt; have := a.isLt; have := b.isLt; unfold packSR; omega)
theorem Fits.mulhu (d : SReg) (a : SReg) (b : SReg) : Fits.Statement (.mulhu d a b) := fits_of rfl (by have := d.isLt; have := a.isLt; have := b.isLt; unfold packSR; omega)
theorem Fits.div (d : SReg) (a : SReg) (b : SReg) : Fits.Statement (.div d a b) := fits_of rfl (by have := d.isLt; have := a.isLt; have := b.isLt; unfold packSR; omega)
theorem Fits.divu (d : SReg) (a : SReg) (b : SReg) : Fits.Statement (.divu d a b) := fits_of rfl (by have := d.isLt; have := a.isLt; have := b.isLt; unfold packSR; omega)
theorem Fits.rem (d : SReg) (a : SReg) (b : SReg) : Fits.Statement (.rem d a b) := fits_of rfl (by have := d.isLt; have := a.isLt; have := b.isLt; unfold packSR; omega)
theorem Fits.remu (d : SReg) (a : SReg) (b : SReg) : Fits.Statement (.remu d a b) := fits_of rfl (by have := d.isLt; have := a.isLt; have := b.isLt; unfold packSR; omega)
theorem Fits.and (d : SReg) (a : SReg) (b : SReg) : Fits.Statement (.and d a b) := fits_of rfl (by have := d.isLt; have := a.isLt; have := b.isLt; unfold packSR; omega)
theorem Fits.or (d : SReg) (a : SReg) (b : SReg) : Fits.Statement (.or d a b) := fits_of rfl (by have := d.isLt; have := a.isLt; have := b.isLt; unfold packSR; omega)
theorem Fits.xor (d : SReg) (a : SReg) (b : SReg) : Fits.Statement (.xor d a b) := fits_of rfl (by have := d.isLt; have := a.isLt; have := b.isLt; unfold packSR; omega)
theorem Fits.andn (d : SReg) (a : SReg) (b : SReg) : Fits.Statement (.andn d a b) := fits_of rfl (by have := d.isLt; have := a.isLt; have := b.isLt; unfold packSR; omega)
theorem Fits.shl (d : SReg) (a : SReg) (b : SReg) : Fits.Statement (.shl d a b) := fits_of rfl (by have := d.isLt; have := a.isLt; have := b.isLt; unfold packSR; omega)
theorem Fits.shr (d : SReg) (a : SReg) (b : SReg) : Fits.Statement (.shr d a b) := fits_of rfl (by have := d.isLt; have := a.isLt; have := b.isLt; unfold packSR; omega)
theorem Fits.sra (d : SReg) (a : SReg) (b : SReg) : Fits.Statement (.sra d a b) := fits_of rfl (by have := d.isLt; have := a.isLt; have := b.isLt; unfold packSR; omega)
theorem Fits.slt (d : SReg) (a : SReg) (b : SReg) : Fits.Statement (.slt d a b) := fits_of rfl (by have := d.isLt; have := a.isLt; have := b.isLt; unfold packSR; omega)
theorem Fits.sltu (d : SReg) (a : SReg) (b : SReg) : Fits.Statement (.sltu d a b) := fits_of rfl (by have := d.isLt; have := a.isLt; have := b.isLt; unfold packSR; omega)
theorem Fits.min (d : SReg) (a : SReg) (b : SReg) : Fits.Statement (.min d a b) := fits_of rfl (by have := d.isLt; have := a.isLt; have := b.isLt; unfold packSR; omega)
theorem Fits.max (d : SReg) (a : SReg) (b : SReg) : Fits.Statement (.max d a b) := fits_of rfl (by have := d.isLt; have := a.isLt; have := b.isLt; unfold packSR; omega)
theorem Fits.minu (d : SReg) (a : SReg) (b : SReg) : Fits.Statement (.minu d a b) := fits_of rfl (by have := d.isLt; have := a.isLt; have := b.isLt; unfold packSR; omega)
theorem Fits.maxu (d : SReg) (a : SReg) (b : SReg) : Fits.Statement (.maxu d a b) := fits_of rfl (by have := d.isLt; have := a.isLt; have := b.isLt; unfold packSR; omega)
theorem Fits.clz (d : SReg) (a : SReg) : Fits.Statement (.clz d a) := fits_of rfl (by have := d.isLt; have := a.isLt; unfold packSR; omega)
theorem Fits.ctz (d : SReg) (a : SReg) : Fits.Statement (.ctz d a) := fits_of rfl (by have := d.isLt; have := a.isLt; unfold packSR; omega)
theorem Fits.popc (d : SReg) (a : SReg) : Fits.Statement (.popc d a) := fits_of rfl (by have := d.isLt; have := a.isLt; unfold packSR; omega)
theorem Fits.sextb (d : SReg) (a : SReg) : Fits.Statement (.sextb d a) := fits_of rfl (by have := d.isLt; have := a.isLt; unfold packSR; omega)
theorem Fits.sexth (d : SReg) (a : SReg) : Fits.Statement (.sexth d a) := fits_of rfl (by have := d.isLt; have := a.isLt; unfold packSR; omega)
theorem Fits.sextw (d : SReg) (a : SReg) : Fits.Statement (.sextw d a) := fits_of rfl (by have := d.isLt; have := a.isLt; unfold packSR; omega)
theorem Fits.shli (d : SReg) (a : SReg) (n : BitVec 6) : Fits.Statement (.shli d a n) := fits_of rfl (by have := d.isLt; have := a.isLt; have := n.isLt; unfold packSR; omega)
theorem Fits.shri (d : SReg) (a : SReg) (n : BitVec 6) : Fits.Statement (.shri d a n) := fits_of rfl (by have := d.isLt; have := a.isLt; have := n.isLt; unfold packSR; omega)
theorem Fits.srai (d : SReg) (a : SReg) (n : BitVec 6) : Fits.Statement (.srai d a n) := fits_of rfl (by have := d.isLt; have := a.isLt; have := n.isLt; unfold packSR; omega)
theorem Fits.fadd (d : SReg) (a : SReg) (b : SReg) (fmt : FFmt) : Fits.Statement (.fadd d a b fmt) := fits_of rfl (by have := d.isLt; have := a.isLt; have := b.isLt; have := ffmt_code_lt fmt; unfold packSR; omega)
theorem Fits.fsub (d : SReg) (a : SReg) (b : SReg) (fmt : FFmt) : Fits.Statement (.fsub d a b fmt) := fits_of rfl (by have := d.isLt; have := a.isLt; have := b.isLt; have := ffmt_code_lt fmt; unfold packSR; omega)
theorem Fits.fmul (d : SReg) (a : SReg) (b : SReg) (fmt : FFmt) : Fits.Statement (.fmul d a b fmt) := fits_of rfl (by have := d.isLt; have := a.isLt; have := b.isLt; have := ffmt_code_lt fmt; unfold packSR; omega)
theorem Fits.fdiv (d : SReg) (a : SReg) (b : SReg) (fmt : FFmt) : Fits.Statement (.fdiv d a b fmt) := fits_of rfl (by have := d.isLt; have := a.isLt; have := b.isLt; have := ffmt_code_lt fmt; unfold packSR; omega)
theorem Fits.fma (d : SReg) (a : SReg) (b : SReg) (fmt : FFmt) : Fits.Statement (.fma d a b fmt) := fits_of rfl (by have := d.isLt; have := a.isLt; have := b.isLt; have := ffmt_code_lt fmt; unfold packSR; omega)
theorem Fits.fsqrt (d : SReg) (a : SReg) (fmt : FFmt) : Fits.Statement (.fsqrt d a fmt) := fits_of rfl (by have := d.isLt; have := a.isLt; have := ffmt_code_lt fmt; unfold packSR; omega)
theorem Fits.fmin (d : SReg) (a : SReg) (b : SReg) (fmt : FFmt) : Fits.Statement (.fmin d a b fmt) := fits_of rfl (by have := d.isLt; have := a.isLt; have := b.isLt; have := ffmt_code_lt fmt; unfold packSR; omega)
theorem Fits.fmax (d : SReg) (a : SReg) (b : SReg) (fmt : FFmt) : Fits.Statement (.fmax d a b fmt) := fits_of rfl (by have := d.isLt; have := a.isLt; have := b.isLt; have := ffmt_code_lt fmt; unfold packSR; omega)
theorem Fits.fcmp (d : SReg) (a : SReg) (b : SReg) (fmt : FFmt) : Fits.Statement (.fcmp d a b fmt) := fits_of rfl (by have := d.isLt; have := a.isLt; have := b.isLt; have := ffmt_code_lt fmt; unfold packSR; omega)
theorem Fits.fcvtToFloat (d : SReg) (a : SReg) (dst : FFmt) (src : CvtTy) : Fits.Statement (.fcvtToFloat d a dst src) := fits_of rfl (by have := d.isLt; have := a.isLt; have := ffmt_code_lt dst; have := cvtTy_code_lt src; unfold packSR; omega)
theorem Fits.fcvtToInt (d : SReg) (a : SReg) (dst : CvtTy) (src : FFmt) : Fits.Statement (.fcvtToInt d a dst src) := fits_of rfl (by have := d.isLt; have := a.isLt; have := cvtTy_code_lt dst; have := ffmt_code_lt src; unfold packSR; omega)
theorem Fits.jalr (d : SReg) (a : SReg) (off : BitVec 9) : Fits.Statement (.jalr d a off) := fits_of rfl (by have := d.isLt; have := a.isLt; have := off.isLt; unfold packSR; omega)
theorem Fits.addi (d : SReg) (a : SReg) (imm : BitVec 16) : Fits.Statement (.addi d a imm) := fits_of rfl (by have := d.isLt; have := a.isLt; have := imm.isLt; unfold packSI; omega)
theorem Fits.andi (d : SReg) (a : SReg) (imm : BitVec 16) : Fits.Statement (.andi d a imm) := fits_of rfl (by have := d.isLt; have := a.isLt; have := imm.isLt; unfold packSI; omega)
theorem Fits.ori (d : SReg) (a : SReg) (imm : BitVec 16) : Fits.Statement (.ori d a imm) := fits_of rfl (by have := d.isLt; have := a.isLt; have := imm.isLt; unfold packSI; omega)
theorem Fits.xori (d : SReg) (a : SReg) (imm : BitVec 16) : Fits.Statement (.xori d a imm) := fits_of rfl (by have := d.isLt; have := a.isLt; have := imm.isLt; unfold packSI; omega)
theorem Fits.slti (d : SReg) (a : SReg) (imm : BitVec 16) : Fits.Statement (.slti d a imm) := fits_of rfl (by have := d.isLt; have := a.isLt; have := imm.isLt; unfold packSI; omega)
theorem Fits.sltiu (d : SReg) (a : SReg) (imm : BitVec 16) : Fits.Statement (.sltiu d a imm) := fits_of rfl (by have := d.isLt; have := a.isLt; have := imm.isLt; unfold packSI; omega)
theorem Fits.lis (d : SReg) (imm : BitVec 16) (hw : BitVec 2) : Fits.Statement (.lis d imm hw) := fits_of rfl (by have := d.isLt; have := imm.isLt; have := hw.isLt; unfold packSI; omega)
theorem Fits.lih (d : SReg) (imm : BitVec 16) (hw : BitVec 2) : Fits.Statement (.lih d imm hw) := fits_of rfl (by have := d.isLt; have := imm.isLt; have := hw.isLt; unfold packSI; omega)
theorem Fits.jal (d : SReg) (disp : BitVec 21) : Fits.Statement (.jal d disp) := fits_of rfl (by have := d.isLt; have := disp.isLt; unfold packSJ; omega)
theorem Fits.beq (a : SReg) (b : SReg) (disp : BitVec 16) : Fits.Statement (.beq a b disp) := fits_of rfl (by have := a.isLt; have := b.isLt; have := disp.isLt; unfold packSI; omega)
theorem Fits.bne (a : SReg) (b : SReg) (disp : BitVec 16) : Fits.Statement (.bne a b disp) := fits_of rfl (by have := a.isLt; have := b.isLt; have := disp.isLt; unfold packSI; omega)
theorem Fits.blt (a : SReg) (b : SReg) (disp : BitVec 16) : Fits.Statement (.blt a b disp) := fits_of rfl (by have := a.isLt; have := b.isLt; have := disp.isLt; unfold packSI; omega)
theorem Fits.bge (a : SReg) (b : SReg) (disp : BitVec 16) : Fits.Statement (.bge a b disp) := fits_of rfl (by have := a.isLt; have := b.isLt; have := disp.isLt; unfold packSI; omega)
theorem Fits.bltu (a : SReg) (b : SReg) (disp : BitVec 16) : Fits.Statement (.bltu a b disp) := fits_of rfl (by have := a.isLt; have := b.isLt; have := disp.isLt; unfold packSI; omega)
theorem Fits.bgeu (a : SReg) (b : SReg) (disp : BitVec 16) : Fits.Statement (.bgeu a b disp) := fits_of rfl (by have := a.isLt; have := b.isLt; have := disp.isLt; unfold packSI; omega)
theorem Fits.ldb (d : SReg) (a : SReg) (off : BitVec 13) : Fits.Statement (.ldb d a off) := fits_of rfl (by have := d.isLt; have := a.isLt; have := off.isLt; unfold packSI; omega)
theorem Fits.ldbu (d : SReg) (a : SReg) (off : BitVec 13) : Fits.Statement (.ldbu d a off) := fits_of rfl (by have := d.isLt; have := a.isLt; have := off.isLt; unfold packSI; omega)
theorem Fits.ldh (d : SReg) (a : SReg) (off : BitVec 13) : Fits.Statement (.ldh d a off) := fits_of rfl (by have := d.isLt; have := a.isLt; have := off.isLt; unfold packSI; omega)
theorem Fits.ldhu (d : SReg) (a : SReg) (off : BitVec 13) : Fits.Statement (.ldhu d a off) := fits_of rfl (by have := d.isLt; have := a.isLt; have := off.isLt; unfold packSI; omega)
theorem Fits.ldw (d : SReg) (a : SReg) (off : BitVec 13) : Fits.Statement (.ldw d a off) := fits_of rfl (by have := d.isLt; have := a.isLt; have := off.isLt; unfold packSI; omega)
theorem Fits.ldwu (d : SReg) (a : SReg) (off : BitVec 13) : Fits.Statement (.ldwu d a off) := fits_of rfl (by have := d.isLt; have := a.isLt; have := off.isLt; unfold packSI; omega)
theorem Fits.ldd (d : SReg) (a : SReg) (off : BitVec 13) : Fits.Statement (.ldd d a off) := fits_of rfl (by have := d.isLt; have := a.isLt; have := off.isLt; unfold packSI; omega)
theorem Fits.stb (a : SReg) (b : SReg) (off : BitVec 13) : Fits.Statement (.stb a b off) := fits_of rfl (by have := a.isLt; have := b.isLt; have := off.isLt; unfold packSI; omega)
theorem Fits.sth (a : SReg) (b : SReg) (off : BitVec 13) : Fits.Statement (.sth a b off) := fits_of rfl (by have := a.isLt; have := b.isLt; have := off.isLt; unfold packSI; omega)
theorem Fits.stw (a : SReg) (b : SReg) (off : BitVec 13) : Fits.Statement (.stw a b off) := fits_of rfl (by have := a.isLt; have := b.isLt; have := off.isLt; unfold packSI; omega)
theorem Fits.std (a : SReg) (b : SReg) (off : BitVec 13) : Fits.Statement (.std a b off) := fits_of rfl (by have := a.isLt; have := b.isLt; have := off.isLt; unfold packSI; omega)
theorem Fits.amoadd (d : SReg) (a : SReg) (b : SReg) (w64 : Bool) : Fits.Statement (.amoadd d a b w64) := fits_of rfl (by have := d.isLt; have := a.isLt; have := b.isLt; have := b2n_lt w64; unfold packSR; omega)
theorem Fits.amomin (d : SReg) (a : SReg) (b : SReg) (w64 : Bool) (uns : Bool) : Fits.Statement (.amomin d a b w64 uns) := fits_of rfl (by have := d.isLt; have := a.isLt; have := b.isLt; have := b2n_lt w64; have := b2n_lt uns; unfold packSR; omega)
theorem Fits.amomax (d : SReg) (a : SReg) (b : SReg) (w64 : Bool) (uns : Bool) : Fits.Statement (.amomax d a b w64 uns) := fits_of rfl (by have := d.isLt; have := a.isLt; have := b.isLt; have := b2n_lt w64; have := b2n_lt uns; unfold packSR; omega)
theorem Fits.amoand (d : SReg) (a : SReg) (b : SReg) (w64 : Bool) : Fits.Statement (.amoand d a b w64) := fits_of rfl (by have := d.isLt; have := a.isLt; have := b.isLt; have := b2n_lt w64; unfold packSR; omega)
theorem Fits.amoor (d : SReg) (a : SReg) (b : SReg) (w64 : Bool) : Fits.Statement (.amoor d a b w64) := fits_of rfl (by have := d.isLt; have := a.isLt; have := b.isLt; have := b2n_lt w64; unfold packSR; omega)
theorem Fits.amoxor (d : SReg) (a : SReg) (b : SReg) (w64 : Bool) : Fits.Statement (.amoxor d a b w64) := fits_of rfl (by have := d.isLt; have := a.isLt; have := b.isLt; have := b2n_lt w64; unfold packSR; omega)
theorem Fits.amoswap (d : SReg) (a : SReg) (b : SReg) (w64 : Bool) : Fits.Statement (.amoswap d a b w64) := fits_of rfl (by have := d.isLt; have := a.isLt; have := b.isLt; have := b2n_lt w64; unfold packSR; omega)
theorem Fits.amocas (d : SReg) (a : SReg) (b : SReg) (w64 : Bool) : Fits.Statement (.amocas d a b w64) := fits_of rfl (by have := d.isLt; have := a.isLt; have := b.isLt; have := b2n_lt w64; unfold packSR; omega)
theorem Fits.mfc (d : SReg) (cr : BitVec 12) : Fits.Statement (.mfc d cr) := fits_of rfl (by have := d.isLt; have := cr.isLt; unfold packSI; omega)
theorem Fits.mtc (cr : BitVec 12) (a : SReg) : Fits.Statement (.mtc cr a) := fits_of rfl (by have := cr.isLt; have := a.isLt; unfold packSI; omega)
theorem Fits.trap (n : BitVec 12) : Fits.Statement (.trap n) := fits_of rfl (by have := n.isLt; unfold packSI; omega)
theorem Fits.kret : Fits.Statement .kret := fits_of rfl (by unfold packSI; omega)
theorem Fits.exit : Fits.Statement .exit := fits_of rfl (by unfold packSI; omega)
theorem Fits.fsv (scope : Scope) : Fits.Statement (.fsv scope) := fits_of rfl (by have := scope_code_lt scope; unfold packSR; omega)
theorem Fits.fvs (scope : Scope) : Fits.Statement (.fvs scope) := fits_of rfl (by have := scope_code_lt scope; unfold packSR; omega)
theorem Fits.fvv (scope : Scope) : Fits.Statement (.fvv scope) := fits_of rfl (by have := scope_code_lt scope; unfold packSR; omega)
theorem Fits.brk (code : BitVec 7) : Fits.Statement (.brk code) := fits_of rfl (by have := code.isLt; unfold packSI; omega)
theorem Fits.brkAny (code : BitVec 7) (m : MReg) : Fits.Statement (.brkAny code m) := fits_of rfl (by have := code.isLt; have := m.isLt; unfold packSI; omega)
theorem Fits.brkAll (code : BitVec 7) (m : MReg) : Fits.Statement (.brkAll code m) := fits_of rfl (by have := code.isLt; have := m.isLt; unfold packSI; omega)
theorem Fits.pcaps (a : SReg) : Fits.Statement (.pcaps a) := fits_of rfl (by have := a.isLt; unfold packSI; omega)
theorem Fits.pcape : Fits.Statement .pcape := fits_of rfl (by unfold packSI; omega)
theorem Fits.vadd (vd : VName) (va : VName) (vb : VName) (sm : BitVec 2) : Fits.Statement (.vadd vd va vb sm) := fits_of rfl (by have := vd.isLt; have := va.isLt; have := vb.isLt; have := sm.isLt; unfold packVR; omega)
theorem Fits.vsub (vd : VName) (va : VName) (vb : VName) (sm : BitVec 2) : Fits.Statement (.vsub vd va vb sm) := fits_of rfl (by have := vd.isLt; have := va.isLt; have := vb.isLt; have := sm.isLt; unfold packVR; omega)
theorem Fits.vmul (vd : VName) (va : VName) (vb : VName) (sm : BitVec 2) : Fits.Statement (.vmul vd va vb sm) := fits_of rfl (by have := vd.isLt; have := va.isLt; have := vb.isLt; have := sm.isLt; unfold packVR; omega)
theorem Fits.vmulh (vd : VName) (va : VName) (vb : VName) (sm : BitVec 2) : Fits.Statement (.vmulh vd va vb sm) := fits_of rfl (by have := vd.isLt; have := va.isLt; have := vb.isLt; have := sm.isLt; unfold packVR; omega)
theorem Fits.vmin (vd : VName) (va : VName) (vb : VName) (sm : BitVec 2) : Fits.Statement (.vmin vd va vb sm) := fits_of rfl (by have := vd.isLt; have := va.isLt; have := vb.isLt; have := sm.isLt; unfold packVR; omega)
theorem Fits.vmax (vd : VName) (va : VName) (vb : VName) (sm : BitVec 2) : Fits.Statement (.vmax vd va vb sm) := fits_of rfl (by have := vd.isLt; have := va.isLt; have := vb.isLt; have := sm.isLt; unfold packVR; omega)
theorem Fits.vminu (vd : VName) (va : VName) (vb : VName) (sm : BitVec 2) : Fits.Statement (.vminu vd va vb sm) := fits_of rfl (by have := vd.isLt; have := va.isLt; have := vb.isLt; have := sm.isLt; unfold packVR; omega)
theorem Fits.vmaxu (vd : VName) (va : VName) (vb : VName) (sm : BitVec 2) : Fits.Statement (.vmaxu vd va vb sm) := fits_of rfl (by have := vd.isLt; have := va.isLt; have := vb.isLt; have := sm.isLt; unfold packVR; omega)
theorem Fits.vand (vd : VName) (va : VName) (vb : VName) (sm : BitVec 2) : Fits.Statement (.vand vd va vb sm) := fits_of rfl (by have := vd.isLt; have := va.isLt; have := vb.isLt; have := sm.isLt; unfold packVR; omega)
theorem Fits.vor (vd : VName) (va : VName) (vb : VName) (sm : BitVec 2) : Fits.Statement (.vor vd va vb sm) := fits_of rfl (by have := vd.isLt; have := va.isLt; have := vb.isLt; have := sm.isLt; unfold packVR; omega)
theorem Fits.vxor (vd : VName) (va : VName) (vb : VName) (sm : BitVec 2) : Fits.Statement (.vxor vd va vb sm) := fits_of rfl (by have := vd.isLt; have := va.isLt; have := vb.isLt; have := sm.isLt; unfold packVR; omega)
theorem Fits.vshl (vd : VName) (va : VName) (vb : VName) (sm : BitVec 2) : Fits.Statement (.vshl vd va vb sm) := fits_of rfl (by have := vd.isLt; have := va.isLt; have := vb.isLt; have := sm.isLt; unfold packVR; omega)
theorem Fits.vshr (vd : VName) (va : VName) (vb : VName) (sm : BitVec 2) : Fits.Statement (.vshr vd va vb sm) := fits_of rfl (by have := vd.isLt; have := va.isLt; have := vb.isLt; have := sm.isLt; unfold packVR; omega)
theorem Fits.vsra (vd : VName) (va : VName) (vb : VName) (sm : BitVec 2) : Fits.Statement (.vsra vd va vb sm) := fits_of rfl (by have := vd.isLt; have := va.isLt; have := vb.isLt; have := sm.isLt; unfold packVR; omega)
theorem Fits.vsadd (vd : VName) (va : VName) (vb : VName) (sm : BitVec 2) : Fits.Statement (.vsadd vd va vb sm) := fits_of rfl (by have := vd.isLt; have := va.isLt; have := vb.isLt; have := sm.isLt; unfold packVR; omega)
theorem Fits.vssub (vd : VName) (va : VName) (vb : VName) (sm : BitVec 2) : Fits.Statement (.vssub vd va vb sm) := fits_of rfl (by have := vd.isLt; have := va.isLt; have := vb.isLt; have := sm.isLt; unfold packVR; omega)
theorem Fits.vmerge (vd : VName) (va : VName) (vb : VName) (sm : BitVec 2) : Fits.Statement (.vmerge vd va vb sm) := fits_of rfl (by have := vd.isLt; have := va.isLt; have := vb.isLt; have := sm.isLt; unfold packVR; omega)
theorem Fits.vmv (vd : VName) (va : VName) : Fits.Statement (.vmv vd va) := fits_of rfl (by have := vd.isLt; have := va.isLt; unfold packVR; omega)
theorem Fits.vsaddU (vd : VName) (va : VName) (vb : VName) (sm : BitVec 2) : Fits.Statement (.vsaddU vd va vb sm) := fits_of rfl (by have := vd.isLt; have := va.isLt; have := vb.isLt; have := sm.isLt; unfold packVR; omega)
theorem Fits.vssubU (vd : VName) (va : VName) (vb : VName) (sm : BitVec 2) : Fits.Statement (.vssubU vd va vb sm) := fits_of rfl (by have := vd.isLt; have := va.isLt; have := vb.isLt; have := sm.isLt; unfold packVR; omega)
theorem Fits.vsplat (vd : VName) (b : SReg) : Fits.Statement (.vsplat vd b) := fits_of rfl (by have := vd.isLt; have := b.isLt; unfold packVS; omega)
theorem Fits.vmvsx (vd : VName) (b : SReg) : Fits.Statement (.vmvsx vd b) := fits_of rfl (by have := vd.isLt; have := b.isLt; unfold packVS; omega)
theorem Fits.vmvxs (b : SReg) (va : VName) : Fits.Statement (.vmvxs b va) := fits_of rfl (by have := b.isLt; have := va.isLt; unfold packVS; omega)
theorem Fits.mset (md : MReg) (b : SReg) : Fits.Statement (.mset md b) := fits_of rfl (by have := md.isLt; have := b.isLt; unfold packVS; omega)
theorem Fits.vslideupImm (vd : VName) (va : VName) (n : BitVec 8) : Fits.Statement (.vslideupImm vd va n) := fits_of rfl (by have := vd.isLt; have := va.isLt; have := n.isLt; unfold packVI; omega)
theorem Fits.vslidednImm (vd : VName) (va : VName) (n : BitVec 8) : Fits.Statement (.vslidednImm vd va n) := fits_of rfl (by have := vd.isLt; have := va.isLt; have := n.isLt; unfold packVI; omega)
theorem Fits.vshlImm (vd : VName) (va : VName) (n : BitVec 8) : Fits.Statement (.vshlImm vd va n) := fits_of rfl (by have := vd.isLt; have := va.isLt; have := n.isLt; unfold packVI; omega)
theorem Fits.vshrImm (vd : VName) (va : VName) (n : BitVec 8) : Fits.Statement (.vshrImm vd va n) := fits_of rfl (by have := vd.isLt; have := va.isLt; have := n.isLt; unfold packVI; omega)
theorem Fits.vsraImm (vd : VName) (va : VName) (n : BitVec 8) : Fits.Statement (.vsraImm vd va n) := fits_of rfl (by have := vd.isLt; have := va.isLt; have := n.isLt; unfold packVI; omega)
theorem Fits.vsplatImm (vd : VName) (n : BitVec 8) : Fits.Statement (.vsplatImm vd n) := fits_of rfl (by have := vd.isLt; have := n.isLt; unfold packVI; omega)
theorem Fits.vcmpEq (md : MReg) (va : VName) (vb : VName) (sm : BitVec 2) : Fits.Statement (.vcmpEq md va vb sm) := fits_of rfl (by have := md.isLt; have := va.isLt; have := vb.isLt; have := sm.isLt; unfold packVR; omega)
theorem Fits.vcmpNe (md : MReg) (va : VName) (vb : VName) (sm : BitVec 2) : Fits.Statement (.vcmpNe md va vb sm) := fits_of rfl (by have := md.isLt; have := va.isLt; have := vb.isLt; have := sm.isLt; unfold packVR; omega)
theorem Fits.vcmpLt (md : MReg) (va : VName) (vb : VName) (sm : BitVec 2) : Fits.Statement (.vcmpLt md va vb sm) := fits_of rfl (by have := md.isLt; have := va.isLt; have := vb.isLt; have := sm.isLt; unfold packVR; omega)
theorem Fits.vcmpGe (md : MReg) (va : VName) (vb : VName) (sm : BitVec 2) : Fits.Statement (.vcmpGe md va vb sm) := fits_of rfl (by have := md.isLt; have := va.isLt; have := vb.isLt; have := sm.isLt; unfold packVR; omega)
theorem Fits.vcmpLtu (md : MReg) (va : VName) (vb : VName) (sm : BitVec 2) : Fits.Statement (.vcmpLtu md va vb sm) := fits_of rfl (by have := md.isLt; have := va.isLt; have := vb.isLt; have := sm.isLt; unfold packVR; omega)
theorem Fits.vcmpGeu (md : MReg) (va : VName) (vb : VName) (sm : BitVec 2) : Fits.Statement (.vcmpGeu md va vb sm) := fits_of rfl (by have := md.isLt; have := va.isLt; have := vb.isLt; have := sm.isLt; unfold packVR; omega)
theorem Fits.mand (md : MReg) (ma : MReg) (mb : MReg) : Fits.Statement (.mand md ma mb) := fits_of rfl (by have := md.isLt; have := ma.isLt; have := mb.isLt; unfold packVR; omega)
theorem Fits.mor (md : MReg) (ma : MReg) (mb : MReg) : Fits.Statement (.mor md ma mb) := fits_of rfl (by have := md.isLt; have := ma.isLt; have := mb.isLt; unfold packVR; omega)
theorem Fits.mxor (md : MReg) (ma : MReg) (mb : MReg) : Fits.Statement (.mxor md ma mb) := fits_of rfl (by have := md.isLt; have := ma.isLt; have := mb.isLt; unfold packVR; omega)
theorem Fits.mnot (md : MReg) (ma : MReg) : Fits.Statement (.mnot md ma) := fits_of rfl (by have := md.isLt; have := ma.isLt; unfold packVR; omega)
theorem Fits.mpopc (d : SReg) (ma : MReg) : Fits.Statement (.mpopc d ma) := fits_of rfl (by have := d.isLt; have := ma.isLt; unfold packVR; omega)
theorem Fits.mfirst (d : SReg) (ma : MReg) : Fits.Statement (.mfirst d ma) := fits_of rfl (by have := d.isLt; have := ma.isLt; unfold packVR; omega)
theorem Fits.vfadd (vd : VName) (va : VName) (vb : VName) (sm : BitVec 2) (bf : Bool) : Fits.Statement (.vfadd vd va vb sm bf) := fits_of rfl (by have := vd.isLt; have := va.isLt; have := vb.isLt; have := sm.isLt; have := b2n_lt bf; unfold packVR; omega)
theorem Fits.vfsub (vd : VName) (va : VName) (vb : VName) (sm : BitVec 2) (bf : Bool) : Fits.Statement (.vfsub vd va vb sm bf) := fits_of rfl (by have := vd.isLt; have := va.isLt; have := vb.isLt; have := sm.isLt; have := b2n_lt bf; unfold packVR; omega)
theorem Fits.vfmul (vd : VName) (va : VName) (vb : VName) (sm : BitVec 2) (bf : Bool) : Fits.Statement (.vfmul vd va vb sm bf) := fits_of rfl (by have := vd.isLt; have := va.isLt; have := vb.isLt; have := sm.isLt; have := b2n_lt bf; unfold packVR; omega)
theorem Fits.vfma (vd : VName) (va : VName) (vb : VName) (sm : BitVec 2) (bf : Bool) : Fits.Statement (.vfma vd va vb sm bf) := fits_of rfl (by have := vd.isLt; have := va.isLt; have := vb.isLt; have := sm.isLt; have := b2n_lt bf; unfold packVR; omega)
theorem Fits.vfms (vd : VName) (va : VName) (vb : VName) (sm : BitVec 2) (bf : Bool) : Fits.Statement (.vfms vd va vb sm bf) := fits_of rfl (by have := vd.isLt; have := va.isLt; have := vb.isLt; have := sm.isLt; have := b2n_lt bf; unfold packVR; omega)
theorem Fits.vfnma (vd : VName) (va : VName) (vb : VName) (sm : BitVec 2) (bf : Bool) : Fits.Statement (.vfnma vd va vb sm bf) := fits_of rfl (by have := vd.isLt; have := va.isLt; have := vb.isLt; have := sm.isLt; have := b2n_lt bf; unfold packVR; omega)
theorem Fits.vfdiv (vd : VName) (va : VName) (vb : VName) (sm : BitVec 2) (bf : Bool) : Fits.Statement (.vfdiv vd va vb sm bf) := fits_of rfl (by have := vd.isLt; have := va.isLt; have := vb.isLt; have := sm.isLt; have := b2n_lt bf; unfold packVR; omega)
theorem Fits.vfsqrt (vd : VName) (va : VName) (bf : Bool) : Fits.Statement (.vfsqrt vd va bf) := fits_of rfl (by have := vd.isLt; have := va.isLt; have := b2n_lt bf; unfold packVR; omega)
theorem Fits.vfrcp (vd : VName) (va : VName) (bf : Bool) : Fits.Statement (.vfrcp vd va bf) := fits_of rfl (by have := vd.isLt; have := va.isLt; have := b2n_lt bf; unfold packVR; omega)
theorem Fits.vfrsq (vd : VName) (va : VName) (bf : Bool) : Fits.Statement (.vfrsq vd va bf) := fits_of rfl (by have := vd.isLt; have := va.isLt; have := b2n_lt bf; unfold packVR; omega)
theorem Fits.vfmin (vd : VName) (va : VName) (vb : VName) (sm : BitVec 2) (bf : Bool) : Fits.Statement (.vfmin vd va vb sm bf) := fits_of rfl (by have := vd.isLt; have := va.isLt; have := vb.isLt; have := sm.isLt; have := b2n_lt bf; unfold packVR; omega)
theorem Fits.vfmax (vd : VName) (va : VName) (vb : VName) (sm : BitVec 2) (bf : Bool) : Fits.Statement (.vfmax vd va vb sm bf) := fits_of rfl (by have := vd.isLt; have := va.isLt; have := vb.isLt; have := sm.isLt; have := b2n_lt bf; unfold packVR; omega)
theorem Fits.vfabs (vd : VName) (va : VName) (bf : Bool) : Fits.Statement (.vfabs vd va bf) := fits_of rfl (by have := vd.isLt; have := va.isLt; have := b2n_lt bf; unfold packVR; omega)
theorem Fits.vfneg (vd : VName) (va : VName) (bf : Bool) : Fits.Statement (.vfneg vd va bf) := fits_of rfl (by have := vd.isLt; have := va.isLt; have := b2n_lt bf; unfold packVR; omega)
theorem Fits.vfexp2 (vd : VName) (va : VName) (bf : Bool) : Fits.Statement (.vfexp2 vd va bf) := fits_of rfl (by have := vd.isLt; have := va.isLt; have := b2n_lt bf; unfold packVR; omega)
theorem Fits.vflog2 (vd : VName) (va : VName) (bf : Bool) : Fits.Statement (.vflog2 vd va bf) := fits_of rfl (by have := vd.isLt; have := va.isLt; have := b2n_lt bf; unfold packVR; omega)
theorem Fits.vfclass (vd : VName) (va : VName) (bf : Bool) : Fits.Statement (.vfclass vd va bf) := fits_of rfl (by have := vd.isLt; have := va.isLt; have := b2n_lt bf; unfold packVR; omega)
theorem Fits.vfcmpEq (md : MReg) (va : VName) (vb : VName) (sm : BitVec 2) (bf : Bool) : Fits.Statement (.vfcmpEq md va vb sm bf) := fits_of rfl (by have := md.isLt; have := va.isLt; have := vb.isLt; have := sm.isLt; have := b2n_lt bf; unfold packVR; omega)
theorem Fits.vfcmpLt (md : MReg) (va : VName) (vb : VName) (sm : BitVec 2) (bf : Bool) : Fits.Statement (.vfcmpLt md va vb sm bf) := fits_of rfl (by have := md.isLt; have := va.isLt; have := vb.isLt; have := sm.isLt; have := b2n_lt bf; unfold packVR; omega)
theorem Fits.vfcmpLe (md : MReg) (va : VName) (vb : VName) (sm : BitVec 2) (bf : Bool) : Fits.Statement (.vfcmpLe md va vb sm bf) := fits_of rfl (by have := md.isLt; have := va.isLt; have := vb.isLt; have := sm.isLt; have := b2n_lt bf; unfold packVR; omega)
theorem Fits.vfcmpUn (md : MReg) (va : VName) (vb : VName) (sm : BitVec 2) (bf : Bool) : Fits.Statement (.vfcmpUn md va vb sm bf) := fits_of rfl (by have := md.isLt; have := va.isLt; have := vb.isLt; have := sm.isLt; have := b2n_lt bf; unfold packVR; omega)
theorem Fits.vcvt (vd : VName) (va : VName) (dst : BitVec 6) (src : BitVec 6) : Fits.Statement (.vcvt vd va dst src) := fits_of rfl (by have := vd.isLt; have := va.isLt; have := dst.isLt; have := src.isLt; unfold packVR; omega)
theorem Fits.vnarrow (vd : VName) (va : VName) (n : Slot) (src : BitVec 6) : Fits.Statement (.vnarrow vd va n src) := fits_of rfl (by have := vd.isLt; have := va.isLt; have := n.isLt; have := src.isLt; unfold packVR; omega)
theorem Fits.vwiden (vd : VName) (va : VName) (dst : BitVec 6) (n : Slot) : Fits.Statement (.vwiden vd va dst n) := fits_of rfl (by have := vd.isLt; have := va.isLt; have := dst.isLt; have := n.isLt; unfold packVR; omega)
theorem Fits.vsplitb (vd : VName) (va : VName) (n : Slot) : Fits.Statement (.vsplitb vd va n) := fits_of rfl (by have := vd.isLt; have := va.isLt; have := n.isLt; unfold packVR; omega)
theorem Fits.vjoinb (vd : VName) (va : VName) (n : Slot) : Fits.Statement (.vjoinb vd va n) := fits_of rfl (by have := vd.isLt; have := va.isLt; have := n.isLt; unfold packVR; omega)
theorem Fits.vscaleb (vd : VName) (va : VName) (n : Slot) : Fits.Statement (.vscaleb vd va n) := fits_of rfl (by have := vd.isLt; have := va.isLt; have := n.isLt; unfold packVR; omega)
theorem Fits.vperm (vd : VName) (va : VName) (vb : VName) : Fits.Statement (.vperm vd va vb) := fits_of rfl (by have := vd.isLt; have := va.isLt; have := vb.isLt; unfold packVR; omega)
theorem Fits.vcompress (vd : VName) (va : VName) : Fits.Statement (.vcompress vd va) := fits_of rfl (by have := vd.isLt; have := va.isLt; unfold packVR; omega)
theorem Fits.vexpand (vd : VName) (va : VName) : Fits.Statement (.vexpand vd va) := fits_of rfl (by have := vd.isLt; have := va.isLt; unfold packVR; omega)
theorem Fits.vredsum (vd : VName) (va : VName) (ty : BitVec 2) : Fits.Statement (.vredsum vd va ty) := fits_of rfl (by have := vd.isLt; have := va.isLt; have := ty.isLt; unfold packVR; omega)
theorem Fits.vredmax (vd : VName) (va : VName) (ty : BitVec 2) : Fits.Statement (.vredmax vd va ty) := fits_of rfl (by have := vd.isLt; have := va.isLt; have := ty.isLt; unfold packVR; omega)
theorem Fits.vredmin (vd : VName) (va : VName) (ty : BitVec 2) : Fits.Statement (.vredmin vd va ty) := fits_of rfl (by have := vd.isLt; have := va.isLt; have := ty.isLt; unfold packVR; omega)
theorem Fits.vscan (vd : VName) (va : VName) (ty : BitVec 2) : Fits.Statement (.vscan vd va ty) := fits_of rfl (by have := vd.isLt; have := va.isLt; have := ty.isLt; unfold packVR; omega)
theorem Fits.vslideup (vd : VName) (va : VName) (b : SReg) : Fits.Statement (.vslideup vd va b) := fits_of rfl (by have := vd.isLt; have := va.isLt; have := b.isLt; unfold packVS; omega)
theorem Fits.vslidedn (vd : VName) (va : VName) (b : SReg) : Fits.Statement (.vslidedn vd va b) := fits_of rfl (by have := vd.isLt; have := va.isLt; have := b.isLt; unfold packVS; omega)
theorem Fits.vbcast (vd : VName) (va : VName) (b : SReg) : Fits.Statement (.vbcast vd va b) := fits_of rfl (by have := vd.isLt; have := va.isLt; have := b.isLt; unfold packVS; omega)
theorem Fits.vtopk (vd : VName) (va : VName) (b : SReg) (ty : BitVec 2) : Fits.Statement (.vtopk vd va b ty) := fits_of rfl (by have := vd.isLt; have := va.isLt; have := b.isLt; have := ty.isLt; unfold packVS; omega)
theorem Fits.vhist (vd : VName) (va : VName) (b : SReg) : Fits.Statement (.vhist vd va b) := fits_of rfl (by have := vd.isLt; have := va.isLt; have := b.isLt; unfold packVS; omega)
theorem Fits.carve (vd : VName) (b : SReg) : Fits.Statement (.carve vd b) := fits_of rfl (by have := vd.isLt; have := b.isLt; unfold packVS; omega)
theorem Fits.carveq (vd : VName) (va : VName) (b : SReg) : Fits.Statement (.carveq vd va b) := fits_of rfl (by have := vd.isLt; have := va.isLt; have := b.isLt; unfold packVS; omega)
theorem Fits.uncarve (vd : VName) : Fits.Statement (.uncarve vd) := fits_of rfl (by have := vd.isLt; unfold packVS; omega)
theorem Fits.plzero (vd : VName) : Fits.Statement (.plzero vd) := fits_of rfl (by have := vd.isLt; unfold packVS; omega)
theorem Fits.plsave (vd : VName) (b : SReg) : Fits.Statement (.plsave vd b) := fits_of rfl (by have := vd.isLt; have := b.isLt; unfold packVS; omega)
theorem Fits.plload (vd : VName) (b : SReg) : Fits.Statement (.plload vd b) := fits_of rfl (by have := vd.isLt; have := b.isLt; unfold packVS; omega)
theorem Fits.setvl (vd : VName) (b : SReg) : Fits.Statement (.setvl vd b) := fits_of rfl (by have := vd.isLt; have := b.isLt; unfold packVS; omega)
theorem Fits.lpreq (b : SReg) : Fits.Statement (.lpreq b) := fits_of rfl (by have := b.isLt; unfold packVS; omega)
theorem Fits.setvli (vd : VName) (n : BitVec 8) : Fits.Statement (.setvli vd n) := fits_of rfl (by have := vd.isLt; have := n.isLt; unfold packVI; omega)
theorem Fits.retag (vd : VName) (tag : BitVec 8) : Fits.Statement (.retag vd tag) := fits_of rfl (by have := vd.isLt; have := tag.isLt; unfold packVI; omega)
theorem Fits.mma (va : VName) (vb : VName) (f : BitVec 4) : Fits.Statement (.mma va vb f) := fits_of rfl (by have := va.isLt; have := vb.isLt; have := f.isLt; unfold packMX; omega)
theorem Fits.mman (va : VName) (vb : VName) (n : Slot) : Fits.Statement (.mman va vb n) := fits_of rfl (by have := va.isLt; have := vb.isLt; have := n.isLt; unfold packMX; omega)
theorem Fits.mmas (va : VName) (vb : VName) (vc : VName) (n : Slot) : Fits.Statement (.mmas va vb vc n) := fits_of rfl (by have := va.isLt; have := vb.isLt; have := vc.isLt; have := n.isLt; unfold packMX; omega)
theorem Fits.mzero : Fits.Statement .mzero := fits_of rfl (by unfold packMX; omega)
theorem Fits.mrd (va : VName) (b : SReg) (f : BitVec 4) : Fits.Statement (.mrd va b f) := fits_of rfl (by have := va.isLt; have := b.isLt; have := f.isLt; unfold packMX; omega)
theorem Fits.mwr (va : VName) (b : SReg) (f : BitVec 4) : Fits.Statement (.mwr va b f) := fits_of rfl (by have := va.isLt; have := b.isLt; have := f.isLt; unfold packMX; omega)
theorem Fits.mwait : Fits.Statement .mwait := fits_of rfl (by unfold packMX; omega)
theorem Fits.vld (vd : VName) (a : SReg) : Fits.Statement (.vld vd a) := fits_of rfl (by have := vd.isLt; have := a.isLt; unfold packVM; omega)
theorem Fits.vst (vd : VName) (a : SReg) : Fits.Statement (.vst vd a) := fits_of rfl (by have := vd.isLt; have := a.isLt; unfold packVM; omega)
theorem Fits.vlds (vd : VName) (a : SReg) : Fits.Statement (.vlds vd a) := fits_of rfl (by have := vd.isLt; have := a.isLt; unfold packVM; omega)
theorem Fits.vsts (vd : VName) (a : SReg) : Fits.Statement (.vsts vd a) := fits_of rfl (by have := vd.isLt; have := a.isLt; unfold packVM; omega)
theorem Fits.vldx (vd : VName) (a : SReg) (vx : VName) : Fits.Statement (.vldx vd a vx) := fits_of rfl (by have := vd.isLt; have := a.isLt; have := vx.isLt; unfold packVM; omega)
theorem Fits.vstx (vd : VName) (a : SReg) (vx : VName) : Fits.Statement (.vstx vd a vx) := fits_of rfl (by have := vd.isLt; have := a.isLt; have := vx.isLt; unfold packVM; omega)
theorem Fits.vscadd (vd : VName) (a : SReg) (vx : VName) (ty : BitVec 5) : Fits.Statement (.vscadd vd a vx ty) := fits_of rfl (by have := vd.isLt; have := a.isLt; have := vx.isLt; have := ty.isLt; unfold packVM; omega)
theorem Fits.vldz (vd : VName) (a : SReg) (vx : VName) : Fits.Statement (.vldz vd a vx) := fits_of rfl (by have := vd.isLt; have := a.isLt; have := vx.isLt; unfold packVM; omega)
theorem Fits.vstz (vd : VName) (a : SReg) (vx : VName) : Fits.Statement (.vstz vd a vx) := fits_of rfl (by have := vd.isLt; have := a.isLt; have := vx.isLt; unfold packVM; omega)
theorem Fits.vstpair (vd : VName) (a : SReg) (vx : VName) : Fits.Statement (.vstpair vd a vx) := fits_of rfl (by have := vd.isLt; have := a.isLt; have := vx.isLt; unfold packVM; omega)
theorem Fits.vldw (vd : VName) (a : SReg) (vx : VName) : Fits.Statement (.vldw vd a vx) := fits_of rfl (by have := vd.isLt; have := a.isLt; have := vx.isLt; unfold packVM; omega)
theorem Fits.sbind (vd : VName) (a : SReg) (vx : VName) (store : Bool) : Fits.Statement (.sbind vd a vx store) := fits_of rfl (by have := vd.isLt; have := a.isLt; have := vx.isLt; have := b2n_lt store; unfold packVM; omega)
theorem Fits.sunbind (vd : VName) : Fits.Statement (.sunbind vd) := fits_of rfl (by have := vd.isLt; unfold packVM; omega)
theorem Fits.agld (vd : VName) (a : SReg) (aw32 : Bool) : Fits.Statement (.agld vd a aw32) := fits_of rfl (by have := vd.isLt; have := a.isLt; have := b2n_lt aw32; unfold packVM; omega)
theorem Fits.agst (vd : VName) (a : SReg) (aw32 : Bool) : Fits.Statement (.agst vd a aw32) := fits_of rfl (by have := vd.isLt; have := a.isLt; have := b2n_lt aw32; unfold packVM; omega)
theorem Fits.agadd (vd : VName) (a : SReg) (aw32 : Bool) : Fits.Statement (.agadd vd a aw32) := fits_of rfl (by have := vd.isLt; have := a.isLt; have := b2n_lt aw32; unfold packVM; omega)
theorem Fits.agmerge (vd : VName) (a : SReg) (aw32 : Bool) : Fits.Statement (.agmerge vd a aw32) := fits_of rfl (by have := vd.isLt; have := a.isLt; have := b2n_lt aw32; unfold packVM; omega)
theorem Fits.xcopy (a : SReg) (b : SReg) (c : SReg) (ord : Bool) : Fits.Statement (.xcopy a b c ord) := fits_of rfl (by have := a.isLt; have := b.isLt; have := c.isLt; have := b2n_lt ord; unfold packSR; omega)
theorem Fits.xgath (a : SReg) (b : SReg) (c : SReg) (vn : VName) (ord : Bool) : Fits.Statement (.xgath a b c vn ord) := fits_of rfl (by have := a.isLt; have := b.isLt; have := c.isLt; have := vn.isLt; have := b2n_lt ord; unfold packSR; omega)
theorem Fits.xfill (a : SReg) (b : SReg) (c : SReg) (ord : Bool) : Fits.Statement (.xfill a b c ord) := fits_of rfl (by have := a.isLt; have := b.isLt; have := c.isLt; have := b2n_lt ord; unfold packSR; omega)
theorem Fits.xquery (a : SReg) (b : SReg) : Fits.Statement (.xquery a b) := fits_of rfl (by have := a.isLt; have := b.isLt; unfold packSR; omega)
theorem Fits.xcancel (a : SReg) : Fits.Statement (.xcancel a) := fits_of rfl (by have := a.isLt; unfold packSR; omega)
theorem Fits.waitw (a : SReg) (b : SReg) (c : SReg) : Fits.Statement (.waitw a b c) := fits_of rfl (by have := a.isLt; have := b.isLt; have := c.isLt; unfold packSR; omega)
theorem Fits.take (a : SReg) (b : SReg) (c : SReg) : Fits.Statement (.take a b c) := fits_of rfl (by have := a.isLt; have := b.isLt; have := c.isLt; unfold packSR; omega)
theorem Fits.tenq (a : SReg) (b : SReg) (c : SReg) : Fits.Statement (.tenq a b c) := fits_of rfl (by have := a.isLt; have := b.isLt; have := c.isLt; unfold packSR; omega)
theorem Fits.tdone (a : SReg) (b : SReg) : Fits.Statement (.tdone a b) := fits_of rfl (by have := a.isLt; have := b.isLt; unfold packSR; omega)
theorem Fits.tcancel (a : SReg) (b : SReg) : Fits.Statement (.tcancel a b) := fits_of rfl (by have := a.isLt; have := b.isLt; unfold packSR; omega)
theorem Fits.claim (a : SReg) (b : SReg) (c : SReg) : Fits.Statement (.claim a b c) := fits_of rfl (by have := a.isLt; have := b.isLt; have := c.isLt; unfold packSR; omega)
theorem Fits.claimp (a : SReg) (b : SReg) (c : SReg) : Fits.Statement (.claimp a b c) := fits_of rfl (by have := a.isLt; have := b.isLt; have := c.isLt; unfold packSR; omega)
theorem Fits.agsweep (a : SReg) (b : SReg) (c : SReg) (ord : Bool) : Fits.Statement (.agsweep a b c ord) := fits_of rfl (by have := a.isLt; have := b.isLt; have := c.isLt; have := b2n_lt ord; unfold packSR; omega)
theorem Fits.step (a : SReg) : Fits.Statement (.step a) := fits_of rfl (by have := a.isLt; unfold packSR; omega)
theorem Fits.unorm (a : SReg) (b : SReg) (c : SReg) (ord : Bool) : Fits.Statement (.unorm a b c ord) := fits_of rfl (by have := a.isLt; have := b.isLt; have := c.isLt; have := b2n_lt ord; unfold packSR; omega)
theorem Fits.uapply (a : SReg) (b : SReg) (c : SReg) (ord : Bool) : Fits.Statement (.uapply a b c ord) := fits_of rfl (by have := a.isLt; have := b.isLt; have := c.isLt; have := b2n_lt ord; unfold packSR; omega)
theorem Fits.rsbegin (a : SReg) (b : SReg) : Fits.Statement (.rsbegin a b) := fits_of rfl (by have := a.isLt; have := b.isLt; unfold packSR; omega)
theorem Fits.rsnext (a : SReg) (b : SReg) : Fits.Statement (.rsnext a b) := fits_of rfl (by have := a.isLt; have := b.isLt; unfold packSR; omega)
theorem Fits.rsvisit (a : SReg) (b : SReg) (c : SReg) : Fits.Statement (.rsvisit a b c) := fits_of rfl (by have := a.isLt; have := b.isLt; have := c.isLt; unfold packSR; omega)
theorem Fits.rsread (a : SReg) (b : SReg) : Fits.Statement (.rsread a b) := fits_of rfl (by have := a.isLt; have := b.isLt; unfold packSR; omega)
theorem Fits.rsend (a : SReg) (b : SReg) : Fits.Statement (.rsend a b) := fits_of rfl (by have := a.isLt; have := b.isLt; unfold packSR; omega)
theorem Fits.cxred (a : SReg) (b : SReg) (c : SReg) (cup : Bool) : Fits.Statement (.cxred a b c cup) := fits_of rfl (by have := a.isLt; have := b.isLt; have := c.isLt; have := b2n_lt cup; unfold packSR; omega)
theorem Fits.cxgath (a : SReg) (b : SReg) (c : SReg) : Fits.Statement (.cxgath a b c) := fits_of rfl (by have := a.isLt; have := b.isLt; have := c.isLt; unfold packSR; omega)
theorem Fits.cxa2a (a : SReg) (b : SReg) (c : SReg) : Fits.Statement (.cxa2a a b c) := fits_of rfl (by have := a.isLt; have := b.isLt; have := c.isLt; unfold packSR; omega)
theorem Fits.cxbar (a : SReg) (b : SReg) (c : SReg) : Fits.Statement (.cxbar a b c) := fits_of rfl (by have := a.isLt; have := b.isLt; have := c.isLt; unfold packSR; omega)
theorem Fits.cupclr (n : BitVec 2) : Fits.Statement (.cupclr n) := fits_of rfl (by have := n.isLt; unfold packSR; omega)
theorem Fits.cupadd (n : BitVec 2) (a : SReg) (b : SReg) : Fits.Statement (.cupadd n a b) := fits_of rfl (by have := n.isLt; have := a.isLt; have := b.isLt; unfold packSR; omega)
theorem Fits.illegalWord (w : BitVec 32) : Fits.Statement (.illegalWord w) := fits_none rfl
theorem Fits.instructionIssue (f : Nat) (k : Nat) (n : Nat) : Fits.Statement (.instructionIssue f k n) := fits_none rfl
theorem Fits.trapEntry (f : Nat) : Fits.Statement (.trapEntry f) := fits_none rfl
theorem Fits.singleStepStop (f : Nat) : Fits.Statement (.singleStepStop f) := fits_none rfl
theorem Fits.watchdog (f : Nat) : Fits.Statement (.watchdog f) := fits_none rfl
theorem Fits.pageWalk (die : Nat) : Fits.Statement (.pageWalk die) := fits_none rfl
theorem Fits.streamFill (f : Nat) (i : Nat) : Fits.Statement (.streamFill f i) := fits_none rfl
theorem Fits.jobRelease (f : Nat) (h : Nat) : Fits.Statement (.jobRelease f h) := fits_none rfl
theorem Fits.jobEnd (f : Nat) (h : Nat) : Fits.Statement (.jobEnd f h) := fits_none rfl
theorem Fits.collectiveCallEnd (gid : Nat) : Fits.Statement (.collectiveCallEnd gid) := fits_none rfl
theorem Fits.waitwMonitorFire (f : Nat) : Fits.Statement (.waitwMonitorFire f) := fits_none rfl
theorem Fits.waitwTimeout (f : Nat) : Fits.Statement (.waitwTimeout f) := fits_none rfl
theorem Fits.takeWake (f : Nat) : Fits.Statement (.takeWake f) := fits_none rfl
theorem Fits.laneTake (f : Nat) : Fits.Statement (.laneTake f) := fits_none rfl
theorem Fits.frontStart (f : Nat) : Fits.Statement (.frontStart f) := fits_none rfl
theorem Fits.wqDoorbell (q : Nat) (tail : BitVec 32) : Fits.Statement (.wqDoorbell q tail) := fits_none rfl
theorem Fits.lopen (q : Nat) : Fits.Statement (.lopen q) := fits_none rfl
theorem Fits.slotBind (f : Nat) (asid : Nat) (lid : Nat) : Fits.Statement (.slotBind f asid lid) := fits_none rfl
theorem Fits.slotUnbind (f : Nat) : Fits.Statement (.slotUnbind f) := fits_none rfl
theorem Fits.launchEnd (lid : Nat) : Fits.Statement (.launchEnd lid) := fits_none rfl
theorem Fits.tinvcPage (asid : BitVec 14) : Fits.Statement (.tinvcPage asid) := fits_none rfl
theorem Fits.tinvcAsid (asid : BitVec 14) : Fits.Statement (.tinvcAsid asid) := fits_none rfl
theorem Fits.tinvcAll : Fits.Statement .tinvcAll := fits_none rfl
theorem Fits.tinvcDone : Fits.Statement .tinvcDone := fits_none rfl
theorem Fits.prectlSave (die : Nat) (core : Nat) : Fits.Statement (.prectlSave die core) := fits_none rfl
theorem Fits.prectlSaveDone (die : Nat) : Fits.Statement (.prectlSaveDone die) := fits_none rfl
theorem Fits.prectlDiscard (die : Nat) (core : Nat) : Fits.Statement (.prectlDiscard die core) := fits_none rfl
theorem Fits.rstctlRestore (die : Nat) (core : Nat) (lid : Nat) : Fits.Statement (.rstctlRestore die core lid) := fits_none rfl
theorem Fits.scrubPass (core : Nat) (found : List Found) : Fits.Statement (.scrubPass core found) := fits_none rfl
theorem Fits.laneRetire (core : Nat) : Fits.Statement (.laneRetire core) := fits_none rfl
theorem Fits.powerOn : Fits.Statement .powerOn := fits_none rfl
theorem Fits.rstreq (src : Src) : Fits.Statement (.rstreq src) := fits_none rfl
theorem Fits.firmwareCheckDone (img : Image) : Fits.Statement (.firmwareCheckDone img) := fits_none rfl
theorem Fits.dieAdmitted (die : Nat) : Fits.Statement (.dieAdmitted die) := fits_none rfl
theorem Fits.hbmTrained (stack : Nat) : Fits.Statement (.hbmTrained stack) := fits_none rfl
theorem Fits.hbmTrainFail (stack : Nat) : Fits.Statement (.hbmTrainFail stack) := fits_none rfl
theorem Fits.linkTrained (link : Nat) : Fits.Statement (.linkTrained link) := fits_none rfl
theorem Fits.linkTrainTimeout (link : Nat) : Fits.Statement (.linkTrainTimeout link) := fits_none rfl
theorem Fits.attctlQuote : Fits.Statement .attctlQuote := fits_none rfl
theorem Fits.attctlQuoteDone : Fits.Statement .attctlQuoteDone := fits_none rfl
theorem Fits.thermalTrip (hot : BitVec 8) : Fits.Statement (.thermalTrip hot) := fits_none rfl
theorem Fits.powerCapStep (now : BitVec 12) : Fits.Statement (.powerCapStep now) := fits_none rfl
theorem Fits.pwrcapWrite (src : Src) (v : Word) : Fits.Statement (.pwrcapWrite src v) := fits_none rfl
theorem Fits.stwbaseWrite (src : Src) (v : Word) : Fits.Statement (.stwbaseWrite src v) := fits_none rfl
theorem Fits.stewardAccess (store : Bool) (run : ByteRun) (v : Word) : Fits.Statement (.stewardAccess store run v) := fits_none rfl
theorem Fits.fabidWrite (src : Src) (v : Word) : Fits.Statement (.fabidWrite src v) := fits_none rfl
theorem Fits.routeWrite (src : Src) (d : Nat) (v : Word) : Fits.Statement (.routeWrite src d v) := fits_none rfl
theorem Fits.dbgctlWrite (src : Src) (f : Nat) (v : Word) : Fits.Statement (.dbgctlWrite src f v) := fits_none rfl
theorem Fits.flitReceive (link : Nat) (flit : List Byte) : Fits.Statement (.flitReceive link flit) := fits_none rfl
theorem Fits.flitReplay (link : Nat) : Fits.Statement (.flitReplay link) := fits_none rfl
theorem Fits.msgWrite (m : Msg) : Fits.Statement (.msgWrite m) := fits_none rfl
theorem Fits.msgReadRequest (m : Msg) : Fits.Statement (.msgReadRequest m) := fits_none rfl
theorem Fits.msgReadResponse (m : Msg) : Fits.Statement (.msgReadResponse m) := fits_none rfl
theorem Fits.msgAtomic (m : Msg) : Fits.Statement (.msgAtomic m) := fits_none rfl
theorem Fits.msgAtomicResponse (m : Msg) : Fits.Statement (.msgAtomicResponse m) := fits_none rfl
theorem Fits.msgCollective (m : Msg) : Fits.Statement (.msgCollective m) := fits_none rfl
theorem Fits.msgRegisterAccess (m : Msg) : Fits.Statement (.msgRegisterAccess m) := fits_none rfl
theorem Fits.msgRegisterResponse (m : Msg) : Fits.Statement (.msgRegisterResponse m) := fits_none rfl
theorem Fits.msgMonitorWake (m : Msg) : Fits.Statement (.msgMonitorWake m) := fits_none rfl
theorem Fits.registerWrite (src : Src) (addr : Nat) (v : Word) : Fits.Statement (.registerWrite src addr v) := fits_none rfl
theorem Fits.instructionComplete (f : Nat) : Fits.Statement (.instructionComplete f) := fits_none rfl
theorem Fits.waitwRecheck (f : Nat) : Fits.Statement (.waitwRecheck f) := fits_none rfl

end Sys2Proof.Laws
end

