-- ==== Sys2Proof/Laws/Push.lean ====
section
/-! SUPPORT. What `push` does (R69, R70, R422), and what its checks are for names that fit the window (R61, R67, R155). -/

namespace Sys2Proof.Machine

/-- Steps that change a front's bindings alone change them alone together. -/
theorem foldl_binds {α : Type} {step : Front → α → Front} (h : ∀ y p, ∃ b, step y p = { y with binds := b }) (l : List α) (x : Front) :
    ∃ b, l.foldl step x = { x with binds := b } := by
  induction l generalizing x with
  | nil => exact ⟨x.binds, rfl⟩
  | cons a r ih =>
    obtain ⟨b, hb⟩ := h x a
    obtain ⟨d, hd⟩ := ih { x with binds := b }
    exact ⟨d, by rw [List.foldl_cons, hb, hd]⟩

/-- The front after a push, in the terms of `Pushed`. -/
theorem pushed_setFront (s : State) (i : Instr) (p : PushSpec) :
    Pushed s i (p.uses.map s.me.operandEntry) (p.regs.map s.reg)
      (s.setFront s.cur (s.me.pushed i s.clock (s.me.capture (s.window s.cur) p))) := by
  have hb (x : Front) (c : Capture) : ∃ b, x.advanceBinds c = { x with binds := b } := by
    unfold Front.advanceBinds
    obtain ⟨b, h⟩ := foldl_binds (fun _ _ => ⟨_, rfl⟩) c.pops x
    obtain ⟨d, k⟩ := foldl_binds (fun _ _ => ⟨_, rfl⟩) c.stores { x with binds := b }
    exact ⟨d, by rw [h]; exact k⟩
  obtain ⟨b, hbb⟩ := hb s.me (s.me.capture (s.window s.cur) p)
  have hme : (s.setFront s.cur (s.me.pushed i s.clock (s.me.capture (s.window s.cur) p))).me =
      s.me.pushed i s.clock (s.me.capture (s.window s.cur) p) := by simp [State.me]
  refine ⟨?_, ?_, ?_, ?_, ?_, onlyFront_setFront _ _ _, (onlyFront_setFront s s.cur _).sameBytes⟩
  · rw [hme]
    exact ⟨{ newEntry i s.me.vsn (s.me.capture (s.window s.cur) p) with pushed := s.clock, born := s.clock }, rfl, rfl, rfl, rfl, rfl, rfl, rfl, rfl, rfl,
      ⟨rfl, rfl, rfl, rfl, rfl, rfl, rfl, rfl⟩, rfl, rfl⟩
  · rw [hme]; rfl
  · rw [hme]; rfl
  · intro r
    rw [State.reg, hme, Front.pushed, hbb]
    rfl
  · refine completed_of s _ _ ({ s.me with
        binds := b
        queue := s.me.queue ++ [{ newEntry i s.me.vsn (s.me.capture (s.window s.cur) p) with pushed := s.clock, born := s.clock }]
        vsn := s.me.vsn + 1
        vstart := 0 }) rfl rfl rfl rfl _ ?_
    rw [hme, Front.pushed, hbb]

/-- A push whose checks all pass. -/
theorem push_ok {s : State} (i : Instr) (p : PushSpec) (hq : s.me.queue.length < 64)
    (hc : s.me.pushCheck (s.me.capture (s.window s.cur) p) p = none) :
    push i p s = .next (s.setFront s.cur (s.me.pushed i s.clock (s.me.capture (s.window s.cur) p))) := by
  simp only [push, hc, if_neg (Nat.not_le.mpr hq)]

theorem pushesAs_of {i : Instr} {p : PushSpec} (h : ∀ s, exec i s = push i p s) : PushesAs i p :=
  fun s hq hc => ⟨_, (h s).trans (push_ok i p hq hc), pushed_setFront s i p⟩

/-- A push that meets a full queue. -/
theorem push_full {s : State} (i : Instr) (p : PushSpec) (hq : 64 ≤ s.me.queue.length) : push i p s = .next (s.blocked .retry) := by
  simp [push, hq]

/-- A push one of whose checks fails. -/
theorem push_trap {s : State} (i : Instr) (p : PushSpec) {r : TrapRec} (hq : s.me.queue.length < 64)
    (hc : s.me.pushCheck (s.me.capture (s.window s.cur) p) p = some r) : push i p s = .next (frontTrap s r) := by
  simp only [push, hc, if_neg (Nat.not_le.mpr hq)]

/-! ### The checks -/

theorem edgeCheck_fits {e : Word} {width vl : Nat} (h : EntryFits e width vl) : edgeCheck e width = none := by
  have h1 := h.widthOk
  have h2 := h.zero
  have h3 := h.pos
  have h4 := h.span
  have h5 : ¬ (511 < dLastRow e ∧ (!dWrap e) = true) := by
    rintro ⟨ha, hb⟩
    rcases h.rows with hr | hr
    · omega
    · simp [hr] at hb
  simp only [edgeCheck, h.valid, Bool.not_true, edgeBody, if_neg h5]
  simp only [h1, h2, ne_eq, not_true_eq_false, or_self, if_neg (Nat.not_le.mpr h3), if_neg (Nat.not_le.mpr h4), ite_false,
    Bool.false_eq_true]

theorem firstFail_none (l : List (Option TrapRec)) (h : ∀ o ∈ l, o = none) : firstFail l = none := by
  have : l.find? (·.isSome) = none := List.find?_eq_none.mpr fun o ho => by simp [h o ho]
  simp [firstFail, this]

theorem firstFail_append (l m : List (Option TrapRec)) :
    firstFail (l ++ m) = match firstFail l with
      | some r => some r
      | none => firstFail m := by
  induction l with
  | nil => rfl
  | cons o t ih =>
    cases o with
    | none => simpa [firstFail] using ih
    | some r => simp [firstFail]

theorem bindOf_nil {x : Front} (h : x.binds = []) (v : Nat) : x.bindOf v = none := by simp [Front.bindOf, h]

theorem effective_nil {x : Front} (h : x.binds = []) (v : Nat) : x.effective v = x.entry v := by simp [Front.effective, bindOf_nil h]

theorem operandEntry_nil {x : Front} (h : x.binds = []) (u : NameUse) : x.operandEntry u = x.entry u.v.toNat := by
  simp [Front.operandEntry, bindOf_nil h, effective_nil h]

theorem misused_nil {x : Front} (h : x.binds = []) (u : NameUse) : x.misused u = false := by
  simp [Front.misused, bindOf_nil h]

/-- An instruction with names alone, all of which fit, and whose widths agree with that of the first. -/
theorem pushCheck_plain {s : State} (uses : List NameUse) (regs : List SReg) (width : Capture → Option (Nat × Nat)) (w : Nat)
    (hb : s.me.binds = []) (hf : ∀ u ∈ uses, s.fits u.v) (hw : ∀ u ∈ uses, s.ew u.v = w)
    (hk : width (s.me.capture (s.window s.cur) { PushSpec.plain uses regs with width := width }) = none) :
    s.me.pushCheck (s.me.capture (s.window s.cur) { PushSpec.plain uses regs with width := width })
      { PushSpec.plain uses regs with width := width } = none := by
  have hn : (uses.map s.me.operandEntry) = uses.map fun u => s.me.entry u.v.toNat :=
    List.map_congr_left fun u _ => operandEntry_nil hb u
  have hz (q : NameUse × Word) (hq : q ∈ uses.zip (uses.map fun u => s.me.entry u.v.toNat)) :
      q.1 ∈ uses ∧ q.2 = s.me.entry q.1.v.toNat := by
    rw [List.zip_map_right] at hq
    obtain ⟨⟨a, b⟩, hab, rfl⟩ := List.mem_map.mp hq
    have : a = b := by
      obtain ⟨n, hn', h⟩ := List.mem_iff_getElem.mp hab
      simp only [List.getElem_zip, Prod.mk.injEq] at h
      exact h.1.symm.trans h.2
    subst this
    exact ⟨(List.of_mem_zip hab).1, rfl⟩
  apply firstFail_none
  simp only [List.forall_mem_append]
  refine ⟨⟨⟨⟨⟨⟨⟨⟨?_, ?_⟩, ?_⟩, ?_⟩, ?_⟩, ?_⟩, ?_⟩, ?_⟩, ?_⟩
  · simp only [Front.capture, PushSpec.plain, hn, List.map_map, List.forall_mem_map, Function.comp]
    intro u hu
    rw [edgeCheck_fits (hf u hu)]; rfl
  · simp [PushSpec.plain]
  · simp [PushSpec.plain]
  · simp [PushSpec.plain, Front.capture]
  · have hall : ∀ v ∈ ((uses.zip (uses.map s.me.operandEntry)).filter fun q => q.1.ew).map fun q => dEw q.2, 2 ^ v = w := by
      rw [hn, List.forall_mem_map]
      intro q hq
      obtain ⟨h1, h2⟩ := hz q (List.mem_of_mem_filter hq)
      rw [h2]
      exact hw q.1 h1
    have hany : ((((uses.zip (uses.map s.me.operandEntry)).filter fun q => q.1.ew).map fun q => dEw q.2).any fun v =>
        v != (((uses.zip (uses.map s.me.operandEntry)).filter fun q => q.1.ew).map fun q => dEw q.2).headD 0) = false := by
      generalize (((uses.zip (uses.map s.me.operandEntry)).filter fun q => q.1.ew).map fun q => dEw q.2) = l at hall
      cases l with
      | nil => rfl
      | cons a r =>
        have ha := hall a List.mem_cons_self
        rw [List.any_eq_false]
        intro v hv
        simp [Nat.pow_right_injective (le_refl 2) ((hall v hv).trans ha.symm)]
    have h1 := hk
    simp only [PushSpec.plain, Front.capture] at h1 ⊢
    simp only [hany, h1, List.forall_mem_cons, Bool.false_eq_true, ite_false, Option.map_none, true_and, List.not_mem_nil,
      false_implies, implies_true]
  · simp only [Front.capture, PushSpec.plain, hn, List.forall_mem_map]
    intro q hq
    obtain ⟨h1, h2⟩ := hz q hq
    rw [h2, if_neg (Nat.not_lt.mpr (hf q.1 h1).cap), ite_self]
  · simp [PushSpec.plain]
  · simp only [Front.capture, PushSpec.plain, hn]
    intro o ho
    obtain ⟨q, hq, ho⟩ := List.mem_flatMap.mp ho
    obtain ⟨h1, h2⟩ := hz q.1 (List.fst_mem_of_mem_zipIdx hq)
    simp only [List.zip_nil_left, List.filter_nil, List.flatMap_nil, List.mem_singleton] at ho
    rw [ho, h2, if_neg (Nat.not_lt.mpr (hf q.1.1 h1).vlmax), ite_self]
  · have : ((s.me.allUses { PushSpec.plain uses regs with width := width }).any s.me.misused) = false := by
      rw [List.any_eq_false]
      intro u _
      simp [misused_nil hb u]
    simp [PushSpec.plain]
    simpa [PushSpec.plain] using this

end Sys2Proof.Machine
end

