-- ==== Sys2Proof/Tests/Slice0.lean ====
section
/-! SUPPORT. Tests: terms that are no instruction, the decoding of words written out from spec/, single steps on small states, and for each statement
a state and operands that meet its hypotheses. -/

open Sys2Proof Sys2Proof.Machine

namespace Sys2Proof.Tests

set_option Elab.async false

/-! ### Small states -/

/-- A package in which front 0 runs in user mode, with the word `w` where it fetches next (byte 0 of its scratchpad), s1 = a and s2 = b. -/
def at_ (w : Nat) (a b : Word) : State := (State.reset.withFetchWord 32 w).modFront 0 fun x => (x.setReg 1 a).setReg 2 b

/-- Front 0 of that package changed. -/
def user (g : Front → Front) : State := (at_ 0 0 0).modFront 0 g

/-- The same in kernel mode. -/
def kern (g : Front → Front) : State := user fun x => { g x with kernel := true }

/-- The next state of an outcome, and a state that no test expects where there is none. -/
def next (o : Out) : State :=
  match o with
  | .next t => t
  | .fault _ => { State.reset with clock := 999 }
  | .refused _ => { State.reset with clock := 999 }

/-- The state after one step. -/
def after (s : State) : State := next (step s)

/-- What holds of the result of an operation that does not stop. -/
def okAnd {α : Type} (r : Except Stop (α × State)) (p : α → State → Bool) : Bool :=
  match r with
  | .ok (x, t) => p x t
  | .error _ => false

/-- The operation stops with this trap. -/
def stopsWith {α : Type} (r : Except Stop (α × State)) (t : TrapRec) : Bool :=
  match r with
  | .ok _ => false
  | .error (.trap x) => x == t
  | .error (.wait _) => false

/-- A carve entry of kind 0: `rows` rows of `n` elements of width 2^ew from row `r`, position 0. -/
def block (r ew rows n : Nat) : Word := word (r * 2 ^ 2 + ew * 2 ^ 22 + rows * 2 ^ 25 + n * 2 ^ 34 + 2 ^ 49)

/-! ### Terms that stand for no instruction: one for each check of `Instr.wf` -/

def badMsg : Msg := ⟨1, 256, 0, 0, [], 0, false⟩

theorem test_illformed : ([
    .fcvtToInt 1 2 .fp32 .fp64, .mfc 1 0x16, .mtc 0x0FF 1, .vshlImm 1 2 64, .vshrImm 1 2 64, .vsraImm 1 2 255, .vcvt 1 2 13 5, .vcvt 1 2 5 13,
    .vcvt 1 2 0 5, .vnarrow 1 2 0 8, .vwiden 1 2 12 0, .vredsum 1 2 3, .vredmax 1 2 3, .vredmin 1 2 3, .vscan 1 2 3, .vtopk 1 2 3 3,
    .retag 1 14, .retag 1 0x30, .mma 1 2 3, .mrd 1 2 15, .mwr 1 2 3, .vscadd 1 2 3 9, .vscadd 1 2 3 13, .vstpair 1 0 2, .vstpair 1 31 2,
    .instructionIssue 1024 0 1, .instructionIssue 0 64 1, .trapEntry 1024, .singleStepStop 1024, .watchdog 1024, .pageWalk 8, .streamFill 0 4,
    .streamFill 1024 0, .jobRelease 1024 0, .jobEnd 0 (2 ^ 32), .collectiveCallEnd 65536, .waitwMonitorFire 1024, .waitwTimeout 1024,
    .takeWake 1024, .laneTake 1024, .frontStart 1024, .wqDoorbell 32768 0, .lopen 32768, .slotBind 1024 0 0, .slotBind 0 16384 0,
    .slotBind 0 0 16384, .slotUnbind 1024, .launchEnd 16384, .prectlSave 8 0, .prectlSave 0 64, .prectlSaveDone 8, .prectlDiscard 0 64,
    .rstctlRestore 8 0 0, .rstctlRestore 0 0 16384] : List Instr).all (fun i => !i.wf) = true := by decide +kernel

theorem test_illformed_events : ([
    .scrubPass 512 [], .scrubPass 0 [⟨.cell, 512, 0, true⟩], .scrubPass 0 [⟨.carafe, 128, 0, true⟩], .scrubPass 0 [⟨.tag, 0, 64, false⟩], .laneRetire 512, .dieAdmitted 8, .hbmTrained 8,
    .hbmTrainFail 8, .linkTrained 18, .linkTrainTimeout 18, .stewardAccess true ⟨2 ^ 50, 8⟩ 0, .stewardAccess false ⟨0, 9⟩ 0,
    .stewardAccess false ⟨0, 0⟩ 0, .routeWrite .host 1024 0, .dbgctlWrite .host 1024 0,
    .flitReceive 18 (List.replicate 256 0), .flitReceive 0 (List.replicate 255 0), .flitReplay 18, .msgWrite badMsg, .msgReadRequest badMsg,
    .msgReadResponse badMsg, .msgAtomic badMsg, .msgAtomicResponse badMsg, .msgCollective badMsg, .msgRegisterAccess badMsg,
    .msgRegisterResponse badMsg, .msgMonitorWake badMsg, .registerWrite .host 0x61FFFFFFF8 0, .registerWrite .host 0x6300000000 0,
    .instructionComplete 1024, .waitwRecheck 1024] : List Instr).all (fun i => !i.wf) = true := by decide +kernel

theorem test_wellformed : ([
    .fcvtToInt 1 2 .int32 .fp64, .mfc 1 0x15, .mtc 0x107 1, .vshlImm 1 2 63, .vcvt 1 2 11 13, .vnarrow 1 2 15 9, .vwiden 1 2 5 0, .vredsum 1 2 2,
    .retag 1 13, .retag 1 0x2F, .mma 1 2 2, .vscadd 1 2 3 8, .vstpair 1 30 2, .instructionIssue 1023 63 1, .streamFill 1023 3,
    .wqDoorbell 32767 0, .registerWrite .host 0x62FFFFFFF8 0] : List Instr).all Instr.wf = true := by decide +kernel

/-! ### Words that decode to nothing (R101, R103) -/

theorem test_undecodable : ([
    0b000000_00011_00001_00010_00000000000, 0b111111_00011_00001_00010_00000000000, 0b000001_00011_00001_00010_00001000000,
    0b000001_00011_00001_00010_00000011100, 0b000001_00011_00001_00001_00000010110, 0b000001_00011_00001_00010_10_1011_00_000,
    0b111010_00011_00000_0000_000000010110, 0b111010_00011_00001_0000_000000010000, 0b111010_00000_00000_0011_000000000001,
    0b010010_000001_000010_01000000_000010, 0b010101_000001_000010_000101_00_001101, 0b010111_000001_000010_100000_00_001100,
    0b101001_000001_000000_00001110_000001, 0b100011_000001_11111_000010_000001001, 0b101010_000001_000010_000000_0011_0000,
    0b111110_00000000000000000000000000] : List (BitVec 32)).all (fun w => decode w == none) = true := by decide +kernel

/-! ### Decoding: words written out from the encodings of spec/ -/

theorem test_decode_integer : ([
    (0b000001_01011_11111_00101_00000000000, .add 11 31 5),
    (0b000001_01101_10101_00010_00000000001, .sub 13 21 2),
    (0b000001_00011_11011_10010_00000000010, .mul 3 27 18),
    (0b000001_00100_01100_10011_00000000011, .mulh 4 12 19),
    (0b000001_00010_11110_10001_00000000100, .mulhu 2 30 17),
    (0b000001_00111_00010_00011_00000000101, .div 7 2 3),
    (0b000001_01110_01110_00011_00000000110, .divu 14 14 3),
    (0b000001_01000_00011_10010_00000000111, .rem 8 3 18),
    (0b000001_01110_00010_11011_00000001000, .remu 14 2 27),
    (0b000001_10011_00100_11111_00000001001, .and 19 4 31),
    (0b000001_01000_10101_10101_00000001010, .or 8 21 21),
    (0b000001_10011_11111_00010_00000001011, .xor 19 31 2),
    (0b000001_10011_10011_01101_00000001100, .andn 19 19 13),
    (0b000001_00010_01000_00010_00000001101, .shl 2 8 2),
    (0b000001_10010_11100_00101_00000001110, .shr 18 28 5),
    (0b000001_01010_01110_00101_00000001111, .sra 10 14 5),
    (0b000001_10010_00100_10011_00000010000, .slt 18 4 19),
    (0b000001_01010_10010_11011_00000010001, .sltu 10 18 27),
    (0b000001_10110_00110_00100_00000010010, .min 22 6 4),
    (0b000001_10011_10011_10101_00000010011, .max 19 19 21),
    (0b000001_00111_01100_00100_00000010100, .minu 7 12 4),
    (0b000001_10010_10111_00011_00000010101, .maxu 18 23 3),
    (0b000001_10011_00010_0000000000010110, .clz 19 2),
    (0b000001_10100_00111_0000000000010111, .ctz 20 7),
    (0b000001_10000_10110_0000000000011000, .popc 16 22),
    (0b000001_10010_01110_0000000000011001, .sextb 18 14),
    (0b000001_11001_01011_0000000000011010, .sexth 25 11),
    (0b000001_01111_10011_0000000000011011, .sextw 15 19),
    (0b000001_11110_01111_0000001_011000_000, .shli 30 15 24),
    (0b000001_01010_01000_0000001_110011_001, .shri 10 8 51),
    (0b000001_00110_10111_0000001_110010_010, .srai 6 23 50)] : List (BitVec 32 × Instr)).all (fun p => decode p.1 == some p.2) = true := by decide +kernel

theorem test_decode_float : ([
    (0b000001_01000_00011_10011_100000_10_000, .fadd 8 3 19 .fp32),
    (0b000001_10001_10000_11101_100001_10_000, .fsub 17 16 29 .fp32),
    (0b000001_11000_01111_01010_100010_00_000, .fmul 24 15 10 .fp16),
    (0b000001_00100_10001_01110_100011_01_000, .fdiv 4 17 14 .bf16),
    (0b000001_11001_01011_00101_100100_11_000, .fma 25 11 5 .fp64),
    (0b000001_01110_00010_00000100101_00_000, .fsqrt 14 2 .fp16),
    (0b000001_11001_10010_10011_100110_10_000, .fmin 25 18 19 .fp32),
    (0b000001_01011_10111_01100_100111_11_000, .fmax 11 23 12 .fp64),
    (0b000001_10011_11010_01111_101000_00_000, .fcmp 19 26 15 .fp16),
    (0b000001_11011_00011_00000101001_10_111, .fcvtToFloat 27 3 .fp32 .uint64),
    (0b000001_10111_10110_00000101010_00_100, .fcvtToInt 23 22 .int32 .fp16)] : List (BitVec 32 × Instr)).all (fun p => decode p.1 == some p.2) = true := by decide +kernel

theorem test_decode_control : ([
    (0b000001_11000_10111_0000011_010011111, .jalr 24 23 159),
    (0b000010_10101_10011_1111111000111100, .addi 21 19 65084),
    (0b000011_10110_11011_0111001000010110, .andi 22 27 29206),
    (0b000100_01010_10111_0110001011000100, .ori 10 23 25284),
    (0b000101_11101_10110_0101100011010110, .xori 29 22 22742),
    (0b000110_00001_11111_0111011000110010, .slti 1 31 30258),
    (0b000111_01100_00110_1001110001100110, .sltiu 12 6 40038),
    (0b001000_00100_000_01_0111111001100011, .lis 4 32355 1),
    (0b001000_00111_001_10_1100010010101011, .lih 7 50347 2),
    (0b001001_00101_101111010000010101101, .jal 5 1548461),
    (0b001010_01000_01101_0110010000010110, .beq 8 13 25622),
    (0b001011_11110_11100_0111111100011100, .bne 30 28 32540),
    (0b001100_00011_00110_0111001011111110, .blt 3 6 29438),
    (0b001101_01101_10010_0100011100100001, .bge 13 18 18209),
    (0b001110_11101_00101_1101000110111101, .bltu 29 5 53693),
    (0b001111_01110_11100_1000110011011100, .bgeu 14 28 36060)] : List (BitVec 32 × Instr)).all (fun p => decode p.1 == some p.2) = true := by decide +kernel

theorem test_decode_memory : ([
    (0b100000_01001_10111_000_0110101001011, .ldb 9 23 3403),
    (0b100000_01100_10110_001_1110001001100, .ldbu 12 22 7244),
    (0b100000_01101_11111_010_0011101100011, .ldh 13 31 1891),
    (0b100000_00101_00011_011_0010110100100, .ldhu 5 3 1444),
    (0b100000_00101_01000_100_1010100010011, .ldw 5 8 5395),
    (0b100000_01000_00001_101_0111110000101, .ldwu 8 1 3973),
    (0b100000_11011_10011_110_0010111010110, .ldd 27 19 1494),
    (0b100001_01001_01010_000_0000000100010, .stb 9 10 34),
    (0b100001_00101_01110_001_1000100011100, .sth 5 14 4380),
    (0b100001_01100_10100_010_1001000100000, .stw 12 20 4640),
    (0b100001_01011_11111_011_0010000000101, .std 11 31 1029)] : List (BitVec 32 × Instr)).all (fun p => decode p.1 == some p.2) = true := by decide +kernel

theorem test_decode_atomic : ([
    (0b100010_10111_11100_10001_0000000_1_000, .amoadd 23 28 17 true),
    (0b100010_11111_10100_10101_000000_1_1_001, .amomin 31 20 21 true true),
    (0b100010_10110_11000_00010_000000_1_1_010, .amomax 22 24 2 true true),
    (0b100010_01111_11101_11100_0000000_1_011, .amoand 15 29 28 true),
    (0b100010_11001_11111_11100_0000000_1_100, .amoor 25 31 28 true),
    (0b100010_10110_11010_10010_0000000_1_101, .amoxor 22 26 18 true),
    (0b100010_01101_01101_01101_0000000_1_110, .amoswap 13 13 13 true),
    (0b100010_01101_00100_10000_0000000_1_111, .amocas 13 4 16 true)] : List (BitVec 32 × Instr)).all (fun p => decode p.1 == some p.2) = true := by decide +kernel

theorem test_decode_system : ([
    (0b111010_10101_000000000_000000010100, .mfc 21 20),
    (0b111010_00000_00111_0001_000000010100, .mtc 20 7),
    (0b111010_00000000000010_011100001101, .trap 1805),
    (0b111010_00000000000011000000000000, .kret),
    (0b111010_00000000000100000000000000, .exit),
    (0b111011_0000000000000000000000_01_01, .fsv .die),
    (0b111011_0000000000000000000000_00_10, .fvs .core),
    (0b111011_0000000000000000000000_10_11, .fvv .pkg),
    (0b111100_0000000000000000000_1001101, .brk 77),
    (0b111100_0000000000000001_001_0000111, .brkAny 7 1),
    (0b111100_0000000000000010_101_0000001, .brkAll 1 5),
    (0b111100_00000_00101_0001000000000000, .pcaps 5),
    (0b111100_00000000000010000000000000, .pcape)] : List (BitVec 32 × Instr)).all (fun p => decode p.1 == some p.2) = true := by decide +kernel

theorem test_decode_vectorInteger : ([
    (0b010000_100011_000111_111101_10_000000, .vadd 35 7 61 2),
    (0b010000_101000_000010_000101_01_000001, .vsub 40 2 5 1),
    (0b010000_101000_011001_001010_11_000010, .vmul 40 25 10 3),
    (0b010000_010001_111110_010111_11_000011, .vmulh 17 62 23 3),
    (0b010000_011000_011111_001000_01_000100, .vmin 24 31 8 1),
    (0b010000_110111_100000_111111_10_000101, .vmax 55 32 63 2),
    (0b010000_011111_011111_010100_01_000110, .vminu 31 31 20 1),
    (0b010000_001010_000111_110000_10_000111, .vmaxu 10 7 48 2),
    (0b010000_110000_010001_011111_11_001000, .vand 48 17 31 3),
    (0b010000_001011_100010_000010_01_001001, .vor 11 34 2 1),
    (0b010000_111101_111101_100010_10_001010, .vxor 61 61 34 2),
    (0b010000_001010_101101_100011_01_001011, .vshl 10 45 35 1),
    (0b010000_110001_100010_010100_11_001100, .vshr 49 34 20 3),
    (0b010000_111000_000110_101101_10_001101, .vsra 56 6 45 2),
    (0b010000_100010_011000_111011_01_001110, .vsadd 34 24 59 1),
    (0b010000_010111_110010_001111_11_001111, .vssub 23 50 15 3),
    (0b010000_100011_110010_100001_10_010000, .vmerge 35 50 33 2),
    (0b010000_101001_001111_00000000010001, .vmv 41 15),
    (0b010000_101000_110100_110011_01_010010, .vsaddU 40 52 51 1),
    (0b010000_110100_010000_110101_10_010011, .vssubU 52 16 53 2)] : List (BitVec 32 × Instr)).all (fun p => decode p.1 == some p.2) = true := by decide +kernel

theorem test_decode_splat : ([
    (0b010001_110000_000000_11010_000000000, .vsplat 48 26),
    (0b010001_001111_000000_00111_000000001, .vmvsx 15 7),
    (0b010001_000000_100000_10001_000000010, .vmvxs 17 32),
    (0b010001_000_011_000000_11000_000000011, .mset 3 24),
    (0b010010_000010_000010_11001011_000000, .vslideupImm 2 2 203),
    (0b010010_010010_011111_01000011_000001, .vslidednImm 18 31 67),
    (0b010010_101100_101100_00101110_000010, .vshlImm 44 44 46),
    (0b010010_011100_011101_00011001_000011, .vshrImm 28 29 25),
    (0b010010_011010_000000_00101100_000100, .vsraImm 26 0 44),
    (0b010010_110100_000000_10100101_000101, .vsplatImm 52 165)] : List (BitVec 32 × Instr)).all (fun p => decode p.1 == some p.2) = true := by decide +kernel

theorem test_decode_mask : ([
    (0b010011_000_001_110110_101011_01_000000, .vcmpEq 1 54 43 1),
    (0b010011_000_100_110011_101110_01_000001, .vcmpNe 4 51 46 1),
    (0b010011_000_100_111001_001100_10_000010, .vcmpLt 4 57 12 2),
    (0b010011_000_111_101001_010110_01_000011, .vcmpGe 7 41 22 1),
    (0b010011_000_111_111101_111111_11_000100, .vcmpLtu 7 61 63 3),
    (0b010011_000_100_011110_011010_11_000101, .vcmpGeu 4 30 26 3),
    (0b010011_000_001_000_110_000_010_00001000, .mand 1 6 2),
    (0b010011_000_010_000_010_000_001_00001001, .mor 2 2 1),
    (0b010011_000_010_000_101_000_100_00001010, .mxor 2 5 4),
    (0b010011_000_111_000_110_00000000001011, .mnot 7 6),
    (0b010011_0_00101_000_101_00000000001100, .mpopc 5 5),
    (0b010011_0_11011_000_101_00000000001101, .mfirst 27 5)] : List (BitVec 32 × Instr)).all (fun p => decode p.1 == some p.2) = true := by decide +kernel

theorem test_decode_vectorFloat : ([
    (0b010100_111111_011111_101011_10_1_00000, .vfadd 63 31 43 2 true),
    (0b010100_001010_100100_100100_01_1_00001, .vfsub 10 36 36 1 true),
    (0b010100_000010_000001_110100_11_1_00010, .vfmul 2 1 52 3 true),
    (0b010100_101010_000111_100010_11_1_00011, .vfma 42 7 34 3 true),
    (0b010100_111100_001001_011100_01_1_00100, .vfms 60 9 28 1 true),
    (0b010100_110101_111000_001110_01_1_00101, .vfnma 53 56 14 1 true),
    (0b010100_010001_001110_010011_11_1_00110, .vfdiv 17 14 19 3 true),
    (0b010100_010000_110001_00000000_1_00111, .vfsqrt 16 49 true),
    (0b010100_100110_010101_00000000_1_01000, .vfrcp 38 21 true),
    (0b010100_010001_100011_00000000_1_01001, .vfrsq 17 35 true),
    (0b010100_011011_110110_001001_01_1_01010, .vfmin 27 54 9 1 true),
    (0b010100_111011_110000_010111_10_1_01011, .vfmax 59 48 23 2 true),
    (0b010100_101011_100110_00000000_1_01100, .vfabs 43 38 true),
    (0b010100_110101_111010_00000000_1_01101, .vfneg 53 58 true),
    (0b010100_100010_011011_00000000_1_01110, .vfexp2 34 27 true),
    (0b010100_110101_111011_00000000_1_01111, .vflog2 53 59 true),
    (0b010100_111001_100001_00000000_1_10000, .vfclass 57 33 true),
    (0b010100_000_010_100011_001010_11_1_10001, .vfcmpEq 2 35 10 3 true),
    (0b010100_000_101_000010_111000_10_1_10010, .vfcmpLt 5 2 56 2 true),
    (0b010100_000_111_001100_100111_01_1_10011, .vfcmpLe 7 12 39 1 true),
    (0b010100_000_111_110100_001010_01_1_10100, .vfcmpUn 7 52 10 1 true)] : List (BitVec 32 × Instr)).all (fun p => decode p.1 == some p.2) = true := by decide +kernel

theorem test_decode_convert : ([
    (0b010101_001010_011111_001010_00_000001, .vcvt 10 31 1 10),
    (0b010110_100010_100010_001001_001_00100, .vnarrow 34 34 4 9),
    (0b010111_111001_100100_1_01000_00_001001, .vwiden 57 36 9 8),
    (0b011000_010010_000011_0000000000_1110, .vsplitb 18 3 14),
    (0b011000_000111_100001_0000000001_1001, .vjoinb 7 33 9),
    (0b011000_100100_000010_0000000010_1110, .vscaleb 36 2 14)] : List (BitVec 32 × Instr)).all (fun p => decode p.1 == some p.2) = true := by decide +kernel

theorem test_decode_lanes : ([
    (0b011001_111010_111011_000101_00000000, .vperm 58 59 5),
    (0b011001_011101_010101_00000000000001, .vcompress 29 21),
    (0b011001_101000_111111_00000000000010, .vexpand 40 63),
    (0b011001_100001_100111_00000000_01_0011, .vredsum 33 39 1),
    (0b011001_101101_010010_00000000_10_0100, .vredmax 45 18 2),
    (0b011001_100001_111101_00000000_10_0101, .vredmin 33 61 2),
    (0b011001_111100_100100_00000000_10_0110, .vscan 60 36 2),
    (0b011010_001001_011011_00100_000000000, .vslideup 9 27 4),
    (0b011010_011010_011101_01011_000000001, .vslidedn 26 29 11),
    (0b011010_000101_101011_01000_000000010, .vbcast 5 43 8),
    (0b011010_011100_000101_00111_010_000011, .vtopk 28 5 7 2),
    (0b011010_110011_001000_11101_000000100, .vhist 51 8 29)] : List (BitVec 32 × Instr)).all (fun p => decode p.1 == some p.2) = true := by decide +kernel

theorem test_decode_plane : ([
    (0b101000_110010_000000_00101_000000000, .carve 50 5),
    (0b101000_111101_101110_10101_000000001, .carveq 61 46 21),
    (0b101000_101011_00000000000000000010, .uncarve 43),
    (0b101000_011000_00000000000000000011, .plzero 24),
    (0b101000_001010_000000_01001_000000100, .plsave 10 9),
    (0b101000_111001_000000_00101_000000101, .plload 57 5),
    (0b101000_111110_000000_01111_000000110, .setvl 62 15),
    (0b101000_000000000000_01000_000000111, .lpreq 8),
    (0b101001_110000_000000_11110100_000000, .setvli 48 244),
    (0b101001_000111_000000_00100101_000001, .retag 7 37)] : List (BitVec 32 × Instr)).all (fun p => decode p.1 == some p.2) = true := by decide +kernel

theorem test_decode_matrix : ([
    (0b101010_001011_101011_000000_0001_0000, .mma 11 43 1),
    (0b101010_001011_101110_000000_1000_0001, .mman 11 46 8),
    (0b101010_100001_011010_010110_1000_0010, .mmas 33 26 22 8),
    (0b101010_00000000000000000000000011, .mzero),
    (0b101010_001101_0_01100_000000_0001_0100, .mrd 13 12 1),
    (0b101010_101111_0_01100_000000_0010_0101, .mwr 47 12 2),
    (0b101010_00000000000000000000000110, .mwait)] : List (BitVec 32 × Instr)).all (fun p => decode p.1 == some p.2) = true := by decide +kernel

theorem test_decode_vectorMemory : ([
    (0b100011_100100_01111_000000000000000, .vld 36 15),
    (0b100011_011101_10111_000000000000001, .vst 29 23),
    (0b100011_000010_01101_000000000000010, .vlds 2 13),
    (0b100011_010110_10001_000000000000011, .vsts 22 17),
    (0b100011_101000_01010_100001_000000100, .vldx 40 10 33),
    (0b100011_111110_00011_001000_000000101, .vstx 62 3 8),
    (0b100011_111011_11010_001111_00101_0110, .vscadd 59 26 15 5),
    (0b100011_000110_01001_010010_000000111, .vldz 6 9 18),
    (0b100011_000011_11101_110010_000001000, .vstz 3 29 50),
    (0b100011_001100_11010_001001_000001001, .vstpair 12 26 9),
    (0b100011_110101_01110_110111_000001010, .vldw 53 14 55),
    (0b100011_111011_10110_110101_0000_1_1011, .sbind 59 22 53 true),
    (0b100011_111101_00000000000000001100, .sunbind 61)] : List (BitVec 32 × Instr)).all (fun p => decode p.1 == some p.2) = true := by decide +kernel

theorem test_decode_aged : ([
    (0b110100_010001_01101_0000000000_1_0000, .agld 17 13 true),
    (0b110100_001010_10010_0000000000_1_0001, .agst 10 18 true),
    (0b110100_111011_10001_0000000000_1_0010, .agadd 59 17 true),
    (0b110100_100101_10000_0000000000_1_0011, .agmerge 37 16 true)] : List (BitVec 32 × Instr)).all (fun p => decode p.1 == some p.2) = true := by decide +kernel

theorem test_decode_engine : ([
    (0b101110_10111_01011_00011_000000_1_0000, .xcopy 23 11 3 true),
    (0b101110_01001_00010_11010_101101_1_0001, .xgath 9 2 26 45 true),
    (0b101110_00110_01110_11101_000000_1_0010, .xfill 6 14 29 true),
    (0b101110_00011_01001_0000000000000011, .xquery 3 9),
    (0b101110_11111_000000000000000000100, .xcancel 31),
    (0b101110_00001_10101_00011_00000000101, .waitw 1 21 3)] : List (BitVec 32 × Instr)).all (fun p => decode p.1 == some p.2) = true := by decide +kernel

theorem test_decode_task : ([
    (0b101111_11010_01001_00011_00000000000, .take 26 9 3),
    (0b101111_10100_11100_01000_00000000001, .tenq 20 28 8),
    (0b101111_00011_01001_0000000000000010, .tdone 3 9),
    (0b101111_11100_00100_0000000000000011, .tcancel 28 4),
    (0b101111_01111_00001_01011_00000000100, .claim 15 1 11),
    (0b101111_10010_01110_11110_00000000101, .claimp 18 14 30)] : List (BitVec 32 × Instr)).all (fun p => decode p.1 == some p.2) = true := by decide +kernel

theorem test_decode_training : ([
    (0b110101_11110_01001_10100_000000_1_0000, .agsweep 30 9 20 true),
    (0b110101_00101_000000000000000000001, .step 5),
    (0b110101_00010_10001_10111_000000_1_0010, .unorm 2 17 23 true),
    (0b110101_01000_11111_00100_000000_1_0011, .uapply 8 31 4 true),
    (0b110101_00110_01001_0000000000000100, .rsbegin 6 9),
    (0b110101_00010_00110_0000000000000101, .rsnext 2 6),
    (0b110101_00111_11110_01010_00000000110, .rsvisit 7 30 10),
    (0b110101_10101_01010_0000000000000111, .rsread 21 10),
    (0b110101_10001_11001_0000000000001000, .rsend 17 25)] : List (BitVec 32 × Instr)).all (fun p => decode p.1 == some p.2) = true := by decide +kernel

theorem test_decode_collective : ([
    (0b110110_00111_01010_01111_000000_1_0000, .cxred 7 10 15 true),
    (0b110110_10001_10110_00110_00000000001, .cxgath 17 22 6),
    (0b110110_01001_01100_11010_00000000010, .cxa2a 9 12 26),
    (0b110110_00001_01001_00010_00000000011, .cxbar 1 9 2),
    (0b110110_0000000000000000000_01_00100, .cupclr 1),
    (0b110110_11000_10001_000000000_01_00101, .cupadd 1 24 17)] : List (BitVec 32 × Instr)).all (fun p => decode p.1 == some p.2) = true := by decide +kernel

/-! ### One step of a front: results by hand from the rules named -/

/-- R133: −1 + 5 wraps to 4. -/
theorem test_add_wraps : (after (at_ 0b000001_00011_00001_00010_00000000000 5 (-1))).reg 3 = 4 := by decide +kernel
/-- R43: s0 stays zero. -/
theorem test_add_to_s0 : (after (at_ 0b000001_00000_00001_00010_00000000000 5 7)).reg 0 = 0 := by decide +kernel
/-- R133: the high half of (−2) × 3 is −1. -/
theorem test_mulh_sign : (after (at_ 0b000001_00011_00001_00010_00000000011 (-2) 3)).reg 3 = -1 := by decide +kernel
/-- R134: a quotient by zero is −1. -/
theorem test_div_zero : (after (at_ 0b000001_00011_00001_00010_00000000101 7 0)).reg 3 = -1 := by decide +kernel
/-- R134: −7 rem 2 is −1. -/
theorem test_rem_sign : (after (at_ 0b000001_00011_00001_00010_00000000111 (-7) 2)).reg 3 = -1 := by decide +kernel
/-- R133: an arithmetic shift by 65 is one by 1. -/
theorem test_sra_modulo : (after (at_ 0b000001_00011_00001_00010_00000001111 (-8) 65)).reg 3 = -4 := by decide +kernel
/-- R133: zero has 64 leading zeros. -/
theorem test_clz_zero : (after (at_ 0b000001_00011_00001_00000_00000010110 0 0)).reg 3 = 64 := by decide +kernel
/-- R133: bytes 0x80 extends to −128. -/
theorem test_sextb : (after (at_ 0b000001_00011_00001_00000_00000011001 0x180 0)).reg 3 = -128 := by decide +kernel
/-- R136: ADDI of −1 to 0. -/
theorem test_addi_negative : (after (at_ 0b000010_00011_00001_1111111111111111 0 0)).reg 3 = -1 := by decide +kernel
/-- R136: ANDI extends its immediate with zeros. -/
theorem test_andi_zero_extends : (after (at_ 0b000011_00011_00001_1111111111111111 (-1) 0)).reg 3 = 0xFFFF := by decide +kernel
/-- R137: LIH puts its half-word and keeps the rest. -/
theorem test_lih : (after (at_ 0b001000_00001_001_01_0001001000110100 0x5555555555555555 0)).reg 1 = 0x5555555512345555 := by decide +kernel
/-- R139: 1 + 2 = 3 in FP32. -/
theorem test_fadd : (after (at_ 0b000001_00011_00001_00010_10_0000_10_000 0x3F800000 0x40000000)).reg 3 = 0x40400000 := by decide +kernel
/-- R139, R81: 1 / 0 is +∞ and sets DZ. -/
theorem test_fdiv_zero : (after (at_ 0b000001_00011_00001_00010_10_0011_10_000 0x3F800000 0)).reg 3 = 0x7F800000 := by decide +kernel
/-- R147: a target that is not a multiple of 4 raises ALIGN with SUB 1. -/
theorem test_jalr_misaligned : (after (at_ 0b000001_00011_00001_00000_11000000000 6 0)).me.trapcause = 0x010007 := by decide +kernel
/-- R146: BEQ of equal registers goes 4 × disp on. -/
theorem test_beq_taken : (after (at_ 0b001010_00001_00010_0000000000000100 9 9)).me.pc = 16 := by decide +kernel
/-- R146: JAL links and jumps back by 4. -/
theorem test_jal : (after (at_ 0b001001_00001_111111111111111111111 0 0)).me.pc = -4 := by decide +kernel
/-- R143: STD stores eight bytes, lowest first. -/
theorem test_std : (after (at_ 0b100001_00001_00010_011_0000000001000 0x100 0x1122334455667788)).byte (scratchBase 0 + 0x108) = 0x88 := by
  decide +kernel
/-- R143: LDB sign-extends; byte 3 of the instruction LDB s3, s1, 3 itself is 0x80. -/
theorem test_ldb : (after (at_ 0b100000_00011_00001_000_0000000000011 0 0)).reg 3 = -128 := by decide +kernel
/-- R144: a misaligned load raises ALIGN with TRAPADDR the address. -/
theorem test_ldd_misaligned : (after (at_ 0b100000_00011_00001_110_0000000000000 9 0)).me.trapaddr = 9 := by decide +kernel
/-- R259: AMOSWAP writes the 4 bytes of s2, here over the instruction itself. -/
theorem test_amoswap : (after (at_ 0b100010_00011_00000_00010_00000000110 0 5)).read (scratchBase 0) 4 = 5 := by decide +kernel
/-- R236: a fetch beyond 2^52 raises ACCESS with SUB 1. -/
theorem test_fetch_beyond : (after { user (fun x => { x with pc := 0x10000000000000 }) with cur := 0 }).me.trapcause = 0x010009 := by decide +kernel
/-- R45: user mode ignores a write of VL. -/
theorem test_mtc_vl_ignored : (after (at_ 0b111010_00000_00001_0001_000000010000 8 0)).me.vl = 0 := by decide +kernel
/-- R148: a read of TRAPCAUSE in user mode raises PRIV. -/
theorem test_mfc_priv : (after (at_ 0b111010_00011_00000_0000_000100000000 0 0)).me.trapcause = 0x02 := by decide +kernel
/-- R150: TRAP 5 raises BREAK with SUB 0xFF and TRAPADDR 5. -/
theorem test_trap : (after (at_ 0b111010_00000_00000_0010_000000000101 0 0)).me.trapaddr = 5 := by decide +kernel
theorem test_trap_cause : (after (at_ 0b111010_00000_00000_0010_000000000101 0 0)).me.trapcause = 0xFF000D := by decide +kernel
/-- R151: KRET in user mode raises PRIV. -/
theorem test_kret_priv : (after (at_ 0b111010_00000_00000_0011_000000000000 0 0)).me.kernel = true := by decide +kernel
/-- R152, R334: EXIT ends the front. -/
theorem test_exit : ((after (at_ 0b111010_00000_00000_0100_000000000000 0 0)).slot 0).state = 3 := by decide +kernel
/-- R103: a word of zeros raises ILLEGAL. -/
theorem test_illegal : (after (at_ 0 0 0)).me.trapcause = 1 := by decide +kernel
/-- R411: BRK 3 raises BREAK with SUB 3. -/
theorem test_brk : (after (at_ 0b111100_00000_00000_0000_0000_0_0000011 0 0)).me.trapcause = 0x03000D := by decide +kernel
/-- R158: CARVE writes its entry. -/
theorem test_carve : (after (at_ 0b101000_000001_000000_00001_000000000 (block 0 5 1 8) 0)).me.entry 1 = block 0 5 1 8 := by decide +kernel
/-- R161: SETVLI grants the capacity of 8. -/
theorem test_setvli : (after ((at_ 0b101001_000001_000000_00100000_000000 0 0).modFront 0 fun x => x.setEntry 1 (block 0 5 1 8))).me.vl =
    0xA08 := by decide +kernel
/-- R69: VADD is pushed, and VSN advances. -/
theorem test_vadd_pushed : (after ((at_ 0b010000_000001_000001_000001_00_000000 0 0).modFront 0 fun x => x.setEntry 1 (block 0 5 1 8))).me.vsn =
    1 := by decide +kernel
/-- R61: VADD on a name without an entry raises EDGE with SUB 1. -/
theorem test_vadd_undefined : (after (at_ 0b010000_000001_000010_000011_00_000000 0 0)).me.trapcause = 0x010003 := by decide +kernel
/-- R310: STEP advances GSTEP. -/
theorem test_step : (after (at_ 0b110101_00011_00000_00000_00000000001 0 0)).me.gstep = 1 := by decide +kernel
/-- R302: XQUERY of a handle that no job has answers 0. -/
theorem test_xquery : (after (at_ 0b101110_00001_00010_00000_00000000011 5 0)).reg 1 = 0 := by decide +kernel
/-- R304: WAITW on a doubleword that equals its operand goes on. -/
theorem test_waitw : (after (at_ 0b101110_00001_00010_00011_00000000101 8 0)).me.wait = .no := by decide +kernel
/-- R350: CLAIM of a counter with NEXT 0 and LIMIT 0 grants nothing. -/
theorem test_claim : (after ((at_ 0b101111_00001_00010_00011_00000000100 0x100 9).modFront 0 fun x => (x.setEntry 1 (block 0 5 1 8)).setReg 3 1)).reg 3 =
    0 := by decide +kernel

/-! ### One issue of a queued instruction: results by hand from the rules named -/

/-- What a push of `vl` elements with all active has captured, over 64 columns. -/
def capOf (names regs : List Word) (vl : Nat) : Capture :=
  { vl := word vl, vmc := 0, vst := 8, vstart := 0, fcr := 0, gstep := 0, spbase := 0, kern := false, first := 0, width := 64
    scalars := regs, names := names, gens := names.map fun _ => 0, groups := [], fmt := 0, decay := [], pops := [], stores := [] }

/-- A package whose front 0 has one instruction queued, on a core with the cells and tags given. -/
def queued (i : Instr) (names regs : List Word) (vl : Nat) (plane : List (Nat × BitVec 32)) (tags : List (Nat × Byte)) : State :=
  (user fun x => { x with queue := [newEntry i 0 (capOf names regs vl)], vsn := 1 }).modCore 0 fun k =>
    { k with plane := plane, tags := tags }

/-- The first core after the instruction at the head of the queue of front 0 has been issued as far as it goes. -/
def issued (s : State) : Core := (next (exec (.instructionIssue 0 0 512) s)).core 0

/-- The trap recorded at the head of the queue. -/
def trapOf (s : State) : Option TrapRec := ((next (exec (.instructionIssue 0 0 512) s)).front 0).queue.head?.bind (·.trap)

/-- R169: 32-bit integers; the tag of INT32 is 5. -/
theorem test_vadd : (issued (queued (.vadd 1 2 3 0) [block 4 5 1 2, block 0 5 1 2, block 1 5 1 2] [] 2
    [(0, 7), (1, 0xFFFFFFFF), (64, 1), (65, 2)] [(0, 5), (1, 5), (64, 5), (65, 5)])).cell 257 = 1 := by decide +kernel
/-- R63: a source without an integer tag raises FORMAT at its element. -/
theorem test_vadd_format : trapOf (queued (.vadd 1 2 3 0) [block 4 5 1 2, block 0 5 1 2, block 1 5 1 2] [] 2 [] [(0, 5), (64, 5)]) =
    some ⟨5, 0, 1, 0, 0⟩ := by decide +kernel
/-- R169: saturation of 0x7FFFFFFF + 1. -/
theorem test_vsadd : (issued (queued (.vsadd 1 2 3 0) [block 4 5 1 1, block 0 5 1 1, block 1 5 1 1] [] 1 [(0, 0x7FFFFFFF), (64, 1)]
    [(0, 5), (64, 5)])).cell 256 = 0x7FFFFFFF := by decide +kernel
/-- R169: VSRA by an immediate of 4 keeps the sign. -/
theorem test_vsra : (issued (queued (.vsraImm 1 2 4) [block 4 5 1 1, block 0 5 1 1] [] 1 [(0, 0x80000000)] [(0, 5)])).cell 256 = 0xF8000000 := by
  decide +kernel
/-- R171: VSPLAT writes 16-bit elements, two in a cell. -/
theorem test_vsplat : (issued (queued (.vsplat 1 2) [block 4 4 1 2] [0x1234] 2 [] [])).cell 256 = 0x12341234 := by decide +kernel
/-- R178: 1 + 1 = 2 in FP32, tag 11. -/
theorem test_vfadd : (issued (queued (.vfadd 1 2 3 0 false) [block 4 5 1 1, block 0 5 1 1, block 1 5 1 1] [] 1 [(0, 0x3F800000), (64, 0x3F800000)]
    [(0, 11), (64, 11)])).cell 256 = 0x40000000 := by decide +kernel
/-- R189: VSLIDEUP by 1 leaves element 0 and moves element 0 to 1. -/
theorem test_vslideup : (issued (queued (.vslideupImm 1 2 1) [block 4 5 1 2, block 0 5 1 2] [] 2 [(0, 7), (1, 8), (256, 9)] [])).plane =
    [(0, 7), (1, 8), (256, 9), (257, 7)] := by decide +kernel
/-- R166: VCMP.LT sets bit 0 of m1 for −1 < 1. -/
theorem test_vcmp : ((next (exec (.instructionIssue 0 0 9) (queued (.vcmpLt 1 2 3 0) [block 0 5 1 1, block 1 5 1 1] [] 1 [(0, 0xFFFFFFFF), (64, 1)]
    [(0, 5), (64, 5)]))).front 0).mask 1 = 1 := by decide +kernel
/-- R167: MSET of 3. -/
theorem test_mset : ((next (exec (.instructionIssue 0 0 9) (queued (.mset 1 2) [] [3] 1 [] []))).front 0).mask 1 = 7 := by decide +kernel
/-- R173: VLD of 32-bit elements from byte 0 of the scratchpad, where the instruction stands. -/
theorem test_vld : (issued ({ queued (.vld 1 2) [block 4 5 1 1] [0x100] 1 [] [] with mem := putBytes [] (scratchBase 0 + 0x100) [1, 2, 3, 4] })).cell 256 =
    0x04030201 := by decide +kernel
/-- R173: a misaligned VST raises ALIGN with SUB 2. -/
theorem test_vst_misaligned : trapOf (queued (.vst 1 2) [block 4 5 1 1] [0x102] 1 [] []) = some ⟨7, 2, 0, 0x102, 0⟩ := by decide +kernel
/-- R223: MWR of FP16 1.0 (tag 9) writes FP32 1.0 to C(0, 0). -/
theorem test_mwr : (issued (queued (.mwr 2 1 0) [block 0 4 1 1] [word (2 ^ 22)] 1 [(0, 0x3C00)] [(0, 9)])).car 0 = 0x3F800000 := by decide +kernel
/-- R192: VREDSUM of INT32 elements 1 and 2. -/
theorem test_vredsum : (issued (queued (.vredsum 1 2 0) [block 4 5 1 1, block 0 5 1 2] [] 2 [(0, 1), (1, 2)] [(0, 5), (1, 5)])).cell 256 = 3 := by
  decide +kernel
/-- R163: RETAG writes the tag of the whole name. -/
theorem test_retag : (issued (queued (.retag 1 11) [block 4 5 1 2] [] 0 [] [])).tag 257 = 11 := by decide +kernel

/-! ### Events -/

/-- R330: a doorbell. -/
theorem test_doorbell : ((next (exec (.wqDoorbell 5 7) State.reset)).queue 5).tail = 7 := by decide +kernel
/-- R421: PWRCAP above 2,100 stores 2,100. -/
theorem test_pwrcap : (next (exec (.pwrcapWrite .host 4000) State.reset)).pkg.pwrcap = 2100 := by decide +kernel
/-- The header of an image whose code is one byte too long. -/
def longImage : Image := ⟨[0, 0, 0, 0, 1, 0, 0, 1], []⟩
/-- R418: an image whose code is too long leaves BOOTERR 1. -/
theorem test_firmware : (next (exec (.firmwareCheckDone longImage) State.reset)).pkg.booterr = 1 := by decide +kernel
/-- R415: a die admitted at ROM makes BASE. -/
theorem test_admit : (next (exec (.dieAdmitted 3) { State.reset with pkg := { Package.reset with level := 1 } })).pkg.level = 2 := by decide +kernel
/-- R241: TINVC.ALL sets BUSY, and the end clears it. -/
theorem test_tinvc : (next (exec .tinvcAll State.reset)).pkg.tinvBusy = true := by decide +kernel
/-- R332: an LOPEN attempt on an empty queue answers 1. -/
theorem test_lopen_empty : (next (exec (.lopen 3) State.reset)).pkg.lresErr = 1 := by decide +kernel
/-- R413: a reset discards the fronts. -/
theorem test_power_on : (next (exec .powerOn (at_ 0 5 5))).fronts = [] := by decide +kernel
/-- R413: RSTREQ from the kernel is ignored. -/
theorem test_rstreq_kernel : (next (exec (.rstreq .kernel) (at_ 0 5 5))).reg 1 = 5 := by decide +kernel
/-- R379: the watchdog raises WATCHDOG. -/
theorem test_watchdog : ((next (exec (.watchdog 0) ((user fun x => { x with idle := 9 }).modDie 0 fun d => { d with wdlim := 9 }))).front 0).trapcause =
    0x13 := by decide +kernel
/-- R386: a flit on a link that is down is discarded. -/
theorem test_flit_down : next (exec (.flitReceive 0 (List.replicate 256 0)) State.reset) = State.reset := by decide +kernel

/-! ### For each statement, a state and operands that meet its hypotheses -/

/-! ### The hypotheses of the statements are met: one theorem for each, with a state and operands for each of its cases -/

/-- Front 0 with s1 = a, at the pc of byte 0. -/
def reg1 (a : Word) : State := at_ 0 a 5

theorem witness_IntegerOps : (at_ 0 7 5).reg 2 ≠ 0 := by decide +kernel

/-- A target that is a multiple of 4, and one that is not, the front ready for a trap. -/
theorem witness_Jumps : (((reg1 8).reg 1 + 4 * (1 : BitVec 9).signExtend 64).toNat % 4 = 0) ∧
    ((reg1 9).reg 1 + 4 * (1 : BitVec 9).signExtend 64).toNat % 4 ≠ 0 ∧ (reg1 9).trapReady 7 := by
  refine ⟨by decide +kernel, by decide +kernel, by decide +kernel, .inl (by decide +kernel)⟩

/-- The last doubleword of the scratchpad window, read, written and both; and an address that is misaligned for every size but one. -/
theorem witness_ScalarLoads : ([1, 2, 4, 8].all fun n => ((reg1 327672).reg 1 + (0 : BitVec 13).signExtend 64).toNat % n == 0 &&
    okAnd (translate (reg1 327672).ctx 327672 .read (reg1 327672)) fun l t => l == .mem (scratchBase 0 + 327672) &&
      !t.errAt (scratchBase 0 + 327672) n && !t.badAt (scratchBase 0 + 327672) n) = true ∧
    ([2, 4, 8].all fun n => ((reg1 327671).reg 1 + (0 : BitVec 13).signExtend 64).toNat % n != 0) = true ∧ (reg1 327671).trapReady 7 := by
  refine ⟨by decide +kernel, by decide +kernel, by decide +kernel, .inl (by decide +kernel)⟩
theorem witness_ScalarStores : ([1, 2, 4, 8].all fun n => ((reg1 327672).reg 1 + (0 : BitVec 13).signExtend 64).toNat % n == 0 &&
    okAnd (translate (reg1 327672).ctx 327672 .write (reg1 327672)) fun l t => l == .mem (scratchBase 0 + 327672) &&
      !t.partErr (scratchBase 0 + 327672) n && !t.partBad (scratchBase 0 + 327672) n) = true ∧
    ([2, 4, 8].all fun n => ((reg1 1).reg 1 + (0 : BitVec 13).signExtend 64).toNat % n != 0) = true ∧ (reg1 1).trapReady 7 := by
  refine ⟨by decide +kernel, by decide +kernel, by decide +kernel, .inl (by decide +kernel)⟩
theorem witness_Atomics : ([4, 8].all fun n => ((reg1 0).reg 1).toNat % n == 0 &&
    okAnd (translate (reg1 0).ctx 0 .both (reg1 0)) fun l t => l == .mem (scratchBase 0) && !t.errAt (scratchBase 0) n && !t.badAt (scratchBase 0) n) =
      true ∧ ([4, 8].all fun n => ((reg1 2).reg 1).toNat % n != 0) = true ∧ (reg1 2).trapReady 7 := by
  refine ⟨by decide +kernel, by decide +kernel, by decide +kernel, .inl (by decide +kernel)⟩

/-- A micro-TLB entry of front 0 whose leaf has the bits RD to KO given, for the page of 4 GiB, in the vault of die 0. -/
def tlbState (bits : Nat) : State := (reg1 0).modCore 0 fun k =>
  { k with utlb := [{ asid := 0, base := 2 ^ 32, size := 0, leaf := 1 + bits * 4 + 0x6000000000, unit := 0, stride := 0, index := 0 }] }
/-- Its context, in user or kernel mode. -/
def tlbCtx (user : Bool) : Ctx := ⟨.front 0, 0, 0, user, 0⟩
/-- The entry found, with its bits. -/
def tlbFound (n : Nat) (p : Bool → Bool → Bool → Bool → Bool) : Bool :=
  match ((tlbState n).core 0).utlb.find? (fun x => x.hit 0 (2 ^ 32)) with
  | some e => p (bit e.leaf 2) (bit e.leaf 3) (bit e.leaf 4) (bit e.leaf 5) && bits e.leaf 9 8 == 0 &&
      inVault (bits e.leaf 49 16 * 2 ^ 16 / pageBytes e.size * pageBytes e.size + 2 ^ 32 % pageBytes e.size)
  | none => false

/-- The first and the last byte of the window; the first address beyond 52 bits; an address in neither, whose page denies RD, WR, EX, and KO in
user mode, and one that allows all. -/
theorem witness_AddressTranslation : ((tlbCtx true).spbase ≤ 0 ∧ 327679 < (tlbCtx true).spbase + 327680) ∧
    ¬ ((tlbCtx true).spbase ≤ 2 ^ 52 ∧ 2 ^ 52 < (tlbCtx true).spbase + 327680) ∧
    ¬ ((tlbCtx true).spbase ≤ 2 ^ 32 ∧ 2 ^ 32 < (tlbCtx true).spbase + 327680) ∧ 2 ^ 32 < 2 ^ 52 ∧
    tlbFound 0b0110 (fun rd _ _ _ => !rd) = true ∧ tlbFound 0b0101 (fun rd wr _ _ => rd && !wr) = true ∧
    tlbFound 0b0011 (fun _ _ ex _ => !ex) = true ∧ tlbFound 0b1111 (fun rd wr ex ko => rd && wr && ex && ko) = true ∧
    tlbFound 0b0111 (fun rd wr ex ko => rd && wr && ex && !ko) = true := by decide +kernel

/-- An address of 2^52, aligned for every size: each access of it stops. -/
theorem witness_ScalarAccessFaults : ([Need.read, .write, .both].all fun n =>
      stopsWith (translate (reg1 (2 ^ 52)).ctx (2 ^ 52) n (reg1 (2 ^ 52))) ⟨9, 1, 0, 2 ^ 52, 0⟩) = true ∧
    (((reg1 (2 ^ 52)).reg 1 + (0 : BitVec 13).signExtend 64).toNat = 2 ^ 52 ∧ 2 ^ 52 % 8 = 0) ∧ (reg1 (2 ^ 52)).trapReady 9 := by
  refine ⟨by decide +kernel, by decide +kernel, by decide +kernel, .inl (by decide +kernel)⟩

theorem witness_ScalarFloat : CvtTy.isInt .uint64 = true := rfl

/-- An entry of a queue that no test looks into. -/
def filler : QEntry := newEntry (.vmv 0 0) 0 (Front.reset.capture (0, 64) (PushSpec.plain [] []))

/-- With and without queued instructions; in user mode, in a user handler, and in kernel mode. -/
theorem witness_ReadControlRegisters : (user id).me.queue = [] ∧ (user fun x => { x with queue := [filler] }).me.queue ≠ [] ∧
    (kern id).me.kernel = true ∧ (user fun x => { x with deleg := 2 ^ 31 }).me.ubusy = true ∧
    (user id).me.kernel = false ∧ (user id).me.ubusy = false ∧ (user id).trapReady 2 := by
  refine ⟨by decide +kernel, by decide +kernel, by decide +kernel, by decide +kernel, by decide +kernel, by decide +kernel, by decide +kernel,
    .inl (by decide +kernel)⟩
theorem witness_WriteControlRegisters : (user id).me.queue = [] ∧ (user fun x => { x with queue := [filler] }).me.queue ≠ [] ∧
    (kern id).me.kernel = true ∧ (user fun x => { x with deleg := 2 ^ 31 }).me.ubusy = true ∧
    (user id).me.kernel = false ∧ (user id).me.ubusy = false ∧ (user id).trapReady 2 ∧
    ((reg1 0).reg 1).field 7 3 = 0 ∧ ((reg1 8).reg 1).field 7 3 ≠ 0 := by
  refine ⟨by decide +kernel, by decide +kernel, by decide +kernel, by decide +kernel, by decide +kernel, by decide +kernel,
    ⟨by decide +kernel, .inl (by decide +kernel)⟩, by decide +kernel, by decide +kernel⟩

/-- A trap in user mode; BREAK and STEP in kernel mode; any other cause in kernel mode. -/
theorem witness_TakeTrap : (user id).me.kernel = false ∧ ((255 : Nat) < 256 ∧ (511 : Nat) < 512) ∧ (kern id).me.kernel = true ∧
    (1 : Nat) ≠ 13 ∧ (1 : Nat) ≠ 14 := by decide +kernel

/-- Two active elements with m1 set in none, in one and in both of them; and no active element. -/
def brkState (m : BitVec 256) (vl : Word) : State := user fun x => { x with vl := vl, masks := [(1, m)] }
def brkActive (s : State) : List Nat := (List.range (s.me.vl.field 8 0)).filter fun i =>
  decide (s.me.vstart.field 8 0 ≤ i) && (s.me.vmc.field 4 3 == 0 || (s.me.mask (s.me.vmc.field 2 0)).getLsbD i)
def brkHits (s : State) : List Nat := (brkActive s).filter fun i => (s.me.mask 1).getLsbD i
theorem witness_TrapsAndBreakpoints : (brkState 1 2).trapReady 13 ∧ brkHits (brkState 1 2) ≠ [] ∧ brkHits (brkState 1 2) ≠ brkActive (brkState 1 2) ∧
    brkHits (brkState 0 2) = [] ∧ brkActive (brkState 3 2) ≠ [] ∧ brkHits (brkState 3 2) = brkActive (brkState 3 2) ∧ brkActive (brkState 3 0) = [] ∧
    (user id).trapReady 1 := by
  refine ⟨⟨by decide +kernel, .inl (by decide +kernel)⟩, by decide +kernel, by decide +kernel, by decide +kernel, by decide +kernel,
    by decide +kernel, by decide +kernel, by decide +kernel, .inl (by decide +kernel)⟩

/-- A queue of `n` instructions. -/
def fill (n : Nat) : List QEntry := List.replicate n filler

/-- A return from the kernel and from a user handler with a suspend set that just fits; in user mode; and one that does not fit. -/
theorem witness_KretReturns : ((kern fun x => { x with kernelSet := fill 64 }).me.kernel = true ∧
      (kern fun x => { x with kernelSet := fill 64 }).me.queue.length + (kern fun x => { x with kernelSet := fill 64 }).me.kernelSet.length ≤ 64) ∧
    ((user fun x => { x with deleg := 2 ^ 31, userSet := fill 1 }).me.ubusy = true ∧
      (user fun x => { x with deleg := 2 ^ 31, userSet := fill 1 }).me.kernel = false ∧
      (user fun x => { x with deleg := 2 ^ 31, userSet := fill 1 }).me.userSet.length ≤ 64) ∧
    ((user id).me.ubusy = false ∧ (user id).me.kernel = false ∧ (user id).trapReady 2) ∧
    64 < (kern fun x => { x with queue := fill 1, kernelSet := fill 64 }).me.queue.length +
      ((kern fun x => { x with queue := fill 1, kernelSet := fill 64 }).me.kernelSet.filter fun e => !e.done).length ∧
    64 < (user fun x => { x with deleg := 2 ^ 31, queue := fill 1, userSet := fill 64 }).me.queue.length +
      ((user fun x => { x with deleg := 2 ^ 31, queue := fill 1, userSet := fill 64 }).me.userSet.filter fun e => !e.done).length := by
  refine ⟨by decide +kernel, by decide +kernel, ⟨by decide +kernel, by decide +kernel, by decide +kernel, .inl (by decide +kernel)⟩, by decide +kernel,
    by decide +kernel⟩

theorem witness_ExitEndsFront : (user id).me.queue = [] ∧ (user id).me.task = none ∧ (user fun x => { x with queue := fill 1 }).me.queue ≠ [] := by
  decide +kernel

/-- A store in the queue, and none. -/
theorem witness_FencesAtTheFront : (user id).me.queue.all (fun e => !e.memPending) = true ∧
    (user fun x => { x with queue := [{ filler with instr := .vst 1 2 }] }).me.queue.all (fun e => !e.memPending) = false := by decide +kernel

/-- A packet at byte 0x100, with the window closed and open, and with an instruction queued. -/
theorem witness_CaptureWindows : ((reg1 0x101).reg 1).toNat % 256 ≠ 0 ∧ (reg1 0x101).trapReady 7 ∧ ((reg1 0x100).reg 1).toNat % 256 = 0 ∧
    ((reg1 0x100).modFront 0 fun x => { x with dbgctl := 2 }).me.dbgctl.flag 1 = true ∧ (reg1 0x100).me.dbgctl.flag 1 = false ∧
    okAnd (translate (reg1 0x100).ctx 0x100 .write (reg1 0x100)) (fun l t => l == .mem (scratchBase 0 + 0x100) &&
      !t.errAt (scratchBase 0 + 0x100) 128 && !t.badAt (scratchBase 0 + 0x100) 128) = true ∧
    (user fun x => { x with dbgctl := 2, queue := fill 1 }).me.queue ≠ [] ∧ (user fun x => { x with dbgctl := 2 }).me.queue = [] ∧
    okAnd (translate (user fun x => { x with dbgctl := 2 }).ctx 128 .write (user fun x => { x with dbgctl := 2 })) (fun l t =>
      l == .mem (scratchBase 0 + 128) && !t.errAt (scratchBase 0 + 128) 128 && !t.badAt (scratchBase 0 + 128) 128) = true := by
  refine ⟨by decide +kernel, ⟨by decide +kernel, .inl (by decide +kernel)⟩, by decide +kernel, by decide +kernel, by decide +kernel,
    by decide +kernel, by decide +kernel, by decide +kernel, by decide +kernel⟩

/-- Front 0 with 64 columns, VL = `n`, and entries: v1, v2 of 32 bits, v4 of 16, v5 and v10 of 8, v6 of 64, v8 and v9 of 4 and 2 bits; slot 0 an
8-bit integer, slot 1 a 6-bit format in two planes, slot 2 an 8-bit format with a scale for 16 elements. -/
def vecState (n : Nat) (g : Front → Front) : State := user fun x => g { x with
  vl := word n
  carve := [(1, block 0 5 1 2), (2, block 1 5 1 2), (4, block 2 4 1 2), (5, block 3 3 1 2), (6, block 4 6 1 2), (8, block 5 2 1 8), (9, block 6 1 1 16),
    (10, block 7 3 1 2)]
  fmt := [(0, word (8 + 16 + 7 * 2 ^ 9)), (1, word (6 + 16 + 3 * 2 ^ 5 + 2 * 2 ^ 9)), (2, word (8 + 16 + 4 * 2 ^ 5 + 3 * 2 ^ 9 + 2 ^ 42))]
  regs := [(1, word 2), (2, word (2 ^ 22)), (3, word (1 + 2 * 2 ^ 16)), (4, word (2 * 2 ^ 16))] }

/-- No check of the push fails. -/
def pushable (s : State) (p : PushSpec) : Bool := s.me.queue.length < 64 && (s.me.pushCheck (s.me.capture (s.window s.cur) p) p).isNone

theorem witness_CheckedVectorPushes : ([cvtSpec 1 4 11 9, groupSpec 5 4 0 0 true (fun _ => true) 16, groupSpec 4 5 0 1 true (fun _ => true) 16,
    groupSpec 8 5 1 0 false planar 8, groupSpec 5 8 1 1 false planar 8, scalebSpec 5 4 2, redSpec 1 2 0, scanSpec 1 2 0, topkSpec 1 2 3 0,
    histSpec 1 2 1, nameSpec (asDst 1) [], nameSpec (asSrc 1) [3], nameSpec (asDst 1) [3], mmaSpec 4 4 0, mmnSpec 5 5 none 0,
    mmnSpec 5 5 (some 10) 2, carSpec (asDst 4) 4 0, carSpec (asSrc 4) 4 0].map (pushable (vecState 2 id))) = List.replicate 18 true := by
  decide +kernel

theorem witness_MemoryAndJobPushes : ([strideMem (asDst 1) 0, strideMem (asSrc 1) 0, indexMem (asDst 1) 0 2, indexMem (asSrc 1) 0 2,
    scaddMem 1 0 2 5, recordMem (asDst 1) [0] 6, recordMem (asSrc 1) [0] 6, recordMem (asSrc 1) [2, 3] 6, windowMem 1 0 6, agedMem (asDst 1) 0 32,
    agedMem (asSrc 1) 0 32, agedMem (asSrc 6) 0 64, jobSpec 0 0 0, gathSpec 0 0 0 1].map (pushable (vecState 2 id))) =
    List.replicate 14 true := by decide +kernel

/-- The entry of a name fits, at the bounds: its last row is 511, and VL.LEN is the capacity and VLMAX. -/
def edgeFront (x : Front) : Front := { x with vl := 256, carve := [(1, block 508 5 4 64), (2, block 508 5 4 64), (3, block 0 4 256 1)] }
theorem fits_edge (v : VName) (h : (user edgeFront).me.entry v.toNat = block 508 5 4 64 := by decide +kernel) : (user edgeFront).fits v := by
  refine ⟨?_, ?_, ?_, ?_, ?_, ?_, ?_, ?_⟩ <;> rw [h] <;> decide +kernel
theorem witness_PlainVectorPushes : (user edgeFront).canPush ∧ (user edgeFront).fits 1 ∧ (user edgeFront).fits 2 ∧
    (user edgeFront).ew 1 = (user edgeFront).ew 2 :=
  ⟨⟨by decide +kernel, by decide +kernel⟩, fits_edge 1, fits_edge 2, by decide +kernel⟩
theorem fits_edge16 : (user edgeFront).fits 3 := by refine ⟨?_, ?_, ?_, ?_, ?_, ?_, ?_, ?_⟩ <;> decide +kernel
/-- The same of the floating-point forms. -/
theorem witness_PlainVectorPushes_floats : (user edgeFront).canPush ∧ (user edgeFront).fits 1 ∧ (user edgeFront).ew 1 = 32 ∧ (user edgeFront).fits 3 ∧
    (user edgeFront).ew 3 = 16 := ⟨⟨by decide +kernel, by decide +kernel⟩, fits_edge 1, by decide +kernel, fits_edge16, by decide +kernel⟩

/-- A rectangle of two rows to bind, with a record name of 64 bits; and the close of a name that is bound, and of one that is not. -/
def bindState : State := vecState 2 fun x => x.setEntry 1 (block 0 5 2 2)
def unbindSpec : PushSpec := { PushSpec.plain [asNone 1] [] with width := fun c => firstWidth [narrowEw c] }
def boundState : State :=
  bindState.modFront 0 fun x => { x with binds := [(3, ⟨1, false, 0, 0, 0, 0, block 0 5 2 2, 0, 0, false, [], false, false, none⟩)] }
theorem witness_StreamPushes : pushable bindState (sbindSpec bindState.me 1 0 6) = true ∧ bindState.me.binds.length < 4 ∧
    pushable bindState unbindSpec = true ∧ bindState.me.bindOf 1 = none ∧ pushable boundState unbindSpec = true ∧
    (boundState.me.bindOf 1).isSome = true := by decide +kernel

/-- An integer instruction on entries that fit; a first entry that is not valid; a second that is not, has the reserved width, or another width; and
a full queue. -/
def badEntry (e : Word) : State := vecState 2 fun x => x.setEntry 2 e
theorem witness_PushChecks : (exec (.vmv 1 2) (badEntry 0) = push (.vmv 1 2) (unSpec 1 2) (badEntry 0)) ∧
    (match (badEntry 0).me.pushCheck ((badEntry 0).me.capture ((badEntry 0).window 0) (unSpec 1 2)) (unSpec 1 2) with
      | some r => decide (r.cause = 3 ∧ r.sub < 256 ∧ r.elem < 512)
      | none => false) = true ∧ (badEntry 0).trapReady 3 ∧
    64 ≤ (user fun x => { x with queue := fill 64 }).me.queue.length ∧
    ((badEntry 0).canPush ∧ (badEntry 0).me.queue = [] ∧ (badEntry 0).me.kernel = false) ∧ dValid ((badEntry 0).me.entry 2) = false ∧
    (dValid ((badEntry (block 1 7 1 2)).me.entry 2) = true ∧ dEw ((badEntry (block 1 7 1 2)).me.entry 2) = 7) ∧
    (badEntry 0).fits 1 ∧ (badEntry 0).fits 4 ∧ (badEntry 0).ew 4 ≠ (badEntry 0).ew 1 := by
  refine ⟨rfl, by decide +kernel, ⟨by decide +kernel, .inl (by decide +kernel)⟩, by decide +kernel, ⟨⟨by decide +kernel, by decide +kernel⟩,
    by decide +kernel, by decide +kernel⟩, by decide +kernel, by decide +kernel, ?_, ?_, by decide +kernel⟩ <;>
  refine ⟨?_, ?_, ?_, ?_, ?_, ?_, ?_, ?_⟩ <;> decide +kernel

/-- Entries that are not valid, that fit, of the reserved width, beyond the window; sums of offsets below 0 and above 511 or 2047. -/
theorem fits_block (w : Nat) (h : w = 64) : EntryFits (block 508 5 4 64) w 0 := by
  subst h
  refine ⟨?_, ?_, ?_, ?_, ?_, ?_, ?_, ?_⟩ <;> decide +kernel
def row0Of (s : State) (v : VName) (b : SReg) : Int := (s.me.entry v.toNat).field 10 2 + ((s.reg b).setWidth 16).toInt
def posOf (s : State) (v : VName) (b : SReg) : Int := (s.me.entry v.toNat).field 21 11 + (((s.reg b) >>> 16).setWidth 16).toInt
def carveState (b : Word) : State := user fun x => { x with carve := [(1, block 508 5 4 64)], regs := [(1, b)] }
theorem witness_CarveEntries : dValid ((carveState 0).reg 1) = false ∧ EntryFits (block 508 5 4 64) ((carveState (block 508 5 4 64)).window 0).2 0 ∧
    (dValid (block 0 7 1 1) = true ∧ dEw (block 0 7 1 1) = 7) ∧
    (dValid (block 0 5 1 65) = true ∧ dEw (block 0 5 1 65) ≠ 7 ∧ (block 0 5 1 65).field 63 50 = 0 ∧ epw 64 32 ≤ dLastPos (block 0 5 1 65)) ∧
    (carveState 0).trapReady 3 ∧ dValid ((carveState 0).me.entry 2) = false ∧ dValid ((carveState 0).me.entry 1) = true ∧
    511 < row0Of (carveState 4) 1 1 ∧ row0Of (carveState 0xFE00) 1 1 < 0 ∧ row0Of (carveState 3) 1 1 = 511 ∧
    (0 ≤ row0Of (carveState 0xFFFF0000) 1 1 ∧ posOf (carveState 0xFFFF0000) 1 1 < 0) ∧ 2047 < posOf (carveState 0x08000000) 1 1 ∧
    ((block 508 5 4 64).field 10 2 : Int) = row0Of (carveState 0) 1 1 ∧ ((block 508 5 4 64).field 21 11 : Int) = posOf (carveState 0) 1 1 := by
  refine ⟨by decide +kernel, fits_block _ (by decide +kernel), by decide +kernel, by decide +kernel, ⟨by decide +kernel, .inl (by decide +kernel)⟩,
    by decide +kernel, by decide +kernel, by decide +kernel, by decide +kernel, by decide +kernel, by decide +kernel, by decide +kernel,
    by decide +kernel, by decide +kernel⟩

/-- The columns that front 0 owns after the strip boundary. -/
def newOwn0 (s : State) : Nat := min (s.core 0).target (64 - (s.core 0).own1)
theorem witness_VectorLength : newOwn0 (carveState 0) = 64 ∧ EntryFits ((carveState 0).me.entry 1) ((((carveState 0).core 0).setOwn 0 64).window 0).2 0 ∧
    newOwn0 ((carveState 0).modCore 0 fun k => { k with target := 0 }) = 0 ∧ dValid ((carveState 0).me.entry 1) = true ∧
    dValid ((carveState 0).me.entry 2) = false ∧ (carveState 0).trapReady 3 := by
  have h : (carveState 0).me.entry 1 = block 508 5 4 64 := by decide +kernel
  refine ⟨by decide +kernel, by rw [h]; exact fits_block _ (by decide +kernel), by decide +kernel, by decide +kernel, by decide +kernel,
    ⟨by decide +kernel, .inl (by decide +kernel)⟩⟩

theorem witness_LaneRequests : ([7, 0, 72].all fun n => (n : Nat) % 8 != 0 || n < 8 || 64 < n) = true ∧
    ((user id).modCore 0 fun k => { k with lock := true }).core 0 = { (user id).core 0 with lock := true } ∧
    ([8, 64].all fun n => ((reg1 (word n)).reg 1).field 6 0 % 8 == 0 && decide (8 ≤ ((reg1 (word n)).reg 1).field 6 0 ∧ ((reg1 (word n)).reg 1).field 6 0 ≤ 64))
      = true ∧ ((user id).core 0).lock = false ∧ ((user id).core 0).lanemap = 0 := by decide +kernel

/-- A name that fits, with nothing queued; with a write of it queued, and a write of m1; a mask with the bits 0 and 1 below VL, and none. -/
def readState (q : List QEntry) (m : BitVec 256) : State := user fun x =>
  { x with vl := 2, carve := [(1, block 508 5 4 64)], queue := q, masks := [(1, m)] }
def pendingMv : QEntry := newEntry (.vmv 1 1) 0 (capOf [block 508 5 4 64, block 508 5 4 64] [] 1)
def pendingMset : QEntry := newEntry (.mset 1 0) 0 (capOf [] [0] 1)
theorem witness_VectorStateReads : EntryFits ((readState [] 0).me.entry 1) ((readState [] 0).window 0).2 0 ∧
    (readState [] 0).readWaits (elemCells (block 508 5 4 64) 0 0) = false ∧
    badCell? ((readState [] 0).core 0) (elemCells (block 508 5 4 64) 0 0) true = none ∧
    (readState [pendingMv] 0).readWaits (elemCells (block 508 5 4 64) 0 0) = true ∧ dValid ((readState [] 0).me.entry 2) = false ∧
    (readState [] 0).trapReady 3 ∧ (readState [] 0).me.writing [maskKey 1] = false ∧ (readState [pendingMset] 0).me.writing [maskKey 1] = true ∧
    ((List.range ((readState [] 3).me.vl.field 8 0)).filter fun i => ((readState [] 3).me.mask 1).getLsbD i) = [0, 1] ∧
    ((List.range ((readState [] 4).me.vl.field 8 0)).filter fun i => ((readState [] 4).me.mask 1).getLsbD i) = [] := by
  have h : (readState [] 0).me.entry 1 = block 508 5 4 64 := by decide +kernel
  refine ⟨by rw [h]; exact fits_block _ (by decide +kernel), by decide +kernel, by decide +kernel, by decide +kernel, by decide +kernel,
    ⟨by decide +kernel, .inl (by decide +kernel)⟩, by decide +kernel, by decide +kernel, by decide +kernel, by decide +kernel⟩

/-- A job of front 0 with handle 7: a copy whose pair is at byte 0x200 of the scratchpad. -/
def aJob (running moved : Bool) : Job :=
  { fid := 0, rank := 0, handle := 7, lid := 0, asid := 0, core := 0, user := true, instr := .xcopy 1 2 3 false, card := [], pair := 0x200
    pairAt := .mem (scratchBase 0 + 0x200), pairPaged := false, cupAt := [], value := 9, running := running, moved := moved, cause := 0, sub := 0, stage := 0, agreed := false, prog := 5, sure := 0, after := none, gstep := 0
    decay := [], acc := [], rows := [], group := [], call := 0, cup := [], plan := none }
def jobState (js : List Job) (q : List QEntry) : State := { user (fun x => { x with queue := q }) with jobs := js }
def pendingJob : QEntry := newEntry (.xcopy 1 2 3 false) 7 (capOf [] [] 0)
theorem witness_JobQueries : (jobState [] []).jobOf 0 7 = none ∧ (jobState [] []).me.queuedJob 7 = false ∧
    (jobState [] [pendingJob]).jobOf 0 7 = none ∧ (jobState [] [pendingJob]).me.queuedJob 7 = true ∧
    (jobState [aJob false false] []).jobOf 0 7 = some (aJob false false) ∧ (jobState [aJob true false] []).jobOf 0 7 = some (aJob true false) ∧
    (jobState [{ aJob true true with stage := 1 }] []).jobOf 0 7 = some { aJob true true with stage := 1 } ∧
    (jobState [{ aJob true false with agreed := true }] []).jobOf 0 7 = some { aJob true false with agreed := true } := by decide +kernel

/-- A doubleword that equals s2, one that does not, with time left and without; STEP with and without a cupping collective and a DIVERGENCE. -/
def waitState (b lim : Word) (clock : Nat) : State :=
  { user (fun x => { x with regs := [(1, 0x100), (2, b), (3, lim)] }) with clock := clock, pendings := [] }
def divState : State := { user id with pendings := [⟨0, 0, true, 1, 0x40⟩] }
theorem witness_WaitForWordAndStep : ((reg1 4).reg 1).toNat % 8 ≠ 0 ∧ (reg1 4).trapReady 7 ∧ ((waitState 0 5 0).reg 1).toNat % 8 = 0 ∧
    okAnd (translate (waitState 0 5 0).ctx 0x100 .read ((waitState 0 5 0).disarm 0)) (fun l t => l == .mem (scratchBase 0 + 0x100) &&
      !t.errAt (scratchBase 0 + 0x100) 8 && !t.badAt (scratchBase 0 + 0x100) 8 && t.read (scratchBase 0 + 0x100) 8 == 0) = true ∧
    ((waitState 1 5 0).reg 2).toNat ≠ 0 ∧ (waitState 1 0 0).clock + ((waitState 1 0 0).reg 3).toNat ≤ (waitState 1 0 0).clock ∧
    ¬ ((waitState 1 5 0).clock + ((waitState 1 5 0).reg 3).toNat ≤ (waitState 1 5 0).clock) ∧
    (user id).cupping 0 = false ∧ (user id).pendingOf 0 true = none ∧ divState.pendingOf 0 true = some ⟨0, 0, true, 1, 0x40⟩ ∧
    divState.cupping 0 = false ∧ divState.trapReady 0x0C ∧ (jobState [] [newEntry (.cxred 1 2 3 true) 0 (capOf [] [] 0)]).cupping 0 = true := by
  refine ⟨by decide +kernel, ⟨by decide +kernel, .inl (by decide +kernel)⟩, by decide +kernel, by decide +kernel, by decide +kernel, by decide +kernel,
    by decide +kernel, by decide +kernel, by decide +kernel, by decide +kernel, by decide +kernel, ⟨by decide +kernel, .inl (by decide +kernel)⟩,
    by decide +kernel⟩

/-- Doublewords at an offset in the scratchpad of core 0. -/
def poke (a : Nat) (ws : List Nat) (s : State) : State := { s with mem := putBytes s.mem (scratchBase 0 + a) (ws.flatMap (leBytes 8)) }

/-- The stores of `StoresTo`, one after another; none where one stops. -/
def storeAll (c : Ctx) (l : List (Nat × Nat)) (s : State) : Option State :=
  match l with
  | [] => some s
  | (va, v) :: r =>
    match storeVa c va 8 v s with
    | .ok (_, u) => storeAll c r u
    | .error _ => none
theorem storesTo_of (c : Ctx) (l : List (Nat × Nat)) (s t : State) (h : storeAll c l s = some t) : StoresTo c l s t := by
  induction l generalizing s with
  | nil => exact (Option.some.inj h).symm
  | cons p r ih =>
    simp only [storeAll] at h
    split at h
    · next x u hu => exact ⟨u, hu, ih u h⟩
    · cases h

/-- A task descriptor at 0x400 with one type and one queue of 16 records, whose head and tail, open count and credit are given; the type's table is at
0x800 and the records at 0x900. -/
def taskState (head tail opens credit : Nat) (records : List Nat) (g : Front → Front) : State :=
  poke 0x900 records (poke 0x800 [0x40, 1, 0xA00, 0] (poke 0x400 ([0x800, 1 + 2 ^ 16 + opens * 2 ^ 32, 0, 0, 0, 0, 0, 0, 0x900,
    4 + 2 ^ 8 + credit * 2 ^ 16, head + tail * 2 ^ 32] ++ List.replicate 29 0) (user fun x => g { x with regs := [(1, 0x400), (2, 0), (3, 0)] })))

/-- The descriptor, read. -/
def taskRead (s : State) (p : TaskDesc → State → Bool) : Bool := okAnd (readTasks s.ctx 0x400 s) p

/-- TENQ with room and with none; TDONE with a task open, with none, and with a task held; TCANCEL of a queue that there is not, of the tail, of a record
that is past, and of one that waits behind the head. -/
theorem witness_TaskRequests : (user fun x => { x with queue := [{ filler with instr := .vst 1 2 }] }).settled 0 = false ∧
    (taskState 0 0 1 1 [] id).settled 0 = true ∧
    taskRead (taskState 0 15 1 1 [] id) (fun d t => okAnd (readType (taskState 0 15 1 1 [] id).ctx d ⟨0, 0⟩ 0x400 t) fun _ u =>
      decide (0 < d.nq ∧ d.count 0 < d.size 0) &&
      (storeAll (taskState 0 15 1 1 [] id).ctx [(d.slot 0 (d.tail 0), 0), ((d.slot 0 (d.tail 0) + 8) % 2 ^ 64, 0),
        ((0x400 + 8 * 10) % 2 ^ 64, d.head 0 % 2 ^ 32 + (d.tail 0 + 1) % 2 ^ 32 * 2 ^ 32)] u).isSome) = true ∧
    taskRead (taskState 0 16 1 1 [] id) (fun d t => okAnd (readType (taskState 0 16 1 1 [] id).ctx d ⟨0, 0⟩ 0x400 t) fun _ _ =>
      decide (d.size 0 ≤ d.count 0)) = true ∧ (taskState 0 16 1 1 [] id).trapReady 0x10 ∧
    ((taskState 0 0 1 1 [] id).me.task = none ∧ taskRead (taskState 0 0 1 1 [] id) (fun d t => decide (d.opens ≠ 0) &&
      (storeAll (taskState 0 0 1 1 [] id).ctx [((0x400 + 8) % 2 ^ 64, (d.getD 1 0).toNat - 2 ^ 32)] t).isSome) = true) ∧
    taskRead (taskState 0 0 0 1 [] id) (fun d _ => decide (d.opens = 0)) = true ∧
    ((taskState 0 0 1 1 [] fun x => { x with task := some (0x400, 0, 0) }).me.task = some (0x400, 0, 0) ∧
      taskRead (taskState 0 0 1 1 [] fun x => { x with task := some (0x400, 0, 0) }) (fun _ _ => true) = true) ∧
    taskRead (taskState 2 4 1 1 [] id) (fun d t => decide (d.nq ≤ 1 ∧ 4 = d.tail 0 ∧ 0 < d.nq ∧
      d.count 0 < sub32 (d.tail 0) 1 ∧ sub32 (d.tail 0) 1 < d.count 0 + d.size 0 ∧ sub32 (d.tail 0) 3 ≠ 0 ∧ sub32 (d.tail 0) 3 ≤ d.count 0 ∧
      3 ≠ d.head 0) && !t.cancelled.contains ⟨t.me.lid, 0x400, 0, 3⟩ && !t.cancelled.contains ⟨t.me.lid, 0x400, 0, 1⟩ &&
      okAnd (readRec (taskState 2 4 1 1 [] id).ctx (d.slot 0 3) t) fun x u => !x.used && !x.hasParent &&
        (storeAll (taskState 2 4 1 1 [] id).ctx [(d.slot 0 3, x.lo.toNat + 2 ^ 15)] u).isSome) = true := by
  refine ⟨by decide +kernel, by decide +kernel, by decide +kernel, by decide +kernel, ⟨by decide +kernel, .inl (by decide +kernel)⟩, by decide +kernel,
    by decide +kernel, by decide +kernel, by decide +kernel⟩

/-- A record that is ready, taken; nothing there but a task open, or a task held; and nothing at all. -/
def noneReady (s : State) (p : TaskDesc → List Foot → State → Bool) : Bool :=
  taskRead s fun d t => okAnd (chooseQueue s.ctx d 512 327680 ((t.held.filter fun h => h.lid == t.me.lid).map (·.foot)) 0 d.nq t) fun q u =>
    q.isNone && okAnd (renewCredits s.ctx 0x400 d d.nq u) fun e v =>
      okAnd (chooseQueue s.ctx e 512 327680 ((t.held.filter fun h => h.lid == t.me.lid).map (·.foot)) 0 e.nq v) fun q w =>
        q.isNone && p e ((t.held.filter fun h => h.lid == t.me.lid).map (·.foot)) w
theorem witness_TakeTask : (taskState 0 1 1 1 [] id).me.task = none ∧
    taskRead (taskState 0 1 1 1 [] id) (fun d t => okAnd (chooseQueue (taskState 0 1 1 1 [] id).ctx d 512 327680 [] 0 d.nq t) fun q u =>
      match q with
      | some (q, va, r, ty) => okAnd (takeRec (taskState 0 1 1 1 [] id).ctx 0x400 d q va r ty 1 2 3 u) fun _ _ => true
      | none => false) = true ∧
    noneReady (taskState 0 0 1 1 [] id) (fun e _ _ => decide (e.opens ≠ 0)) = true ∧
    noneReady { taskState 0 0 0 1 [] id with held := [⟨0, 0x400, 0, 0, []⟩] } (fun _ h _ => !h.isEmpty) = true ∧
    noneReady (taskState 0 0 0 1 [] id) (fun e h w => decide (e.opens = 0) && h.isEmpty &&
      okAnd (anyPending (taskState 0 0 0 1 [] id).ctx e e.nq w) fun b _ => !b) = true := by decide +kernel

/-- A counter and a panel at 0x400, with a name that fits; misaligned ones. The panel has a row and columns left, and none. -/
def claimState (ws : List Nat) : State := poke 0x400 ws (user fun x => { x with regs := [(1, 0x400), (2, 8), (3, 1)], carve := [(1, block 508 5 4 64)] })
theorem fits_claim (ws : List Nat) (h : (claimState ws).me.entry (((claimState ws).reg 3).field 5 0) = block 508 5 4 64)
    (k : ((((claimState ws).core 0).setOwn 0 (newOwn0 (claimState ws))).window 0).2 = 64) :
    EntryFits ((claimState ws).me.entry (((claimState ws).reg 3).field 5 0)) ((((claimState ws).core 0).setOwn 0 (newOwn0 (claimState ws))).window 0).2 0 := by
  rw [h]
  exact fits_block _ k
def panel (r0 c0 : Nat) : List Nat := [0x1000, 64, 4 + 10 * 2 ^ 32, 2, r0 + c0 * 2 ^ 32, 0, 0, 0]
def panelLeft (s : State) (p : Nat → Nat → Nat → Nat → Nat → Bool) : Bool :=
  let rd_ (o : Nat) := s.read (scratchBase 0 + 0x400 + o) 8
  p (rd_ 0x10 % 2 ^ 24) (rd_ 0x10 / 2 ^ 32 % 2 ^ 24) (rd_ 0x18) (rd_ 0x20 % 2 ^ 24) (rd_ 0x20 / 2 ^ 32 % 2 ^ 24) &&
    decide (rd_ 0x10 / 2 ^ 24 % 256 = 0 ∧ rd_ 0x10 / 2 ^ 56 = 0 ∧ rd_ 0x20 / 2 ^ 24 % 256 = 0 ∧ rd_ 0x20 / 2 ^ 56 = 0 ∧ rd_ 0x28 = 0 ∧ rd_ 0x30 = 0 ∧
      rd_ 0x38 = 0)
theorem witness_Claims : ((reg1 8).reg 1).toNat % 16 ≠ 0 ∧ ((reg1 16).reg 1).toNat % 64 ≠ 0 ∧ (reg1 8).trapReady 7 ∧ (reg1 16).trapReady 7 ∧
    okAnd (translate (claimState [3, 9]).ctx 0x400 .both (claimState [3, 9])) (fun l t => l == .mem (scratchBase 0 + 0x400) &&
      !t.errAt (scratchBase 0 + 0x400) 64 && !t.badAt (scratchBase 0 + 0x400) 64) = true ∧
    EntryFits ((claimState [3, 9]).me.entry (((claimState [3, 9]).reg 3).field 5 0))
      ((((claimState [3, 9]).core 0).setOwn 0 (newOwn0 (claimState [3, 9]))).window 0).2 0 ∧ newOwn0 (claimState [3, 9]) ≠ 0 ∧
    ((claimState [3, 9]).reg 1).toNat % 64 = 0 ∧
    panelLeft (claimState (panel 2 9)) (fun rows cols tr r0 c0 => decide (rows ≠ 0 ∧ cols ≠ 0 ∧ 1 ≤ tr ∧ tr ≤ 512 ∧ c0 < cols ∧ r0 < rows)) = true ∧
    ((claimState (panel 2 9)).reg 2).toNat ≠ 0 ∧
    panelLeft (claimState (panel 4 0)) (fun rows cols tr r0 c0 => decide (rows ≠ 0 ∧ cols ≠ 0 ∧ 1 ≤ tr ∧ tr ≤ 512 ∧ c0 < cols ∧ rows ≤ r0)) = true := by
  refine ⟨by decide +kernel, by decide +kernel, ⟨by decide +kernel, .inl (by decide +kernel)⟩, ⟨by decide +kernel, .inl (by decide +kernel)⟩,
    by decide +kernel, fits_claim _ (by decide +kernel) (by decide +kernel), by decide +kernel, by decide +kernel, by decide +kernel, by decide +kernel,
    by decide +kernel⟩

/-- A rated set at 0x400 with two members at 0x500, the second due in the coming sweep, in and out of a sweep. -/
def setState (active cursor next1 : Nat) : State := poke 0x500 [0 + 5 * 2 ^ 32, 0, 0, 0, next1 * 2 ^ 32, 0, 0, 0]
  (poke 0x400 [4, 0x40 + active * 2 ^ 9, 2, 0, 0x500, cursor, 0, 0] (user fun x => { x with regs := [(1, 0x400), (2, 1)] }))
theorem witness_RatedSets : ((reg1 8).reg 1).toNat % 64 ≠ 0 ∧ (reg1 8).trapReady 7 ∧ ((setState 0 0 0).reg 1).toNat % 64 = 0 ∧
    okAnd (readSet (setState 0 0 0).ctx 0x400 (some false) (setState 0 0 0)) (fun d t =>
      (storeAll (setState 0 0 0).ctx [(0x400, (d.step + 1) % 2 ^ 32), ((0x400 + 8) % 2 ^ 64, (d.getD 1 0).field 8 0 + 2 ^ 9),
        ((0x400 + 0x28) % 2 ^ 64, 0)] t).isSome) = true ∧
    okAnd (readSet (setState 1 0 4).ctx 0x400 (some true) (setState 1 0 4)) (fun d t =>
      okAnd (nextDue (setState 1 0 4).ctx d d.cursor (d.count - d.cursor) t) fun j u => j == some 1 &&
        (storeAll (setState 1 0 4).ctx [((0x400 + 0x28) % 2 ^ 64, 2 + d.visits % 2 ^ 21 * 2 ^ 32)] u).isSome) = true ∧
    okAnd (readSet (setState 1 2 4).ctx 0x400 (some true) (setState 1 2 4)) (fun d t =>
      okAnd (nextDue (setState 1 2 4).ctx d d.cursor (d.count - d.cursor) t) fun j u => j == none &&
        (storeAll (setState 1 2 4).ctx [((0x400 + 0x28) % 2 ^ 64, d.count + d.visits % 2 ^ 21 * 2 ^ 32)] u).isSome) = true ∧
    okAnd (readSet (setState 1 0 4).ctx 0x400 (some true) (setState 1 0 4)) (fun d t => decide (1 < d.count) &&
      okAnd (readMember (setState 1 0 4).ctx (d.member 1) t) fun m u => !m.seen &&
        (storeAll (setState 1 0 4).ctx [(d.member 1, 0), ((d.member 1 + 8) % 2 ^ 64, 0), ((d.member 1 + 16) % 2 ^ 64, 0), ((d.member 1 + 24) % 2 ^ 64, 0),
          ((0x400 + 0x28) % 2 ^ 64, 0)] u).isSome) = true ∧
    okAnd (readSet (setState 1 0 4).ctx 0x400 (some true) (setState 1 0 4)) (fun d t =>
      (storeAll (setState 1 0 4).ctx [((0x400 + 8) % 2 ^ 64, (d.getD 1 0).field 8 0)] t).isSome) = true ∧
    okAnd (loadWords (setState 1 0 4).ctx 0x400 8 (setState 1 0 4)) (fun d _ => SetDesc.ok d && SetDesc.active d) = true ∧
    okAnd (loadWords (setState 0 0 4).ctx 0x400 8 (setState 0 0 4)) (fun d _ => SetDesc.ok d && !SetDesc.active d) = true ∧
    (setState 0 0 4).trapReady 4 := by
  refine ⟨by decide +kernel, ⟨by decide +kernel, .inl (by decide +kernel)⟩, by decide +kernel, by decide +kernel, by decide +kernel, by decide +kernel,
    by decide +kernel, by decide +kernel, by decide +kernel, by decide +kernel, ⟨by decide +kernel, .inl (by decide +kernel)⟩⟩

/-- A queue whose head is done; whose head has a trap; a STEP that is due; a front without progress, in either mode. -/
theorem witness_QueueEvents : (user fun x => { x with queue := [{ filler with done := true }] }).runs 0 = true ∧
    ((user fun x => { x with queue := [{ filler with trap := some ⟨5, 0, 0, 0, 0⟩ }] }).front 0).queue.head?.bind (·.trap) = some ⟨5, 0, 0, 0, 0⟩ ∧
    ((user id).front 0).kernel = false ∧ ((user fun x => { x with stepDue := true }).front 0).stepDue = true ∧
    ((user fun x => { x with stepDue := true }).front 0).queue = [] ∧
    (((user fun x => { x with idle := 9 }).modDie 0 fun d => { d with wdlim := 9 }).die 0).wdlim.toNat % 2 ^ 32 = 9 ∧
    ((user fun x => { x with idle := 9 }).front 0).idle = 9 ∧ ((kern fun x => { x with idle := 9 }).front 0).kernel = true ∧
    ((kern fun x => { x with idle := 9 }).modDie 0 fun d => { d with wdlim := 9 }).runs 0 = true := by decide +kernel

theorem witness_Wakes : State.reset.pkg.tripped = false ∧
    ({ user id with monitors := [⟨0, 0, true⟩] }.monitors.all fun m => m.fid == 0 && m.fired) = true ∧
    ((user fun x => { x with wait := .waitw 0 0 }).front 0).wait = .waitw 0 0 ∧ 0 + 0 ≤ (user id).clock ∧
    ((user fun x => { x with wait := .woken }).front 0).wait = .woken ∧ ((user fun x => { x with wait := .lanes }).front 0).wait = .lanes ∧
    0 < ((user id).core 0).target ∧ 64 - ((user id).core 0).own1 ≠ 0 ∧
    (((user id).setSlot 0 { SlotRec.reset with state := 1 }).slot 0).state = 1 ∧ ((user id).core 0).target ≤ ((user id).core 0).own0 := by decide +kernel

/-- Doublewords at an address. -/
def pokeAt (a : Nat) (ws : List Nat) (s : State) : State := { s with mem := putBytes s.mem a (ws.flatMap (leBytes 8)) }

/-- Address space 0 in the vault of die 0: tables from 0x60_0000_0000 on, and a leaf for 2^28 bytes at 0x60_4000_0000, with RD, WR and EX. -/
def mapped (s : State) : State :=
  pokeAt 0x6000010000 [0x6040000000 + 0x9F] (pokeAt 0x6000008000 [0x6000010001] (pokeAt 0x6000000000 [0x6000008001]
    { s with pkg := { s.pkg with asidt := 0x6000000000 } }))
theorem test_mapped : ((engWalk (mapped State.reset) 0 true 0x12345 .both).toOption == some (.mem 0x6040012345)) = true := by decide +kernel

/-- A launch descriptor of one front in address space 0, with 64 lanes and its pair at 0x100. -/
def ldesc : List Nat := [1 * 2 ^ 16, 0x40, 0x40, 0, 0, 0, 64, 0, 0x100, 7, 0, 0, 0, 0, 0, 0]
/-- Work queue 3, enabled, with 2 descriptors, of which the head has been taken up to `h`; the descriptor at `h` in the vault. -/
def queueState (h age : Nat) : State := (pokeAt 0x6000020000 ldesc (mapped State.reset)).setQueue 3 ⟨0x6000020000, 0x101, word h, 1, word age, 0⟩
/-- Launch 5 open with that descriptor, all its fronts bound and ended. -/
def openLaunch (bound : Nat) : Launch := ⟨true, ldesc.map word, bound, bound, 0, 0, 0, []⟩
def overState : State := (mapped State.reset).setLaunch 5 (openLaunch 1)
theorem witness_LaunchEvents : (queueState 1 0).pkg.tripped = false ∧
    ((queueState 1 0).queue 3).head.toNat % 2 ^ 32 = ((queueState 1 0).queue 3).tail.toNat % 2 ^ 32 ∧
    ((State.reset.queue 3).ctl.flag 8 = false) ∧ openErr (queueState 0 0) 3 = 0 ∧ ((queueState 0 0).launch 0).isOpen = false ∧
    openErr ((queueState 0 0).setQueue 2 ⟨0, 0x101, 0, 1, 85000000, 0⟩) 3 = 2 ∧ launchOver overState 5 = true ∧
    ((engWalk overState 0 true 0x100 .write).toOption == some (.mem 0x6040000100)) = true ∧
    ((engWalk overState 0 true (0x108 % 2 ^ 64) .write).toOption == some (.mem 0x6040000108)) = true ∧ overState.partErr 0x6040000100 8 = false ∧
    overState.partBad 0x6040000108 8 = false := by decide +kernel

/-- Front 0 free with an open launch and die 0 up; with a launch that is not open; bound; ended; resident. -/
def slotState (n : Nat) (up : Nat) : State :=
  (({ mapped State.reset with pkg := { State.reset.pkg with dieup := up, asidt := 0x6000000000 } }.setLaunch 5 (openLaunch 0)).setSlot 0
    { SlotRec.reset with state := n }).modCore 0 fun k => { k with owner := some 5 }
theorem witness_SlotEvents : (slotState 0 1).pkg.tripped = false ∧ ((slotState 0 1).slot 0).state = 0 ∧ bindReason (slotState 0 1) 0 0 5 = 0 ∧
    ((slotState 0 1).core 0).owner = some 5 ∧ bindReason (slotState 0 0) 0 0 5 = 1 ∧ ((slotState 1 1).slot 0).state = 1 ∧
    ((slotState 2 1).slot 0).state = 2 ∧ ((slotState 3 1).slot 0).state = 3 := by decide +kernel

/-! A save: every write of a record reaches the vault that address space 0 maps. -/

def asidEntry : Nat := 0x6000008001
def entryOne : Nat := 0x6000010001
def leafTwo : Nat := 0x604000009F

/-- The tables of `mapped` stand as they were. -/
structure Maps (s : State) : Prop where
  base : s.pkg.asidt.field 49 15 * 2 ^ 15 + 16 * 0 = 0x6000000000
  asid : s.read 0x6000000000 16 = asidEntry
  one  : s.read 0x6000008000 8 = entryOne
  two  : s.read 0x6000010000 8 = leafTwo

theorem maps_walk (s : State) (h : Maps s) (va : Nat) (hv : va < 2 ^ 28) : walk s 0 va = .ok ⟨0, va / pageBytes 2 * pageBytes 2, 2, leafTwo, 0, 0, 0⟩ := by
  have h1 : vaIndex 1 va = 0 := by show bits va 51 40 = 0; unfold bits; omega
  have h2 : vaIndex 2 va = 0 := by show bits va 39 28 = 0; unfold bits; omega
  have a0 : tableOk s 0x6000000000 = true := rfl
  have a1 : (bits asidEntry 49 15) * 2 ^ 15 = 0x6000008000 := by decide +kernel
  have a2 : bit asidEntry 0 = true := by decide +kernel
  have a3 : (bits asidEntry 14 1 != 0 || bits asidEntry 127 50 != 0) = false := by decide +kernel
  have b0 : tableOk s 0x6000008000 = true := rfl
  have b1 : (bits entryOne 49 15) * 2 ^ 15 = 0x6000010000 := by decide +kernel
  have b2 : bit entryOne 0 = true := by decide +kernel
  have b3 : entryBad 1 entryOne = false := by decide +kernel
  have b4 : bit entryOne 1 = false := by decide +kernel
  have c0 : tableOk s 0x6000010000 = true := rfl
  have c2 : bit leafTwo 0 = true := by decide +kernel
  have c3 : entryBad 2 leafTwo = false := by decide +kernel
  have c4 : bit leafTwo 1 = true := by decide +kernel
  have c5 : bits leafTwo 7 6 = 2 := by decide +kernel
  have w3 : walkFrom s 0 va 2 0x6000010000 2 = .ok ⟨0, va / pageBytes 2 * pageBytes 2, 2, leafTwo, 0, 0, 0⟩ := by
    unfold walkFrom
    simp only [c0, h2, Nat.mul_zero, Nat.add_zero, h.two, c2, c3, c4, c5, Bool.not_true, Bool.false_eq_true, if_false, if_true]
  have w2 : walkFrom s 0 va 1 0x6000008000 3 = .ok ⟨0, va / pageBytes 2 * pageBytes 2, 2, leafTwo, 0, 0, 0⟩ := by
    unfold walkFrom
    simp only [b0, h1, Nat.mul_zero, Nat.add_zero, h.one, b1, b2, b3, b4, Bool.not_true, Bool.false_eq_true, if_false]
    exact w3
  unfold walk
  simp only [h.base, h.asid, a0, a1, a2, a3, Bool.not_true, Bool.false_eq_true, if_false]
  exact w2

theorem maps_engWalk (s : State) (h : Maps s) (va : Nat) (hv : va < 2 ^ 28) (need : Need) (hn : need ≠ .fetch) :
    engWalk s 0 false va need = .ok (.mem (0x6040000000 + va)) := by
  have hp : pageBytes 2 = 2 ^ 30 := rfl
  have p : bits leafTwo 49 16 * 2 ^ 16 / pageBytes 2 * pageBytes 2 + va % pageBytes 2 = 0x6040000000 + va := by
    have : bits leafTwo 49 16 * 2 ^ 16 / pageBytes 2 * pageBytes 2 = 0x6040000000 := by decide +kernel
    rw [this, hp]
    omega
  have vault : inVault (0x6040000000 + va) = true := by unfold inVault; simp only [decide_eq_true_eq]; omega
  have hbm : inHbm (0x6040000000 + va) = false := by unfold inHbm; simp only [decide_eq_false_iff_not]; omega
  have cxl : inCxl (0x6040000000 + va) = false := by unfold inCxl; simp only [decide_eq_false_iff_not]; omega
  have dev : inDevice (0x6040000000 + va) = false := by unfold inDevice; simp only [decide_eq_false_iff_not]; omega
  have m : isMapped (0x6040000000 + va) = true := by simp [isMapped, vault]
  have b2 : bit leafTwo 2 = true := by decide +kernel
  have b3 : bit leafTwo 3 = true := by decide +kernel
  have b9 : bits leafTwo 9 8 = 0 := by decide +kernel
  have l : leafCheck s false need ⟨0, va / pageBytes 2 * pageBytes 2, 2, leafTwo, 0, 0, 0⟩ va = .ok (.mem (0x6040000000 + va)) := by
    unfold leafCheck
    simp only [p, m, hbm, cxl, dev, b2, b3, b9]
    cases need <;> first | exact absurd rfl hn | rfl
  unfold engWalk
  rw [if_neg (by omega), maps_walk s h va hv]
  simp only [l]

theorem maps_write (s : State) (h : Maps s) (a : Nat) (bs : List Byte) (ha : 0x6040000000 ≤ a) : Maps (s.write a bs) := by
  refine ⟨h.base, ?_, ?_, ?_⟩ <;> rw [Machine.read_write_outside _ _ _ _ _ (.inl (by omega))]
  · exact h.asid
  · exact h.one
  · exact h.two

theorem maps_writeVa (who : Agent) (n : Nat) : ∀ (s : State) (va : Nat) (bs : List Byte), Maps s → va + 256 * n ≤ 2 ^ 28 →
    ∃ u, writeVa who s 0 va bs n = .ok u := by
  induction n with
  | zero => exact fun s _ _ _ _ => ⟨s, rfl⟩
  | succ n ih =>
    intro s va bs h hv
    unfold writeVa
    split
    · exact ⟨s, rfl⟩
    · have e := maps_engWalk s h va (by omega) .write (by decide)
      simp only [e]
      have m := maps_write s h (0x6040000000 + va) (bs.take 256) (Nat.le_add_right _ _)
      exact ih _ _ _ m (by omega)

/-- Front 0 stopped for a save, its record at 0x100000 in address space 0. -/
def saveState : State := (mapped (user fun x => { x with halt := .saving })).modDie 0 fun d => { d with presave0 := 0x100000 }

theorem length_w8 (w : Word) : (w8 w).length = 8 := leBytes_length _ _
theorem length_fields {α : Type} (n : Nat) (g : α → List Byte) (hg : ∀ x, (g x).length = n) (l : List α) : (l.flatMap g).length = n * l.length := by
  induction l with
  | nil => simp
  | cons a r ih => rw [List.flatMap_cons, List.length_append, hg, ih, List.length_cons]; ring
theorem record_length (s : State) (f va : Nat) (h : (s.front f).queue = [] ∧ (s.front f).userSet = [] ∧ (s.front f).kernelSet = [] ∧
    (s.front f).binds = [] ∧ (List.range 512).filter (s.front f).dirtyRow = [] ∧ (s.front f).cdirty = false) :
    256 ≤ (recordBytes s f true va).length ∧ (recordBytes s f true va).length ≤ 2 ^ 19 := by
  obtain ⟨q, u, v, b, r, c⟩ := h
  have z (n : Nat) : (zeros n).length = n := List.length_replicate
  have g1 (α : Type) (g : α → Word) (l : List α) : (l.flatMap fun i => w8 (g i)).length = 8 * l.length := length_fields 8 _ (fun _ => length_w8 _) l
  have g2 (α : Type) (g : α → Nat) (n : Nat) (l : List α) : (l.flatMap fun i => leBytes n (g i)).length = n * l.length :=
    length_fields n _ (fun _ => leBytes_length _ _) l
  have g3 (l : List Nat) : (l.flatMap fun _ => zeros 128).length = 128 * l.length := length_fields 128 _ (fun _ => z 128) l
  unfold recordBytes
  simp only [q, u, v, b, r, c, List.map_nil, List.append_nil, List.flatten_nil, List.flatMap_nil, List.length_nil, List.length_append, leBytes_length,
    length_w8, z, g1, g2, Machine.bytes_length, List.length_range, bindEntry, List.find?_nil, Option.map_none, g3, Bool.false_eq_true, if_false, if_true]
  unfold ceilDiv
  omega
theorem logPad_clean (s : State) (f : Nat) (h : s.memErr = [] ∧ s.badBlk = []) : logPad s f = s := by simp [logPad, h.1, h.2]
theorem writes_one (s : State) (m : Maps s) (g : s.memErr = [] ∧ s.badBlk = []) (v : (s.die (dieOf 0)).saveVa 0 = 0x100000) (a : (s.front 0).asid = 0)
    (l : (recordBytes s 0 true 0).length ≤ 2 ^ 19) : ∃ t, writeRecords s [0] [0] = .ok t := by
  have p : ([0].contains (partner 0)) = false := by decide +kernel
  have e : (0 % 2 == 0 || [0].length == 1) = true := by decide +kernel
  unfold writeRecords
  simp only [p, e, v, a, Bool.false_eq_true, if_false, if_true, logPad_clean s 0 g]
  generalize recordBytes s 0 true 0 = bs at *
  obtain ⟨u, hu⟩ := maps_writeVa (.save (dieOf 0)) (bs.length / 256) s 0x100000 bs m (by omega)
  exact ⟨u, by rw [hu]; rfl⟩
theorem save_maps : Maps saveState := ⟨by decide +kernel, by decide +kernel, by decide +kernel, by decide +kernel⟩
theorem save_start : (((List.range 128).map fun i => 128 * 0 + i).filter fun f => (saveState.front f).halt == .saving) = [0] ∧
    padJob saveState [0] = false := by decide +kernel
theorem save_done : ∃ t, writeRecords saveState [0] [0] = .ok t :=
  writes_one _ save_maps (by decide +kernel) (by decide +kernel) (by decide +kernel) (record_length _ _ _ (by decide +kernel)).2

/-- R370: a save area that is not mapped. -/
theorem writes_none (s : State) (g : s.memErr = [] ∧ s.badBlk = []) (a : (s.front 0).asid = 0) (e : Nat × Nat) (w : engWalk s 0 false ((s.die (dieOf 0)).saveVa 0) .write = .error e)
    (l : 256 ≤ (recordBytes s 0 true 0).length) : writeRecords s [0] [0] = .error e := by
  have p : ([0].contains (partner 0)) = false := by decide +kernel
  have q : (0 % 2 == 0 || [0].length == 1) = true := by decide +kernel
  unfold writeRecords
  simp only [p, q, a, Bool.false_eq_true, if_false, if_true, logPad_clean s 0 g]
  generalize recordBytes s 0 true 0 = bs at *
  have n : bs.isEmpty = false := by
    cases bs with
    | nil => simp at l
    | cons x r => rfl
  obtain ⟨k, hk⟩ : ∃ k, bs.length / 256 = k + 1 := ⟨bs.length / 256 - 1, by omega⟩
  rw [hk]
  simp only [writeVa, n, w, Bool.false_eq_true, if_false]
def unmappedState : State := saveState.modDie 0 fun d => { d with presave0 := word (2 ^ 40) }
theorem save_fails : writeRecords unmappedState [0] [0] = .error (PAGE, 1) :=
  writes_none _ (by decide +kernel) (by decide +kernel) _ (by decide +kernel) (record_length _ _ _ (by decide +kernel)).1

/-- A resident front of a core; a save area that is mapped. -/
def residentState : State := ((mapped (user id)).setSlot 0 { SlotRec.reset with state := 2 }).modDie 0 fun d => { d with presave0 := 0x100000 }

/-- A package with one TLB entry at each level, TINVC idle or busy. -/
def tinvState (busy : Bool) : State :=
  let e : Tlb := ⟨3, 0x10000, 0, 0x604000009F, 0, 0, 0⟩
  (({ State.reset with pkg := { Package.reset with tinvAsid := 3, tinvBusy := busy } }.modCore 0 fun k => { k with utlb := [e] }).setTlb2 0 [e])
theorem witness_TlbInvalidation : (tinvState false).pkg.tripped = false ∧ (tinvState false).pkg.tinvBusy = false ∧ (tinvState false).pkg.tinvAsid < 2 ^ 14 ∧
    (tinvState true).pkg.tripped = false ∧ (tinvState true).pkg.tinvBusy = true ∧ spWf Core.reset (tinvState true).cores = true ∧
    ((tinvState true).core 0).utlb ≠ [] ∧ 0 < 64 := by decide +kernel

theorem witness_Resets : State.reset.pkg.tripped = false ∧ 105 ≤ (105 : BitVec 8).toNat ∧ (104 : BitVec 8).toNat < 105 ∧
    { State.reset with pkg := { Package.reset with tripped := true } }.pkg.tripped = true ∧ (Instr.wqDoorbell 0 0).isEvent = true := by decide +kernel

theorem witness_Management : State.reset.pkg.tripped = false ∧ State.reset.pkg.attBusy = false ∧
    { State.reset with pkg := { Package.reset with attBusy := true } }.pkg.attBusy = true ∧ State.reset.pkg.level ≠ 1 ∧
    { State.reset with pkg := { Package.reset with level := 1 } }.pkg.level = 1 ∧
    State.reset.pkg.stwbase.field 49 26 * 2 ^ 26 ≤ 2 ^ 26 - 8 ∧ 2 ^ 26 - 8 + 8 ≤ State.reset.pkg.stwbase.field 49 26 * 2 ^ 26 + 2 ^ 26 ∧
    ¬ (State.reset.pkg.stwbase.field 49 26 * 2 ^ 26 ≤ 2 ^ 26 - 7 ∧ 2 ^ 26 - 7 + 8 ≤ State.reset.pkg.stwbase.field 49 26 * 2 ^ 26 + 2 ^ 26) ∧
    Src.kernel ≠ Src.barista ∧ Src.kernel ≠ Src.host := by decide +kernel

/-- A queue enabled with a SIZE of 0, of 17, and of 16; disabled. -/
theorem witness_RegisterWrites : State.reset.pkg.tripped = false ∧ 7 < 8 ∧ 32767 < 32768 ∧ 63 < 64 ∧
    (word 0x111).flag 8 = true ∧ 16 < (word 0x111).field 4 0 ∧ (word 0x100).flag 8 = true ∧ (word 0x100).field 4 0 = 0 ∧
    (word 0x110).flag 8 = true ∧ 1 ≤ (word 0x110).field 4 0 ∧ (word 0x110).field 4 0 ≤ 16 ∧ (word 0x11).flag 8 = false := by decide +kernel

/-- A flit of 16 bytes with sequence number 0; a link that is up with nothing, or a flit, unacknowledged, after `n` replays; a request that waits. -/
def aFlit : List Byte := List.replicate 12 0 ++ leBytes 4 (Fp.crc32c (List.replicate 12 0))
def linkState (n : Nat) (u : List (List Byte)) : State := State.reset.setLink 3 { Link.reset with up := true, replays := n, unacked := u }
def aMsg (cls a n : Nat) (host : Bool) : Msg := ⟨cls, 5, n, a, zeros n, 7, host⟩
theorem witness_FlitsAndResponses : (linkState 0 []).pkg.tripped = false ∧ (State.reset.link 3).up = false ∧ ((linkState 0 []).link 3).up = true ∧
    (rd aFlit 12 4 == Fp.crc32c (aFlit.take 12 ++ aFlit.drop 16) && rd aFlit 4 4 == ((linkState 0 []).link 3).recvSeq.toNat) = true ∧
    ((linkState 0 []).link 3).unacked = [] ∧ ((linkState 7 [aFlit]).link 3).unacked ≠ [] ∧ ((linkState 7 [aFlit]).link 3).replays < 8 ∧
    8 ≤ ((linkState 8 [aFlit]).link 3).replays ∧ (aMsg 2 0 8 false).host = false := by decide +kernel

/-- A write to the last bytes of the vaults and to their end, an access outside memory, and one to registers. -/
def upState : State := State.reset.setLink 3 { Link.reset with up := true }
theorem witness_MemoryMessages : upState.pkg.tripped = false ∧ (aMsg 1 0x6000000000 224 false).len ≤ 224 ∧
    (aMsg 1 0x6000000000 224 false).data.length = (aMsg 1 0x6000000000 224 false).len ∧ 1 ≤ (aMsg 1 0x6000000000 224 false).len ∧
    ((List.range 18).find? fun i => (upState.link i).up) = some 3 ∧
    (inVault 0x6000000000 && inVault (0x6000000000 + 224 - 1)) = true ∧ upState.partErr 0x6000000000 224 = false ∧
    upState.errAt 0x6000000000 224 = false ∧ upState.badAt 0x6000000000 224 = false ∧
    (!(aMsg 1 0x6200000000 4 false).host && !(inHbm 0x6200000000 && inHbm (0x6200000000 + 4 - 1)) &&
      !(inVault 0x6200000000 && inVault (0x6200000000 + 4 - 1))) = true ∧
    (aMsg 1 0x6200000000 4 true).host = true ∧ inDevice 0x6200000000 = true ∧ inDevice (0x6200000000 + 4 - 1) = true ∧
    (aMsg 6 0x6200000000 4 true).len ≠ 8 ∧ (aMsg 6 0x6200000000 4 true).len ≤ 8 ∧ inDevice 0x6000000000 = false := by decide +kernel
/-- R304, R305: a write of AGELIM, and one of FABID, fires the monitor on its doubleword. -/
theorem test_register_wakes : ((next (exec (.registerWrite .kernel 0x62E0000010 5) { user id with monitors := [⟨3, 0x62E0000010 / 8, false⟩] })).monitors,
    (next (exec (.fabidWrite .host 5) { user id with monitors := [⟨3, 0x62E1000000 / 8, false⟩] })).monitors) =
    ([⟨3, 0x62E0000010 / 8, true⟩], [⟨3, 0x62E1000000 / 8, true⟩]) := by decide +kernel
/-- R305, R385: a read of a doubleword by package 7 arms a monitor for it; a write of a byte of one that package 5 watches sends it a message of CLASS 8. -/
theorem test_peer_watch : (next (exec (.msgReadRequest (aMsg 1 0x6000000008 8 false)) upState)).monitors = [⟨1031, 0x6000000008 / 8, false⟩] ∧
    (let s := { upState with monitors := [⟨1029, 0x6000000008 / 8, false⟩], pkg := { upState.pkg with routes := [(5, 8)] } }
     let t := tick s (s.write 0x600000000F [1])
     (t.monitors, (t.link 3).unacked.map fun b => (rd b 0 2 % 2 ^ 10, rd b 16 1 / 16, rd b 24 8))) = ([], [(5, 8, 0x6000000008)]) := by decide +kernel
theorem witness_atomic (m : Msg) (x : Nat) : Config.atomicEffect m x = none ∨ ∃ v, Config.atomicEffect m x = some v := by
  cases Config.atomicEffect m x with
  | none => exact .inl rfl
  | some v => exact .inr ⟨v, rfl⟩

/-- An entry with names of rows 4, 0 and 1, two elements of 2^ew bits, and a core whose cells of those rows have one tag. -/
def elemEntry (i : Instr) (ew : Nat) (vmc : Word) : QEntry :=
  newEntry i 0 { capOf [block 4 ew 1 2, block 0 ew 1 2, block 1 ew 1 2] [0, 0, 0] 2 with vmc := vmc }
def elemState (tag : Byte) (plane : List (Nat × BitVec 32)) : State :=
  (user fun x => { x with masks := [(1, 1)] }).modCore 0 fun k =>
    { k with plane := plane, tags := [(0, tag), (1, tag), (64, tag), (65, tag), (256, tag), (257, tag)] }

/-- Names of one width, below VL, with no cell in error, whose cells `a`, `b` (and `d`) have a tag that `ok` accepts. -/
def elemFits (s : State) (e : QEntry) (i : Nat) (ok : Nat → Bool) : Bool :=
  let k := s.core 0
  dEw (e.name 0) != 7 && dW (e.name 1) == dW (e.name 0) && dW (e.name 2) == dW (e.name 0) && decide (i < e.vl) &&
    ([0, 1, 2].all fun n => (badCell? k (elemCells (e.name n) 0 i) true).isNone && (elemCells (e.name n) 0 i).all fun c => ok (k.tag c).toNat)
theorem witness_IntegerElements :
    elemFits (elemState 5 []) (elemEntry (.vadd 1 2 3 0) 5 0) 1 (fun t => t == intTag 32) = true ∧
    activeIn (elemEntry (.vadd 1 2 3 0) 5 0).mode ((elemState 5 []).front 0 |>.mask 0) 1 = true ∧
    (elemEntry (.vsadd 1 2 3 0) 5 0).offen = false ∧ (elemEntry (.vsaddU 1 2 3 0) 5 0x100).offen = true ∧
    (let s := elemState 5 [(1, 0xFFFFFFFF), (65, 1)]
     let e := elemEntry (.vsaddU 1 2 3 0) 5 0x100
     elemFits s e 1 (fun t => t == intTag 32) && decide (2 ^ 32 ≤ (s.core 0).elem (e.name 1) 0 1 + (s.core 0).elem (e.name 2) 0 1)) = true ∧
    elemFits (elemState 11 []) (elemEntry (.vadd 1 2 3 0) 5 0) 1 (fun t => t == 11) = true ∧ ¬ (11 = intTag 32 ∨ 11 = intTag 32 + 1) ∧
    activeIn (elemEntry (.vadd 1 2 3 0) 5 9).mode (((elemState 5 []).front 0).mask (elemEntry (.vadd 1 2 3 0) 5 9).act) 1 = false ∧
    (elemEntry (.vadd 1 2 3 0) 5 9).mode ≠ 2 ∧ (elemEntry (.vadd 1 2 3 0) 5 17).mode = 2 ∧
    activeIn (elemEntry (.vadd 1 2 3 0) 5 17).mode (((elemState 5 []).front 0).mask (elemEntry (.vadd 1 2 3 0) 5 17).act) 1 = false := by decide +kernel

theorem witness_MaskInstructions :
    (let e := newEntry (.vcmpLt 1 2 3 0) 0 { capOf [block 0 5 1 2, block 1 5 1 2] [] 2 with vmc := 0 }
     let k := (elemState 5 []).core 0
     dEw (e.name 0) != 7 && dW (e.name 1) == dW (e.name 0) && decide (1 < e.vl) && decide (e.vl ≤ 256) &&
      (badCell? k (elemCells (e.name 0) 0 1) true).isNone && (badCell? k (elemCells (e.name 1) 0 1) true).isNone && activeIn e.mode 0 1 &&
      (elemCells (e.name 0) 0 1 ++ elemCells (e.name 1) 0 1).all fun c => (k.tag c).toNat == intTag (dW (e.name 0))) = true ∧
    (elemEntry (.vcmpEq 1 2 3 0) 5 17).mode = 2 ∧ activeIn 2 (((elemState 5 []).front 0).mask 1) 1 = false ∧
    activeIn 1 (((elemState 5 []).front 0).mask 1) 1 = false ∧ (newEntry (.mset 1 2) 0 (capOf [] [257] 1)).instr = .mset 1 2 := by decide +kernel

theorem witness_FloatElements :
    elemFits (elemState 11 []) (elemEntry (.vfma 1 2 3 0 false) 5 0) 1 (fun t => t == fpTag .fp32) = true ∧
    activeIn (elemEntry (.vfma 1 2 3 0 false) 5 0).mode (((elemState 11 []).front 0).mask 0) 1 = true ∧
    dW ((elemEntry (.vfma 1 2 3 0 false) 5 0).name 0) ∈ [16, 32, 64] ∧
    elemFits (elemState 5 []) (elemEntry (.vfadd 1 2 3 0 false) 5 0) 1 (fun t => t != fpTag .fp32) = true := by decide +kernel

/-- Element 1 of a load and of a store at 0x100, which is aligned, at 0x102, and at an address that traps. -/
def memEntry (i : Instr) (b : Word) : QEntry := newEntry i 0 (capOf [block 4 5 1 2] [b] 2)
def entryCtx (e : QEntry) (s : State) : Ctx := ⟨.entry 0 e.vsn, 0, (s.front 0).asid, !e.cap.kern, e.cap.spbase.field 51 20 * 2 ^ 20⟩
theorem witness_VectorMemoryElements :
    (let e := memEntry (.vld 1 2) 0x100
     let s := elemState 5 []
     8 ≤ dW (e.name 0) && dEw (e.name 0) != 7 && decide (1 < e.vl) && activeIn e.mode 0 1 && (badCell? (s.core 0) (elemCells (e.name 0) 0 1) true).isNone &&
      (((e.scal 0).toNat + 1 * 4) % 2 ^ 64 == 0x104) && (((e.scal 0).toNat + 1 * e.cap.vst.toNat) % 2 ^ 64 % 4 == 0) &&
      okAnd (loadVa (entryCtx e s) 0x104 4 s) (fun _ t => (badCell? (t.core 0) (elemCells (e.name 0) 0 1) true).isNone) &&
      okAnd (storeVa (entryCtx e s) 0x104 4 0 s) fun _ _ => true) = true ∧
    (((memEntry (.vld 1 2) 0x102).scal 0).toNat + 1 * 4) % 2 ^ 64 % 4 ≠ 0 ∧
    (((memEntry (.vst 1 2) (word (2 ^ 60))).scal 0).toNat + 1 * 4) % 2 ^ 64 % 4 = 0 ∧
    stopsWith (loadVa (entryCtx (memEntry (.vld 1 2) (word (2 ^ 60))) (elemState 5 [])) (2 ^ 60 + 4) 4 (elemState 5 [])) ⟨ACCESS, 1, 0, 2 ^ 60 + 4, 0⟩ = true ∧
    stopsWith (storeVa (entryCtx (memEntry (.vst 1 2) (word (2 ^ 60))) (elemState 5 [])) (2 ^ 60 + 4) 4 0 (elemState 5 [])) ⟨ACCESS, 1, 0, 2 ^ 60 + 4, 0⟩ =
      true := by decide +kernel

/-- MZERO of a window at the bound; MRD and MWR of a value of format 2, in 32-bit elements. -/
theorem witness_Carafe : 0 + (newEntry .mzero 0 (capOf [] [] 1)).cap.width ≤ 64 ∧
    (let e := memEntry (.mwr 1 2 2) (word (2 ^ 16))
     let s := elemState 11 []
     decide (1 < e.vl) && activeIn e.mode 0 1 && dW (e.name 0) == Fp.width (mmFmt 2) && (badCell? (s.core 0) (elemCells (e.name 0) 0 1) true).isNone &&
      (elemCells (e.name 0) 0 1).all (fun c => ((s.core 0).tag c).toNat == fpTag (mmFmt 2)) && !spGet false (s.core 0).badCarafe 64) = true := by
  decide +kernel

/-- A front whose word at PC is fetched; a turn that names an event. -/
theorem witness_StepRunsDecoded : (user id).turns = [] ∧ (beforeFetch (user id)).isNone = true ∧
    okAnd (translate (user id).ctx (user id).me.pc.toNat .fetch (user id)) (fun l t =>
      match l with
      | .mem p => !t.errAt p 4 && !t.badAt p 4
      | _ => false) = true ∧
    { State.reset with turns := [.event .powerOn] }.turns = .event .powerOn :: [] ∧ Instr.powerOn.isEvent = true ∧ Instr.powerOn.wf = true := by
  decide +kernel

theorem witness_EncodeDecode : (Instr.add 3 1 2).wf = true ∧ (Instr.add 3 1 2).isEvent = false ∧
    decode 0b000001_00011_00001_00010_00000000000 = some (.add 3 1 2) := by decide +kernel

theorem witness_MemoryStaysCanonical : (user id).memOk ∧ (match step (user id) with
    | .next _ => true
    | .fault _ => false
    | .refused _ => false) = true := by
  refine ⟨?_, by decide +kernel⟩
  show Memory.wf (user id).mem = true
  decide +kernel

/-- The entry of front 0 may go on, or issue, and `p` holds of its run, of it and of the state in which it runs. -/
def going (s : State) (p : Run → QEntry → State → Bool) : Bool :=
  match (s.front 0).queue with
  | y :: _ =>
    let s0 := if isIndexed y.instr then runAhead s 0 y.vl y else s
    ready s 0 0 y && ((s.front 0).cellHolds 0 y).isEmpty && ((s.front 0).rowHolds y).isEmpty && !y.storing && y.cap.stores.isEmpty &&
      (if y.issued then p (runOf y 0) y s0
       else (partnerFirst s 0 y).isNone && match issueEntry s0 0 y with
        | (t0, z, none) => p (runOf z 0) z t0
        | (_, _, some _) => false)
  | [] => false
/-- `n` bodies in a row, from `i` on: all of them complete. -/
def chainEnds (body : Nat → M Unit) (n i : Nat) (s : State) : Option State :=
  match n with
  | 0 => some s
  | k + 1 => match body i s with
    | .ok (_, t) => chainEnds body k (i + 1) t
    | .error _ => none
/-- No entry of front 0's queue has captured a STORE strip. -/
def noStrips (s : State) : Bool := (s.front 0).queue.all fun e => e.cap.stores.isEmpty && !e.storing
def thatEnds (o : Option State) : Bool := (o.map noStrips).getD false
/-- The run completes: its bodies, all of it, or its steps. -/
def completes (r : Run) (y : QEntry) (s : State) : Bool :=
  match r with
  | .elems stop 1 body => decide (y.progress < stop) && thatEnds (chainEnds body (stop - y.progress) y.progress s)
  | .elems .. => false
  | .whole m => okAnd (m s) fun _ t => noStrips t
  | .part g => let (t, _, st) := g none s
    st.isNone && noStrips t
  | .steps check n body => okAnd (check s) fun _ t => thatEnds (chainEnds body n 0 t)
/-- The run stops with a trap: body `i` of it, after those before it, or all of it. -/
def trapsAt (i : Nat) (tr : TrapRec) (r : Run) (y : QEntry) (s : State) : Bool :=
  match r with
  | .elems _ 1 body => match chainEnds body (i - y.progress) y.progress s with
    | some t => noStrips t && stopsWith (body i t) tr
    | none => false
  | .elems .. => false
  | .whole m => noStrips s && stopsWith (m s) tr
  | .part g => match g none s with
    | (t, _, some (.trap x)) => x == tr && noStrips t
    | _ => false
  | .steps .. => false
def twoAdd (tags : List (Nat × Byte)) : State := queued (.vadd 1 2 3 0) [block 4 5 1 2, block 0 5 1 2, block 1 5 1 2] [] 2 [] tags
def begun (s : State) : State := s.modFront 0 fun x => x.modEntry 0 fun e => { e with issued := true }
/-- R220, R360: a product of five k-steps in groups of four that KRET issues again at VSTART 3 starts at its group. -/
theorem test_product_restart : ({ newEntry (.mmas 1 2 3 0) 0 (capOf [] [] 5) with trap := some ⟨5, 0, 3, 0, 0⟩ }).groupLen = 4 ∧
    ({ newEntry (.mmas 1 2 3 0) 0 (capOf [] [] 5) with trap := some ⟨5, 0, 3, 0, 0⟩ }).restart 3 = 0 := by decide +kernel
/-- R208, R358: an element-wise instruction, issued and not, whose beat completes or whose element 1 traps; ones with one run, that complete and trap;
slides, whose elements come one after another; and a PLSAVE. -/
theorem witness_QueueIssues :
    going (twoAdd [(0, 5), (64, 5), (1, 5), (65, 5)]) completes = true ∧ going (begun (twoAdd [(0, 5), (64, 5), (1, 5), (65, 5)])) completes = true ∧
    going (twoAdd [(0, 5), (64, 5)]) (trapsAt 1 ⟨5, 0, 1, 0, 0⟩) = true ∧
    going (queued (.mset 1 2) [] [3] 1 [] []) completes = true ∧
    going (queued (.cupadd 1 2 3) [] [1, 256] 1 [] []) (trapsAt 0 ⟨7, 6, 0, 1, 0⟩) = true ∧
    going (queued (.vslideupImm 1 2 1) [block 4 5 1 2, block 0 5 1 2] [] 2 [] []) completes = true ∧
    going (begun (queued (.vscan 1 2 0) [block 4 5 1 2, block 0 5 1 2] [] 2 [] [(0, 5)])) (trapsAt 0 ⟨5, 0, 1, 0, 0⟩) = true ∧
    going (queued (.plsave 1 2) [block 4 5 1 2] [0x100] 0 [] []) completes = true := by
  refine ⟨?_, ?_, ?_, ?_, ?_, ?_, ?_, ?_⟩ <;> decide +kernel

/-- A die with one walk of a page at 0x10000, to be written or not. -/
def walkState (s : State) (wr : Bool) : State := s.modDie 0 fun d => { d with walks := [⟨0, 0x10000, 0, true, true, wr⟩] }
/-- Address space 0 with the leaf given, for the first 2^28 bytes. -/
def leafState (leaf : Nat) : State := pokeAt 0x6000010000 [leaf] (mapped State.reset)
def walksOf (s : State) (p : Except Nat Tlb → Bool) : Bool :=
  (match (s.die 0).walks with
    | [w] => p (walk s w.asid w.va) && w.core == 0
    | _ => false) && !s.pkg.tripped && (s.core 0).utlb.isEmpty && (s.tlb2 0).isEmpty
/-- A LOAD binding of two elements a row, and a pattern of three elements of 4 bytes. -/
def fillBind (base : Word) (fillPos : Nat) : Binding :=
  ⟨1, false, 0, 0, fillPos, base, block 0 5 2 2, 0, 0, false, [word (3 * 2 ^ 40 + 4)], true, false, none⟩
def fillState (base : Word) (fillPos : Nat) : State := user fun x => { x with binds := [(2, fillBind base fillPos)] }
def mayFill (base : Word) (fillPos : Nat) : Bool :=
  let s := fillState base fillPos
  s.runs 0 && (s.front 0).binds.find? (fun p => p.1 == 2) == some (2, fillBind base fillPos) && (s.front 0).fillable 2 (fillBind base fillPos)
def fillCtx : Ctx := ⟨.filler 0 2, 0, 0, true, 0⟩
def fillRead (b : Binding) (p : Nat) : M Nat := elemRead fillCtx false 0 4 (placeAt b.base b.record p)
def putsAt (b : Binding) (p v : Nat) : M Unit := putKeep 0 b.first b.ring (p / 2 % 2 * 2 + p % 2) v
/-- R238, R380: a walk that finds its leaf, one whose leaf refuses a write, and one that finds no entry. R266: a row filled from its first and its second
element on, one beyond the pattern, and one whose element faults. -/
theorem witness_WalksAndFills :
    (walksOf (walkState (leafState 0x604000009F) true) fun r => match r with
      | .ok t => (match leafCheck (walkState (leafState 0x604000009F) true) true .both t 0x10000 with
        | .ok _ => true
        | .error _ => false)
      | .error _ => false) = true ∧
    (walksOf (walkState (leafState 0x6040000097) true) fun r => match r with
      | .ok t => (match leafCheck (walkState (leafState 0x6040000097) true) true .both t 0x10000 with
        | .ok _ => false
        | .error _ => true)
      | .error _ => false) = true ∧
    (walksOf (walkState State.reset false) fun r => match r with
      | .ok _ => false
      | .error _ => true) = true ∧
    mayFill 0x100 0 = true ∧ mayFill 0x100 1 = true ∧ mayFill 0x100 3 = true ∧ mayFill (word (2 ^ 60)) 0 = true ∧ recLen (fillBind 0x100 0).record = 3 ∧
    okAnd (fillRead (fillBind 0x100 1) 1 (fillState 0x100 1)) (fun v t => okAnd (putsAt (fillBind 0x100 1) 1 v t) fun _ _ => true) = true ∧
    stopsWith (fillRead (fillBind (word (2 ^ 60)) 0) 0 (fillState (word (2 ^ 60)) 0)) ⟨9, 1, 0, 2 ^ 60, 0⟩ = true := by
  refine ⟨?_, ?_, ?_, ?_, ?_, ?_, ?_, ?_, ?_, ?_⟩ <;> decide +kernel

/-- An address of the scratchpad in a card; a card with all of the scratchpad as its region, of `es` = log2 ES and `d` dimensions; a record. -/
def inPad (a : Nat) : Word := word (2 ^ 62 + a)
def cardOf (kind es d : Nat) (one : Word) (body : List Word) : List Word :=
  [word (kind + 16 + es * 2 ^ 8 + d * 2 ^ 12), one, inPad 0, word (327680 + 3 * 2 ^ 40), 0, 0, 0, 0, 0, 0] ++ body ++ List.replicate (14 - body.length) 0
def rec1 (ext stride : Nat) : Word := word (ext * 2 ^ 40 + stride)
/-- A running job with that card, at position `p`. -/
def jobOn (card : List Word) (p : Nat) : Job := { aJob true false with card := card, prog := p }
/-- The scratchpad of core 0 with aged words, and front 0 in user mode. -/
def payState (bs : List Byte) : State := { user id with mem := putBytes [] (scratchBase 0 + 0x100) bs }
def copied (p : Nat) : Job := jobOn (cardOf 0 0 1 0 [inPad 0x100, inPad 0x200, rec1 2 1, 0, 0, 0, rec1 4 1, 0, 0, 0, 0x101, 7]) p
def copiedBlock : Job := jobOn (cardOf 0 0 1 0 [inPad 0x100, inPad 0x200, rec1 256 1, 0, 0, 0, rec1 256 1]) 0
def filled (ext p : Nat) : Job := jobOn (cardOf 2 0 1 0 [0, inPad 0x200, 0, 0, 0, 0, rec1 ext 1, 0, 0, 0, 0, 7]) p
def gathered (p : Nat) : Job :=
  { jobOn (cardOf 1 2 0 0 [inPad 0x100, inPad 0x200, 4, 4, 4]) p with rows := [none, some 1], acc := [0] }
def swept (p : Nat) : Job := jobOn (cardOf 3 2 0 0 [inPad 0x100, 1, inPad 0x200, 1]) p
def normed (p : Nat) : Job := jobOn (cardOf 4 2 0 0 [inPad 0x100, 0, inPad 0x110, inPad 0x120, inPad 0x130, rec1 1 4, rec1 1 4, 0, 0, 0, 0, 0, 0, inPad 0x200]) p
def applied (p : Nat) : Job :=
  jobOn (cardOf 5 2 0 (inPad 0x200) [inPad 0x100, inPad 0x140, inPad 0x110, inPad 0x120, inPad 0x130, rec1 1 4, rec1 1 4, rec1 1 4, rec1 1 4]) p
def lost : Job := jobOn (cardOf 2 0 1 0 [0, 0x200, 0, 0, 0, 0, rec1 4 1]) 0
/-- A payload step that completes, and leaves the job at position `q`. -/
def steps (j : Job) (s : State) (q : Nat) (moved : Bool) : Bool :=
  let (t, more) := jobStep { s with jobs := [j] } j
  more && (t.jobs.map fun k => (k.prog, k.moved)) == [(q, moved)]
/-- The block of positions from p on is one aligned block of the destination, and of the source, as the statement says it. -/
def inBlock (j : Job) (es : Nat) (at_ : Nat → PayAddr) : Bool :=
  (at_ j.prog).2 % 256 == 0 && (List.range (256 / es)).all fun q => at_ (j.prog + q) == ((at_ j.prog).1, (at_ j.prog).2 + es * q)
def toBlock (j : Job) : Bool :=
  inBlock j (cardEs j.card) (copyDest j) && decide (j.prog + 256 / cardEs j.card ≤ recLen (recordsOf j.card 16))
def fromBlock (j : Job) : Bool := inBlock j (cardEs j.card) (fun p => cardAddr (j.card.getD 10 0) (copySource j.card (cardDims j.card) 0 p).2) &&
  (List.range (256 / cardEs j.card)).all fun q => (copySource j.card (cardDims j.card) 0 (j.prog + q)).1
/-- A block with a padding position first, one of two rows that follow each other, and a block of the source marked bad. -/
def padded : Job := jobOn (cardOf 0 0 1 0 [inPad 0x100, inPad 0x200, rec1 256 1, 0, 0, 0, rec1 256 1, 0, 0, 0, 1, 7]) 0
def twoRows : Job := jobOn (cardOf 0 0 2 0 [inPad 0x100, inPad 0x200, rec1 128 1, rec1 2 128, 0, 0, rec1 128 1, rec1 2 128]) 0
def badSource : State := { payState [] with badBlk := [((scratchBase 0 + 0x100) / 256, true)] }
theorem witness_JobEvents_payloads :
    ((copySource (copied 1).card 1 0 1).1 = true ∧ (copySource (copied 0).card 1 0 0).1 = false ∧ toBlock (copied 0) = false) ∧
    steps (copied 1) (payState [9, 9]) 2 false = true ∧ steps (copied 0) (payState []) 1 false = true ∧ steps (copied 4) (payState []) 4 true = true ∧
    ([copiedBlock, twoRows].all fun j => toBlock j && fromBlock j && steps j (payState []) 256 false && steps j badSource 256 false) = true ∧
    (toBlock padded = true ∧ fromBlock padded = false ∧ okAnd (readRun 256 0 (copyValue padded) (payState [])) (fun vs _ => vs.length == 256) = true ∧
      steps padded (payState []) 256 false = true) ∧
    (toBlock (filled 256 0) = true ∧ toBlock (filled 4 1) = false) ∧ steps (filled 256 0) (payState []) 256 false = true ∧
    steps (filled 4 1) (payState []) 2 false = true ∧ steps (gathered 0) (payState []) 1 false = true ∧
    steps (gathered 1) (payState []) 2 false = true := by
  refine ⟨?_, ?_, ?_, ?_, ?_, ⟨?_, ?_, ?_, ?_⟩, ?_, ?_, ?_, ?_, ?_⟩ <;> decide +kernel
/-- R292, R317 to R323: an element of each training job, and its record; a word that a sweep leaves, one that it ages, and a stale one; a fault. -/
theorem witness_JobEvents_training :
    steps (swept 0) (payState []) 1 false = true ∧ sweepWord true [] 0 1 0 = none ∧
    (sweepWord true [] 1 1 (awMake true 0x3F80 0 0 true false)).map (·.2) = some 0 ∧ steps { swept 0 with gstep := 1 } (payState [0x80, 0x3F]) 1 false = true ∧
    (sweepWord true [] 2048 1 (awMake true 0x3F80 0 0 true false)).map (·.2) = some 1 ∧ steps (swept 1) (payState []) 1 true = true ∧
    steps (normed 0) (payState []) 1 false = true ∧ steps (normed 1) (payState []) 1 true = true ∧
    steps (applied 0) (payState []) 1 false = true ∧ ((applied 0).planned { payState [] with jobs := [applied 0] }).fails 0 = none ∧
    steps (applied 1) (payState []) 1 true = true ∧ stopsWith (bodyStep lost (payState [])) ⟨9, 7, 0, 0x200, 0⟩ = true := by
  refine ⟨?_, ?_, ?_, ?_, ?_, ?_, ?_, ?_, ?_, ?_, ?_, ?_⟩ <;> decide +kernel

/-- A collective of a group of one, with its own body sent or not. -/
def alone (card : List Word) : Job := { jobOn card 0 with group := [word (2 ^ 32), 0, 0], acc := [0, 5], instr := .cxgath 1 2 3 }
def reduced (card : List Word) : Job := { alone card with instr := .cxred 1 2 3 false }
def redCard : List Word := cardOf 6 2 0 0 [inPad 0x300, inPad 0x100, inPad 0x200, 1, word (5 * 2 ^ 8)]
def gathCard (n : Nat) : List Word := cardOf 7 2 0 0 [inPad 0x300, inPad 0x100, inPad 0x200, word n]
def allCard : List Word := cardOf 8 2 0 0 [inPad 0x300, inPad 0x100, inPad 0x200, 4, 1, 8, inPad 0x110, inPad 0x120, inPad 0x130, inPad 0x140]
def joined (j : Job) : State := { payState [] with contribs := [⟨0, 0, 0, collBody j 0⟩] }
def callGoes (j : Job) (s : State) : Bool := callBroken s j == none && !disagrees s j && steps j s
  (if (bodyOf (j.own s)).isNone then j.prog else j.prog + 1) false
/-- R394 to R396: a member of a group of one reads its data, and writes the members'. R391: an integer sum. -/
theorem witness_JobEvents_collectives :
    callGoes { alone (gathCard 1) with acc := [0] } (payState []) = true ∧ (cupBlocks (alone (gathCard 1)).cup).length = 0 ∧
    bodyOf ((alone (gathCard 1)).own (payState [])) = none ∧ callGoes (alone (gathCard 1)) (joined (alone (gathCard 1))) = true ∧
    rxBad (joined (alone (gathCard 1))) (alone (gathCard 1)) = false ∧ verdictsOf ((alone (gathCard 1)).own (joined (alone (gathCard 1)))) = [] ∧
    ((alone (gathCard 1)).partOf (joined (alone (gathCard 1))) 0).length = 4 ∧ callGoes (reduced redCard) (joined (reduced redCard)) = true ∧
    (redCard.getD 14 0).field 13 8 = 5 ∧ 4 = idWidth 5 / 8 ∧ collResult (joined (reduced redCard)) (reduced redCard) 0 = 5 ∧
    (collWrite (joined (alone allCard)) (alone allCard) 0).isSome = true ∧ callGoes (alone allCard) (joined (alone allCard)) = true := by
  refine ⟨?_, ?_, ?_, ?_, ?_, ?_, ?_, ?_, ?_, ?_, ?_, ?_, ?_⟩ <;> decide +kernel

/-- A job that may be released; one whose payload has ended, and one that waits under ORD; a call that no link serves, and one that waits for the
other member; a FILL of no position left, which ends in one step; the operands of CUPADD. -/
def callJob : Job := { aJob true false with instr := .cxbar 1 2 3, card := [9], group := [2 * 2 ^ 32, 0, 5 * 2 ^ 16], call := 0 }
def callState : State := { jobState [callJob] [] with
  contribs := [⟨0, 0, 0, leBytes 8 0⟩], links := [(0, { Link.reset with up := true })], pkg := { Package.reset with routes := [(5, 1)] } }
def ordJob : Job := { aJob true true with after := some 6 }
def doneJob : Job := { aJob true false with card := [2 + 1 * 2 ^ 12], prog := 2 ^ 40 }
theorem witness_JobEvents : ((jobState [aJob false false] []).jobs.find? fun x => x.fid == 0 && x.handle.toNat == 7 &&
      x.releasable ((jobState [aJob false false] []).before x)) = some (aJob false false) ∧
    ((jobState [aJob false false] []).jobs.find? fun x => x.agent == (aJob false false).agent) = some (aJob false false) ∧
    ((jobState [aJob true true] []).jobs.find? fun x => x.fid == 0 && x.handle.toNat == 7 && x.running) = some (aJob true true) ∧
    (aJob true true).mayEnd ((jobState [aJob true true] []).before (aJob true true)) = true ∧
    ordJob.mayEnd ((jobState [{ aJob true false with handle := 6 }, ordJob] []).before ordJob) = false ∧
    (aJob true true).moved = true ∧ (aJob true true).group = [] ∧ (aJob true true).pairAt = .mem (scratchBase 0 + 0x200) ∧
    (jobState [aJob true true] []).partErr (scratchBase 0 + 0x200) 8 = false ∧ (jobState [aJob true true] []).partBad (scratchBase 0 + 0x208) 8 = false ∧
    (match jobStep (jobState [doneJob] []) doneJob with
      | (t, more) => more && t.jobs.map (·.moved) == [true]) = true ∧
    ((jobState [callJob] []).jobs.find? fun x => x.running && !x.moved && !x.group.isEmpty && grpGid x.group == 0) = some callJob ∧
    6 ≤ cardKind callJob.card ∧ callBroken (jobState [callJob] []) callJob = some (0x21, 3) ∧
    (callState.jobs.find? fun x => x.agent == callJob.agent) = some callJob ∧ callState.pkg.tripped = false ∧
    (collectiveStep callState callJob).2 = false ∧
    ((1 : Word).toNat % 256 ≠ 0 ∧ (0x200 : Word).toNat % 256 = 0 ∧ (0 : Word).toNat % 256 = 0 ∧ 2 ^ 40 - 256 < (word (2 ^ 40)).toNat ∧
      (word (2 ^ 40 - 256)).toNat ≤ 2 ^ 40 - 256 ∧ (spGet [] ((user id).launch 0).cups 3).length < 16) := by decide +kernel

/-- A record of launch 5 at 0x100000, for front 0, in a package with that launch open. -/
def restoreState : State := pokeAt 0x6040100000 [1, 0xA00, 5 * 2 ^ 32, 0x40 * 2 ^ 48] (((mapped State.reset).setLaunch 5
  ⟨true, ldesc.map word, 1, 1, 0, 0, 1, []⟩).modDie 0 fun d => { d with rstsrc0 := 0x100000, rstctl := word (5 * 2 ^ 32) })

/-- What a restore of launch 5 on core 0 reads, and what it checks. -/
def restoreRead (s : State) : Except Stop (List (Nat × List Byte) × State) :=
  let s' := s.modDie 0 fun x => { x with rstctl := word (0 + (x.rstctl.field 23 16) * 2 ^ 16 + 5 * 2 ^ 32) }
  let (a, b) := ((s.die 0).rstsrc0.field 51 0, (s.die 0).rstsrc1.field 51 0)
  rstRecords 0 5 (.restore 0 5 a b) ([(0, a), (1, b)].filter fun p => p.2 != 0) s'
def restoreChecks (s : State) (p : List (Nat × List Byte) → State → Bool) : Bool := (s.launch 5).isOpen && okAnd (restoreRead s) p
theorem witness_Preemption : (user id).pkg.tripped = false ∧ ((user id).die 0).prectl.flag 9 = false ∧
    [2 * (64 * 0 + 1), 2 * (64 * 0 + 1) + 1].filter (user id).resident = [] ∧
    [2 * (64 * 0 + 0), 2 * (64 * 0 + 0) + 1].filter residentState.resident = [0] ∧ (residentState.die 0).prectl.flag 9 = false ∧
    isDouble (residentState.front 0).halt = false ∧ areaOk residentState (residentState.front 0).asid ((residentState.die 0).saveVa 0) = true ∧
    isDouble ((residentState.modFront 0 fun x => { x with halt := .doubleFault 3 }).front 0).halt = true ∧
    ((State.reset.launch 5).isOpen = false) ∧
    restoreChecks (restoreState.modDie 0 fun d => { d with rstsrc0 := 0 }) (fun recs _ => recs.isEmpty) = true ∧
    restoreChecks (restoreState.setSlot 0 { SlotRec.reset with state := 2 }) (fun recs t => !recs.isEmpty && !slotsFree t 0 5 (recs.map (·.1))) = true ∧
    restoreChecks restoreState (fun recs t => !recs.isEmpty && slotsFree t 0 5 (recs.map (·.1)) && (recs.all fun p => recordOk t 5 p.2) &&
      recordFits t 0 recs) = true := by
  refine ⟨?_, ?_, ?_, ?_, ?_, ?_, ?_, ?_, ?_, ?_, ?_, ?_⟩ <;> decide +kernel

/-- A core with lane 5 pending, or with nothing pending. -/
def pendingState (p : BitVec 64) : State := State.reset.modCore 3 fun k => { k with pending := p, rewritten := [(64 * 9 + 5, true)] }
theorem witness_ScrubAndRetire : (pendingState 0).pkg.tripped = false ∧ (⟨.tag, 9, 5, false⟩ : Found).fixed = false ∧
    spGet false ((pendingState 0).core 3).rewritten (64 * 9 + 5) = true ∧ spGet false ((pendingState 0).core 3).rewritten (64 * 9 + 6) = false ∧
    (liveLanes ((pendingState 0).core 3).lanemap).idxOf? 5 = some 5 ∧ ((pendingState 0).core 3).pending = 0 ∧
    ((pendingState 32).core 3).pending ≠ 0 ∧ (pendingState 32).residents 3 = [] ∧ residentState.residents 0 ≠ [] ∧
    (liveLanes ((pendingState 32).core 3).lanemap)[63]? = some 63 ∧
    (liveLanes (((pendingState 32).core 3).lanemap ||| ((pendingState 32).core 3).pending))[62]? = some 63 := by decide +kernel

/-- R418: SHA-512 of the three bytes "abc", by FIPS 180-4: its first eight bytes. -/
theorem test_sha512 : (sha512 [0x61, 0x62, 0x63]).take 8 = [0xdd, 0xaf, 0x35, 0xa1, 0x93, 0x61, 0x7a, 0xba] := by decide +kernel
/-- A key of 4,096 bits, made outside the model: its modulus, in words of 128 bits, highest first. -/
def keyWords : List Nat :=
  [0xe037a320456aa3c3e942d71961740af6, 0x95dba775d2deb9c2c60941297d8c8e5d, 0xf6c4f95caec892d8cd047ad669807235, 0xbf7f5ef85a5279bacc513158948908f1,
   0x415af4957ee6259fe56acf13df52d899, 0x67d8a14768af0468c9974bd9e529682c, 0x68199f4990b8b7bb651cf93badcc075c, 0x94679956327e50a22595f4ba68085ab4,
   0xb6cc8028f92dd0479f670225a4f54a6a, 0xa1389258eb2f9bfa211839d5c7a7d736, 0x9018c8ddb9680cb60c999a7d543068d2, 0x18b3ed0df22125495816a5469869dc4f,
   0x5f97db33092173c8693ae90d14d32b14, 0x311bc98dac9d29bffd769463d4c8045e, 0x023f34facb568ac216ed9f83ccd6b7bc, 0xdf9162d1e3d075a19bfc88b07441b6df,
   0x49079abff89cfca3336f2dc114f72d93, 0x0c39173f161566fd6ebedf1dbc77ce24, 0x6da31015d499bffe3c75c9398c84b338, 0x4fed6735c6d9e7d2dfe1a5cd0de79a4b,
   0x53558a156fecf8265fd8ef9a1a86a880, 0x3338bc1785e8ad916163101a0bdb0369, 0x05bc67f66cd9f72810f0ef6e946b8a00, 0x11ae2c08f55cdaf9e2672559d6ffe94d,
   0x8c9a5ef642567a8266bcf51dcd6268e5, 0xa76d2eac45b65be18d157a22dcdb6200, 0xe4e30e6435ea7d30123583ad227ad879, 0x50388adeedcd29a2dedd16424a4c5405,
   0x543df91b5effac497dafeac3fe9e9803, 0x953dba22fd4d3b05be72f54719241a26, 0xd80a74ccc5d91e8583d4c5fd33c32e8d, 0xe8217dafe1de35b40360e3493d92bb61]
/-- Its signature, of the header of VERSION 2^32 − 1, SIZE 0 and that modulus, with a salt of 64 bytes. -/
def sigWords : List Nat :=
  [0x95fe74c8c09fcc83713479f52e0d8d32, 0x1279296843b980ab75e459ad779a28da, 0x53c46062ecd8c7ec13c8be64ae767c0e, 0x5c781e4f64f2dfe1b57fc7e52b245658,
   0x09a17a087aca8191bd54d6cbc2abcbf0, 0xd3f5d7f5390467f8c80667dab8613cd8, 0xfc24e10d87750b4b305ea693746dbb3e, 0xb1442233bf1a4b1b1de02af17b29cfe8,
   0x4abe0eaacbb5ab9f5bef65a8da7f8290, 0x90293024fdef631f9097c5b058fb00bd, 0x508cf62a83ec07cd7b09fa83c83712d7, 0x540f3eb43c3407c677dfa4d3406c9bcd,
   0x9d86c2711d93e6502eeb55ab7fee4975, 0x030224b4efd8b98486fe49c36d9d2b24, 0xbcc760303ab6519d6da72e6706803c8e, 0x8c8eff2f250e56ba3aced7aa898bfa44,
   0x97ee7c2892383c9666846babac7c1954, 0x7b2be9e0e413d974f0270c81b251336c, 0xeba57f50a1e50d62981b54f880f2ce45, 0x45732eb70220c497f98d6891a45919af,
   0x0a2d0c91a6b214576e129494946b1165, 0x701ae77a38bff0ed99f8c7056f77ab9c, 0xfb0aaecace6bba9e0fe389c1d97ce1b0, 0xfc912cac3e1c1663fddf8a61c6264718,
   0x7f5160ce68286d57c6f802196c939e7d, 0x876d1dbb0c78497f804a169decb73462, 0xdb0090b13816c50954f8f48dde3441e9, 0x469ef13625d4c74bd86ff26d505062ad,
   0x7d2d39a5edb5f062d750e568291ae078, 0xe99a3a982cec15c206c0eba13ad65a91, 0x37e311f69fb6cd1e83320faafd559d0c, 0x8d7780b69565b2306d2d7943d8a051cf]
def ofWords (ws : List Nat) : Nat := ws.foldl (fun n w => n * 2 ^ 128 + w) 0
def keyBytes : List Byte := leBytes 512 (ofWords keyWords)
def sigBytes : List Byte := Sha.beBytes 512 (ofWords sigWords)
def signedBytes : List Byte := List.replicate 4 255 ++ zeros 4 ++ keyBytes
/-- RSASSA-PSS accepts the signature, and no other byte in its last place. -/
theorem test_pssVerifies : pssVerifies keyBytes sigBytes signedBytes = true := by decide +kernel
theorem test_pssRefuses : pssVerifies keyBytes (sigBytes.take 511 ++ [0]) signedBytes = false := by decide +kernel

/-- R418: an image of that header and signature, without code, passes every check when the root hash is that of its key; one whose code is one byte
too long fails the first. LEVEL 0 and above; stacks and links that have not trained. -/
def goodBytes : List Byte := signedBytes ++ sigBytes ++ zeros 3064
def goodImage : Image := ⟨goodBytes, goodBytes⟩
theorem good_fields : imgModulus goodBytes = keyBytes ∧ imgSignature goodBytes = sigBytes ∧ imgSigned goodBytes = signedBytes ∧
    imgVersion goodBytes = 2 ^ 32 - 1 ∧ rd goodBytes 4 4 = 0 ∧ ((goodBytes.drop 1032).take 3064).any (· != 0) = false := by decide +kernel
theorem witness_BringUp_goodImage (h : sha512 keyBytes = (List.range 64).map Config.rootHash) : bootErr goodImage = 0 := by
  obtain ⟨m, g, d, v, z, c⟩ := good_fields
  have x := Config.minver.isLt
  have e : imageErr goodBytes = 0 := by
    simp only [imageErr, m, g, d, v, z, c, h, test_pssVerifies]
    rw [if_neg (by simp), if_neg (by simp), if_neg (by simp), if_neg (by omega)]
  have q : bootErr goodImage = if imageErr goodBytes ≠ 0 then imageErr goodBytes else if imageErr goodBytes ≠ 0 then imageErr goodBytes else
    if sha512 goodBytes ≠ sha512 goodBytes then 5 else 0 := rfl
  rw [q, e, if_neg (by simp), if_neg (by simp), if_neg (by simp)]
theorem witness_BringUp : State.reset.pkg.tripped = false ∧ State.reset.pkg.level = 0 ∧ State.reset.pkg.booterr = 0 ∧ bootErr longImage ≠ 0 ∧
    { State.reset with pkg := { Package.reset with booterr := 3 } }.pkg.booterr ≠ 0 ∧
    { State.reset with pkg := { Package.reset with level := 1 } }.pkg.level ≠ 0 ∧ State.reset.pkg.hbmup.testBit 7 = false ∧
    State.reset.pkg.hbmfail.testBit 7 = false ∧ (State.reset.link 17).up = false ∧ (State.reset.link 17).failed = false := by decide +kernel

/-- Front 0 with s1 = 2^32, which a micro-TLB entry maps to device registers, or to package 5, with a link to it or none. -/
def leafAt (kernel : Bool) (leaf level : Nat) : State :=
  let s := (user fun x => { x.setReg 1 (word (2 ^ 32)) with kernel := kernel }).modCore 0 fun k =>
    { k with utlb := [{ asid := 0, base := 2 ^ 32, size := 0, leaf := leaf, unit := 0, stride := 0, index := 0 }] }
  { s with pkg := { s.pkg with level := level, routes := [(5, 8)] } }
def devAt : State := leafAt true (1 + 7 * 4 + 0x6200000000) 0
def peerAt (up : Bool) : State := (leafAt false (1 + 7 * 4 + 2 ^ 8 + 5 * 2 ^ 50 + 0x6000000000) 3).setLink 3 { Link.reset with up := up }
/-- The request that a load of `n` bytes there makes, answered. -/
def asked (n cls : Nat) (data b : List Byte) : Remote := ⟨.front 0, 0, 5, 0x6000000000, n, cls, data, some b⟩
def answeredAt (n cls : Nat) (data b : List Byte) : State := { peerAt true with remotes := [asked n cls data b] }
def goesTo (s : State) (need : Need) (l : Loc) : Bool := okAnd (translate s.ctx (2 ^ 32) need s) fun x _ => x == l
theorem witness_ScalarLoads_devices : ((devAt.reg 1 + (0 : BitVec 13).signExtend 64).toNat = 2 ^ 32 ∧ 2 ^ 32 % 8 = 0) ∧
    ([Need.read, .write, .both].all fun n => goesTo devAt n (.dev 0x6200000000)) = true := by decide +kernel
theorem witness_ScalarLoads_peers : ([Need.read, .write, .both].all fun n => goesTo (peerAt true) n (.peer 5 0x6000000000) && goesTo (peerAt false) n (.peer 5 0x6000000000))
      = true ∧ (answeredAt 8 1 [] (zeros 8)).answered 5 0x6000000000 8 1 [] (zeros 8) (asked 8 1 [] (zeros 8)) ∧
    (peerAt true).unasked 5 0x6000000000 8 1 [] ∧ (peerAt true).liveLinks 5 ≠ [] ∧ (peerAt false).liveLinks 5 = [] ∧ (peerAt true).freeTag = some 0 ∧
    ((peerAt true).send 5 0 0 8 0x6000000000 (zeros 8)).isSome = true ∧
    (peerAt false).trapReady 9 := by
  refine ⟨by decide +kernel, ⟨by decide +kernel, by decide +kernel, by decide +kernel⟩, ?_, by decide +kernel, by decide +kernel,
    by decide +kernel, by decide +kernel, ⟨by decide +kernel, .inl (by decide +kernel)⟩⟩
  show List.find? _ _ = none
  decide +kernel
theorem witness_Atomics_peers (code v : Nat) : (answeredAt 8 3 (Config.atomicPayload code 8 v) (zeros 8)).atomicAsked
    (asked 8 3 (Config.atomicPayload code 8 v) (zeros 8)) ∧ (peerAt true).noAtomic := by
  refine ⟨?_, fun r hr => absurd hr (by rw [show (peerAt true).remotes = [] by decide +kernel]; simp)⟩
  show List.find? _ [asked 8 3 (Config.atomicPayload code 8 v) (zeros 8)] = some _
  rw [List.find?_cons_of_pos]
  rfl

/-- A front that holds a task of the queue at 0x400, without a parent, or with one whose join entry at 0x700 has the word given; its continuation. -/
def heldState (hi entry : Nat) (cont : Nat) (tail : Nat) : State :=
  let s := poke 0x700 [entry, 0, cont, 0] (taskState 0 tail 1 1 [] fun x => { x with task := some (0x400, if hi = 0 then 0 else 2 ^ 12, 0) })
  poke (0x400 + 16) [0x700, hi] s
def heldRead (s : State) (p : TaskDesc → Nat → State → Bool) : Bool :=
  okAnd (readTasks s.ctx 0x400 s) fun d t => okAnd (loadVa s.ctx 0x700 8 t) fun n u => p d n u
def storesJoin (s u : State) (n : Nat) (p : State → Bool) : Bool := ((storeAll s.ctx [(0x700, n - 1)] u).map p).getD false
/-- R347: EXIT and TDONE of a held task: with no join entry; with an entry beyond the array, with COUNT 0, 2 and 1, and the continuation enqueued, or not for
want of room. -/
theorem witness_TaskRequests_held :
    (heldState 0 0 0 0).settled 0 = true ∧ (heldState 0 0 0 0).me.task = some (0x400, 0, 0) ∧ (heldState 0 0 0 0).me.queue = [] ∧
    okAnd (retire (heldState 0 0 0 0).ctx (0x400, 0, 0) (heldState 0 0 0 0)) (fun _ _ => true) = true ∧
    stopsWith (retire (heldState 1 0 0 0).ctx (0x400, 2 ^ 12, 1) (heldState 1 0 0 0)) ⟨0x10, 5, 0, 0x720, 0⟩ = true ∧
    heldRead (heldState 1 0 0 0) (fun d n _ => decide ((d.getD 2 0).toNat = 0x700 ∧ (d.getD 3 0).field 31 0 = 1 ∧ n % 2 ^ 32 = 0)) = true ∧
    heldRead (heldState 1 2 0 0) (fun _ n u => n == 2 && storesJoin (heldState 1 2 0 0) u n fun _ => true) = true ∧
    ([0, 16].all fun tail => heldRead (heldState 1 1 0 tail) fun d n u => n == 1 && storesJoin (heldState 1 1 0 tail) u n fun v =>
      okAnd (readRec (heldState 1 1 0 tail).ctx 0x710 v) fun x v1 => okAnd (readType (heldState 1 1 0 tail).ctx d x 0x700 v1) fun _ v2 =>
        !x.used && x.lo.field 14 13 == 0 && decide (0 < d.nq) && (if tail = 16 then decide (d.size 0 ≤ d.count 0) else decide (d.count 0 < d.size 0) &&
          (storeAll (heldState 1 1 0 tail).ctx [(d.slot 0 (d.tail 0), x.lo.toNat), ((d.slot 0 (d.tail 0) + 8) % 2 ^ 64, x.hi.toNat),
            ((0x400 + 8 * 10) % 2 ^ 64, d.head 0 % 2 ^ 32 + (d.tail 0 + 1) % 2 ^ 32 * 2 ^ 32)] v2).isSome)) = true ∧
    (heldState 1 1 0 16).trapReady 0x10 := by
  refine ⟨?_, ?_, ?_, ?_, ?_, ?_, ?_, ?_, ⟨?_, .inl ?_⟩⟩ <;> decide +kernel

/-- A front of 8 columns, in user mode with nothing queued; v1, v2 and v3 of 32-bit elements, with `a`, `b` and `c` of them in 8 columns. -/
def capState (vl a b c : Nat) : State :=
  (user fun x => { x with vl := word vl, carve := [(1, block 0 5 (a / 8) 8), (2, block 0 5 (b / 8) 8), (3, block 0 5 (c / 8) 8)] }).modCore 0 fun k =>
    { k with own0 := 8, target := 8 }
theorem fits_eight (n : Nat) (h : n = 32 ∨ n = 40 ∨ n = 48) : EntryFits (block 0 5 (n / 8) 8) 8 0 := by
  rcases h with rfl | rfl | rfl <;> refine ⟨?_, ?_, ?_, ?_, ?_, ?_, ?_, ?_⟩ <;> decide +kernel
/-- R61, R67: too few elements in the first name, in the second, in the third; and more than VLMAX, which is 32. -/
theorem witness_PushChecks_capacity : (capState 40 32 40 40).canPush ∧ (capState 40 32 40 40).me.kernel = false ∧ (capState 40 32 40 40).me.queue = [] ∧
    ((capState 40 32 40 40).window 0).2 = 8 ∧ (capState 40 32 40 48).me.entry 3 = block 0 5 (48 / 8) 8 ∧
    dCap (block 0 5 (32 / 8) 8) < 40 ∧ 40 ≤ dCap (block 0 5 (40 / 8) 8) ∧ vlmax 8 (dW (block 0 5 (40 / 8) 8)) < 40 := by
  refine ⟨⟨by decide +kernel, by decide +kernel⟩, ?_, ?_, ?_, ?_, ?_, ?_, ?_⟩ <;> decide +kernel

/-- R228: TARGET values that are valid, and that are not, on a core with one resident. -/
theorem witness_WriteControlRegisters_targets : targetOk ((kern id).core 0).live ((8 : Word).field 6 0) ((kern id).resident 0) ((kern id).resident 1) = true ∧
    targetOk ((kern id).core 0).live ((7 : Word).field 6 0) ((kern id).resident 0) ((kern id).resident 1) = false ∧
    ((kern id).slot (kern id).cur).state ≠ 1 := by decide +kernel

/-- R326: a set behind a PEER mapping, with another front in the middle of an instruction on it, and with none. -/
def busySet (busy : Bool) : State :=
  (leafAt false (1 + 7 * 4 + 2 ^ 8 + 5 * 2 ^ 50 + 0x6000000000) 3).modFront 1 fun x =>
    { x with wait := if busy then .serial (.peer 5 0x6000000000) else .no }
theorem witness_RatedSets_busy : (busySet true).serving (descLoc (busySet true) (2 ^ 32)) = true ∧
    (busySet false).serving (descLoc (busySet false) (2 ^ 32)) = false ∧ 2 ^ 32 % 64 = 0 ∧ ((busySet true).reg 1).toNat = 2 ^ 32 := by decide +kernel

/-- R350, R351: a CLAIM that waits for a counter in package 5, whose answer has come, or has not; a panel there of no rows, with an instruction queued or none. -/
def peerAsk (bs : Option (List Byte)) : Remote := { asked 16 3 (Config.atomicPayload 160 16 1) [] with answer := bs }
def peerClaim (bs : Option (List Byte)) (q : List QEntry) : State :=
  { (user fun x => { x with wait := .claim (.claim 1 2 3) 1 0 (.peer 5 0x6000000000), queue := q }) with remotes := [peerAsk bs] }
theorem asks_peer (bs : Option (List Byte)) (q : List QEntry) : (peerClaim bs q).atomicAsked (peerAsk bs) := by
  have c : (peerClaim bs q).cur = 0 := rfl
  show List.find? _ [peerAsk bs] = some _
  rw [List.find?_cons_of_pos]
  simp [peerAsk, asked, c]
theorem witness_Claims_peers : (peerClaim none []).me.wait = .claim (.claim 1 2 3) 1 0 (.peer 5 0x6000000000) ∧
    (peerClaim (some (zeros 64)) []).me.wait = .claim (.claim 1 2 3) 1 0 (.peer 5 0x6000000000) ∧
    (peerClaim none []).atomicAsked (peerAsk none) ∧ (peerClaim (some (zeros 64)) [pendingMset]).atomicAsked (peerAsk (some (zeros 64))) ∧ zeros 16 ≠ [] ∧ (peerClaim (some (zeros 64)) []).trapReady 0x10 ∧ (peerClaim (some (zeros 64)) [pendingMset]).me.queue ≠ [] ∧
    panelOk ((List.range 8).map fun j => word (leNat (((zeros 64).drop (8 * j)).take 8))) = false := by
  refine ⟨by decide +kernel, by decide +kernel, asks_peer _ _, asks_peer _ _, by decide, ⟨by decide +kernel, .inl (by decide +kernel)⟩, by decide +kernel, by decide +kernel⟩

/-- R241: a CLAIM that waits and has asked no peer, at an address that no longer translates. -/
theorem witness_Claims_again : (let s := { user (fun x => { x with wait := .claim (.claim 1 2 3) 1 0 (.peer 5 0x6000000000) }) with remotes := [] }
    s.me.wait = .claim (.claim 1 2 3) 1 0 (.peer 5 0x6000000000) ∧ s.noAtomic ∧ s.trapReady 9 ∧
    stopsWith (translate s.ctx (2 ^ 52) .both s) ⟨9, 1, 0, 2 ^ 52, 0⟩ = true) :=
  ⟨by decide +kernel, by intro r h; simp at h, ⟨by decide +kernel, .inl (by decide +kernel)⟩, by decide +kernel⟩

/-- R78, R85, R328: a signalling NaN as the change of a member sets NV; a subnormal change above a HI of 0 takes the level to LMIN, and
with FZI it is 0 and the level stays. -/
def someMember : Member := ⟨3, false, 0, 0, 0, 0, 0⟩
def someSet : SetDesc := [0, 0xC0, 0, 0]
theorem test_visit_flags : (someMember.visit (envOf 0 0) someSet 0x7F800001 0).2 = 16 ∧
    (someMember.visit (envOf 0 0) someSet 1 0).1.level = 0 ∧ (someMember.visit (envOf 8 0) someSet 1 0).1.level = 3 := by decide +kernel

/-- R284, R285: a flit with a write to a peer that has not been acknowledged. R371: a queue whose ring is not served. R413: the address of RSTREQ. R420: a
steward's access that is served, and one that is not. -/
def sentState : State := State.reset.setLink 3 { Link.reset with up := true, unacked := [flitBytes (flitRoute 5 false 0) 0 0 0 1 (msgBytes 0 0 0 0 [])] }
theorem witness_Management_units : sentState.posted = true ∧ State.reset.posted = false ∧ (user id).filling 0 none = false ∧
    (State.reset.setQueue 3 ⟨0x1000, 0x101, 0, 1, 0, 0⟩).serves 0x1000 = false ∧
    devReg (0x62E2000008 / 8 * 8) = .rstreq ∧ inDevice 0x62E2000008 = true ∧ (1 : Word).getLsbD 0 = true ∧
    msgLoc State.reset ⟨0, 5, 8, 0x62E2000008, leBytes 8 1, 7, true⟩ = some (.dev 0x62E2000008) ∧
    leNat (msgData ⟨0, 5, 8, 0x62E2000008, leBytes 8 1, 7, true⟩) % 2 = 1 ∧
    State.reset.serves 0x100 = false ∧ ({ State.reset with pkg := { Package.reset with level := 3 } }).serves 0x107 = true ∧
    (tinvState true).peersQuiet = true ∧ ({ tinvState true with links := sentState.links }).peersQuiet = false := by
  refine ⟨?_, ?_, ?_, ?_, ?_, ?_, ?_, ?_, ?_, ?_, ?_, ?_, ?_⟩ <;> decide +kernel

/-- R72, R358: behind a head with a trap, no instruction in the middle of a beat, and one in it. -/
def middle : QEntry := { newEntry (.vadd 1 2 3 0) 1 (capOf [block 4 5 1 32, block 0 5 1 32, block 1 5 1 32] [] 32) with issued := true, progress := 5 }
theorem witness_QueueEvents_beats : middle.midBeat = true ∧ { middle with progress := 0 }.midBeat = false ∧ (user id).inAtomic (.entry 0 1) = false := by decide +kernel

/-- Every cell of element i of a name is clean, and has the tag `t`. -/
def tagsAt (s : State) (w : Word) (i t : Nat) : Bool :=
  (badCell? (s.core 0) (elemCells w 0 i) true).isNone && (elemCells w 0 i).all fun c => ((s.core 0).tag c).toNat == t
/-- The entries of `vecState`, with 11 of 8 bits and v12 of FP32 beside them, slot 3 of 4 bits with the reserved code 8, and the tags and cells given. -/
def laneState (n : Nat) (tags : List (Nat × Byte)) (plane : List (Nat × BitVec 32)) : State :=
  (vecState n fun x => { x.setEntry 11 (block 8 3 1 2) with
    fmt := x.fmt ++ [(3, word (4 + 16 + 3 * 2 ^ 9 + 8 * 2 ^ 24 + 15 * 2 ^ 32))], masks := [(1, 1)] }).modCore 0 fun k => { k with plane := plane, tags := tags }
/-- The entry that a push of the instruction makes. -/
def pushedAs (s : State) (i : Instr) (p : PushSpec) : QEntry := newEntry i 0 (s.me.capture (s.window 0) p)
/-- Body `i` of the entry completes, or traps. -/
def bodyEnds (e : QEntry) (i : Nat) (s : State) : Bool :=
  match runOf e 0 with
  | .elems stop 1 body => decide (i < stop) && okAnd (body i s) fun _ _ => true
  | _ => false
def bodyStops (e : QEntry) (i : Nat) (s : State) (t : TrapRec) : Bool :=
  match runOf e 0 with
  | .elems stop 1 body => decide (i < stop) && stopsWith (body i s) t
  | _ => false
def wholeEnds (e : QEntry) (s : State) : Bool :=
  match runOf e 0 with
  | .whole m => okAnd (m s) fun _ _ => true
  | .part g => (g none s).2.1 == e.vl && (g none s).2.2.isNone
  | _ => false
def wholeStops (e : QEntry) (s : State) (t : TrapRec) : Bool :=
  match runOf e 0 with
  | .whole m => stopsWith (m s) t
  | _ => false

/-- The conversions, with tags and codes that they take. -/
def cvtAt (s : State) (dst src : BitVec 6) : QEntry := pushedAs s (.vcvt 1 4 dst src) (cvtSpec 1 4 dst src)
def narrowAt (s : State) (v : VName) (n : Slot) : QEntry := pushedAs s (.vnarrow v 4 n 9) (groupSpec v 4 n 0 true (fun _ => true) 16)
def widenAt (s : State) (v : VName) (n : Slot) : QEntry := pushedAs s (.vwiden 4 v 9 n) (groupSpec 4 v n 1 true (fun _ => true) 16)
def splitAt (s : State) : QEntry := pushedAs s (.vsplitb 8 5 1) (groupSpec 8 5 1 0 false planar 8)
def joinAt (s : State) : QEntry := pushedAs s (.vjoinb 5 8 1) (groupSpec 5 8 1 1 false planar 8)
def scaleAt (s : State) : QEntry := pushedAs s (.vscaleb 5 4 2) (scalebSpec 5 4 2)
def half : State := laneState 2 [(128, 9), (512, 13)] [(128, 0x3C003C00), (512, 0x8080)]
theorem witness_FloatElements_conversions :
    (tagsAt half (block 2 4 1 2) 1 9 = true ∧ idTagOk 9 9 = true ∧ bodyEnds (cvtAt half 11 9) 1 half = true) ∧
    (tagsAt half (block 8 3 1 2) 0 13 = true ∧ bodyEnds (narrowAt half 10 2) 1 half = true ∧ (narrowAt half 10 2).scaleName 0 = block 8 3 1 2 ∧
      (half.core 0).elem (block 8 3 1 2) 0 0 = 0x80) ∧ bodyEnds (narrowAt half 5 0) 1 half = true ∧
    (let s := laneState 2 [(128, 9), (512, 13)] [(512, 0xFF)]
     bodyStops (narrowAt s 10 2) 1 s ⟨6, 1, 1, 0, 0⟩ = true) ∧
    (let s := laneState 2 [(192, 13)] [(192, 0xFF)]
     bodyStops (pushedAs s (.vcvt 1 5 11 13) (cvtSpec 1 5 11 13)) 0 s ⟨6, 1, 0, 0, 0⟩ = true) ∧
    bodyStops (cvtAt (laneState 2 [] []) 11 9) 0 (laneState 2 [] []) ⟨5, 0, 0, 0, 0⟩ = true := by
  refine ⟨⟨?_, ?_, ?_⟩, ⟨?_, ?_, ?_, ?_⟩, ?_, ?_, ?_, ?_⟩ <;> decide +kernel
theorem witness_FloatElements_groups :
    (let s := laneState 2 [(192, 32)] [(192, 5)]
     tagsAt s (block 3 3 1 2) 0 (slotTag 0 0) = true ∧ bodyEnds (widenAt s 5 0) 0 s = true) ∧
    (let s := laneState 2 [(320, 35)] [(320, 8)]
     (widenAt s 8 3).planes 0 = [(block 5 2 1 8, 4, 0, 0)] ∧ tagsAt s (block 5 2 1 8) 0 (slotTag 3 0) = true ∧ nDecode (widenAt s 8 3).cap.fmt 8 = none ∧
      bodyStops (widenAt s 8 3) 0 s ⟨6, 0, 0, 0, 0⟩ = true) ∧
    (let s := laneState 2 [(192, 33)] [(192, 0x3F)]
     tagsAt s (block 3 3 1 2) 0 (slotTag 1 0) = true ∧ bodyEnds (splitAt s) 0 s = true) ∧
    (let s := laneState 2 [(320, 97), (384, 161)] []
     tagsAt s (block 5 2 1 8) 0 (slotTag 1 1) = true ∧ tagsAt s (block 6 1 1 16) 0 (slotTag 1 2) = true ∧ bodyEnds (joinAt s) 0 s = true) ∧
    (match runOf (scaleAt half) 0 with
      | .elems stop 1 body => stop == 1 && okAnd (body 0 half) fun _ t => (t.core 0).elem (block 3 3 1 2) 0 0 != 127
      | _ => false) = true ∧
    (match runOf (scaleAt (laneState 2 [(128, 9)] [])) 0 with
      | .elems stop 1 body => stop == 1 && okAnd (body 0 (laneState 2 [(128, 9)] [])) fun _ t => (t.core 0).elem (block 3 3 1 2) 0 0 == 127
      | _ => false) = true := by
  refine ⟨⟨?_, ?_⟩, ⟨?_, ?_, ?_, ?_⟩, ⟨?_, ?_⟩, ⟨?_, ?_, ?_⟩, ?_, ?_⟩ <;> decide +kernel

/-- Two elements of 32 bits of a source in row 1, with one tag, and the front in a state in which element 1 is inactive, or none. -/
def rowOne (tag : Byte) (vmc : Word) : State :=
  (laneState 2 [(64, tag), (65, tag)] [(64, 7), (65, 7)]).modFront 0 fun x => { x with vmc := vmc, regs := [(1, 1), (2, 8)] }
def laneAt (s : State) (i : Instr) (regs : List SReg) : QEntry := pushedAs s i (.plain [asDst 1, asSrc 2] regs)
def inQueue (s : State) (e : QEntry) : State := s.modFront 0 fun x => { x with queue := [e] }
theorem witness_LaneResults_moves :
    ([Instr.vslideup 1 2 1, .vslidedn 1 2 1, .vslideupImm 1 2 1, .vslidednImm 1 2 1, .vbcast 1 2 1].all fun i =>
      wholeEnds (laneAt (rowOne 5 0) i [1]) (rowOne 5 0) && wholeEnds (laneAt (rowOne 5 17) i [1]) (rowOne 5 17)) = true ∧
    wholeEnds (pushedAs (rowOne 5 0) (.vperm 1 2 2) (binSpec 1 2 2)) (rowOne 5 0) = true ∧
    wholeEnds (laneAt (rowOne 5 0) (.vcompress 1 2) []) (rowOne 5 0) = true ∧ wholeEnds (laneAt (rowOne 5 17) (.vexpand 1 2) []) (rowOne 5 17) = true ∧
    ([0, 1].all fun i => tagsAt (rowOne 5 0) (block 1 5 1 2) i (intTag 32)) = true ∧
    (List.range 256).all (fun i => (badCell? ((rowOne 5 0).core 0) (elemCells (block 0 5 1 2) 0 i) true).isNone) = true ∧
    (List.range 2).filter (activeIn 2 (((rowOne 5 17).front 0).mask 1)) = [0] := by
  refine ⟨?_, ?_, ?_, ?_, ?_, ?_, ?_⟩ <;> decide +kernel
/-- R192 to R195: INT and FP reductions, scans and VTOPK, VHIST of 8 bins; the first bad tag. -/
theorem witness_LaneResults :
    ([(0, (5 : Byte)), (1, 11)].all fun p => let ty : BitVec 2 := BitVec.ofNat 2 p.1
      let s := rowOne p.2 0
      ([Instr.vredsum 1 2 ty, .vredmax 1 2 ty, .vredmin 1 2 ty].all fun i => wholeEnds (laneAt s i []) s) &&
      (let e := laneAt s (.vscan 1 2 ty) []
       wholeEnds e (inQueue s e) && e.aux == 0 && e.progress == e.start && ((inQueue s e).front 0).queue.find? (fun y => y.vsn == e.vsn) == some e) &&
      wholeEnds (laneAt s (.vtopk 1 2 1 ty) [1]) s) = true ∧
    wholeEnds (laneAt (rowOne 5 0) (.vhist 1 2 2) [2]) (rowOne 5 0) = true ∧
    (topkK 1 = 1 ∧ (1 : Word).field 24 16 = 0) ∧
    (let s := laneState 2 [(64, 5)] []
     [Instr.vredsum 1 2 0, .vtopk 1 2 1 0, .vhist 1 2 1].all fun i => wholeStops (laneAt s i [1]) s ⟨5, 0, 0, 1, 0⟩) = true := by
  refine ⟨?_, ?_, ⟨?_, ?_⟩, ?_⟩ <;> decide +kernel
/-- R181: a floating compare of two FP32 elements, and one with a wrong tag. -/
theorem witness_MaskInstructions_floats :
    (let s := laneState 2 [(0, 11), (64, 11)] []
     let e := pushedAs s (.vfcmpLt 1 1 2 0 false) (.plain [asSrc 1, asSrc 2] [])
     tagsAt s (e.name 0) 0 (fpTag .fp32) && tagsAt s (e.name 1) 0 (fpTag .fp32) && dW (e.name 0) == 32 && bodyEnds e 0 s &&
      bodyStops e 1 s ⟨5, 0, 1, 0, 0⟩) = true := by decide +kernel
/-- R163, R164, R171: moves of a mask's choice, splats, VMVSX; RETAG, PLZERO, PLSAVE and PLLOAD, aligned and not. -/
theorem witness_IntegerElements_plane :
    ([Instr.vmerge 1 2 2 0, .vmerge 1 2 2 1, .vsplat 1 1, .vsplatImm 1 200].all fun i =>
      bodyEnds (pushedAs (rowOne 5 9) i (.plain [asDst 1, asSrc 2, asSrc 2] [1])) 1 (rowOne 5 9)) = true ∧
    bodyEnds (pushedAs (rowOne 5 0) (.vmvsx 1 1) (nameSpec (asDst 1) [1])) 0 (rowOne 5 0) = true ∧
    wholeEnds (pushedAs (rowOne 5 0) (.retag 1 11) (nameSpec (asDst 1) [])) (rowOne 5 0) = true ∧
    wholeEnds (pushedAs (rowOne 5 0) (.plzero 1) (nameSpec (asDst 1) [])) (rowOne 5 0) = true ∧
    ([(0, true), (2, false)].all fun p => let s := (rowOne 5 0).modFront 0 fun x => x.setReg 3 (word (0x400 + p.1))
      (match runOf (pushedAs s (.plsave 1 3) (nameSpec (asSrc 1) [3])) 0 with
        | .steps check n body => n == 2 && (if p.2 then okAnd (body 1 s) fun _ _ => true else stopsWith (check s) ⟨7, 2, 0, 0x402, 0⟩)
        | _ => false) &&
      (if p.2 then wholeEnds (pushedAs s (.plload 1 3) (nameSpec (asDst 1) [3])) s
       else wholeStops (pushedAs s (.plload 1 3) (nameSpec (asDst 1) [3])) s ⟨7, 2, 0, 0x402, 0⟩)) = true ∧
    (cellList (block 0 5 1 2) 0).Nodup := by
  refine ⟨?_, ?_, ?_, ?_, ?_, ?_⟩ <;> decide +kernel
/-- R215, R218, R220: products of one k-step, of FP16 elements, of 8-bit integers, and under E8 scales; and one with a wrong tag. -/
def productState (tags : List (Nat × Byte)) : State := (laneState 1 tags [(512, 0x7F7F7F7F)]).modFront 0 fun x => x.setEntry 11 (block 8 3 1 4)
def mmaAt (s : State) : QEntry := pushedAs s (.mma 4 4 0) (mmaSpec 4 4 0)
def productEnds (e : QEntry) (g : Nat) (s : State) : Bool :=
  match runOf e 0 with
  | .elems 1 unit body => unit == g && okAnd (body 0 s) fun _ _ => true
  | _ => false
theorem witness_Carafe_products :
    productEnds (mmaAt (productState [(128, 9)])) 1 (productState [(128, 9)]) = true ∧
    (match runOf (mmaAt (productState [])) 0 with
      | .elems _ _ body => stopsWith (body 0 (productState [])) ⟨5, 0, 0, 0, 0⟩
      | _ => false) = true ∧
    (let s := productState [(192, 32)]
     let e := pushedAs s (.mman 5 5 0) (mmnSpec 5 5 none 0)
     productEnds e 2 s && nW e.cap.fmt == 8 && tagsAt s (e.name 0) 0 (slotTag 0 0)) = true ∧
    (let s := productState [(192, 34), (512, 13)]
     let e := pushedAs s (.mmas 5 5 11 2) (mmnSpec 5 5 (some 11) 2)
     productEnds e 2 s && tagsAt s (e.name 2) 0 13 && (s.core 0).elem (e.name 2) 0 0 != 0xFF) = true := by
  refine ⟨?_, ?_, ?_, ?_⟩ <;> decide +kernel
/-- R255, R256, R261, R263, R270, R313 to R315: accesses by index, of a tile, a pair and a window, of aged words, and scatter-adds. -/
def memState : State := (laneState 2 [(0, 11), (1, 11), (64, 5), (65, 5)] [(64, 1), (65, 3)]).modFront 0 fun x => { x with regs := [(1, 0x400), (2, 0x500)] }
def memAt (i : Instr) (u : NameUse) (regs : List SReg) (r : List Word) : QEntry := { pushedAs memState i (.plain [u, asSrc 2] regs) with record := r }
def record (a b c d : Nat × Nat) : List Word := [a, b, c, d].map fun p => word (p.1 * 2 ^ 40 + p.2)
theorem witness_VectorMemoryElements_forms :
    ([memAt (.vldx 1 1 2) (asDst 1) [1] [], memAt (.vstx 1 1 2) (asSrc 1) [1] [], memAt (.vldz 1 1 6) (asDst 1) [1] (record (2, 0) (2, 0) (0, 0) (0, 0)),
      memAt (.vstz 1 1 6) (asSrc 1) [1] (record (2, 0) (2, 0) (0, 0) (0, 0)), memAt (.vstpair 1 1 6) (asSrc 1) [1, 2] (record (2, 4) (1, 8) (2, 4) (1, 8)),
      memAt (.vldw 1 1 6) (asDst 1) [1] (record (2, 4) (2, 8) (2, 16) (0, 0)), memAt (.agld 1 1 true) (asDst 1) [1] [],
      memAt (.agst 1 1 true) (asSrc 1) [1] [], memAt (.agadd 1 1 true) (asSrc 1) [1] [], memAt (.agmerge 1 1 true) (asSrc 1) [1] []].all
      fun e => bodyEnds e 1 memState) = true ∧
    (((memAt (.vldx 1 1 2) (asDst 1) [1] []).scal 0).toNat = 0x400 ∧ tagsAt memState (block 1 5 1 2) 1 (intTag 32) = true ∧
      (memState.core 0).elem (block 1 5 1 2) 0 1 = 3) ∧
    ([2, 3].all fun n => let e := { memAt (.vscadd 1 1 2 11) (asSrc 1) [1] [] with cap := { (memAt (.vscadd 1 1 2 11) (asSrc 1) [1] []).cap with vl := word (n - 1) } }
      wholeEnds e memState && e.aux == 0 && e.flags == 0 && (memState.asking (.entry 0 e.vsn)).isNone) = true ∧
    okAnd (scGroups 11 (scElem 11 (memAt (.vscadd 1 1 2 11) (asSrc 1) [1] []) 0) (memAt (.vscadd 1 1 2 11) (asSrc 1) [1] []) 0 2 0 [] memState) (fun gs t => gs.length == 2 && gs.all fun g => match g.loc with
      | .mem q => !t.errAt q 4 && !t.badAt q 4
      | _ => false) = true ∧
    ([Instr.vld 8 1, .vst 8 1].all fun i => [0, 1].all fun j => bodyEnds (pushedAs memState i (.plain [asDst 8] [1])) j memState) = true ∧
    bodyStops (memAt (.vstpair 1 1 6) (asSrc 1) [1, 1] (record (2, 2) (1, 8) (2, 2) (1, 8))) 1 memState ⟨7, 2, 0, 0x402, 0⟩ = true := by
  refine ⟨?_, ⟨?_, ?_, ?_⟩, ?_, ?_, ?_, ?_⟩ <;> decide +kernel

/-! ### The clauses of errors in storage, of peers, and of requests in the middle -/

/-- R374, R378: the doubleword at 0x100, or its block, in error; a request to a peer that is answered with no data, for memory that peers serve and beyond it. -/
def sick (s : State) : State := { s with memErr := [((scratchBase 0 + 0x100) / 8, true)] }
def badBlock (s : State) : State := { s with badBlk := [((scratchBase 0 + 0x100) / 256, true)] }
def readsBad (s : State) (need : Need) (n : Nat) (err bad : Bool) : Bool := okAnd (translate s.ctx 0x100 need s) fun l t =>
  l == .mem (scratchBase 0 + 0x100) && t.errAt (scratchBase 0 + 0x100) n == err && t.badAt (scratchBase 0 + 0x100) n == bad
def writesBad (s : State) (n : Nat) (err bad : Bool) : Bool := okAnd (translate s.ctx 0x100 .write s) fun l t =>
  l == .mem (scratchBase 0 + 0x100) && t.partErr (scratchBase 0 + 0x100) n == err && t.partBad (scratchBase 0 + 0x100) n == bad
theorem witness_ScalarLoads_errors : (sick (reg1 0x100)).trapReady 0x0A ∧
    ([1, 2, 4, 8].all fun n => [Need.read, .both].all fun w => readsBad (sick (reg1 0x100)) w n true false &&
      readsBad (badBlock (reg1 0x100)) w n false true) = true ∧
    ([1, 2, 4].all fun n => writesBad (sick (reg1 0x100)) n true false) = true ∧ ([1, 2, 4, 8].all fun n => writesBad (badBlock (reg1 0x100)) n false true) = true ∧
    ((reg1 0x100).reg 1).toNat % 8 = 0 := by
  refine ⟨⟨by decide +kernel, .inl (by decide +kernel)⟩, ?_, ?_, ?_, ?_⟩ <;> decide +kernel
theorem witness_ScalarLoads_refused : (peerAt true).trapReady 9 ∧ (answeredAt 8 1 [] []).answeredEmpty 5 0x6000000000 8 1 [] ∧
    (inHbm 0x6000000000 || inVault 0x6000000000) = true ∧ (inHbm 0x6200000000 || inVault 0x6200000000) = false := by
  refine ⟨⟨by decide +kernel, .inl (by decide +kernel)⟩, ⟨asked 8 1 [] [], by decide +kernel, rfl⟩, by decide +kernel, by decide +kernel⟩

/-- R268, R285: a fill that a peer has not answered; a posted write of the front, and of a job of it; a popped row that is not filled. -/
def fillingState : State := { user id with remotes := [⟨.filler 0 2, 0, 5, 0x6000000000, 8, 1, [], none⟩] }
def writeFlit : List Byte := leBytes 2 5 ++ leBytes 2 0 ++ leBytes 4 0 ++ [1] ++ zeros 3 ++ leBytes 4 0 ++ [2, 0] ++ zeros 30
def sentBy (a : Agent) : State := (user id).setLink 3 { Link.reset with up := true, unacked := [writeFlit], owners := [[a]] }
def popped : QEntry := { filler with cap := { filler.cap with pops := [(2, 0)] } }
def poppedState : State := user fun x => { x with queue := [popped], binds := [(2, ⟨1, false, 1, 0, 0, 0x100, block 0 5 2 2, 0, 0, false, [], true, false, none⟩)] }
theorem witness_FencesAtTheFront_more : (sentBy (.front 0)).postedBy (fun a => a == .front 0) = true ∧
    (sentBy (.entry 0 9)).postedBy (fun a => a == .front 0) = false ∧ (sentBy (.entry 0 9)).postedBy (Agent.queuedOn 0) = true ∧
    (sentBy (.front 0)).postedBy (Agent.queuedOn 0) = false ∧ (sentBy (aJob true false).agent).postedBy (Agent.ofFront 0) = false ∧
    fillingState.filling 0 none = true ∧ (poppedState.me.queue.all fun e => !e.memPending && (poppedState.me.unfilled e).isEmpty) = false := by decide +kernel

/-- R152, R342, R347: EXIT with a fill in flight; with a held task, in the middle of it, before it is settled, with another front in the middle of a request on its
descriptor, and whose retirement traps, or ends. -/
def midOf (f : Nat) (a : Nat) (s : State) : State := s.modFront f fun x => { x with wait := .serial (.mem (scratchBase 0 + a)) }
theorem witness_ExitEndsFront_more : (fillingState.amid || (fillingState.me.queue.isEmpty && !fillingState.filling 0 none)) = false ∧
    ((user id).amid || ((user id).me.queue.isEmpty && !(user id).filling 0 none)) = true ∧ (heldState 0 0 0 0).me.task = some (0x400, 0, 0) ∧
    (midOf 0 0x400 (heldState 0 0 0 0)).amid = true ∧ ((heldState 0 0 0 0).amid || (heldState 0 0 0 0).settled 0) = true ∧
    ({ heldState 0 0 0 0 with jobs := [aJob true false] }.amid || { heldState 0 0 0 0 with jobs := [aJob true false] }.settled 0) = false ∧
    (midOf 2 0x400 (heldState 0 0 0 0)).serving (descLoc (midOf 2 0x400 (heldState 0 0 0 0)) 0x400) = true ∧
    (heldState 0 0 0 0).serving (descLoc (heldState 0 0 0 0) 0x400) = false ∧
    okAnd (retire (heldState 0 0 0 0).ctx (0x400, 0, 0) (heldState 0 0 0 0)) (fun _ _ => true) = true ∧
    stopsWith (retire (heldState 1 0 0 0).ctx (0x400, 2 ^ 12, 1) (heldState 1 0 0 0)) ⟨0x10, 5, 0, 0x720, 0⟩ = true ∧
    (heldState 1 0 0 0).trapReady 0x10 := by
  refine ⟨?_, ?_, ?_, ?_, ?_, ?_, ?_, ?_, ?_, ?_, ⟨?_, .inl ?_⟩⟩ <;> decide +kernel

/-- R290, R294: a misaligned pair; an aligned one beside a misaligned card; a name of 16, 32 and 64 bits that fits. -/
def jobRegs (card pair : Word) : State := user fun x => { edgeFront x with regs := [(1, card), (2, pair)] }
theorem witness_PushChecks_jobs : (jobRegs 0x400 0x208).canPush ∧ (jobRegs 0x400 0x208).me.queue = [] ∧ (jobRegs 0x400 0x208).me.kernel = false ∧
    ((jobRegs 0x400 0x208).reg 2).toNat % 16 ≠ 0 ∧ ((jobRegs 0x420 0x210).reg 2).toNat % 16 = 0 ∧ ((jobRegs 0x420 0x210).reg 1).toNat % 64 ≠ 0 ∧
    (user edgeFront).fits 1 ∧ (user edgeFront).ew 1 ∈ [16, 32, 64] :=
  ⟨⟨by decide +kernel, by decide +kernel⟩, by decide +kernel, by decide +kernel, by decide +kernel, by decide +kernel, by decide +kernel, fits_edge 1,
    by decide +kernel⟩

/-- R264: the entry of a bound name stays the one that SBIND captured, whatever CARVE wrote. -/
theorem test_effective : (boundState.modFront 0 fun x => x.setEntry 1 (block 9 4 1 1)).me.effective 1 = block 0 5 2 2 := by decide +kernel

/-- R342: requests on a descriptor that another front is in the middle of, and in a front's own middle. -/
theorem witness_TaskRequests_serving : (midOf 2 0x400 (taskState 0 1 1 1 [] id)).serving (descLoc (midOf 2 0x400 (taskState 0 1 1 1 [] id)) 0x400) = true ∧
    (taskState 0 1 1 1 [] id).serving (descLoc (taskState 0 1 1 1 [] id) 0x400) = false ∧ ((taskState 0 1 1 1 [] id).reg 1).toNat / 64 * 64 = 0x400 ∧
    ((taskState 0 1 1 1 [] id).amid || (taskState 0 1 1 1 [] id).settled 0) = true ∧ (midOf 2 0x400 (taskState 0 1 1 1 [] id)).me.task = none ∧
    ((midOf 0 0x400 (taskState 0 1 1 1 [] id)).amid = true ∧ (user fun x => { x with queue := fill 1 }).amid = false) ∧
    ((user fun x => { x with queue := [{ filler with instr := .vst 1 2 }] }).amid ||
      (user fun x => { x with queue := [{ filler with instr := .vst 1 2 }] }).settled 0) = false := by decide +kernel

/-- The marks of a take of the record at `va` of queue 0, one after another. -/
def marks (c : Ctx) (d : TaskDesc) (va lo : Nat) (s : State) : Bool :=
  let left := d.credit 0 - 1
  let turn := if 0 < left then 0 else 1 % d.nq
  let d' : TaskDesc := (d.set 9 (word ((d.ctl 0).field 15 0 + left * 2 ^ 16))).set 4 (word turn)
  ((storeAll c [(va, lo + 2 ^ 15), ((0x400 + 8 * 9) % 2 ^ 64, (d.ctl 0).field 15 0 + left * 2 ^ 16), ((0x400 + 8 * 4) % 2 ^ 64, turn)] s).map fun x1 =>
    okAnd (headPast c d' (some va) 0 (d'.head 0) (d'.count 0) x1) fun h x2 =>
      (storeAll c [((0x400 + 8 * 10) % 2 ^ 64, h % 2 ^ 32 + d'.tail 0 % 2 ^ 32 * 2 ^ 32)] x2).isSome).getD false
/-- The choice among the records, for the rows that the registers of the TAKE ask for. -/
def takeState (tail opens credit : Nat) (rows : Nat) : State := (taskState 0 tail opens credit [] id).modFront 0 fun x => x.setReg 2 (word (rows + 327680 * 2 ^ 32))
def chosen (s : State) (d : TaskDesc) (t : State) (p : Option (Nat × Nat × TaskRec × TaskType) → State → Bool) : Bool :=
  okAnd (chooseQueue s.ctx d ((s.reg 2).field 9 0) ((s.reg 2).field 50 32) ((t.held.filter fun h => h.lid == t.me.lid).map (·.foot)) 0 d.nq t) p
def afterRenew (s : State) (p : TaskDesc → Option (Nat × Nat × TaskRec × TaskType) → State → Bool) : Bool :=
  s.me.task.isNone && taskRead s fun d t => chosen s d t fun q u => q.isNone && okAnd (renewCredits s.ctx 0x400 d d.nq u) fun e v =>
    okAnd (chooseQueue s.ctx e ((s.reg 2).field 9 0) ((s.reg 2).field 50 32) ((t.held.filter fun h => h.lid == t.me.lid).map (·.foot)) 0 e.nq v) (p e)
theorem witness_TakeTask_choices :
    (taskRead (takeState 1 1 1 512) fun d t => chosen (takeState 1 1 1 512) d t fun q u => match q with
      | some (0, va, r, _) => marks (takeState 1 1 1 512).ctx d va r.lo.toNat u
      | _ => false) = true ∧
    (afterRenew (takeState 1 1 0 512) fun e q w => match q with
      | some (0, va, r, _) => marks (takeState 1 1 0 512).ctx e va r.lo.toNat w
      | _ => false) = true ∧
    (afterRenew (takeState 0 1 1 512) fun e q _ => q.isNone && decide (e.opens ≠ 0)) = true ∧
    (afterRenew (takeState 1 0 1 0) fun e q w => q.isNone && decide (e.opens = 0) && w.held.isEmpty &&
      okAnd (anyPending (takeState 1 0 1 0).ctx e e.nq w) fun b _ => b) = true ∧
    (afterRenew (takeState 0 0 1 512) fun e q w => q.isNone && decide (e.opens = 0) && w.held.isEmpty &&
      okAnd (anyPending (takeState 0 0 1 512).ctx e e.nq w) fun b _ => !b) = true ∧
    (taskRead (taskState 0 1 1 1 [] fun x => { x with task := some (0x400, 0, 0) }) fun _ t => t.me.task.isSome) = true ∧
    (taskState 0 1 1 1 [] fun x => { x with task := some (0x400, 0, 0) }).trapReady 0x10 := by
  refine ⟨?_, ?_, ?_, ?_, ?_, ?_, ⟨?_, .inl ?_⟩⟩ <;> decide +kernel
/-- R356, R358: a trap at the commit point with no beat or access open, with a younger instruction in the middle of its beat, and with an access of the front to a
peer in flight; the watchdog in the same. -/
def trapped (q : List QEntry) : State :=
  (user fun x => { x with queue := { filler with trap := some ⟨5, 0, 0, 0, 0⟩ } :: q, idle := 9 }).modDie 0 fun d => { d with wdlim := 9 }
def atomicOf (s : State) (a : Agent) : State := { s with remotes := [⟨a, 0, 5, 0x6000000000, 8, 3, [], none⟩] }
theorem witness_QueueEvents_open : ((trapped []).inAtomic (.front 0) || ([] : List QEntry).any fun y => y.midBeat || (trapped []).inAtomic (.entry 0 y.vsn)) = false ∧
    ((trapped [middle]).inAtomic (.front 0) || [middle].any fun y => y.midBeat || (trapped [middle]).inAtomic (.entry 0 y.vsn)) = true ∧
    (atomicOf (trapped []) (.front 0)).inAtomic (.front 0) = true ∧ (atomicOf (trapped [filler]) (.entry 0 0)).inAtomic (.entry 0 filler.vsn) = true ∧
    ((trapped []).die 0).wdlim.toNat % 2 ^ 32 = 9 ∧ ((trapped []).front 0).idle = 9 ∧
    (((user fun x => { x with queue := [middle], idle := 9 }).front 0).queue.find? fun e => !e.done).any (fun e => e.trap.isSome) = false ∧
    ((user fun x => { x with queue := [middle], idle := 9 }).front 0).queue.any (fun y => y.midBeat) = true := by decide +kernel

/-- R267: an instruction whose elements are done and that stores its STORE strip, of two elements at 0x100 in memory, and at an address that faults; and one that has not
yet stored it. -/
def storeBind (base : Word) : Binding := ⟨1, true, 1, 2, 0, base, block 0 5 2 2, 0, 0, false, [word (4 * 2 ^ 40 + 4)], true, false, none⟩
def stripEntry (storing : Bool) : QEntry :=
  { newEntry (.vmv 1 2) 0 { capOf [block 0 5 1 2, block 4 5 1 2] [] 2 with stores := [(3, 0, 0)] } with
    issued := true, storing := storing, advanced := storing, progress := if storing then 0 else 1 }
def stripState (storing : Bool) (base : Word) : State := (user fun x => { x with queue := [stripEntry storing], binds := [(3, storeBind base)], vsn := 1 }).modCore 0 fun k =>
  { k with plane := [(0, 7), (1, 8)], tags := [(0, 5), (1, 5)] }
def storesOf (s : State) (p : (Nat → M Unit) → Bool) : Bool :=
  match (s.front 0).queue with
  | [y] => ready s 0 0 y && ((s.front 0).rowHolds y).isEmpty && y.storing && y.issued && p (storeEach 0 y (s.front 0).binds y.cap.stores)
  | _ => false
theorem witness_QueueIssues_strips :
    (storesOf (stripState true 0x100) fun body => (chainEnds body 2 0 (stripState true 0x100)).isSome) = true ∧
    (storesOf (stripState true (word (2 ^ 60))) fun body => stopsWith (body 0 (stripState true (word (2 ^ 60)))) ⟨9, 1, 0, 2 ^ 60, 0⟩) = true ∧
    (match ((stripState false 0x100).front 0).queue with
      | [y] => ready (stripState false 0x100) 0 0 y && y.issued && !y.cap.stores.isEmpty && decide (y.cap.vstart.field 8 0 < y.cap.vl.field 8 0) &&
          (((stripState false 0x100).front 0).cellHolds 0 y).isEmpty && (match runOf y 0 with
            | .elems stop 1 body => decide (y.progress < stop) && (chainEnds body (stop - y.progress) y.progress (stripState false 0x100)).isSome
            | _ => false)
      | _ => false) = true := by
  refine ⟨?_, ?_, ?_⟩ <;> decide +kernel
/-- R164: a PLSAVE at a misaligned address stops at its check, and one whose rows cover a part of a bad block at its first row. -/
def saveRun (a : Word) : State := queued (.plsave 1 2) [block 4 5 1 2] [a] 0 [] []
def stepStops (s : State) (p : M Unit → (Nat → M Unit) → State → Bool) : Bool := going s fun r _ u => match r with
  | .steps check n body => n == 2 && p check body u
  | _ => false
theorem witness_QueueIssues_steps :
    stepStops (saveRun 0x102) (fun check _ u => stopsWith (check u) ⟨7, 2, 0, 0x102, 0⟩) = true ∧
    stepStops (badBlock (saveRun 0x100)) (fun check body u => okAnd (check u) fun _ v => stopsWith (body 0 v) ⟨0x0B, 1, 0, 0x100, scratchBase 0 + 0x100⟩) = true := by
  decide +kernel

/-- A job instruction at its issue, its card at 0x400. -/
def jobEntry (i : Instr) (card pair : Word) (aux : Nat) : QEntry := { newEntry i 7 { capOf [] [card, pair, 9] 0 with vl := 0 } with aux := aux }
def cardAt (card : List Word) : State := poke 0x400 (card.map (·.toNat)) (user id)
def jobCtx : Ctx := ⟨.entry 0 0, 0, 0, true, 0⟩
/-- The card and the pair are translated, and the card read; `p` holds of it. -/
def accepts (s : State) (p : List Word → State → Bool) : Bool := okAnd (touchPages jobCtx .read 0x400 192 4 s) fun _ t1 =>
  okAnd (translate jobCtx 0x200 .write t1) fun l t2 => l == .mem (scratchBase 0 + 0x200) && okAnd (loadWords jobCtx 0x400 24 t2) p
/-- A group of one member, with GID 0, of package 0; and one that breaks R389. -/
def groupAt (bad : Bool) (s : State) : State := poke 0x300 [if bad then 0 else 2 ^ 32, 0, 0] s
def anyCard (i : Instr) : List Word :=
  match i with
  | .xcopy .. => (copied 0).card
  | .xgath .. => (gathered 0).card
  | .xfill .. => (filled 4 0).card
  | .agsweep .. => (swept 0).card
  | .unorm .. => (normed 0).card
  | .uapply .. => (applied 0).card
  | .cxred _ _ _ cup => if cup then redCard.set 15 (inPad 0x600) else redCard
  | .cxgath .. => gathCard 1
  | .cxa2a .. => allCard
  | _ => cardOf 9 0 0 0 [inPad 0x300]
def allJobs : List Instr := [.xcopy 1 2 3 false, .xgath 1 2 3 1 false, .xfill 1 2 3 true, .agsweep 1 2 3 false, .unorm 1 2 3 false, .uapply 1 2 3 false,
  .cxred 1 2 3 false, .cxred 1 2 3 true, .cxgath 1 2 3, .cxa2a 1 2 3, .cxbar 1 2 3]
def outside (card : List Word) : List Word := card.set 10 (inPad 327616)
/-- R290, R294, R296, R300, R303, R389 to R391: every job instruction accepted with its card; stopped by its card's page, its pair's page, its card in storage, its
checks, its index tag and its group table; cancelled in the queue; with 32 jobs before it. -/
theorem witness_JobAcceptance : (allJobs.all fun i => accepts (groupAt false (cardAt (anyCard i))) fun card t => card == anyCard i && cardOk i card &&
      (match i with
        | .xgath .. => okAnd (gathRows (jobEntry i 0x400 0x200 0) 0 0 0 t) fun rows _ => rows.isEmpty
        | _ => cardKind card < 6 || okAnd (acceptGroup jobCtx 0x400 card t) fun g _ => g.2.1 == 0 && g.2.2)) = true ∧
    (match touchPages jobCtx .read (2 ^ 60) 192 4 (user id) with
      | .error (.trap p) => p == ⟨9, 1, 0, 2 ^ 60, 0⟩
      | _ => false) = true ∧
    okAnd (touchPages jobCtx .read 0x400 192 4 (user id)) (fun _ t => stopsWith (translate jobCtx (2 ^ 60) .write t) ⟨9, 1, 0, 2 ^ 60, 0⟩) = true ∧
    stopsWith (loadWords jobCtx 0x400 24 { user id with memErr := [((scratchBase 0 + 0x400) / 8, true)] }) ⟨0x0A, 0, 0, 0x400, scratchBase 0 + 0x400⟩ = true ∧
    (accepts (user id) fun card _ => allJobs.all fun i => !cardOk i card) = true ∧
    stopsWith (gathRows { newEntry (.xgath 1 2 3 1 false) 7 (capOf [block 0 5 1 2] [0x400, 0x200, 9] 2) with aux := 0 } 0 2 0 (user id)) ⟨5, 0, 0, 0, 0⟩ = true ∧
    stopsWith (acceptGroup jobCtx 0x400 (gathCard 1) (groupAt true (user id))) ⟨4, 19, 0, 0x400, 0⟩ = true ∧
    okAnd (acceptGroup jobCtx 0x400 ((gathCard 1).set 3 (word (0x100 + 3 * 2 ^ 40))) (groupAt false (user id))) (fun g _ => !g.2.2) = true ∧
    (jobEntry (.xcopy 1 2 3 false) 0x400 0x200 1).aux = 1 ∧ ((user id).jobs.filter fun (j : Job) => j.lid == 0 && j.rank == 0).length < 32 ∧
    32 ≤ ({ user id with jobs := List.replicate 32 (aJob true false) }.jobs.filter fun (j : Job) => j.lid == 0 && j.rank == 0).length := by
  refine ⟨?_, ?_, ?_, ?_, ?_, ?_, ?_, ?_, ?_, ?_, ?_⟩ <;> decide +kernel

/-- R290: a job whose completion pair stands in package 5, before its status write, before its completion write, and at its end; and with a write that is not yet
acknowledged. -/
def peerJob (stage : Nat) : Job := { aJob true true with pairAt := .peer 5 0x6000000000, stage := stage }
def peerEnd (stage : Nat) : State := { peerAt true with jobs := [peerJob stage] }
def sends (stage : Nat) (a : Nat) (v : Nat) : Bool := (((peerEnd stage).send 5 0 0 8 a (leBytes 8 v) (peerJob stage).agent).map fun u =>
  u.postedBy fun b => b == (peerJob stage).agent).getD false
theorem witness_JobEvents_pairs : ((peerEnd 0).jobs.find? fun x => x.agent == (peerJob 0).agent) = some (peerJob 0) ∧
    ((peerEnd 0).jobs.find? fun x => x.fid == 0 && x.handle.toNat == 7 && x.running) = some (peerJob 0) ∧
    (peerJob 0).mayEnd ((peerEnd 0).before (peerJob 0)) = true ∧ (peerJob 0).group = [] ∧ (peerEnd 0).postedBy (fun b => b == (peerJob 0).agent) = false ∧
    sends 0 0x6000000008 (5 * 2 ^ 24) = true ∧ sends 1 0x6000000000 9 = true ∧ (peerEnd 0).pkg.tripped = false ∧
    (sentBy (aJob true true).agent).postedBy (fun b => b == (aJob true true).agent) = true := by
  refine ⟨?_, ?_, ?_, ?_, ?_, ?_, ?_, ?_, ?_⟩ <;> decide +kernel

/-- R392: a member of a group of one that has written everything, and tells its success; that has told it, with every verdict in, and with none. -/
def wrote : Job := { alone (gathCard 1) with prog := 1 }
def told (v : List Byte) : State := { payState [] with contribs := [⟨0, 0, 0, collBody (alone (gathCard 1)) 0 ++ v⟩] }
theorem witness_JobEvents_verdicts : (callBroken (told []) wrote = none ∧ disagrees (told []) wrote = false ∧ collWrite (told []) wrote 1 = none) ∧
    ((told []).post wrote fun _ => leBytes 2 0).isSome = true ∧ rxBad (told []) wrote = false ∧ bodyOf (wrote.own (told [])) ≠ none ∧
    (verdictsOf (wrote.own (told []))).length < 2 ∧ 2 ≤ (verdictsOf (wrote.own (told [0, 0]))).length ∧
    callBroken (told [0, 0]) { wrote with agreed := true } = none ∧ isCupRed wrote.instr = false ∧ 6 ≤ cardKind wrote.card := by
  refine ⟨⟨?_, ?_, ?_⟩, ?_, ?_, ?_, ?_, ?_, ?_, ?_, ?_⟩ <;> decide +kernel

/-- R331, R332: a head descriptor that breaks R331, with its pair where it can be written, misaligned, beyond memory, and in a bad block; one whose ASID is not
valid; and a launch that is over, with the same pairs. -/
def badDesc (pair : Nat) : List Nat := ((ldesc.set 0 (1 * 2 ^ 16 + 2 ^ 14)).set 8 pair)
def badQueue (d : List Nat) : State := (pokeAt 0x6000020000 d (mapped State.reset)).setQueue 3 ⟨0x6000020000, 0x101, 0, 1, 0, 0⟩
def pairErr (s : State) : State := { s with badBlk := [(0x6040000108 / 256, true)] }
def pairAt (s : State) (a : Nat) : Bool := (engWalk s 0 true a .write).toOption == some (.mem (0x6040000000 + a)) &&
  (engWalk s 0 true ((a + 8) % 2 ^ 64) .write).toOption == some (.mem (0x6040000000 + a + 8))
def lostAt (s : State) (a : Nat) : Bool := (match engWalk s 0 true a .write with
    | .error _ => true
    | .ok _ => false) && match engWalk s 0 true ((a + 8) % 2 ^ 64) .write with
    | .error _ => true
    | .ok _ => false
def overWith (pair : Nat) : State := (mapped State.reset).setLaunch 5 { openLaunch 1 with desc := (ldesc.set 8 pair).map word }
theorem witness_LaunchEvents_errors :
    (openErr (badQueue (badDesc 0x100)) 3 = 3 ∧ asidValid (badQueue (badDesc 0x100)) 0 = true ∧ pairAt (badQueue (badDesc 0x100)) 0x100 = true) ∧
    (openErr (badQueue (badDesc 0x104)) 3 = 3 ∧ (ldWord ((badDesc 0x104).map word) 0x40).field 3 0 ≠ 0) ∧
    (openErr (badQueue (badDesc (2 ^ 60))) 3 = 3 ∧ lostAt (badQueue (badDesc (2 ^ 60))) (2 ^ 60) = true) ∧
    (openErr (pairErr (badQueue (badDesc 0x100))) 3 = 3 ∧ pairAt (pairErr (badQueue (badDesc 0x100))) 0x100 = true ∧
      (pairErr (badQueue (badDesc 0x100))).partErr 0x6040000108 8 = false ∧ (pairErr (badQueue (badDesc 0x100))).partBad 0x6040000108 8 = true) ∧
    openErr (badQueue (ldesc.set 0 (1 * 2 ^ 16 + 1))) 3 = 4 ∧ launchOver (overWith (2 ^ 60)) 5 = true ∧ lostAt (overWith (2 ^ 60)) (2 ^ 60) = true ∧
    launchOver (mapped State.reset) 5 = false := by
  refine ⟨⟨?_, ?_, ?_⟩, ⟨?_, ?_⟩, ⟨?_, ?_⟩, ⟨?_, ?_, ?_, ?_⟩, ?_, ?_, ?_, ?_⟩ <;> decide +kernel

/-- R228: the partner of front 0, BOUND, with its share owned, and not; and not BOUND. -/
def partnered (own1 : Nat) : State := ((reg1 32).setSlot 1 { SlotRec.reset with state := 1 }).modCore 0 fun k => { k with own0 := 32, own1 := own1 }
theorem witness_LaneRequests_partner : ((partnered 32).slot 1).state = 1 ∧ 64 - 32 ≤ ((partnered 32).core 0).own 1 ∧ ((partnered 16).core 0).own 1 < 64 - 32 ∧
    ((reg1 32).slot 1).state ≠ 1 ∧ ((partnered 32).reg 1).field 6 0 = 32 ∧ ((partnered 32).core 0).lock = false ∧ ((partnered 32).core 0).lanemap = 0 := by
  decide +kernel

/-- R370: a resident front whose area is not mapped; one in the middle of a beat; one in double fault. Fronts that are being saved or discarded, in the middle of a beat, or
with an access in flight, or not; with a job on the scratchpad. Nothing being saved, with BUSY. -/
def halted (h : Halt) : State := (saveState.modFront 0 fun x => { x with halt := h })
def busyFront : State := residentState.modFront 0 fun x => { x with queue := [middle] }
theorem witness_Preemption_more :
    areaOk (residentState.modDie 0 fun d => { d with presave0 := word (2 ^ 40) }) 0 (2 ^ 40) = false ∧
    ((residentState.front 0).queue.all fun e => !e.issued || e.done || e.trap.isSome) = true ∧ residentState.inAtomic (.front 0) = false ∧
    ((busyFront.front 0).queue.all fun e => !e.issued || e.done || e.trap.isSome) = false ∧
    (((List.range 128).map fun i => 128 * 0 + i).filter fun f => (saveState.front f).halt.stopping) = [0] ∧
    ((saveState.front 0).queue.any QEntry.midBeat || saveState.closing 0) = false ∧ isDiscarding (saveState.front 0).halt = false ∧
    isDiscarding ((halted (.discarding (some 3))).front 0).halt = true ∧ (((halted (.discarding none)).front 0).halt.stopping = true) ∧
    (((saveState.modFront 0 fun x => { x with queue := [middle] }).front 0).queue.any QEntry.midBeat) = true ∧
    padJob { saveState with jobs := [copied 0] } [0] = true ∧ padJob saveState [0] = false ∧
    (((List.range 128).map fun i => 128 * 0 + i).filter fun f => (residentState.front f).halt.stopping) = [] ∧
    ((residentState.modDie 0 fun d => { d with prectl := word (2 ^ 9) }).die 0).prectl.flag 9 = true ∧ residentState.saving 0 = false ∧
    (sentBy (.save 0)).saving 0 = true ∧ (sentBy (.entry 0 9)).saving 0 = false := by
  refine ⟨?_, ?_, ?_, ?_, ?_, ?_, ?_, ?_, ?_, ?_, ?_, ?_, ?_, ?_, ?_, ?_, ?_⟩ <;> decide +kernel
/-- R371: a record that needs more columns than there are. -/
theorem witness_Preemption_narrow : (let s := restoreState.modDie 0 fun d => d
    restoreChecks (pokeAt 0x6040100018 [64 * 2 ^ 40 + 8 * 2 ^ 48] s) fun recs t => !recs.isEmpty && slotsFree t 0 5 (recs.map (·.1)) &&
      (recs.all fun p => recordOk t 5 p.2) && !recordFits t 0 recs) = true := by decide +kernel

/-- R364 to R368: a front with a queue of one, a dirty row and a cell in error; and the restore of one record, of front 0. -/
def recordState : State := (user fun x => { x with queue := [filler], dirty := 2 ^ 3 }).modCore 0 fun k =>
  { k with plane := [(64 * 3, 7), (64 * 3 + 1, 8)], badCells := [(64 * 3 + 1, true)] }
theorem witness_ContextRecords : ((recordState.front 0).queue ++ (recordState.front 0).userSet ++ (recordState.front 0).kernelSet).length = 1 ∧
    (List.range 512).filter (fun r => (recordState.front 0).dirty.getLsbD r) = [3] ∧ (recordState.window 0).2 = 64 ∧
    spGet false (recordState.core 0).badCells (64 * 3 + 1) = true ∧ spGet false (recordState.core 0).badCells (64 * 3) = false ∧
    (restoreState.die 0).rstsrc0.field 51 0 = 0x100000 ∧ (restoreState.die 0).rstsrc1.field 51 0 = 0 ∧ (restoreState.die 0).rstctl.flag 9 = false ∧
    (restoreChecks restoreState fun recs t => match recs with
      | [(0, b)] => slotsFree t 0 5 [0] && recordOk t 5 b && recordFits t 0 [(0, b)]
      | _ => false) = true := by
  refine ⟨?_, ?_, ?_, ?_, ?_, ?_, ?_, ?_, ?_⟩ <;> decide +kernel
/-- R365, R366, R368: the record of that front, by the offsets of the rules: VERSION and NDUMP, LEN, a dirty row's first cell and its second, which is in error. -/
theorem test_record : (let b := recordBytes recordState 0 false 0
    (rd b 0 3, rd b 8 8 % 256, rd b (0x980 + 256) 4, rd b (0x980 + 256 + 4) 4) = (1 + 2 ^ 16, 0, 7, 0)) := by decide +kernel

/-- R241: a job that holds a translation of its completion pair by a page, and one whose pair is in the scratchpad window; and one that holds its CUPRES places. -/
def covers0 (j : Job) : Bool := j.pairPaged && Tlb.hit ⟨j.asid, j.pair.toNat / 2 ^ 30 * 2 ^ 30, 2, 0, 0, 0, 0⟩ 0 0x10000
theorem witness_TlbInvalidation_jobs : covers0 { aJob true false with pair := 0x10200, pairAt := .mem 0x6040000000, pairPaged := true } = true ∧
    covers0 (aJob true false) = false ∧ ({ aJob true false with cupAt := [.mem 0x6040000000] }).cupAt.isEmpty = false := by decide +kernel

/-- R377: 16 corrections of lane 5 in a pass, beside 15 of lane 6, with room for their records and that of kind 7 in a ring of 64 in the vault of die 0; a ring that is full,
and one that is disabled. -/
def corrections : List Found := List.replicate 16 ⟨.cell, 9, 5, true⟩ ++ List.replicate 15 ⟨.tag, 9, 6, true⟩
def ringState (n tail : Nat) : State := (pendingState 0).modDie 0 fun d => { d with err := ⟨0x6000000000, word n, 64, word tail, 0⟩ }
theorem witness_ScrubAndRetire_threshold : (corrections.all fun c => c.fixed && decide (c.lane < 64) && !((ringState 6 64).core 3).lanemap.getLsbD c.lane) = true ∧
    (let n := ((ringState 6 64).die 0).err.ctl.field 4 0
     n ≠ 0 ∧ (((ringState 6 64).die 0).err.head.field 31 0 + 2 ^ 32 - ((ringState 6 64).die 0).err.tail.field 31 0) % 2 ^ 32 + corrections.length +
       (List.range 64).countP (fun lane => decide (16 ≤ corrections.countP (·.lane == lane)) && !((ringState 6 64).core 3).pending.getLsbD lane) ≤ 2 ^ n) ∧
    (ringState 6 64).serves 0x6000000000 = true ∧ (ringState 6 64).serves (0x6000000000 + 32 * 2 ^ 6 - 1) = true ∧
    (((ringState 6 0).die 0).err.head.field 31 0 + 2 ^ 32 - ((ringState 6 0).die 0).err.tail.field 31 0) % 2 ^ 32 = 2 ^ 6 ∧
    ((ringState 0 64).die 0).err.ctl.field 4 0 = 0 := by decide +kernel
/-- R376, R377: that pass leaves lane 5 pending and not lane 6; the 32nd record is of kind 7, and core 3. -/
theorem test_scrub_threshold : (let t := scrubPass (ringState 6 64) 3 corrections
    ((t.core 3).pending, (t.die 0).err.head, t.byte (0x6000000000 + 32 * ((64 + 31) % 64) + 18), t.byte (0x6000000000 + 32 * ((64 + 31) % 64) + 19)) =
      (32, 96, 7, 3)) := by decide +kernel

/-- R386: two flits that wait, with sequence numbers 6 and 7, and flits that acknowledge the first of them, neither, and more than there are. -/
def ackFlit (n : Nat) : List Byte := List.replicate 9 0 ++ leBytes 3 n ++ leBytes 4 (Fp.crc32c (List.replicate 9 0 ++ leBytes 3 n))
def waiting : State := linkState 4 [zeros 4 ++ leBytes 4 6 ++ zeros 8, zeros 4 ++ leBytes 4 7 ++ zeros 8]
def ackedBy (n : Nat) : Nat := (rd (ackFlit n) 9 3 + 2 ^ 24 + 1 - rd ((waiting.link 3).unacked.headD []) 4 4 % 2 ^ 24) % 2 ^ 24
theorem witness_FlitsAndResponses_acks : ([5, 6, 7, 8].all fun n => rd (ackFlit n) 12 4 == Fp.crc32c ((ackFlit n).take 12 ++ (ackFlit n).drop 16) &&
      rd (ackFlit n) 4 4 == (waiting.link 3).recvSeq.toNat) = true ∧ ackedBy 6 = 1 ∧ ackedBy 7 = 2 ∧ ackedBy 5 = 0 ∧ 2 < ackedBy 8 ∧
    (waiting.link 3).unacked.length = 2 := by decide +kernel
/-- R386: the first of the two is dropped, and replays count anew. -/
theorem test_ack : (let l := (next (exec (.flitReceive 3 (ackFlit 6)) waiting)).link 3
    (l.unacked.length, l.replays) = (1, 0)) := by decide +kernel

/-- R374, R376, R420: the steward's window on memory in error: a store of 4 bytes, and a load; a load of a bad block. -/
def stewardAt (err bad : Bool) : State :=
  { State.reset with
    pkg := { Package.reset with stwbase := 0x6000000000 }
    memErr := if err then [(0x6000000100 / 8, true)] else []
    badBlk := if bad then [(0x6000000100 / 256, true)] else [] }
theorem witness_Management_errors : (stewardAt true false).pkg.stwbase.field 49 26 * 2 ^ 26 = 0x6000000000 ∧ (stewardAt true false).serves 0x6000000107 = true ∧
    (stewardAt true false).partErr 0x6000000100 4 = true ∧ (stewardAt true false).partErr 0x6000000100 8 = false ∧
    (stewardAt true false).errAt 0x6000000100 8 = true ∧ (stewardAt false true).badAt 0x6000000100 8 = true ∧
    (stewardAt false false).errAt 0x6000000100 8 = false ∧ (stewardAt false false).badAt 0x6000000100 8 = false := by decide +kernel

/-- R374, R376, R388: the same for messages: a write of a part of a unit in error, a read that fails, and a read of no bytes, of a good block and a bad one. -/
def upAt (err bad : Bool) : State := (stewardAt err bad).setLink 3 { Link.reset with up := true }
theorem witness_MemoryMessages_errors : (upAt true false).partErr 0x6000000100 4 = true ∧ (upAt true false).errAt 0x6000000100 8 = true ∧
    (upAt false true).badAt 0x6000000100 8 = true ∧ (aMsg 1 0x6000000100 0 false).len = 0 ∧ (upAt false true).badAt (0x6000000100 / 256 * 256) 256 = true ∧
    (upAt false false).badAt (0x6000000100 / 256 * 256) 256 = false ∧ (aMsg 1 0x6000000100 0 false).data.length = 0 ∧
    ((List.range 18).find? fun i => ((upAt true false).link i).up) = some 3 ∧
    (inVault 0x6000000100 && inVault (0x6000000100 + max 0 1 - 1)) = true := by decide +kernel
/-- R388: a read of 4 bytes of memory in error is answered with no data: the last flit on the link holds a response of LEN 0. -/
theorem test_read_error : (((next (exec (.msgReadRequest (aMsg 1 0x6000000100 4 true)) (upAt true false))).link 3).unacked.map fun b => rd b 18 2) = [0] := by
  decide +kernel

/-! ### Accesses of peers, records of walks, and copies of whole blocks -/

/-- R305: a WAITW of a word of package 5 that has not asked, with a link and with none; whose answer equals s2, and differs with time left, and without. -/
theorem witness_WaitForWordAndStep_peers : (goesTo (peerAt true) .read (.peer 5 0x6000000000) && goesTo (peerAt false) .read (.peer 5 0x6000000000)) = true ∧
    ((peerAt true).reg 1).toNat = 2 ^ 32 ∧ (peerAt true).unasked 5 0x6000000000 8 1 [] ∧ (peerAt true).liveLinks 5 ≠ [] ∧ (peerAt true).freeTag = some 0 ∧
    (peerAt false).liveLinks 5 = [] ∧ (peerAt false).trapReady 9 ∧
    (answeredAt 8 1 [] (zeros 8)).answered 5 0x6000000000 8 1 [] (zeros 8) (asked 8 1 [] (zeros 8)) ∧ leNat (zeros 8) = ((peerAt true).reg 2).toNat ∧
    (answeredAt 8 1 [] (leBytes 8 1)).answered 5 0x6000000000 8 1 [] (leBytes 8 1) (asked 8 1 [] (leBytes 8 1)) ∧
    leNat (leBytes 8 1) ≠ ((peerAt true).reg 2).toNat := by
  refine ⟨by decide +kernel, by decide +kernel, ?_, by decide +kernel, by decide +kernel, by decide +kernel,
    ⟨by decide +kernel, .inl (by decide +kernel)⟩, ⟨by decide +kernel, by decide +kernel, by decide +kernel⟩, by decide +kernel,
    ⟨by decide +kernel, by decide +kernel, by decide +kernel⟩, by decide +kernel⟩
  show List.find? _ _ = none
  decide +kernel

/-- R247, R299: a copy of 64 words from the last to the first, of a block marked bad, and of a good one. -/
def backwards (p : Nat) : Job := jobOn (cardOf 0 2 1 0 [inPad 0x1FC, inPad 0x2FC, rec1 64 (2 ^ 40 - 4), 0, 0, 0, rec1 64 (2 ^ 40 - 4)]) p
def copyAt (s : State) (p : Nat) : Bool := okAnd (payLoc (backwards p) 4 (true, 0x1FC - 4 * p) .read s) fun l t => l == .mem (scratchBase 0 + 0x1FC - 4 * p) &&
  okAnd (payLoc (backwards p) 4 (true, 0x2FC - 4 * p) .write t) fun m u => m == .mem (scratchBase 0 + 0x2FC - 4 * p) &&
    !u.errAt (scratchBase 0 + 0x1FC - 4 * p) 4 && !u.partErr (scratchBase 0 + 0x2FC - 4 * p) 4
theorem witness_JobEvents_carried : toBlock (backwards 0) = false ∧ carriesBad badSource (backwards 0) 0 = true ∧ copyAt badSource 0 = true ∧
    carriesBad (payState []) (backwards 0) 0 = false ∧ (blockMates (backwards 63) 63).getLast? = some 63 ∧ carriesBad badSource (backwards 63) 63 = true ∧
    copyAt badSource 63 = true := by
  refine ⟨?_, ?_, ?_, ?_, ?_, ?_, ?_⟩ <;> decide +kernel
/-- R247, R299: with the last of its positions the block of the destination is bad. -/
theorem test_carried : ((jobStep { badSource with jobs := [backwards 63] } (backwards 63)).1.badAt (scratchBase 0 + 0x200) 256) = true := by decide +kernel
/-- R247, R248, R299: the same copy from package 5 onto a block marked bad, the first of its words asked for, and the last of them answered. -/
def peerBack (p : Nat) : Job :=
  jobOn ([word (32 + 2 * 2 ^ 8 + 2 ^ 12), 0, inPad 0, word (327680 + 3 * 2 ^ 40), 0, word (4096 + 3 * 2 ^ 40), 0, 0, 0, 0] ++
    [0x1FC, inPad 0x2FC, rec1 64 (2 ^ 40 - 4), 0, 0, 0, rec1 64 (2 ^ 40 - 4)] ++ List.replicate 7 0) p
def peerSource (r : List Remote) : State :=
  let s := (leafState (0x6000000000 + 0x9F + 2 ^ 8 + 5 * 2 ^ 50)).setLink 3 { Link.reset with up := true }
  { s with pkg := { s.pkg with routes := [(5, 8)], level := 3 }, badBlk := [((scratchBase 0 + 0x200) / 256, true)], remotes := r }
def lastWord : Remote := ⟨(peerBack 63).agent, 0, 5, 0x6000000100, 4, 1, [], some [1, 2, 3, 4]⟩
theorem witness_JobEvents_peers : carriesBad (peerSource []) (peerBack 0) 0 = true ∧ carriesBad (peerSource [lastWord]) (peerBack 63) 63 = true ∧
    okAnd (payLoc (peerBack 63) 4 (false, 0x100) .read (peerSource [lastWord])) (fun l t => l == .peer 5 0x6000000100 &&
      okAnd (payLoc (peerBack 63) 4 (true, 0x200) .write t) fun m u => m == .mem (scratchBase 0 + 0x200) &&
        okAnd (readLoc (peerBack 63).agent l 4 0x100 u) fun v y => v == 0x04030201 && !y.partErr (scratchBase 0 + 0x200) 4) = true := by
  refine ⟨?_, ?_, ?_⟩ <;> decide +kernel
/-- R299: its block of the destination then has the check of the source, which is good. -/
theorem test_peer_check : ((jobStep (peerSource [lastWord]) (peerBack 63)).1.badAt (scratchBase 0 + 0x200) 256) = false := by decide +kernel
/-- R302: while a write waits, XQUERY shows no more than what has certainly been performed; with none, all that has been done. -/
theorem test_query_bound : (aJob true false).bound (sentBy (aJob true false).agent) = 0 ∧ (aJob true false).bound (user id) = 5 := by decide +kernel
/-- R392, R400: a member that has written everything, with a write of its own under way; a cupping one whose CUPRES can be written. -/
def cupping : Job := { reduced (redCard.set 15 (inPad 0x600)) with instr := .cxred 1 2 3 true }
theorem witness_JobEvents_success : ({ told [] with links := (sentBy wrote.agent).links }).postedBy (fun a => a == wrote.agent) = true ∧
    collWrite { told [] with links := (sentBy wrote.agent).links } wrote 1 = none ∧ (told []).postedBy (fun a => a == wrote.agent) = false ∧
    okAnd (cupCheck cupping (payState [])) (fun l _ => l.length == 22) = true := by
  refine ⟨?_, ?_, ?_, ?_⟩ <;> decide +kernel

/-- R332, R338, R376: the descriptor and the pair of `witness_LaunchEvents_errors` in the states with the records of what is read. -/
def openAt (s : State) : State := logOpen s 3 (openErr s 3)
def walksTo (s : State) (pair : Nat) : State := pairWalks s 0 pair
def soundAt (s : State) : Bool := !s.partErr 0x6040000100 8 && !s.partErr 0x6040000108 8 && !s.partBad 0x6040000100 8 && !s.partBad 0x6040000108 8
theorem witness_LaunchEvents_records :
    (asidValid (openAt (badQueue (badDesc 0x100))) 0 = true ∧ pairAt (openAt (badQueue (badDesc 0x100))) 0x100 = true ∧
      soundAt (walksTo (openAt (badQueue (badDesc 0x100))) 0x100) = true) ∧
    lostAt (openAt (badQueue (badDesc (2 ^ 60)))) (2 ^ 60) = true ∧
    (pairAt (openAt (pairErr (badQueue (badDesc 0x100)))) 0x100 = true ∧
      (walksTo (openAt (pairErr (badQueue (badDesc 0x100)))) 0x100).partBad 0x6040000108 8 = true) ∧
    soundAt (walksTo overState 0x100) = true ∧ (walksTo (pairErr overState) 0x100).partBad 0x6040000108 8 = true := by
  refine ⟨⟨?_, ?_, ?_⟩, ?_, ⟨?_, ?_⟩, ?_, ?_⟩ <;> decide +kernel

/-- R376, R380: a walk that reads its tables without an error, and one with an error in its last entry: a record in a ring of 64 in the vault. -/
def walkErr : State := { walkState (leafState 0x604000009F) true with memErr := [(0x6000010000 / 8, true)] }
theorem witness_WalksAndFills_records : (let s := walkState (leafState 0x604000009F) true
    (walkReads s 0 0x10000).all fun a => !s.errAt a 8 && !s.badAt a 8) = true := by decide +kernel
theorem test_walk_record : (let s := walkErr.modDie 0 fun d => { d with err := ⟨0x6000030000, 6, 0, 0, 0⟩ }
    let t := next (exec (.pageWalk 0) s)
    ((t.die 0).err.head, t.byte (0x6000030000 + 18), t.read 0x6000030000 8, t.read (0x6000030000 + 8) 8)) = (1, 1, 0, 0x6000010000) := by decide +kernel

/-- R386: the ninth replay of a flit with a write of a copy to package 5, which no other link reaches. -/
def lostLink : State := { (user id).setLink 3 { Link.reset with up := true, replays := 8, unacked := [writeFlit], owners := [[(copied 1).agent]] } with
  jobs := [copied 1], pkg := { Package.reset with routes := [(5, 8)] } }
theorem witness_FlitsAndResponses_lost : flitMsgs writeFlit = [[2, 0] ++ zeros 30] ∧ (rd writeFlit 0 2).testBit 13 = false ∧ rd ([2, 0] ++ zeros 30) 0 1 / 16 = 0 ∧
    ((lostLink.jobs.find? fun y => y.agent == (copied 1).agent) = some (copied 1)) ∧ ((copied 1).card.getD 0 0).field 3 0 < 3 ∧
    (lostLink.links.all fun p => p.1 == 3) = true ∧ (lostLink.link 3).up = true := by decide +kernel
theorem test_lost_write : ((next (exec (.flitReplay 3) lostLink)).jobs.map fun k => (k.moved, k.cause, k.sub, k.prog)) = [(true, 9, 8, 0)] := by decide +kernel

/-- R388, R423: a host's messages for the scratchpads, for host memory at FULL and below, and for registers of 8 bytes and of fewer; a peer's for the scratchpads. -/
def bothIn (p : Nat → Bool) (a n : Nat) : Bool := p a && p (a + max n 1 - 1)
theorem witness_MemoryMessages_host : bothIn inScratch 0x6100000000 8 = true ∧ bothIn inCxl 0x1000000000000 8 = true ∧ bothIn inHbm 0 8 = true ∧
    bothIn inDevice 0x6200000000 8 = true ∧ bothIn inVault 0x6100000000 8 = false ∧ bothIn inHbm 0x6100000000 8 = false ∧
    upState.pkg.level ≠ 3 ∧ ({ upState with pkg := { Package.reset with level := 3 } }).pkg.level = 3 ∧ (aMsg 0 0x6200000000 8 true).len = 8 := by decide +kernel
theorem witness_registerAccess (m : Msg) : Config.registerMsgWrites m = true ∨ Config.registerMsgWrites m = false := by
  cases Config.registerMsgWrites m <;> simp

/-- R189: an index of VPERM with a wrong tag: the first of two. -/
theorem witness_LaneResults_perm : wholeStops (pushedAs (rowOne 13 0) (.vperm 1 2 2) (binSpec 1 2 2)) (rowOne 13 0) ⟨5, 0, 0, 0, 0⟩ = true := by decide +kernel

/-- R356: an AMO that a peer has been asked for is under way, whatever the word at PC is. -/
def amidState : State := { (user fun x => { x with wait := .atomic (.amoadd 1 2 3 true), pc := word (2 ^ 60) }) with
  remotes := [{ asked 8 3 [] [] with answer := some (zeros 8) }], clock := 1 }
theorem witness_StepRunsDecoded_underWay : amidState.underWay = some (.amoadd 1 2 3 true) ∧ (beforeFetch amidState).isNone = true ∧
    (user id).underWay.isNone = true := by decide +kernel

/-- R418: the constants of SHA-512, by FIPS 180-4: K(t) is the first 64 bits of the fraction of the cube root of prime t, and H(t) of the square root of the
first eight; so each lies within the cube, or the square, that it and its successor bound. -/
def primes (n fuel : Nat) : List Nat := ((List.range fuel).filter fun p => decide (2 ≤ p) && (List.range p).all fun q => decide (q < 2) || p % q != 0).take n
def rootOf (k p v : Nat) : Bool := (List.range 8).any fun w => let r := w * 2 ^ 64 + v
  decide (r ^ k ≤ p * 2 ^ (64 * k) ∧ p * 2 ^ (64 * k) < (r + 1) ^ k)
theorem test_sha_constants : (primes 80 410).length = 80 ∧ ((primes 80 410).zip Sha.constants).all (fun p => rootOf 3 p.1 p.2) = true ∧ Sha.constants.length = 80 ∧
    ((primes 8 410).zip Sha.start).all (fun p => rootOf 2 p.1 p.2) = true ∧ Sha.start.length = 8 := by
  refine ⟨?_, ?_, ?_, ?_, ?_⟩ <;> decide +kernel

end Sys2Proof.Tests
end

section
/-! PROOFS. Writes of device registers (O47): the bits that a register keeps, the register that an address names, and what each write leaves. -/

namespace Sys2Proof.Machine

/-! ### Fields of a written word -/

/-- The bits [hi:lo] that a register keeps are a mask of the word written. -/
theorem keep_eq_and (v : Word) (hi lo : Nat) : keep v hi lo = v &&& word ((2 ^ (hi + 1 - lo) - 1) * 2 ^ lo) := by
  refine BitVec.eq_of_getLsbD_eq fun i hi64 => ?_
  simp only [keep, word, Word.field, bits, BitVec.getLsbD_and, BitVec.getLsbD_ofNat, Nat.testBit_mul_two_pow, Nat.testBit_mod_two_pow,
    Nat.testBit_div_two_pow, Nat.testBit_two_pow_sub_one, BitVec.testBit_toNat, hi64]
  by_cases hlo : lo ≤ i
  · simp [hlo, Bool.and_comm]
  · simp [hlo]

theorem keep_table_base (v : Word) : keep v 49 12 = v &&& 0x3FFFFFFFFF000 := keep_eq_and v 49 12
theorem keep_low_word (v : Word) : keep v 31 0 = v &&& 0xFFFFFFFF := keep_eq_and v 31 0
theorem keep_low_5 (v : Word) : keep v 4 0 = v &&& 0x1F := keep_eq_and v 4 0
theorem keep_low_52 (v : Word) : keep v 51 0 = v &&& 0xFFFFFFFFFFFFF := keep_eq_and v 51 0
theorem keep_vector (v : Word) : keep v 63 2 = v &&& ~~~3 := keep_eq_and v 63 2
theorem keep_queue_base (v : Word) : keep v 49 6 = v &&& 0x3FFFFFFFFFFC0 := keep_eq_and v 49 6
theorem keep_asid_table (v : Word) : keep v 49 15 = v &&& 0x3FFFFFFFF8000 := keep_eq_and v 49 15

/-- SIZE and the enable bit of a queue's control register. -/
theorem keep_queue_ctl (v : Word) : keep v 4 0 ||| keep v 8 8 = v &&& 0x11F := by
  rw [keep_low_5, keep_eq_and v 8 8, ← BitVec.and_or_distrib_left]
  rfl

theorem w1c_eq (old v : Word) (i : Nat) : w1c old v i = if v.flag i then old &&& ~~~((1 : Word) <<< i) else old := by
  have h : word (2 ^ i) = (1 : Word) <<< i := BitVec.eq_of_toNat_eq (by simp [word, Nat.one_shiftLeft])
  rw [w1c, h]

/-! ### What each register makes of a write -/

theorem ringPut_base (r : RecRing) (v : Word) : ringPut r 0 v = { r with base := v &&& 0x3FFFFFFFFF000 } := by
  rw [← keep_table_base]; rfl
theorem ringPut_ctl (r : RecRing) (v : Word) : ringPut r 1 v = { r with ctl := v &&& 0x1F } := by
  rw [← keep_low_5]; rfl
theorem ringPut_tail (r : RecRing) (v : Word) : ringPut r 3 v = { r with tail := v &&& 0xFFFFFFFF } := by
  rw [← keep_low_word]; rfl

theorem queuePut_base (w : WorkQueue) (v : Word) : queuePut w 0 v = { w with base := v &&& 0x3FFFFFFFFFFC0 } := by
  rw [← keep_queue_base]; rfl
theorem queuePut_tail (w : WorkQueue) (v : Word) : queuePut w 3 v = { w with tail := v &&& 0xFFFFFFFF } := by
  rw [← keep_low_word]; rfl
theorem queuePut_err (w : WorkQueue) (v : Word) :
    queuePut w 5 v = { w with err := if v.flag 63 then w.err &&& ~~~((1 : Word) <<< 63) else w.err } := by
  rw [← w1c_eq]; rfl

/-- The control register of a queue ignores an enabling write whose SIZE is out of range (R330). -/
theorem queuePut_ctl_refused (w : WorkQueue) (v : Word) (he : v.flag 8 = true) (hz : v.field 4 0 = 0 ∨ 16 < v.field 4 0) :
    queuePut w 1 v = w := by
  have hc : v.flag 8 ∧ ¬ (1 ≤ v.field 4 0 ∧ v.field 4 0 ≤ 16) := ⟨he, by omega⟩
  exact if_pos hc

theorem queuePut_ctl_taken (w : WorkQueue) (v : Word) (h : v.flag 8 = false ∨ (1 ≤ v.field 4 0 ∧ v.field 4 0 ≤ 16)) :
    queuePut w 1 v = { w with ctl := v &&& 0x11F } := by
  have hc : ¬ (v.flag 8 ∧ ¬ (1 ≤ v.field 4 0 ∧ v.field 4 0 ≤ 16)) := by
    rintro ⟨he, hz⟩
    rcases h with h | h
    · simp [h] at he
    · exact hz h
  rw [← keep_queue_ctl]
  exact if_neg hc

/-! ### The register at an address -/

theorem devReg_die {d o : Nat} (hd : d < 8) (ho : o < 0x1000000) : devReg (0x6200000000 + 0x1000000 * d + o) = dieReg d o := by
  have hq : (0x6200000000 + 0x1000000 * d + o - 0x6200000000) / 0x1000000 = d := by omega
  have hr : (0x6200000000 + 0x1000000 * d + o - 0x6200000000) % 0x1000000 = o := by omega
  rw [devReg, if_pos (by omega), hq, hr]

theorem devReg_queue {q o : Nat} (hq : q < 32768) (ho : o < 0x40) : devReg (0x6240000000 + 0x40 * q + o) = .queue q (o / 8) := by
  have hd : (0x6240000000 + 0x40 * q + o - 0x6240000000) / 0x40 = q := by omega
  have hr : (0x6240000000 + 0x40 * q + o) % 0x40 = o := by omega
  rw [devReg, if_neg (by omega), if_pos (by omega), hd, hr]

theorem dieReg_lanemap (d : Nat) {k : Nat} (hk : k < 64) : dieReg d (0x200 + 8 * k) = .lanemap (64 * d + k) := by
  have hr : (0x200 + 8 * k - 0x200) / 8 = k := by omega
  unfold dieReg
  repeat rw [if_neg (by omega)]
  rw [if_pos (by omega), hr]

/-! ### A write of a register -/

section
variable {s : State} {src : Src} {v : Word} {a d q o : Nat}

/-- A write of an aligned address is the write of the register that it names, and fires the monitors of its doubleword. -/
theorem exec_registerWrite (ht : s.pkg.tripped = false) (ha : a % 8 = 0) :
    exec (.registerWrite src a v) s = .next ((regPut s src (devReg a) v).woken a) := by
  have h8 : a / 8 * 8 = a := by omega
  have hv : word v.toNat = v := BitVec.eq_of_toNat_eq (by simp [word])
  show execRegisterWrite src a v s = _
  simp [execRegisterWrite, devWrite, ht, h8, hv]

theorem rings_registerWrite {P : State → Prop} (ht : s.pkg.tripped = false) (ha : a % 8 = 0) (h : P (regPut s src (devReg a) v)) :
    Rings a (.registerWrite src a v) s P :=
  ⟨_, exec_registerWrite ht ha, h⟩

/-- A write of a register that ignores it. -/
theorem rings_ignored (ht : s.pkg.tripped = false) (ha : a % 8 = 0) (h : regPut s src (devReg a) v = s) :
    Rings a (.registerWrite src a v) s fun t => t = s :=
  rings_registerWrite ht ha h

/-- A write of a register of a die that puts `y` for the die changes no other die and nothing else. -/
theorem rings_die {y : Die} (ht : s.pkg.tripped = false) (hd : d < 8) (h : regPut s src (dieReg d o) v = s.modDie d fun _ => y)
    (ho : o < 0x1000000 := by decide) (ha : o % 8 = 0 := by decide) :
    Rings (0x6200000000 + 0x1000000 * d + o) (.registerWrite src (0x6200000000 + 0x1000000 * d + o) v) s fun t =>
      t.die d = y ∧ (∀ j, j ≠ d → t.die j = s.die j) ∧ { t with dies := s.dies } = s := by
  refine rings_registerWrite ht (by omega) ?_
  rw [devReg_die hd ho, h]
  exact ⟨die_modDie_self _ _ _, fun _ hj => die_modDie_other _ _ hj, rfl⟩

/-- A write of a register of a work queue changes no other queue and nothing else. -/
theorem rings_queue {y : WorkQueue} (ht : s.pkg.tripped = false) (hq : q < 32768) (h : queuePut (s.queue q) (o / 8) v = y)
    (ho : o < 0x40 := by decide) (ha : o % 8 = 0 := by decide) :
    Rings (0x6240000000 + 0x40 * q + o) (.registerWrite src (0x6240000000 + 0x40 * q + o) v) s fun t =>
      t.queue q = y ∧ (∀ j, j ≠ q → t.queue j = s.queue j) ∧ { t with queues := s.queues } = s := by
  refine rings_registerWrite ht (by omega) ?_
  rw [devReg_queue hq ho, regPut, h]
  exact ⟨queue_setQueue_self _ _ _, fun _ hj => queue_setQueue_other _ _ hj, rfl⟩

end

/-- Settles O47: each address is resolved to its register, whose write is the update that the statement names. -/
theorem registerWrites : Obligations.RegisterWrites := by
  unfold Obligations.RegisterWrites
  intro s src v d q k ht hd hq hk
  refine ⟨?hotBase, ?hotCtl, ?hotTail, ?hotDrop, ?errBase, ?binderr, ?kvec, ?presave, ?rstsrc, ?wdlim, ?faultst, ?hotHead,
    ?lanemap, ?unnamed, ⟨?qBase, ?qCtlRefused, ?qCtlTaken, ?qTail, ?qErr, ?qHead, ?qAge⟩, ?agelim, ?asidt, ?tinva, ?svclvl, ?fwver, ?temp, ?linkst⟩
  case hotBase => exact rings_die ht hd (by rw [← ringPut_base]; rfl)
  case hotCtl => exact rings_die ht hd (by rw [← ringPut_ctl]; rfl)
  case hotTail => exact rings_die ht hd (by rw [← ringPut_tail]; rfl)
  case hotDrop => exact rings_die ht hd rfl
  case errBase => exact rings_die ht hd (by rw [← ringPut_base]; rfl)
  case binderr => exact rings_die ht hd (by simp only [← w1c_eq]; rfl)
  case kvec => exact rings_die ht hd (by rw [← keep_vector]; rfl)
  case presave => exact rings_die ht hd (by rw [← keep_low_52]; rfl)
  case rstsrc => exact rings_die ht hd (by rw [← keep_low_52]; rfl)
  case wdlim => exact rings_die ht hd (by rw [← keep_low_word]; rfl)
  case faultst => exact rings_die ht hd (by simp only [← w1c_eq]; rfl)
  case hotHead => exact rings_die ht hd rfl
  case lanemap => exact rings_ignored ht (by omega) (by rw [Nat.add_assoc, devReg_die hd (by omega), dieReg_lanemap d hk]; rfl)
  case unnamed => exact rings_ignored ht (by omega) (by rw [devReg_die hd (by decide)]; rfl)
  case qBase => exact rings_queue ht hq (queuePut_base _ v)
  case qCtlRefused => exact fun he hz => rings_queue ht hq (queuePut_ctl_refused _ v he hz)
  case qCtlTaken => exact fun h => rings_queue ht hq (queuePut_ctl_taken _ v h)
  case qTail => exact rings_queue ht hq (queuePut_tail _ v)
  case qErr => exact rings_queue ht hq (queuePut_err _ v)
  case qHead => exact rings_queue ht hq rfl
  case qAge => exact rings_queue ht hq rfl
  case agelim => exact rings_registerWrite ht (by decide) rfl
  case asidt => exact rings_registerWrite ht (by decide) (by rw [← keep_asid_table]; rfl)
  case tinva => exact rings_registerWrite ht (by decide) (by rw [← keep_low_52]; rfl)
  case svclvl => exact rings_ignored ht (by decide) rfl
  case fwver => exact rings_ignored ht (by decide) rfl
  case temp => exact rings_ignored ht (by decide) rfl
  case linkst => exact rings_ignored ht (by decide) rfl

end Sys2Proof.Machine
end

section
/-! PROOFS. MFC and MTC (O9, O10): the access of a mode, the value read, and the field masks of what is written. -/

namespace Sys2Proof.Machine

/-! ### Access (R45, R46) -/

theorem crAccess_unprivileged {n : Nat} (h : n < 0x100 ∨ n = 0x106 ∨ n = 0x107) (kernel ubusy : Bool) : crAccess n kernel ubusy ≠ none := by
  unfold crAccess
  split_ifs <;> simp <;> omega

theorem crAccess_kernel (n : Nat) (ubusy : Bool) : crAccess n true ubusy ≠ none := by
  unfold crAccess
  split_ifs <;> simp_all

/-- The trap registers in user mode: none but in a user handler, which writes TRAPPC alone (R46, R54). -/
theorem crAccess_trapRegister {n : Nat} (h : 0x100 ≤ n ∧ n ≤ 0x104) (ubusy : Bool) :
    crAccess n false ubusy = if ubusy then some (n == 0x101) else none := by
  unfold crAccess
  rw [if_neg (by omega), if_neg (by simp), if_neg (by omega), if_pos h]

/-! ### MFC -/

theorem word_toNat_eq_setWidth (v : BitVec 32) : word v.toNat = v.setWidth 64 := by
  exact BitVec.eq_of_toNat_eq (by simp [word])

theorem dirtyWord_getLsbD (x : Front) (i : Nat) {j : Nat} (hj : j < 64) :
    (x.dirtyWord i).getLsbD j = x.dirty.getLsbD (64 * i + j) := by
  rw [Front.dirtyWord, word, BitVec.getLsbD_ofNat, Nat.testBit_div_two_pow, BitVec.testBit_toNat, Nat.add_comm]
  simp [hj]

section
variable {s : State} {d : SReg} {n : Nat}

theorem cr_decay {i : Nat} (hi : i < 16) (f : Nat) : s.cr f (0x50 + i) = (s.front f).decayReg i := by
  unfold State.cr
  repeat rw [if_neg (by omega)]
  rw [if_pos (by omega), Nat.add_sub_cancel_left]

theorem cr_slot {i : Nat} (hi : i < 16) (f : Nat) : s.cr f (0x60 + i) = (s.front f).slotReg i := by
  unfold State.cr
  repeat rw [if_neg (by omega)]
  rw [if_pos (by omega), Nat.add_sub_cancel_left]

/-- MFC of a register that the mode may read gives its value at once; FFLAGS when nothing older is queued (R82, R148). -/
theorem ends_mfc {v : Word} (hacc : crAccess n s.me.kernel s.me.ubusy ≠ none) (hv : s.cr s.cur n = v)
    (hq : n = 0x21 → s.me.queue = []) (hcr : isCr n = true := by decide) (hn : n < 4096 := by decide) :
    Ends (.mfc d (BitVec.ofNat 12 n)) s (Writes s d v (s.me.pc + 4)) := by
  have h12 : (BitVec.ofNat 12 n).toNat = n := by simpa using Nat.mod_eq_of_lt hn
  have hw : ¬ (n = 0x21 ∧ s.me.queue.isEmpty = false) := by
    rintro ⟨h, hne⟩
    simp [hq h] at hne
  obtain ⟨b, hb⟩ := Option.ne_none_iff_exists'.mp hacc
  apply ends_result
  show execMfc d (BitVec.ofNat 12 n) s = _
  simp only [execMfc, h12, hcr, hb, hv, Bool.not_true, Bool.false_eq_true, if_false, if_neg hw]

theorem ends_mfc_waits (hq : s.me.queue ≠ []) : Ends (.mfc d 0x21) s (Waits s .retry) := by
  refine ⟨_, ?_, waits_blocked s .retry⟩
  show execMfc d 0x21 s = _
  obtain ⟨b, hb⟩ := Option.ne_none_iff_exists'.mp (crAccess_unprivileged (n := 0x21) (by decide) s.me.kernel s.me.ubusy)
  have hcr : isCr 0x21 = true := by decide
  have h12 : (0x21 : BitVec 12).toNat = 0x21 := rfl
  have hne : s.me.queue.isEmpty = false := by simpa using hq
  simp only [execMfc, hcr, h12, hb, hne, Bool.not_true, Bool.false_eq_true, if_false, and_self, if_true]

theorem ends_mfc_priv (hacc : crAccess n s.me.kernel s.me.ubusy = none) (hr : s.trapReady 2) (hcr : isCr n = true := by decide)
    (hn : n < 4096 := by decide) : Ends (.mfc d (BitVec.ofNat 12 n)) s (Traps s 2 0 0) := by
  have h12 : (BitVec.ofNat 12 n).toNat = n := by simpa using Nat.mod_eq_of_lt hn
  refine ends_trapAt s 2 0 0 ?_ hr (by decide) (by decide) (by decide) (by decide) (by decide) (by decide)
  show execMfc d (BitVec.ofNat 12 n) s = _
  simp only [execMfc, h12, hcr, hacc, Bool.not_true, Bool.false_eq_true, if_false]
  rfl

end

theorem isCr_of_block {n : Nat} (h : (0x50 ≤ n ∧ n ≤ 0x70) ∨ (0x100 ≤ n ∧ n ≤ 0x107)) : isCr n = true := by
  unfold isCr
  rcases h with h | h <;> simp [h]

/-- Settles O9: the mode's access decides between the value, the wait and PRIV, and each value is the view that R45 names. -/
theorem readControlRegisters : Obligations.ReadControlRegisters := by
  unfold Obligations.ReadControlRegisters
  intro s d x k R
  have free {n : Nat} (h : n < 0x100 ∨ n = 0x106 ∨ n = 0x107 := by decide) : crAccess n s.me.kernel s.me.ubusy ≠ none :=
    crAccess_unprivileged h _ _
  have never {n : Nat} {P : Prop} (h : n ≠ 0x21 := by decide) : n = 0x21 → P := fun k => absurd k h
  refine ⟨ends_mfc free rfl never, ends_mfc free rfl never, ends_mfc free rfl never, ends_mfc free rfl never,
    ends_mfc free (word_toNat_eq_setWidth _) never, ends_mfc free (word_toNat_eq_setWidth _) never, ends_mfc free rfl never,
    fun hq => ends_mfc free rfl fun _ => hq, ends_mfc_waits, ends_mfc free rfl never, ends_mfc free rfl never,
    ⟨_, fun _ hj => dirtyWord_getLsbD _ _ hj, ends_mfc free rfl never⟩, ends_mfc free rfl never, ?blocks, ends_mfc free rfl never,
    ends_mfc free rfl never, ends_mfc free rfl never, ?trapRegisters, ?trapvec, ?priv⟩
  case blocks =>
    intro i hi
    exact ⟨ends_mfc (free (by omega)) (cr_decay hi _) (never (by omega)) (isCr_of_block (by omega)) (by omega),
      ends_mfc (free (by omega)) (cr_slot hi _) (never (by omega)) (isCr_of_block (by omega)) (by omega)⟩
  case trapRegisters =>
    intro h
    have handler {n : Nat} (hn : 0x100 ≤ n ∧ n ≤ 0x104 := by decide) : crAccess n s.me.kernel s.me.ubusy ≠ none := by
      cases hk : s.me.kernel
      · have hu : s.me.ubusy = true := h.resolve_left (by simp [x, hk])
        simp [crAccess_trapRegister hn, hu]
      · exact crAccess_kernel _ _
    exact ⟨ends_mfc handler rfl never, ends_mfc handler rfl never, ends_mfc handler rfl never, ends_mfc handler rfl never,
      ends_mfc handler rfl never⟩
  case trapvec =>
    intro hk
    exact ends_mfc (by rw [show s.me.kernel = true from hk]; exact crAccess_kernel _ _) rfl never
  case priv =>
    intro hk hr
    have hk' : s.me.kernel = false := hk
    refine ⟨ends_mfc_priv (by rw [hk']; rfl) hr, fun hu i hi => ends_mfc_priv ?_ hr (isCr_of_block (by omega)) (by omega)⟩
    have hu' : s.me.ubusy = false := hu
    rw [hk', crAccess_trapRegister (by omega), hu']
    rfl

/-! ### MTC: access -/

/-- The registers that either mode may write (R45). -/
theorem crAccess_writable {n : Nat} (h : n = 0x11 ∨ n = 0x12 ∨ n = 0x13 ∨ n = 0x20 ∨ n = 0x21 ∨ n = 0x40 ∨ (0x50 ≤ n ∧ n < 0x70) ∨ n = 0x106)
    (kernel ubusy : Bool) : crAccess n kernel ubusy = some true := by
  rw [crAccess, if_neg (by omega)]
  cases kernel
  · rw [if_neg (by simp), if_neg (by omega), if_neg (by omega), if_neg (by omega)]
  · rfl

theorem crAccess_readOnly {n : Nat} (h : n = 0x14 ∨ n = 0x15 ∨ n = 0x30) (kernel ubusy : Bool) : crAccess n kernel ubusy = some false := by
  rw [crAccess, if_pos h]

theorem crAccess_kernel_writable {n : Nat} (h : ¬ (n = 0x14 ∨ n = 0x15 ∨ n = 0x30)) (ubusy : Bool) : crAccess n true ubusy = some true := by
  rw [crAccess, if_neg h, if_pos rfl]

/-- The registers that user mode may read and not write (R45). -/
theorem crAccess_user_readOnly {n : Nat} (h : n = 0x10 ∨ n = 0x31 ∨ n = 0x32 ∨ n = 0x70 ∨ n = 0x107) (ubusy : Bool) :
    crAccess n false ubusy = some false := by
  rw [crAccess, if_neg (by omega), if_neg (by simp), if_pos h]

/-! ### MTC: the fields that a register keeps -/

theorem keep_low_6 (v : Word) : keep v 5 0 = v &&& 0x3F := keep_eq_and v 5 0
theorem keep_low_9 (v : Word) : keep v 8 0 = v &&& 0x1FF := keep_eq_and v 8 0
theorem keep_low_12 (v : Word) : keep v 11 0 = v &&& 0xFFF := keep_eq_and v 11 0
theorem keep_low_44 (v : Word) : keep v 43 0 = v &&& 0xFFFFFFFFFFF := keep_eq_and v 43 0
theorem keep_page_1m (v : Word) : keep v 51 20 = v &&& 0xFFFFFFFF00000 := keep_eq_and v 51 20
theorem keep_aligned (v : Word) : keep v 63 2 = v &&& 0xFFFFFFFFFFFFFFFC := keep_eq_and v 63 2

theorem keep_fcr (v : Word) : keep v 4 0 ||| keep v 63 32 = v &&& 0xFFFFFFFF0000001F := by
  rw [keep_low_5, keep_eq_and v 63 32, ← BitVec.and_or_distrib_left]
  rfl

theorem keep_trapcause (v : Word) : keep v 9 0 ||| keep v 23 16 = v &&& 0xFF03FF := by
  rw [keep_eq_and v 9 0, keep_eq_and v 23 16, ← BitVec.and_or_distrib_left]
  rfl

theorem keep_deleg (v : Word) : keep v 6 3 ||| keep v 13 13 ||| keep v 31 31 = v &&& 0x80002078 := by
  rw [keep_eq_and v 6 3, keep_eq_and v 13 13, keep_eq_and v 31 31, ← BitVec.and_or_distrib_left, ← BitVec.and_or_distrib_left]
  rfl

/-! ### MTC: what each register makes of the value written -/

section
variable (x : Front) (v : Word)

theorem putCr_vl : x.putCr 0x10 v = { x with vl := if 256 < v.field 8 0 ∨ v.field 11 9 = 7 then x.vl else v &&& 0xFFF } := by
  rw [← keep_low_12]
  by_cases h : 256 < v.field 8 0 ∨ v.field 11 9 = 7 <;> simp [Front.putCr, h]

theorem putCr_vmc : x.putCr 0x11 v = { x with vmc := if v.field 4 3 = 3 then x.vmc else v &&& 0x1FF } := by
  rw [← keep_low_9]
  by_cases h : v.field 4 3 = 3 <;> simp [Front.putCr, h]

theorem putCr_fcr : x.putCr 0x20 v = { x with fcr := if 5 ≤ v.field 2 0 then x.fcr else v &&& 0xFFFFFFFF0000001F } := by
  rw [← keep_fcr]
  by_cases h : 5 ≤ v.field 2 0 <;> simp [Front.putCr, h]

theorem putCr_decay {i : Nat} (hi : i < 16) : x.putCr (0x50 + i) v =
    if 0x3F800000 < v.field 31 0 then x else { x with decay := spSet 0 x.decay i (v &&& 0xFFFFFFFF) } := by
  rw [← keep_low_word]
  unfold Front.putCr
  repeat rw [if_neg (by omega)]
  rw [if_pos (by omega), Nat.add_sub_cancel_left]

theorem putCr_slot {i : Nat} (hi : i < 16) : x.putCr (0x60 + i) v =
    if slotValid (v &&& 0xFFFFFFFFFFF) then { x with fmt := spSet 0 x.fmt i (v &&& 0xFFFFFFFFFFF) } else x := by
  rw [← keep_low_44]
  unfold Front.putCr
  repeat rw [if_neg (by omega)]
  rw [if_pos (by omega), Nat.add_sub_cancel_left]

/-- What a write of control register `n` leaves of a front: PC, the general registers, the mode and DBGCTL, and DELEG unless it is DELEG. -/
structure ControlKept (n : Nat) (x y : Front) : Prop where
  pc     : y.pc = x.pc
  regs   : y.regs = x.regs
  kernel : y.kernel = x.kernel
  dbgctl : y.dbgctl = x.dbgctl
  deleg  : n ≠ 0x107 → y.deleg = x.deleg

theorem ControlKept.ite {n : Nat} {x y z : Front} {c : Prop} [Decidable c] (hy : ControlKept n x y) (hz : ControlKept n x z) :
    ControlKept n x (if c then y else z) := by
  split
  · exact hy
  · exact hz

theorem controlKept_putCr (n : Nat) : ControlKept n x (x.putCr n v) := by
  by_cases hn : n = 0x107
  · subst hn
    exact ⟨rfl, rfl, rfl, rfl, fun h => absurd rfl h⟩
  · rw [Front.putCr, if_neg hn]
    repeat' refine .ite ?_ ?_
    all_goals exact ⟨rfl, rfl, rfl, rfl, fun _ => rfl⟩

/-- A word of the row map written in kernel mode (R362). -/
theorem putDirty_getLsbD (h : v.field 7 3 = 0) {r : Nat} (hr : r < 512) : (x.putDirty v).dirty.getLsbD r =
    if r / 64 = v.field 2 0 then (if v.flag 8 then false else if v.flag 9 then true else x.dirty.getLsbD r) else x.dirty.getLsbD r := by
  have hm : (BitVec.ofNat 512 ((2 ^ 64 - 1) * 2 ^ (64 * v.field 2 0))).getLsbD r = decide (r / 64 = v.field 2 0) := by
    rw [BitVec.getLsbD_ofNat, Nat.testBit_mul_two_pow, Nat.testBit_two_pow_sub_one, decide_eq_true hr, Bool.true_and, ← Bool.decide_and]
    congr 1
    apply propext
    omega
  rw [Front.putDirty, if_neg (by simp [h])]
  dsimp only
  by_cases hw : r / 64 = v.field 2 0 <;> by_cases h8 : v.flag 8 = true <;> by_cases h9 : v.flag 9 = true <;>
    simp only [hw, h8, h9, if_true, if_false, BitVec.getLsbD_and, BitVec.getLsbD_or, BitVec.getLsbD_not, hm, decide_true, decide_false,
      Bool.not_true, Bool.not_false, Bool.and_false, Bool.and_true, Bool.or_false, Bool.or_true, hr, Bool.false_eq_true]

theorem putDirty_index (h : v.field 7 3 = 0) : (x.putDirty v).dirtyIx = v.field 2 0 := by
  rw [Front.putDirty, if_neg (by simp [h])]

theorem putDirty_refused (h : v.field 7 3 ≠ 0) : x.putDirty v = x := by
  rw [Front.putDirty, if_pos h]

theorem putDirty_keeps : { x.putDirty v with dirty := x.dirty, dirtyIx := x.dirtyIx } = x := by
  unfold Front.putDirty
  split_ifs <;> rfl

end

/-! ### MTC: how it ends -/

section
variable {s : State} {a : SReg} {n : Nat}

theorem onlyFront_advance (s : State) : OnlyFront s.cur s s.advance :=
  onlyFront_modFront s s.cur fun x => x.complete (s.me.pc + 4)

/-- The state after a control register of the current front has been written. -/
theorem crWritten_putCr (h : n = 0x107 → s.me.kernel = true) (v : Word) :
    CrWritten s (s.me.putCr n v) (s.modFront s.cur fun x => x.putCr n v).advance := by
  obtain ⟨hpc, hregs, hkernel, hdbg, hdeleg⟩ := controlKept_putCr s.me v n
  have hme : (s.modFront s.cur fun x => x.putCr n v).me = s.me.putCr n v := by simp [State.me]
  have hstep : (!(s.me.putCr n v).kernel && !(s.me.putCr n v).ubusy) = (!s.me.kernel && !s.me.ubusy) := by
    by_cases hn : n = 0x107
    · simp [hkernel, h hn]
    · simp [hkernel, Front.ubusy, hdeleg hn]
  have hrest : OnlyFront s.cur s (s.modFront s.cur fun x => x.putCr n v).advance :=
    (onlyFront_modFront s s.cur fun x => x.putCr n v).trans (onlyFront_advance (s.modFront s.cur fun x => x.putCr n v))
  constructor
  case front => rw [me_advance, hme]; rfl
  case pc => rw [me_advance, hme, hpc]; rfl
  case wait => rw [me_advance]; rfl
  case step =>
    rw [me_advance, hme]
    simp only [Front.complete, hdbg, Bool.and_assoc, hstep]
  case regs =>
    intro r
    rw [reg_advance, State.reg, hme]
    simp only [State.reg, Front.reg, hregs]
  case rest => exact hrest
  case mem => exact hrest.sameBytes

/-- MTC of a register of the front that the mode may write (R45, R148). -/
theorem ends_mtc {y : Front} (hacc : crAccess n s.me.kernel s.me.ubusy = some true) (hy : s.me.putCr n (s.reg a) = y)
    (hq : n = 0x21 → s.me.queue = []) (hk : n = 0x107 → s.me.kernel = true) (hl : n ≠ 0x31 := by decide) (hcr : isCr n = true := by decide)
    (hn : n < 4096 := by decide) : Ends (.mtc (BitVec.ofNat 12 n) a) s (CrWritten s y) := by
  subst hy
  have h12 : (BitVec.ofNat 12 n).toNat = n := by simpa using Nat.mod_eq_of_lt hn
  have hw : ¬ (n = 0x21 ∧ s.me.queue.isEmpty = false) := by
    rintro ⟨h, hne⟩
    simp [hq h] at hne
  refine ⟨_, ?_, crWritten_putCr hk (s.reg a)⟩
  show execMtc (BitVec.ofNat 12 n) a s = _
  simp only [execMtc, h12, hcr, hacc, Bool.not_true, Bool.false_eq_true, if_false, if_neg hw, if_neg hl]

/-- MTC of a register that the mode may only read (R7, R45). -/
theorem ends_mtc_ignored (hacc : crAccess n s.me.kernel s.me.ubusy = some false) (hcr : isCr n = true := by decide)
    (hn : n < 4096 := by decide) : Ends (.mtc (BitVec.ofNat 12 n) a) s (Passes s (s.me.pc + 4)) := by
  have h12 : (BitVec.ofNat 12 n).toNat = n := by simpa using Nat.mod_eq_of_lt hn
  refine ⟨_, ?_, passes_advance s⟩
  show execMtc (BitVec.ofNat 12 n) a s = _
  simp only [execMtc, h12, hcr, hacc, Bool.not_true, Bool.false_eq_true, if_false]

theorem ends_mtc_priv (hacc : crAccess n s.me.kernel s.me.ubusy = none) (hr : s.trapReady 2) (hcr : isCr n = true := by decide)
    (hn : n < 4096 := by decide) : Ends (.mtc (BitVec.ofNat 12 n) a) s (Traps s 2 0 0) := by
  have h12 : (BitVec.ofNat 12 n).toNat = n := by simpa using Nat.mod_eq_of_lt hn
  refine ends_trapAt s 2 0 0 ?_ hr (by decide) (by decide) (by decide) (by decide) (by decide) (by decide)
  show execMtc (BitVec.ofNat 12 n) a s = _
  simp only [execMtc, h12, hcr, hacc, Bool.not_true, Bool.false_eq_true, if_false]
  rfl

theorem ends_mtc_waits (hq : s.me.queue ≠ []) : Ends (.mtc 0x21 a) s (Waits s .retry) := by
  refine ⟨_, ?_, waits_blocked s .retry⟩
  show execMtc 0x21 a s = _
  have hacc := crAccess_writable (n := 0x21) (by decide) s.me.kernel s.me.ubusy
  have hcr : isCr 0x21 = true := by decide
  have h12 : (0x21 : BitVec 12).toNat = 0x21 := rfl
  have hne : s.me.queue.isEmpty = false := by simpa using hq
  simp only [execMtc, hcr, h12, hacc, hne, Bool.not_true, Bool.false_eq_true, if_false, and_self, if_true]

/-- MTC of LPART in kernel mode. -/
theorem exec_mtc_lpart (hk : s.me.kernel = true) : exec (.mtc 0x31 a) s = .next (putLpart s (s.reg a)).advance := by
  show execMtc 0x31 a s = _
  have hcr : isCr 0x31 = true := by decide
  have h12 : (0x31 : BitVec 12).toNat = 0x31 := rfl
  have hacc : crAccess 0x31 true s.me.ubusy = some true := crAccess_kernel_writable (by decide) _
  simp only [execMtc, hcr, h12, hk, hacc, Bool.not_true, Bool.false_eq_true, if_false, if_true, show ¬ (49 = 33) by decide, false_and]

end

/-! ### LPART (R199 to R201, R228) -/

/-- A BOUND front started: its slot record, the count of its launch, and its handler (R228, R337). -/
def State.started (s : State) (f : Nat) : State :=
  ((s.setSlot f { s.slot f with state := 2 }).setLaunch (s.slot f).lid
    { s.launch (s.slot f).lid with started := (s.launch (s.slot f).lid).started + 1 }).modFront f fun y =>
      { y with trapvec := (s.die (dieOf f)).kvec }

theorem startIfOwned_eq (s : State) (f : Nat) : startIfOwned s f =
    if (s.slot f).state = 1 ∧ (s.core (coreOf f)).share f ≤ (s.core (coreOf f)).own f then s.started f else s := rfl

theorem startIfOwned_of_not_bound {s : State} {f : Nat} (h : (s.slot f).state ≠ 1) : startIfOwned s f = s := by
  rw [startIfOwned_eq, if_neg (fun k => h k.1)]

theorem slot_startIfOwned_other (s : State) {f g : Nat} (h : g ≠ f) : (startIfOwned s f).slot g = s.slot g := by
  rw [startIfOwned_eq]
  split
  · simp only [State.started, slot_modFront, slot_setLaunch]
    exact slot_setSlot_other s _ h
  · rfl

theorem front_startIfOwned_other (s : State) {f g : Nat} (h : g ≠ f) : (startIfOwned s f).front g = s.front g := by
  rw [startIfOwned_eq]
  split
  · exact front_modFront_other _ _ h
  · rfl

theorem core_startIfOwned (s : State) (f j : Nat) : (startIfOwned s f).core j = s.core j := by
  rw [startIfOwned_eq]
  split <;> rfl

theorem cur_startIfOwned (s : State) (f : Nat) : (startIfOwned s f).cur = s.cur := by
  rw [startIfOwned_eq]
  split <;> rfl

theorem startIfOwned_rest (s : State) (f : Nat) : { startIfOwned s f with fronts := [], cores := [], slots := [], launches := [] } =
    { s with fronts := [], cores := [], slots := [], launches := [] } := by
  rw [startIfOwned_eq]
  split <;> rfl

/-- The core once TARGET and LOCK are written. -/
def Core.partitioned (x : Core) (v : Word) : Core := { x with target := v.field 6 0, lock := v.flag 25 }

section
variable {s : State} {v : Word}

/-- TARGET and LOCK written: the partner of a front that is not BOUND settles, and nothing else does (R228). -/
theorem putLpart_taken (hs : (s.slot s.cur).state ≠ 1)
    (hok : targetOk (s.core (s.cur / 2)).live (v.field 6 0) (s.resident (2 * (s.cur / 2))) (s.resident (2 * (s.cur / 2) + 1)) = true) :
    putLpart s v = startIfOwned (s.modCore (s.cur / 2) fun x => x.partitioned v) (partner s.cur) := by
  have hput : putLpart s v =
      startIfOwned (startIfOwned (s.modCore (s.cur / 2) fun x => x.partitioned v) (2 * (s.cur / 2))) (2 * (s.cur / 2) + 1) := if_pos hok
  rw [hput]
  generalize hu : (s.modCore (s.cur / 2) fun x => x.partitioned v) = u
  have hs' : (u.slot s.cur).state ≠ 1 := by rw [← hu]; exact hs
  by_cases h : s.cur % 2 = 0
  · have h0 : 2 * (s.cur / 2) = s.cur := by omega
    rw [h0, startIfOwned_of_not_bound hs', partner, if_pos h]
  · have h0 : 2 * (s.cur / 2) = s.cur - 1 := by omega
    have h1 : s.cur - 1 + 1 = s.cur := by omega
    rw [h0, h1, partner, if_neg h, startIfOwned_of_not_bound]
    rwa [slot_startIfOwned_other _ (by omega)]

theorem putLpart_ignored
    (hok : targetOk (s.core (s.cur / 2)).live (v.field 6 0) (s.resident (2 * (s.cur / 2))) (s.resident (2 * (s.cur / 2) + 1)) = false) :
    putLpart s v = s :=
  if_neg (by rw [← Bool.not_eq_true] at hok; exact hok)

theorem partnerSettled_startIfOwned (p : Nat) : PartnerSettled s p (v.field 6 0) (startIfOwned (s.modCore (p / 2) fun x => x.partitioned v) p) := by
  have hcore : (s.modCore (p / 2) fun x => x.partitioned v).core (p / 2) = (s.core (p / 2)).partitioned v := core_modCore_self _ _ _
  constructor
  case own => rw [core_startIfOwned, hcore]; rfl
  case stays =>
    intro h
    rw [startIfOwned_eq, coreOf, hcore, if_neg]
    · exact ⟨rfl, rfl, rfl⟩
    · rintro ⟨hb, hs⟩
      rcases h with h | h
      · exact h hb
      · exact absurd hs (Nat.not_le.mpr h)
  case starts =>
    intro hb hs
    rw [startIfOwned_eq, coreOf, hcore, if_pos ⟨hb, hs⟩]
    exact ⟨by simp [State.started], by simp [State.started], by simp [State.started, dieOf]⟩

end

theorem partner_div (f : Nat) : partner f / 2 = f / 2 := by
  unfold partner
  split <;> omega

theorem partner_ne (f : Nat) : partner f ≠ f := by
  unfold partner
  split <;> omega

theorem PartnerSettled.advance {s u : State} {p target : Nat} (h : PartnerSettled s p target u) (hp : p ≠ u.cur) :
    PartnerSettled s p target u.advance where
  own := h.own
  stays hs := ⟨(h.stays hs).1, (front_advance_other u hp).trans (h.stays hs).2.1, (h.stays hs).2.2⟩
  starts hb hs := ⟨(h.starts hb hs).1, (h.starts hb hs).2.1, (front_advance_other u hp).trans (h.starts hb hs).2.2⟩

/-- What a state in which TARGET and LOCK have been written, and the partner has settled, shows once the instruction is complete. -/
theorem lpart_completed {s u : State} {v : Word} (hcur : u.cur = s.cur) (hset : PartnerSettled s (partner s.cur) (v.field 6 0) u)
    (hcore : ∀ j, u.core j = (s.modCore (s.cur / 2) fun x => x.partitioned v).core j)
    (hkept : ∀ g, g ≠ partner s.cur → u.front g = s.front g ∧ u.slot g = s.slot g)
    (hrest : { u with fronts := [], cores := [], slots := [], launches := [] } =
      { s with fronts := [], cores := [], slots := [], launches := [] }) :
    (u.advance.core (s.cur / 2)).target = v.field 6 0 ∧ (u.advance.core (s.cur / 2)).lock = v.flag 25 ∧
      (u.advance.core (s.cur / 2)).own s.cur = (s.core (s.cur / 2)).own s.cur ∧ (u.advance.core (s.cur / 2)).plane = (s.core (s.cur / 2)).plane ∧
      (u.advance.core (s.cur / 2)).tags = (s.core (s.cur / 2)).tags ∧ PartnerSettled s (partner s.cur) (v.field 6 0) u.advance ∧
      (∀ r, u.advance.reg r = s.reg r) ∧ Completed s (s.me.pc + 4) id u.advance ∧
      (∀ g, g ≠ s.cur → g ≠ partner s.cur → u.advance.front g = s.front g ∧ u.advance.slot g = s.slot g) ∧
      (∀ j, j ≠ s.cur / 2 → u.advance.core j = s.core j) ∧
      { u.advance with fronts := [], cores := [], slots := [], launches := [] } =
        { s with fronts := [], cores := [], slots := [], launches := [] } := by
  have hown : u.advance.core (s.cur / 2) = (s.core (s.cur / 2)).partitioned v := (hcore _).trans (core_modCore_self _ _ _)
  have hme : u.me = s.me := by rw [State.me, hcur]; exact (hkept _ (partner_ne _).symm).1
  rw [hown]
  refine ⟨rfl, rfl, rfl, rfl, rfl, hset.advance (by rw [hcur]; exact partner_ne _), ?regs, ?done, ?others, ?cores, hrest⟩
  case regs => intro r; rw [reg_advance, State.reg, hme, State.reg]
  case done => exact completed_of s _ id s.me rfl rfl rfl rfl _ (by rw [me_advance, hme])
  case others =>
    intro g hg hp
    exact ⟨(front_advance_other u (by rwa [hcur])).trans (hkept g hp).1, (hkept g hp).2⟩
  case cores => intro j hj; exact (hcore j).trans (core_modCore_other s _ hj)

/-- Settles O10: each register keeps the fields of its mask, by the mode's access; a valid TARGET settles the partner. -/
theorem writeControlRegisters : Obligations.WriteControlRegisters := by
  unfold Obligations.WriteControlRegisters
  refine ⟨fun s a => ?_, fun s a hk => ?_⟩
  · intro x A W Ignored Priv
    have both {n : Nat} (h : n = 0x11 ∨ n = 0x12 ∨ n = 0x13 ∨ n = 0x20 ∨ n = 0x21 ∨ n = 0x40 ∨ (0x50 ≤ n ∧ n < 0x70) ∨ n = 0x106 := by decide) :
        crAccess n s.me.kernel s.me.ubusy = some true := crAccess_writable h _ _
    have never {n m : Nat} {P : Prop} (h : n ≠ m := by decide) : n = m → P := fun k => absurd k h
    refine ⟨ends_mtc both (putCr_vmc _ _) never never, ends_mtc both rfl never never, ends_mtc both (by rw [← keep_low_9]; rfl) never never,
      ends_mtc both (putCr_fcr _ _) never never, fun hq => ends_mtc both (by rw [← keep_low_6]; rfl) (fun _ => hq) never, ends_mtc_waits,
      ends_mtc both rfl never never, ?decay, ?slots, ends_mtc both (by rw [← keep_aligned]; rfl) never never,
      ends_mtc_ignored (crAccess_readOnly (by decide) _ _), ends_mtc_ignored (crAccess_readOnly (by decide) _ _),
      ends_mtc_ignored (crAccess_readOnly (by decide) _ _), ?user⟩
    case decay =>
      intro i hi
      exact ends_mtc (both (by omega)) (putCr_decay _ _ hi) (never (by omega)) (never (by omega)) (by omega) (isCr_of_block (by omega)) (by omega)
    case slots =>
      intro i hi
      exact ends_mtc (both (by omega)) (putCr_slot _ _ hi) (never (by omega)) (never (by omega)) (by omega) (isCr_of_block (by omega)) (by omega)
    case user =>
      intro hk
      have hk' : s.me.kernel = false := hk
      have ro {n : Nat} (h : n = 0x10 ∨ n = 0x31 ∨ n = 0x32 ∨ n = 0x70 ∨ n = 0x107 := by decide) :
          crAccess n s.me.kernel s.me.ubusy = some false := by rw [hk']; exact crAccess_user_readOnly h _
      refine ⟨ends_mtc_ignored ro, ends_mtc_ignored ro, ends_mtc_ignored ro, ends_mtc_ignored ro, ends_mtc_ignored ro, ?handler, ?priv⟩
      case handler =>
        intro hu
        have hu' : s.me.ubusy = true := hu
        have ha {n : Nat} (h : 0x100 ≤ n ∧ n ≤ 0x104 := by decide) : crAccess n s.me.kernel s.me.ubusy = some (n == 0x101) := by
          rw [hk', crAccess_trapRegister h, hu', if_pos rfl]
        exact ⟨ends_mtc_ignored ha, ends_mtc_ignored ha, ends_mtc_ignored ha, ends_mtc_ignored ha,
          ends_mtc ha (by rw [← keep_aligned]; rfl) never never⟩
      case priv =>
        intro hr
        refine ⟨ends_mtc_priv (by rw [hk']; rfl) hr, fun hu i hi => ends_mtc_priv ?_ hr (isCr_of_block (by omega)) (by omega)⟩
        have hu' : s.me.ubusy = false := hu
        rw [hk', crAccess_trapRegister (by omega), hu']
        rfl
  · intro x A k W
    have kern {n : Nat} (h : ¬ (n = 0x14 ∨ n = 0x15 ∨ n = 0x30) := by decide) : crAccess n s.me.kernel s.me.ubusy = some true := by
      rw [hk]; exact crAccess_kernel_writable h _
    have never {n m : Nat} {P : Prop} (h : n ≠ m := by decide) : n = m → P := fun k => absurd k h
    refine ⟨ends_mtc kern (putCr_vl _ _) never never, ?lpart, ⟨x.putDirty A, ends_mtc kern rfl never never, putDirty_keeps _ _, ?refused, ?rows⟩,
      ends_mtc kern (by rw [← keep_page_1m]; rfl) never never, ends_mtc kern (by rw [← keep_trapcause]; rfl) never never,
      ends_mtc kern (by rw [← keep_aligned]; rfl) never never, ends_mtc kern (by rw [← keep_low_word]; rfl) never never,
      ends_mtc kern (by rw [← keep_low_9]; rfl) never never, ends_mtc kern rfl never never,
      ends_mtc kern (by rw [← keep_aligned]; rfl) never never, ends_mtc kern (by rw [← keep_deleg]; rfl) never fun _ => hk⟩
    case refused => intro h; rw [putDirty_refused _ _ h]; exact ⟨rfl, rfl⟩
    case rows => exact fun h => ⟨putDirty_index _ _ h, fun r hr => putDirty_getLsbD _ _ h hr⟩
    case lpart =>
      intro ok p
      refine ⟨fun hok => ⟨_, exec_mtc_lpart hk, ?_⟩, fun hok hs => ⟨_, exec_mtc_lpart hk, ?_⟩⟩
      · rw [putLpart_ignored hok]; exact passes_advance s
      · rw [putLpart_taken hs hok]
        refine lpart_completed (cur_startIfOwned _ _) ?_ (core_startIfOwned _ _)
          (fun g hg => ⟨front_startIfOwned_other _ hg, slot_startIfOwned_other _ hg⟩) (startIfOwned_rest _ _)
        rw [← partner_div]
        exact partnerSettled_startIfOwned _

end Sys2Proof.Machine
end

section
/-! PROOFS. Taking a trap and returning from one (O11, O13). -/

namespace Sys2Proof.Machine

section
variable {s : State} {f : Nat} {r : TrapRec} {pc : Word} {vsn : BitVec 32}

/-- A trap that is no double fault changes the front as R73 says. -/
theorem takeTrap_eq (h : (s.front f).kernel = false ∨ r.cause = 13 ∨ r.cause = 14) :
    takeTrap s f r pc vsn = s.setFront f ((s.front f).trapped r pc vsn) := by
  have hd : ((s.front f).kernel && r.cause != BREAK && r.cause != STEP) = false := by
    rcases h with h | h | h <;> simp [h, BREAK, STEP]
  simp only [takeTrap, hd, Bool.false_eq_true, if_false]

theorem takeTrap_doubleFault (hk : (s.front f).kernel = true) (hb : r.cause ≠ 13) (hs : r.cause ≠ 14) :
    takeTrap s f r pc vsn = doubleFault s f r.cause := by
  have hd : ((s.front f).kernel && r.cause != BREAK && r.cause != STEP) = true := by simp [hk, hb, hs, BREAK, STEP]
  simp only [takeTrap, hd, if_true]

theorem trapTaken_takeTrap (h : (s.front f).kernel = false ∨ r.cause = 13 ∨ r.cause = 14) (hc : r.cause < 256) (hs : r.sub < 256)
    (he : r.elem < 512) : TrapTaken s f r.cause r.sub r.elem r.addr pc vsn (takeTrap s f r pc vsn) := by
  rw [takeTrap_eq h]
  exact trapTaken_setFront s f r pc vsn hc hs he

theorem trapped_counters (x : Front) (r : TrapRec) (pc : Word) (vsn : BitVec 32) : (x.trapped r pc vsn).counters = x.counters := by
  unfold Front.trapped
  dsimp only
  split <;> rfl

/-- What a double fault leaves (R359, R369): the front as it was but stopped, and the die's FAULTST. -/
theorem front_doubleFault (s : State) (f cause : Nat) :
    (doubleFault s f cause).front f = { s.front f with halt := .doubleFault cause, wait := .no, stepDue := false } :=
  front_modFront_self s f fun x => { x with halt := .doubleFault cause, wait := .no, stepDue := false }

theorem front_doubleFault_other (s : State) {f g : Nat} (cause : Nat) (h : g ≠ f) : (doubleFault s f cause).front g = s.front g :=
  front_modFront_other s (fun x => { x with halt := .doubleFault cause, wait := .no, stepDue := false }) h

theorem faultst_doubleFault (s : State) (f cause : Nat) : ((doubleFault s f cause).die (dieOf f)).faultst =
    word (f / 2 % 64 + f % 2 * 2 ^ 6 + cause * 2 ^ 8 + 2 ^ 31) := by
  rw [doubleFault, die_modDie_self]

theorem die_doubleFault_other (s : State) {f d : Nat} (cause : Nat) (h : d ≠ dieOf f) : (doubleFault s f cause).die d = s.die d :=
  die_modDie_other _ _ h

/-- A front stopped by a double fault does not run, nor does a save or a discard close it. -/
theorem runs_of_doubleFault {t : State} {f cause : Nat} (h : (t.front f).halt = .doubleFault cause) : t.runs f = false := by
  simp [State.runs, State.closing, h, Halt.stopping]

end

/-- Settles O11: TakeTrap is the update of the front that R73 lists, or the stop of R359. -/
theorem takeTrap_holds : Obligations.TakeTrap := by
  unfold Obligations.TakeTrap
  refine ⟨fun s f r pc vsn hc hs he h => ⟨trapTaken_takeTrap h hc hs he, ?_⟩, fun s f r pc vsn hk hb hs => ?_⟩
  · rw [takeTrap_eq h, front_setFront_self, trapped_counters]
  · intro t
    have ht : t = doubleFault s f r.cause := takeTrap_doubleFault hk hb hs
    rw [ht]
    exact ⟨by rw [front_doubleFault], runs_of_doubleFault (by rw [front_doubleFault]), faultst_doubleFault s f r.cause,
      fun g hg => front_doubleFault_other s _ hg, fun d hd => die_doubleFault_other s _ hd, fun _ => rfl⟩

/-! ### KRET (R74, R360) -/

/-- The entries that KRET pushes again, each with the next number. -/
theorem reissued_reissue (clock start : Nat) (set : List QEntry) (vsn : BitVec 32) :
    Reissued clock set vsn start (reissue clock set vsn start) := by
  induction set generalizing vsn with
  | nil => exact ⟨.nil, rfl⟩
  | cons e r ih =>
    cases hd : e.done with
    | true =>
      have := ih vsn
      simpa only [Reissued, reissue, hd, List.filter_cons, Bool.not_true, Bool.false_eq_true, if_false, if_true] using this
    | false =>
      obtain ⟨hall, hnum⟩ := ih (vsn + 1)
      simp only [Reissued, reissue, hd, List.filter_cons, Bool.not_false, Bool.false_eq_true, if_false, if_true]
      refine ⟨.cons ⟨rfl, rfl, rfl, rfl⟩ hall, ?_⟩
      have hstep (i : Nat) : vsn + 1 + BitVec.ofNat 32 i = vsn + BitVec.ofNat 32 (i + 1) := by
        rw [BitVec.add_assoc, BitVec.add_comm 1, ← BitVec.ofNat_add_ofNat]
        rfl
      rw [List.map_cons, hnum, List.length_cons, List.range_succ_eq_map, List.map_cons, List.map_map]
      congr 1
      · simp
      · exact List.map_congr_left fun i _ => hstep i

/-- What KRET leaves of the front at either level. -/
theorem returned_kreted (s : State) : Returned s (if s.me.kernel then s.me.kernelSet else s.me.userSet)
    (s.me.kernel && s.me.trapcause.flag 8) (s.modFront s.cur (Front.kreted s.clock)) := by
  have hme : (s.modFront s.cur (Front.kreted s.clock)).me = s.me.kreted s.clock := by simp [State.me]
  have hrest := onlyFront_modFront s s.cur (Front.kreted s.clock)
  constructor
  case rest => exact hrest
  case mem => exact hrest.sameBytes
  case queue =>
    refine ⟨_, ?_, reissued_reissue s.clock _ _ _, ?_⟩
    all_goals
      rw [hme]
      unfold Front.kreted
      cases s.me.kernel <;> rfl
  case regs =>
    intro r
    rw [State.reg, hme]
    unfold Front.kreted
    cases s.me.kernel <;> rfl
  all_goals
    rw [hme]
    unfold Front.kreted
    cases hk : s.me.kernel <;> rfl

/-- KRET where the front may return and its queue has room (R69, R74). -/
theorem exec_kret {s : State} (hm : s.me.kernel = true ∨ s.me.ubusy = true)
    (hq : s.me.queue.length + ((if s.me.kernel then s.me.kernelSet else s.me.userSet).filter fun e => !e.done).length ≤ 64) :
    exec .kret s = .next (s.modFront s.cur (Front.kreted s.clock)) := by
  have hp : (!s.me.kernel && !s.me.ubusy) = false := by rcases hm with h | h <;> simp [h]
  show execKret s = _
  simp only [execKret, hp, Bool.false_eq_true, if_false, if_neg (Nat.not_lt.mpr hq)]

theorem exec_kret_full {s : State} (hm : s.me.kernel = true ∨ s.me.ubusy = true)
    (hq : 64 < s.me.queue.length + ((if s.me.kernel then s.me.kernelSet else s.me.userSet).filter fun e => !e.done).length) :
    exec .kret s = .next (s.blocked .retry) := by
  have hp : (!s.me.kernel && !s.me.ubusy) = false := by rcases hm with h | h <;> simp [h]
  show execKret s = _
  simp only [execKret, hp, Bool.false_eq_true, if_false, if_pos hq]

/-- Settles O13: the level of the mode decides which set is reissued, and the room in the queue whether it is. -/
theorem kretReturns : Obligations.KretReturns := by
  unfold Obligations.KretReturns
  intro s
  have hret := returned_kreted s
  have hme : (s.modFront s.cur (Front.kreted s.clock)).me = s.me.kreted s.clock := by simp [State.me]
  refine ⟨fun hk hq => ⟨_, exec_kret (.inl hk) (by rwa [hk]), ?_⟩, fun hk hu hq => ⟨_, exec_kret (.inr hu) (by rwa [hk]), ?_⟩,
    fun hk hu hr => ?_, fun hk hq => ⟨_, exec_kret_full (.inl hk) (by rwa [hk]), waits_blocked s _⟩,
    fun hk hu hq => ⟨_, exec_kret_full (.inr hu) (by rwa [hk]), waits_blocked s _⟩⟩
  · rw [hk] at hret
    rw [hme]
    refine ⟨hret, ?_, ?_, ?_⟩ <;> simp [Front.kreted, hk]
  · rw [hk] at hret
    rw [hme]
    refine ⟨hret, ?_, ?_, ?_⟩ <;> simp [Front.kreted, hk]
    rfl
  · refine ends_trapAt s 2 0 0 ?_ hr (by decide) (by decide) (by decide) (by decide) (by decide) (by decide)
    show execKret s = _
    simp only [execKret, hk, hu, Bool.not_false, Bool.and_self, if_true]
    rfl

end Sys2Proof.Machine
end

section
/-! PROOFS. Pushes that pass their checks (O17, O18, O19). -/

namespace Sys2Proof.Machine

section
variable {s : State} {i : Instr} {w : Nat} {uses : List NameUse} {regs : List SReg} {width : Capture → Option (Nat × Nat)}

/-- An instruction with names alone, all of which fit and have one width, is pushed with their entries captured (R61, R67, R70, R155). -/
theorem pushes_names (hp : s.canPush) (hf : ∀ u ∈ uses, s.fits u.v) (hw : ∀ u ∈ uses, s.ew u.v = w)
    (hx : exec i s = push i { PushSpec.plain uses regs with width := width } s)
    (hk : width (s.me.capture (s.window s.cur) { PushSpec.plain uses regs with width := width }) = none) :
    Pushes i (uses.map (·.v)) regs s := by
  obtain ⟨hroom, hbinds⟩ := hp
  have hc := pushCheck_plain uses regs width w hbinds hf hw hk
  have hent : uses.map s.me.operandEntry = (uses.map (·.v)).map fun v => s.me.entry v.toNat := by
    rw [List.map_map]
    exact List.map_congr_left fun u _ => operandEntry_nil hbinds u
  refine ⟨_, hx.trans (push_ok i _ hroom hc), ?_⟩
  rw [← hent]
  exact pushed_setFront s i { PushSpec.plain uses regs with width := width }

/-- The same where the width may be any. -/
theorem pushes_plain (hp : s.canPush) (hf : ∀ u ∈ uses, s.fits u.v) (hw : ∀ u ∈ uses, s.ew u.v = w)
    (hx : exec i s = push i (.plain uses regs) s) : Pushes i (uses.map (·.v)) regs s :=
  pushes_names hp hf hw hx rfl

/-- The same for a floating format: the first name has 16, 32 or 64 bits (R177). -/
theorem pushes_float {u : NameUse} (hp : s.canPush) (hf : ∀ v ∈ u :: uses, s.fits v.v) (hw : ∀ v ∈ u :: uses, s.ew v.v = w)
    (hfmt : w ∈ [16, 32, 64]) (hx : exec i s = push i { PushSpec.plain (u :: uses) regs with width := fpWidth } s) :
    Pushes i ((u :: uses).map (·.v)) regs s := by
  refine pushes_names hp hf hw hx ?_
  have hfirst : dW (s.me.operandEntry u) = w := by
    rw [operandEntry_nil hp.2]
    exact hw u List.mem_cons_self
  simp only [fpWidth, Front.capture, PushSpec.plain, List.map_cons, List.headD_cons, hfirst]
  rw [if_pos]
  simpa using hfmt

end

/-- Settles O17: the names of each form fit and have one width, so no check of R61, R67 or R155 fails. -/
theorem plainVectorPushes : Obligations.PlainVectorPushes := by
  unfold Obligations.PlainVectorPushes
  refine ⟨fun s vd va vb sm b c n md ma mb cl sc hp => ⟨?three, ?two, ?compare, ?one, ?none⟩,
    fun s vd va vb sm bf md hp ha hw => ⟨?float3, ?float2, ?floatCompare⟩⟩
  case three =>
    intro hd ha hb hwa hwb
    have P {i : Instr} (h : exec i s = push i (.plain [asDst vd, asSrc va, asSrc vb] []) s) : Pushes i [vd, va, vb] [] s :=
      pushes_plain hp (w := s.ew vd) (by simp [asDst, asSrc, hd, ha, hb]) (by simp [asDst, asSrc, hwa, hwb]) h
    and_intros <;> exact P rfl
  case two =>
    intro hd ha hwa
    have P {i : Instr} {regs : List SReg} (h : exec i s = push i (.plain [asDst vd, asSrc va] regs) s) : Pushes i [vd, va] regs s :=
      pushes_plain hp (w := s.ew vd) (by simp [asDst, asSrc, hd, ha]) (by simp [asDst, asSrc, hwa]) h
    and_intros <;> exact P rfl
  case compare =>
    intro ha hb hwb
    have P {i : Instr} (h : exec i s = push i (.plain [asSrc va, asSrc vb] []) s) : Pushes i [va, vb] [] s :=
      pushes_plain hp (w := s.ew va) (by simp [asSrc, ha, hb]) (by simp [asSrc, hwb]) h
    and_intros <;> exact P rfl
  case one =>
    intro hd
    have P {i : Instr} {regs : List SReg} (u : NameUse) (hu : u.v = vd) (h : exec i s = push i (.plain [u] regs) s) : Pushes i [vd] regs s := by
      have := pushes_plain hp (w := s.ew vd) (by simp [hu, hd]) (by simp [hu]) h
      simpa [hu] using this
    exact ⟨P (asDst vd) rfl rfl, P (asDst vd) rfl rfl, P (asDst vd) rfl rfl, P (asDst vd) rfl rfl, P (asSrc vd) rfl rfl⟩
  case none =>
    have P {i : Instr} {regs : List SReg} (h : exec i s = push i (.plain [] regs) s) : Pushes i [] regs s :=
      pushes_plain hp (w := 0) (by simp) (by simp) h
    and_intros <;> exact P rfl
  case float3 =>
    intro hd hb hwd hwb
    have P {i : Instr} (u : NameUse) (hu : u.v = vd)
        (h : exec i s = push i { PushSpec.plain [u, asSrc va, asSrc vb] [] with width := fpWidth } s) : Pushes i [vd, va, vb] [] s := by
      have := pushes_float hp (w := s.ew va) (by simp [asSrc, hu, hd, ha, hb]) (by simp [asSrc, hu, hwd, hwb]) hw h
      simpa [asSrc, hu] using this
    exact ⟨P (asDst vd) rfl rfl, P (asDst vd) rfl rfl, P (asDst vd) rfl rfl, P (asDst vd) rfl rfl, P (asDst vd) rfl rfl,
      P (asDst vd) rfl rfl, P (asBoth vd) rfl rfl, P (asBoth vd) rfl rfl, P (asBoth vd) rfl rfl⟩
  case float2 =>
    intro hd hwd
    have P {i : Instr} (h : exec i s = push i { PushSpec.plain [asDst vd, asSrc va] [] with width := fpWidth } s) : Pushes i [vd, va] [] s :=
      pushes_float hp (w := s.ew va) (by simp [asDst, asSrc, hd, ha]) (by simp [asDst, asSrc, hwd]) hw h
    and_intros <;> exact P rfl
  case floatCompare =>
    intro hb hwb
    have P {i : Instr} (h : exec i s = push i { PushSpec.plain [asSrc va, asSrc vb] [] with width := fpWidth } s) : Pushes i [va, vb] [] s :=
      pushes_float hp (w := s.ew va) (by simp [asSrc, ha, hb]) (by simp [asSrc, hwb]) hw h
    and_intros <;> exact P rfl

/-- Settles O18: each of these instructions is the push of its entry's checks. -/
theorem checkedVectorPushes : Obligations.CheckedVectorPushes := by
  unfold Obligations.CheckedVectorPushes
  intros
  and_intros <;> exact pushesAs_of fun _ => rfl

/-- Settles O19: each of these instructions is the push of its entry's checks. -/
theorem memoryAndJobPushes : Obligations.MemoryAndJobPushes := by
  unfold Obligations.MemoryAndJobPushes
  intros
  and_intros <;> exact pushesAs_of fun _ => rfl

end Sys2Proof.Machine
end

section
/-! PROOFS. Pushes whose checks fail (O21). -/

namespace Sys2Proof.Machine

/-! ### The first failure -/

@[simp] theorem firstFail_nil : firstFail [] = none := rfl
@[simp] theorem firstFail_cons_none (l : List (Option TrapRec)) : firstFail (none :: l) = firstFail l := by simp [firstFail]
@[simp] theorem firstFail_cons_some (r : TrapRec) (l : List (Option TrapRec)) : firstFail (some r :: l) = some r := by simp [firstFail]

/-- A check put before the last of a list none of whose checks fails is the first that can fail. -/
theorem firstFail_insert {l : List (Option TrapRec)} {m : Option TrapRec} (h : firstFail (l ++ [none, m]) = none) (o : Option TrapRec) :
    firstFail (l ++ [o, m]) = o := by
  rw [firstFail_append] at h ⊢
  cases hl : firstFail l with
  | some r => simp [hl] at h
  | none =>
    cases m with
    | some r => simp [hl] at h
    | none => cases o <;> simp

section
variable {s : State} {i : Instr} {p : PushSpec} {r : TrapRec}

/-- A trap of the instruction at the front with nothing older queued, at any element; none of its causes is logged (R72, R73). -/
theorem trapTaken_frontTrap (hr : s.trapReady r.cause) (hc : r.cause < 8) (hs : r.sub < 256) (he : r.elem < 512) :
    TrapTaken s s.cur r.cause r.sub r.elem r.addr s.me.pc s.me.vsn (frontTrap s r) := by
  obtain ⟨hq, hm⟩ := hr
  have ht : frontTrap s r = takeTrap s s.cur r s.me.pc s.me.vsn := by
    simp only [frontTrap, hq, List.isEmpty_nil, if_true]
    rw [logTrap_other s s.cur r _ (by omega) (by omega) (by omega) (by omega)]
  rw [ht]
  exact trapTaken_takeTrap hm (by omega) hs he

/-- A push whose first failing check is `r` takes its trap (R69, R422). -/
theorem ends_push_trap (hx : exec i s = push i p s) (hc : s.me.pushCheck (s.me.capture (s.window s.cur) p) p = some r)
    (hr : s.trapReady r.cause) (h8 : r.cause < 8) (hs : r.sub < 256) (he : r.elem < 512) :
    Ends i s (TrapTaken s s.cur r.cause r.sub r.elem r.addr s.me.pc s.me.vsn) := by
  have hroom : s.me.queue.length < 64 := by rw [hr.1]; decide
  exact ⟨_, hx.trans (push_trap i p hroom hc), trapTaken_frontTrap hr h8 hs he⟩

/-- The own check of an entry is the first failure where no other check fails. -/
theorem pushCheck_own {x : Front} {c : Capture} (h : x.pushCheck c { p with own := fun _ => none } = none) :
    x.pushCheck c p = p.own c := by
  exact firstFail_insert h (p.own c)

end

/-! ### The checks of a three-name instruction (R61, R67, R155) -/

/-- The trap of an entry that the window does not take. -/
def edgeFail (e : Word) (width vs : Nat) : Option TrapRec := (edgeCheck e width).map fun sub => ⟨3, sub, vs, 0, 0⟩
/-- The trap of an entry that holds fewer than `vl` elements. -/
def capFail (e : Word) (vl : Nat) : Option TrapRec := if dCap e < vl then some ⟨4, 1, dCap e, 0, 0⟩ else none
/-- The trap of an entry whose VLMAX is below `vl`. -/
def vlmaxFail (e : Word) (width vl : Nat) : Option TrapRec := if vlmax width (dW e) < vl then some ⟨4, 2, vlmax width (dW e), 0, 0⟩ else none

/-- The trap of widths that differ from the first. -/
def widthFail (first : Nat) (l : List Nat) (vs : Nat) : Option TrapRec := if l.any (· != first) then some ⟨5, 3, vs, 0, 0⟩ else none

/-- The checks of an instruction with a destination and two sources, in the order of R422; it has no slot, width, or check of its own. -/
theorem pushCheck_binSpec {s : State} (hb : s.me.binds = []) (vd va vb : VName) :
    s.me.pushCheck (s.me.capture (s.window s.cur) (binSpec vd va vb)) (binSpec vd va vb) =
      (let e (v : VName) : Word := s.me.entry v.toNat
       let w := (s.window s.cur).2
       let vs := s.me.vstart.field 8 0
       let vl := s.me.vl.field 8 0
       firstFail [edgeFail (e vd) w vs, edgeFail (e va) w vs, edgeFail (e vb) w vs,
         none, widthFail (dEw (e vd)) [dEw (e va), dEw (e vb)] vs, none,
         capFail (e vd) vl, capFail (e va) vl, capFail (e vb) vl, vlmaxFail (e vd) w vl, vlmaxFail (e va) w vl, vlmaxFail (e vb) w vl,
         none, none]) := by
  have hany (us : List NameUse) : us.any s.me.misused = false := by simp [misused_nil hb]
  have hent (u : NameUse) : s.me.operandEntry u = s.me.entry u.v.toNat := operandEntry_nil hb u
  simp [Front.pushCheck, binSpec, PushSpec.plain, Front.capture, hent, hany, asDst, asSrc, edgeFail, capFail, vlmaxFail, widthFail, List.zipIdx]
  rfl

theorem field_8_0_lt (w : Word) : w.field 8 0 < 512 := Nat.mod_lt _ (by decide)

section
variable {e : Word} {width vl vs : Nat}

theorem edgeFail_fits (h : EntryFits e width vl) : edgeFail e width vs = none := by rw [edgeFail, edgeCheck_fits h]; rfl

theorem edgeFail_invalid (h : dValid e = false) : edgeFail e width vs = some ⟨3, 1, vs, 0, 0⟩ := by simp [edgeFail, edgeCheck, h]

theorem edgeFail_width (hv : dValid e = true) (h : dEw e = 7) : edgeFail e width vs = some ⟨3, 2, vs, 0, 0⟩ := by
  simp [edgeFail, edgeCheck, edgeBody, hv, h]

theorem capFail_some (h : dCap e < vl) : capFail e vl = some ⟨4, 1, dCap e, 0, 0⟩ := if_pos h
theorem capFail_none (h : vl ≤ dCap e) : capFail e vl = none := if_neg (Nat.not_lt.mpr h)
theorem vlmaxFail_some (h : vlmax width (dW e) < vl) : vlmaxFail e width vl = some ⟨4, 2, vlmax width (dW e), 0, 0⟩ := if_pos h

end

/-- Widths agree where their powers of two do. -/
theorem dEw_eq_of_dW_eq {a b : Word} (h : dW a = dW b) : dEw a = dEw b := Nat.pow_right_injective (le_refl 2) h

theorem widthFail_same {f : Nat} {l : List Nat} {vs : Nat} (h : ∀ w ∈ l, w = f) : widthFail f l vs = none := by
  rw [widthFail, if_neg]
  simpa using h

theorem widthFail_differs {f w : Nat} {l : List Nat} {vs : Nat} (hw : w ∈ l) (h : w ≠ f) : widthFail f l vs = some ⟨5, 3, vs, 0, 0⟩ := by
  rw [widthFail, if_pos]
  exact List.any_eq_true.mpr ⟨w, hw, by simpa using h⟩

/-! ### The checks of a job (R290, R294) -/

section
variable {s : State} {a b c : SReg} {vx : VName}

/-- A job whose name, if it has one, fits is checked by its own check alone. -/
theorem pushCheck_jobSpec (hb : s.me.binds = []) :
    s.me.pushCheck (s.me.capture (s.window s.cur) (jobSpec a b c)) (jobSpec a b c) =
      (jobSpec a b c).own (s.me.capture (s.window s.cur) (jobSpec a b c)) :=
  pushCheck_own (pushCheck_plain [] [a, b, c] (fun _ => none) 0 hb (by simp) (by simp) rfl)

theorem pushCheck_gathSpec (hb : s.me.binds = []) (hf : s.fits vx) (hw : s.ew vx ∈ [16, 32, 64]) :
    s.me.pushCheck (s.me.capture (s.window s.cur) (gathSpec a b c vx)) (gathSpec a b c vx) =
      (jobSpec a b c).own (s.me.capture (s.window s.cur) (jobSpec a b c)) := by
  refine pushCheck_own (pushCheck_plain [(asSrc vx).anyEw] [a, b, c] (gathSpec a b c vx).width (s.ew vx) hb ?_ ?_ ?_)
  · simpa [asSrc, NameUse.anyEw] using hf
  · simp [asSrc, NameUse.anyEw]
  · have hent : s.me.operandEntry (asSrc vx).anyEw = s.me.entry vx.toNat := operandEntry_nil hb _
    have hc : [16, 32, 64].contains (dW (s.me.entry vx.toNat)) = true := by simpa [State.ew] using hw
    simp only [gathSpec, Front.capture, PushSpec.plain, List.map_cons, List.getD_cons_zero, hent, hc, if_true]

/-- The pair is checked before the card (R290, R294; log 20). -/
theorem jobSpec_own_pair (h : (s.reg b).toNat % 16 ≠ 0) :
    (jobSpec a b c).own (s.me.capture (s.window s.cur) (jobSpec a b c)) = some ⟨7, 4, s.me.vstart.field 8 0, (s.reg b).toNat, 0⟩ := by
  have h' : (s.me.reg b).toNat % 16 ≠ 0 := h
  simp [jobSpec, PushSpec.plain, Front.capture, pushTrap, h', ALIGN, State.reg]

theorem jobSpec_own_card (hp : (s.reg b).toNat % 16 = 0) (h : (s.reg a).toNat % 64 ≠ 0) :
    (jobSpec a b c).own (s.me.capture (s.window s.cur) (jobSpec a b c)) = some ⟨7, 4, s.me.vstart.field 8 0, (s.reg a).toNat, 0⟩ := by
  have h' : (s.me.reg a).toNat % 64 ≠ 0 := h
  have hp' : (s.me.reg b).toNat % 16 = 0 := hp
  simp [jobSpec, PushSpec.plain, Front.capture, pushTrap, h', hp', ALIGN, State.reg]

/-- A job instruction that its own check alone can stop, and whose pair or card is misaligned, takes ALIGN. -/
theorem ends_job_misaligned {i : Instr} {p : PushSpec} (hq : s.me.queue = []) (hk : s.me.kernel = false) (hx : exec i s = push i p s)
    (hc : s.me.pushCheck (s.me.capture (s.window s.cur) p) p = (jobSpec a b c).own (s.me.capture (s.window s.cur) (jobSpec a b c))) :
    ((s.reg b).toNat % 16 ≠ 0 →
      Ends i s (TrapTaken s s.cur 7 4 (s.me.vstart.field 8 0) (s.reg b).toNat s.me.pc s.me.vsn)) ∧
    ((s.reg b).toNat % 16 = 0 → (s.reg a).toNat % 64 ≠ 0 →
      Ends i s (TrapTaken s s.cur 7 4 (s.me.vstart.field 8 0) (s.reg a).toNat s.me.pc s.me.vsn)) := by
  have trap {addr : Nat} (h : (jobSpec a b c).own (s.me.capture (s.window s.cur) (jobSpec a b c)) =
      some ⟨7, 4, s.me.vstart.field 8 0, addr, 0⟩) : Ends i s (TrapTaken s s.cur 7 4 (s.me.vstart.field 8 0) addr s.me.pc s.me.vsn) :=
    ends_push_trap (r := ⟨7, 4, s.me.vstart.field 8 0, addr, 0⟩) hx (hc.trans h) ⟨hq, .inl hk⟩ (by simp) (by simp) (field_8_0_lt _)
  exact ⟨fun h => trap (jobSpec_own_pair h), fun h h' => trap (jobSpec_own_card h h')⟩

end

/-- Settles O21: with a full queue the push waits; the first failing check in the order of R422 is the trap that is taken. -/
theorem pushChecks : Obligations.PushChecks := by
  unfold Obligations.PushChecks
  refine ⟨fun s i p r hx => ⟨fun hq => ⟨_, hx.trans (push_full i p hq), waits_blocked s _⟩,
    fun hc hr h8 hs he => ends_push_trap hx hc hr h8 hs he⟩, ?names, ?jobs⟩
  case names =>
    intro s vd va vb sm hp hq hk e vs T
    have hvs : vs < 512 := field_8_0_lt _
    have hvl : s.me.vl.field 8 0 < 512 := field_8_0_lt _
    have hcheck := pushCheck_binSpec hp.2 vd va vb
    dsimp only at hcheck
    have trap {cause sub elem : Nat}
        (h : s.me.pushCheck (s.me.capture (s.window s.cur) (binSpec vd va vb)) (binSpec vd va vb) = some ⟨cause, sub, elem, 0, 0⟩)
        (hc : cause < 8 := by decide) (hs : sub < 256 := by decide) (he : elem < 512) : T cause sub elem :=
      ends_push_trap (r := ⟨cause, sub, elem, 0, 0⟩) rfl h ⟨hq, .inl hk⟩ hc hs he
    refine ⟨fun hd => trap (he := hvs) ?_, fun hd ha => trap (he := hvs) ?_, fun hd hva ha => trap (he := hvs) ?_,
      fun hd ha hb hw => trap (he := hvs) ?_, ?capacities⟩
    · rw [hcheck, edgeFail_invalid hd, firstFail_cons_some]
    · rw [hcheck, edgeFail_fits hd, edgeFail_invalid ha, firstFail_cons_none, firstFail_cons_some]
    · rw [hcheck, edgeFail_fits hd, edgeFail_width hva ha, firstFail_cons_none, firstFail_cons_some]
    · have hne : dEw (s.me.entry va.toNat) ≠ dEw (s.me.entry vd.toNat) := fun h => hw (congrArg (2 ^ ·) h)
      rw [hcheck, edgeFail_fits hd, edgeFail_fits ha, edgeFail_fits hb, widthFail_differs List.mem_cons_self hne]
      simp [vs]
    case capacities =>
      intro vl w hd ha hb hwa hwb
      have hsame : widthFail (dEw (s.me.entry vd.toNat)) [dEw (s.me.entry va.toNat), dEw (s.me.entry vb.toNat)] vs = none :=
        widthFail_same (by simp [dEw_eq_of_dW_eq hwa, dEw_eq_of_dW_eq hwb])
      rw [edgeFail_fits hd, edgeFail_fits ha, edgeFail_fits hb, hsame] at hcheck
      simp only [firstFail_cons_none] at hcheck
      refine ⟨fun cd => trap ?_ (he := by omega), fun cd ca => trap ?_ (he := by omega), fun cd ca cb => trap ?_ (he := by omega),
        fun cd ca cb cm => trap ?_ (he := by omega)⟩
      · rw [hcheck, capFail_some cd, firstFail_cons_some]
      · rw [hcheck, capFail_none cd, capFail_some ca, firstFail_cons_none, firstFail_cons_some]
      · rw [hcheck, capFail_none cd, capFail_none ca, capFail_some cb]
        simp
      · rw [hcheck, capFail_none cd, capFail_none ca, capFail_none cb, vlmaxFail_some cm]
        simp [State.ew]
  case jobs =>
    intro s a b c vx o hp hq hk
    dsimp only
    have J {i : Instr} (hx : exec i s = push i (jobSpec a b c) s) := ends_job_misaligned hq hk hx (pushCheck_jobSpec hp.2)
    refine ⟨?_, fun hf hw => ends_job_misaligned hq hk rfl (pushCheck_gathSpec hp.2 hf hw)⟩
    simp only [List.forall_mem_cons]
    exact ⟨J rfl, J rfl, J rfl, J rfl, J rfl, J rfl, J rfl, J rfl, J rfl, by simp⟩

end Sys2Proof.Machine
end

section
/-! PROOFS. Events of a queue (O32): retirement, the trap at the commit point, the STEP stop and the watchdog. -/

namespace Sys2Proof.Machine

section
variable {s : State} {f : Nat}

/-- A front that runs stands in a package that has not tripped. -/
theorem tripped_of_runs (h : s.runs f = true) : s.pkg.tripped = false := by
  simp only [State.runs, Bool.and_eq_true, Bool.not_eq_true'] at h
  exact h.2

/-- An event of a front that runs ends in the state that its step makes. -/
theorem ends_event {i : Instr} {g : State → State} {P : State → Prop} (hr : s.runs f = true) (hx : exec i s = event g s) (h : P (g s)) :
    Ends i s P :=
  ⟨g s, by simp [hx, event, tripped_of_runs hr], h⟩

theorem ends_instructionComplete {P : State → Prop} (hr : s.runs f = true) (h : P (completeStep s f)) : Ends (.instructionComplete f) s P :=
  ends_event (g := fun s => completeStep s f) hr rfl h
theorem ends_trapEntry {P : State → Prop} (hr : s.runs f = true) (h : P (trapStep s f)) : Ends (.trapEntry f) s P :=
  ends_event (g := fun s => trapStep s f) hr rfl h
theorem ends_singleStepStop {P : State → Prop} (hr : s.runs f = true) (h : P (stepStop s f)) : Ends (.singleStepStop f) s P :=
  ends_event (g := fun s => stepStop s f) hr rfl h
theorem ends_watchdog {P : State → Prop} (hr : s.runs f = true) (h : P (watchdogStep s f)) : Ends (.watchdog f) s P :=
  ends_event (g := fun s => watchdogStep s f) hr rfl h

/-! ### Retirement (R69) -/

theorem popDone_snd (vcp : BitVec 32) (q : List QEntry) : (popDone vcp q).2 = q.dropWhile fun e => e.done := by
  induction q generalizing vcp with
  | nil => rfl
  | cons e r ih =>
    cases hd : e.done
    · simp [popDone, List.dropWhile, hd]
    · simpa [popDone, List.dropWhile, hd] using ih (e.vsn + 1)

/-- VCP names the oldest instruction that stays. -/
theorem popDone_fst_cons {vcp : BitVec 32} {q r : List QEntry} {y : QEntry} (h : (popDone vcp q).2 = y :: r) : (popDone vcp q).1 = y.vsn := by
  induction q generalizing vcp with
  | nil => simp [popDone] at h
  | cons e l ih =>
    cases hd : e.done
    · simp only [popDone, hd, Bool.false_eq_true, if_false, List.cons.injEq] at h ⊢
      rw [h.1]
    · simp only [popDone, hd, if_true] at h ⊢
      exact ih h

/-- Where none stays, VCP is one past the last. -/
theorem popDone_fst_nil {vcp : BitVec 32} {q : List QEntry} {y : QEntry} (h : (popDone vcp q).2 = []) (hy : q.getLast? = some y) :
    (popDone vcp q).1 = y.vsn + 1 := by
  induction q generalizing vcp with
  | nil => simp at hy
  | cons e l ih =>
    cases hd : e.done
    · simp [popDone, hd] at h
    · simp only [popDone, hd, if_true] at h ⊢
      cases l with
      | nil => simp only [List.getLast?_singleton, Option.some.injEq] at hy; rw [popDone, hy]
      | cons a t => exact ih h (by rw [← hy, List.getLast?_cons_cons])

/-- The front after its done instructions have left the queue. -/
def Front.retired (x : Front) : Front := { x with queue := (popDone x.vcp x.queue).2, vcp := (popDone x.vcp x.queue).1, idle := 0 }

theorem completeStep_eq {e : QEntry} {r : List QEntry} (hr : s.runs f = true) (hq : (s.front f).queue = e :: r) (hd : e.done = true) :
    completeStep s f = s.setFront f (s.front f).retired := by
  simp only [completeStep, hq, hr, hd, Bool.and_self, if_true, Front.retired]

/-! ### The trap at the commit point (R72, R73) -/

theorem suspend_map {α : Type} (g : QEntry → α) (hg : ∀ (e : QEntry) t, g { e with issued := false, trap := t } = g e) (q : List QEntry) :
    (suspend q).map g = q.map g := by
  cases q with
  | nil => rfl
  | cons e r =>
    simp only [suspend, List.map_cons, List.map_map]
    rw [show g { e with issued := false } = g e from hg e e.trap]
    congr 1
    exact List.map_congr_left fun y _ => hg y none

/-- The suspend sets after a trap (R359). -/
theorem trapped_sets (x : Front) (t : TrapRec) (pc : Word) (vsn : BitVec 32) :
    (x.delegates t.cause = false → (x.trapped t pc vsn).kernelSet = x.kernelSet ++ suspend x.queue) ∧
    (x.delegates t.cause = true → (x.trapped t pc vsn).userSet = x.userSet ++ suspend x.queue) := by
  rw [delegates_eq]
  constructor <;> intro h <;> simp [Front.trapped, h]

/-- What a trap at the commit point leaves: the queue is suspended in order, each instruction at its progress. -/
theorem takeTrap_commit {t : TrapRec} {pc : Word} {vsn : BitVec 32} (hk : (s.front f).kernel = false) (hc : t.cause < 256) (hs : t.sub < 256)
    (he : t.elem < 512) :
    TrapTaken s f t.cause t.sub t.elem t.addr pc vsn (takeTrap s f t pc vsn) ∧
    ((s.front f).delegates t.cause = false →
      ((takeTrap s f t pc vsn).front f).kernelSet.map (·.instr) = ((s.front f).kernelSet ++ (s.front f).queue).map (·.instr) ∧
      ((takeTrap s f t pc vsn).front f).kernelSet.map (·.progress) = ((s.front f).kernelSet ++ (s.front f).queue).map (·.progress)) ∧
    ((s.front f).delegates t.cause = true →
      ((takeTrap s f t pc vsn).front f).userSet.map (·.instr) = ((s.front f).userSet ++ (s.front f).queue).map (·.instr) ∧
      ((takeTrap s f t pc vsn).front f).userSet.map (·.progress) = ((s.front f).userSet ++ (s.front f).queue).map (·.progress)) := by
  obtain ⟨hkern, huser⟩ := trapped_sets (s.front f) t pc vsn
  have hinstr := suspend_map (·.instr) (fun _ _ => rfl) (s.front f).queue
  have hprog := suspend_map (·.progress) (fun _ _ => rfl) (s.front f).queue
  refine ⟨trapTaken_takeTrap (.inl hk) hc hs he, fun h => ?_, fun h => ?_⟩
  · rw [takeTrap_eq (.inl hk), front_setFront_self, hkern h]
    simp only [List.map_append, hinstr, hprog, and_self]
  · rw [takeTrap_eq (.inl hk), front_setFront_self, huser h]
    simp only [List.map_append, hinstr, hprog, and_self]

theorem trapStep_eq {e : QEntry} {r : List QEntry} {t : TrapRec} (hr : s.runs f = true) (hq : (s.front f).queue = e :: r) (ht : e.trap = some t) :
    trapStep s f = if (s.inAtomic (.front f) || s.beatsOpen f r) = true then s else takeTrap s f t (s.front f).pc e.vsn := by
  simp only [trapStep, hq, ht, hr, Bool.true_and]
  cases s.inAtomic (.front f) <;> cases s.beatsOpen f r <;> rfl

/-! ### The watchdog (R379) -/

theorem watchdogDue_iff (hr : s.runs f = true) : watchdogDue s f = true ↔
    (s.die (f / 128)).wdlim.toNat % 2 ^ 32 ≠ 0 ∧ (s.die (f / 128)).wdlim.toNat % 2 ^ 32 ≤ (s.front f).idle := by
  have hf : (s.die (dieOf f)).wdlim.field 31 0 = (s.die (f / 128)).wdlim.toNat % 2 ^ 32 := by
    rw [dieOf, Word.field, bits, Nat.pow_zero, Nat.div_one]
  simp [watchdogDue, hr, hf]

/-- A trap that an instruction at the commit point has met comes first. -/
theorem watchdogStep_commit {e : QEntry} {r : List QEntry} (hdue : watchdogDue s f = true) (hq : (s.front f).queue = e :: r)
    (ht : e.trap.isSome = true) (hd : e.done = false) : watchdogStep s f = trapStep s f := by
  simp [watchdogStep, hdue, hq, ht, hd]

section
variable (hdue : watchdogDue s f = true) (hn : (((s.front f).queue.find? fun e => !e.done).any fun e => e.trap.isSome) = false)
include hdue hn

theorem watchdogStep_open (ho : (s.inAtomic (.front f) || s.beatsOpen f (s.front f).queue) = true) : watchdogStep s f = s := by
  simp only [watchdogStep, hdue, hn, ho, Bool.not_true, Bool.false_eq_true, if_false, if_true]

theorem watchdogStep_raises (ho : (s.inAtomic (.front f) || s.beatsOpen f (s.front f).queue) = false) : watchdogStep s f =
    (takeTrap s f ⟨WATCHDOG, 0, 0, 0, 0⟩ (s.front f).pc (s.front f).vsn).modFront f fun y => { y with idle := 0 } := by
  simp only [watchdogStep, hdue, hn, ho, Bool.not_true, Bool.false_eq_true, if_false]

end

/-- What a trap leaves is as said of it whatever the clocks without progress are. -/
theorem TrapTaken.idle {cause sub elem addr n : Nat} {pc : Word} {vsn : BitVec 32} {t u : State} (h : TrapTaken s f cause sub elem addr pc vsn t)
    (hf : u.front f = { t.front f with idle := n }) (hu : OnlyFront f s u) : TrapTaken s f cause sub elem addr pc vsn u := by
  cases h
  constructor
  case rest => exact hu
  case mem => exact hu.sameBytes
  all_goals
    rw [hf]
    assumption

end

/-- Settles O32: each event is the step of the queue that the statement describes, and its conditions are those of the statement. -/
theorem queueEvents : Obligations.QueueEvents := by
  unfold Obligations.QueueEvents
  refine ⟨fun s f e r hr hq hd => ?retire, fun s f hr => ?traps⟩
  case retire =>
    apply ends_instructionComplete hr
    rw [completeStep_eq hr hq hd, front_setFront_self, ← hq]
    refine ⟨onlyFront_setFront _ _ _, (onlyFront_setFront s f _).sameBytes, popDone_snd _ _, fun y q h => popDone_fst_cons h,
      fun h y hy => popDone_fst_nil h hy, rfl⟩
  case traps =>
    intro x busy Taken lim
    refine ⟨fun e r p hq hp hk hc hs he => ?commit, fun hstep hall => ends_singleStepStop hr ?step, fun h => ends_watchdog hr ?notDue,
      fun h0 hle hn => ⟨fun ho => ends_watchdog hr ?openBeats, fun ho => ⟨fun hk => ends_watchdog hr ?user, fun hk => ends_watchdog hr ?kernel⟩⟩⟩
    case commit =>
      intro open_
      have hbusy : (s.inAtomic (.front f) || s.beatsOpen f r) = open_ := rfl
      have hstep : trapStep s f = if open_ = true then s else takeTrap s f p (s.front f).pc e.vsn := trapStep_eq hr hq hp
      have hdog (hd : e.done = false) (h0 : lim ≠ 0) (hle : lim ≤ x.idle) : watchdogStep s f = trapStep s f :=
        watchdogStep_commit ((watchdogDue_iff hr).mpr ⟨h0, hle⟩) hq (by simp [hp]) hd
      have htaken : Taken e r p (takeTrap s f p (s.front f).pc e.vsn) := by
        have := takeTrap_commit (pc := (s.front f).pc) (vsn := e.vsn) hk hc hs he
        rwa [show (s.front f).queue = e :: r from hq] at this
      constructor
      · intro ho
        rw [ho, if_neg Bool.false_ne_true] at hstep
        exact ⟨ends_trapEntry hr (by rw [hstep]; exact htaken),
          fun hd h0 hle => ends_watchdog hr (by rw [hdog hd h0 hle, hstep]; exact htaken)⟩
      · intro ho
        rw [ho, if_pos rfl] at hstep
        exact ⟨ends_trapEntry hr hstep, fun hd h0 hle => ends_watchdog hr (by rw [hdog hd h0 hle, hstep])⟩
    case step =>
      have hdue : stepStopDue s f = true := by simp only [stepStopDue, hr, Bool.true_and, Bool.and_eq_true]; exact ⟨hstep, hall⟩
      rw [stepStop, if_pos hdue]
      exact trapTaken_takeTrap (r := ⟨STEP, 0, 0, 0, 0⟩) (.inr (.inr rfl)) (by decide) (by decide) (by decide)
    case notDue =>
      have hdue : watchdogDue s f = false := by
        rw [← Bool.not_eq_true, watchdogDue_iff hr]
        rintro ⟨h0, hle⟩
        rcases h with h | h
        · exact h0 h
        · exact absurd hle (Nat.not_le.mpr h)
      simp only [watchdogStep, hdue, Bool.not_false, if_true]
    case openBeats =>
      exact watchdogStep_open ((watchdogDue_iff hr).mpr ⟨h0, hle⟩) hn ho
    case user =>
      rw [watchdogStep_raises ((watchdogDue_iff hr).mpr ⟨h0, hle⟩) hn ho]
      have htaken : TrapTaken s f 19 0 0 0 x.pc x.vsn (takeTrap s f ⟨WATCHDOG, 0, 0, 0, 0⟩ (s.front f).pc (s.front f).vsn) :=
        trapTaken_takeTrap (r := ⟨WATCHDOG, 0, 0, 0, 0⟩) (.inl hk) (by decide) (by decide) (by decide)
      exact htaken.idle (front_modFront_self _ _ _) (htaken.rest.trans (onlyFront_modFront _ _ _))
    case kernel =>
      rw [watchdogStep_raises ((watchdogDue_iff hr).mpr ⟨h0, hle⟩) hn ho, takeTrap_doubleFault hk (by decide) (by decide)]
      have hfront := front_doubleFault s f 19
      refine ⟨?_, ?_, ?_, runs_of_doubleFault (cause := WATCHDOG) ?_⟩
      all_goals simp only [front_modFront_self, hfront, WATCHDOG, x]

end Sys2Proof.Machine
end

section
/-! PROOFS. A queued instruction that issues or goes on (O33). -/

namespace Sys2Proof.Machine

/-! ### Operations that only read -/

/-- Where the operation completes, it has changed nothing. -/
def ReadsOnly {α : Type} (m : M α) : Prop := ∀ s a t, m s = .ok (a, t) → t = s

section
variable {α β : Type}

theorem readsOnly_pure (a : α) : ReadsOnly (pure a : M α) := by
  rintro s b t h
  cases h
  rfl

theorem readsOnly_get : ReadsOnly (get : M State) := by
  rintro s b t h
  cases h
  rfl

theorem readsOnly_throw (x : Stop) : ReadsOnly (throw x : M α) := by
  rintro s b t h
  cases h

/-- A sequence that completes has completed its first part. -/
theorem bind_ok_inv {m : M α} {g : α → M β} {s t : State} {b : β} (h : (m >>= g) s = .ok (b, t)) :
    ∃ a u, m s = .ok (a, u) ∧ g a u = .ok (b, t) := by
  cases hm : m s with
  | error x => simp [bind, StateT.bind, Except.bind, hm] at h
  | ok p =>
    obtain ⟨a, u⟩ := p
    exact ⟨a, u, rfl, by simpa [bind, StateT.bind, Except.bind, hm] using h⟩

theorem readsOnly_bind {m : M α} {g : α → M β} (hm : ReadsOnly m) (hg : ∀ a, ReadsOnly (g a)) : ReadsOnly (m >>= g) := by
  intro s b t h
  obtain ⟨a, u, h1, h2⟩ := bind_ok_inv h
  rw [hg a u b t h2, hm s a u h1]

theorem readsOnly_ite {p : Prop} [Decidable p] {m k : M α} (hm : ReadsOnly m) (hk : ReadsOnly k) : ReadsOnly (if p then m else k) := by
  split
  · exact hm
  · exact hk

theorem readsOnly_atElem (i : Nat) {m : M α} (hm : ReadsOnly m) : ReadsOnly (atElem i m) := by
  intro s a t h
  cases hs : m s with
  | ok p =>
    simp only [atElem, hs, Except.ok.injEq] at h
    exact hm s a t (hs.trans (congrArg _ h))
  | error x => cases x <;> simp [atElem, hs] at h

theorem readsOnly_readRun (n i : Nat) {g : Nat → M α} (hg : ∀ i, ReadsOnly (g i)) : ReadsOnly (readRun n i g) := by
  induction n generalizing i with
  | zero => exact readsOnly_pure _
  | succ k ih => exact readsOnly_bind (hg i) fun _ => readsOnly_bind (ih (i + 1)) fun _ => readsOnly_pure _

end

/-! ### The record of a first issue (R252) -/

theorem readsOnly_getElem' {f first : Nat} {e : Word} {i : Nat} : ReadsOnly (getElem' f first e i) := by
  unfold getElem'
  refine readsOnly_bind readsOnly_get fun s => ?_
  dsimp only
  split
  · exact readsOnly_throw _
  · exact readsOnly_pure _

theorem readsOnly_getTags {f first : Nat} {e : Word} {i : Nat} : ReadsOnly (getTags f first e i) := by
  unfold getTags
  refine readsOnly_bind readsOnly_get fun s => ?_
  dsimp only
  split
  · exact readsOnly_throw _
  · exact readsOnly_pure _

theorem readsOnly_checkTags {f first : Nat} {e : Word} {i : Nat} {ok : Nat → Bool} : ReadsOnly (checkTags f first e i ok) :=
  readsOnly_bind readsOnly_getTags fun _ => readsOnly_ite (readsOnly_pure _) (readsOnly_throw _)

theorem readsOnly_readLayout (e : QEntry) (f k : Nat) : ReadsOnly (readLayout e f k) :=
  readsOnly_atElem _ (readsOnly_bind
    (readsOnly_readRun _ _ fun _ => readsOnly_bind readsOnly_checkTags fun _ => readsOnly_bind readsOnly_getElem' fun _ => readsOnly_pure _)
    fun _ => readsOnly_ite (readsOnly_bind (readsOnly_throw _) fun _ => readsOnly_pure _) (readsOnly_pure _))

theorem readsOnly_misfit {e : QEntry} {bad : Bool} {sub : Nat} : ReadsOnly (misfit e bad sub) :=
  readsOnly_ite (readsOnly_throw _) (readsOnly_pure _)

theorem readsOnly_tileRecord (e : QEntry) (f : Nat) : ReadsOnly (tileRecord e f) :=
  readsOnly_bind (readsOnly_readLayout e f 1) fun _ => readsOnly_bind readsOnly_misfit fun _ => readsOnly_bind readsOnly_misfit fun _ =>
    readsOnly_bind readsOnly_misfit fun _ => readsOnly_pure _

theorem readsOnly_pairRecord (e : QEntry) (f : Nat) : ReadsOnly (pairRecord e f) :=
  readsOnly_bind (readsOnly_readLayout e f 1) fun _ => readsOnly_bind readsOnly_misfit fun _ => readsOnly_bind readsOnly_misfit fun _ =>
    readsOnly_pure _

theorem readsOnly_windowRecord (e : QEntry) (f : Nat) : ReadsOnly (windowRecord e f) :=
  readsOnly_bind (readsOnly_readLayout e f 1) fun _ => readsOnly_bind readsOnly_misfit fun _ => readsOnly_bind readsOnly_misfit fun _ =>
    readsOnly_pure _

/-- The record of a first issue is read, and nothing is changed. -/
theorem readsOnly_recordOf {e : QEntry} {f : Nat} {m : M (List Word)} (h : recordOf e f = some m) : ReadsOnly m := by
  unfold recordOf at h
  split at h
  · cases h
  · split at h <;> cases h
    · exact readsOnly_tileRecord e f
    · exact readsOnly_tileRecord e f
    · exact readsOnly_pairRecord e f
    · exact readsOnly_windowRecord e f

/-! ### What an issue keeps -/

@[simp] theorem front_askWalk (s : State) (f asid va : Nat) (user rd wr : Bool) (g : Nat) : (askWalk s f asid va user rd wr).front g = s.front g := by
  unfold askWalk
  dsimp only
  split <;> rfl

@[simp] theorem front_runAhead (s : State) (f stop : Nat) (e : QEntry) (g : Nat) : (runAhead s f stop e).front g = s.front g := by
  unfold runAhead
  dsimp only
  exact List.foldlRecOn (motive := fun t : State => t.front g = s.front g) _ _ rfl fun t ht a _ => (front_askWalk ..).trans ht

/-- An entry that has issued is the one of the queue but for its record, and the bindings of the front are as before. -/
theorem issueEntry_ok {s t : State} {f : Nat} {y z : QEntry} (h : issueEntry s f y = (t, z, none)) :
    (t.front f).binds = (s.front f).binds ∧ ∃ ws, z = { y with issued := true, record := ws } := by
  unfold issueEntry at h
  dsimp only at h
  split at h
  · simp only [Prod.mk.injEq, and_true] at h
    obtain ⟨rfl, rfl⟩ := h
    refine ⟨?_, y.record, rfl⟩
    split <;> simp [Front.modEntry]
  · rename_i m hm
    split at h
    · rename_i ws u hu
      simp only [Prod.mk.injEq, and_true] at h
      obtain ⟨rfl, rfl⟩ := h
      obtain rfl := readsOnly_recordOf hm _ _ _ hu
      refine ⟨?_, ws, rfl⟩
      split <;> simp [Front.modEntry]
    · simp at h
    · simp at h

/-- No popped row of the entry is unfilled, or none has failed. -/
theorem failedRow_none {x x' : Front} {y z : QEntry} (h : x.rowHolds y = []) (hb : x'.binds = x.binds) (hd : z.done = y.done) (hc : z.cap = y.cap) :
    x'.failedRow z = none := by
  have hu : x.unfilled y = [] := by simpa [Front.rowHolds, Front.openRows] using h
  have hu' : x'.unfilled z = [] := by rw [← hu]; simp only [Front.unfilled, hb, hd, hc]
  simp [Front.failedRow, Front.openRows, hu']

/-! ### The error records of a trap -/

section
variable (s : State) (f : Nat) (g : Front → Front)

theorem ringAppend_modFront (r : RecRing) (rec : List Byte) :
    ringAppend (s.modFront f g) r rec = ((ringAppend s r rec).1.modFront f g, (ringAppend s r rec).2) := by
  have hs (a : Nat) : (s.modFront f g).serves a = s.serves a := rfl
  unfold ringAppend
  dsimp only
  split
  · rfl
  · rw [hs]
    split <;> rfl

theorem errRecord_modFront (d va phys asid kind core front seq : Nat) :
    errRecord (s.modFront f g) d va phys asid kind core front seq = (errRecord s d va phys asid kind core front seq).modFront f g := by
  simp only [errRecord, errAppend, die_modFront, ringAppend_modFront]
  unfold ringAppend
  dsimp only
  split
  · rfl
  · split <;> rfl

theorem tableReads_modFront (va lvl table fuel : Nat) : tableReads (s.modFront f g) va lvl table fuel = tableReads s va lvl table fuel := by
  induction fuel generalizing lvl table with
  | zero => rfl
  | succ n ih => simp only [tableReads, ih]; rfl

theorem walkReads_modFront (asid va : Nat) : walkReads (s.modFront f g) asid va = walkReads s asid va := by
  simp only [walkReads, tableReads_modFront]
  rfl

theorem logWalk_modFront (d core front asid va : Nat) :
    logWalk (s.modFront f g) d core front asid va = (logWalk s d core front asid va).modFront f g := by
  have he (a : Nat) : (s.modFront f g).errAt a 8 = s.errAt a 8 := rfl
  have hb (a : Nat) : (s.modFront f g).badAt a 8 = s.badAt a 8 := rfl
  simp only [logWalk, walkReads_modFront, he, hb]
  refine List.foldl_hom (fun t : State => t.modFront f g) fun t a => ?_
  simp only [errRecord_modFront]
  split
  · rfl
  · split <;> rfl

@[simp] theorem front_errRecord (d va phys asid kind core front seq h : Nat) : (errRecord s d va phys asid kind core front seq).front h = s.front h := by
  unfold errRecord errAppend ringAppend
  dsimp only
  split
  · rfl
  · split <;> rfl

@[simp] theorem front_logWalk (d core front asid va h : Nat) : (logWalk s d core front asid va).front h = s.front h := by
  unfold logWalk
  refine List.foldlRecOn (motive := fun t : State => t.front h = s.front h) _ _ rfl fun t ht a _ => ?_
  split
  · rw [front_errRecord, ht]
  · split
    · rw [front_errRecord, ht]
    · exact ht

variable {g}

theorem missed_modFront (hb : ∀ x, (g x).spbase = x.spbase) (ha : ∀ x, (g x).asid = x.asid) (va : Nat) :
    (s.modFront f g).missed f va = (s.missed f va).modFront f g := by
  have hu (asid : Nat) : usedEntry (s.modFront f g) f asid va = usedEntry s f asid va := rfl
  simp only [State.missed, State.walked, front_modFront_self, hb, ha, hu, logWalk_modFront]
  split <;> rfl

/-- The records of a trap read of their front the address space and the window alone, and change no front. -/
theorem logTrap_modFront (hb : ∀ x, (g x).spbase = x.spbase) (ha : ∀ x, (g x).asid = x.asid) (t : TrapRec) (seq : Nat) :
    logTrap (s.modFront f g) f t seq = (logTrap s f t seq).modFront f g := by
  have hcore (k : Core → Core) : (s.modFront f g).modCore (coreOf f) k = (s.modCore (coreOf f) k).modFront f g := rfl
  unfold logTrap
  dsimp only
  simp only [hcore, ← apply_ite (fun t : State => State.modFront t f g), missed_modFront _ f hb ha, front_modFront_self, ha, errRecord_modFront]

end

/-! ### Runs of bodies -/

theorem Chain.imp {P Q : Nat → State → State → Prop} (h : ∀ j a b, P j a b → Q j a b) {n i : Nat} {s t : State} (hc : Chain P n i s t) :
    Chain Q n i s t := by
  induction n generalizing i s with
  | zero => exact hc
  | succ k ih =>
    obtain ⟨u, h1, h2⟩ := hc
    exact ⟨u, h i s u h1, ih h2⟩

theorem atElem_ok {α : Type} {m : M α} {s t : State} {a : α} (i : Nat) (h : m s = .ok (a, t)) : atElem i m s = .ok (a, t) := by
  simp only [atElem, h]

theorem atElem_trap {α : Type} {m : M α} {s : State} {tr : TrapRec} (i : Nat) (h : m s = .error (.trap tr)) :
    atElem i m s = .error (.trap { tr with elem := i }) := by
  simp only [atElem, h]

section
variable {own : Bool} {unit p n m j : Nat} {body : Nat → M Unit} {s t : State}

/-- A loop goes on behind the bodies that have completed. -/
theorem bodyLoop_chain (h : Chain (fun j a b => body (p + j * unit) a = .ok ((), b)) n j s t) :
    bodyLoop own unit body (n + m) (p + j * unit) s = bodyLoop own unit body m (p + (j + n) * unit) t := by
  induction n generalizing j s with
  | zero =>
    obtain rfl : t = s := h
    rw [Nat.zero_add, Nat.add_zero]
  | succ k ih =>
    obtain ⟨u, h1, h2⟩ := h
    have hb : (if own = true then atElem (p + j * unit) (body (p + j * unit)) else body (p + j * unit)) s = .ok ((), u) := by
      split
      · exact atElem_ok _ h1
      · exact h1
    rw [Nat.add_right_comm, bodyLoop, hb, show j + (k + 1) = j + 1 + k by omega, ← ih h2, Nat.add_mul, Nat.one_mul, Nat.add_assoc p]

theorem bodyLoop_ok (h : Chain (fun j a b => body (p + j * unit) a = .ok ((), b)) n 0 s t) :
    bodyLoop own unit body n p s = (t, p + n * unit, none) := by
  have := bodyLoop_chain (own := own) (m := 0) h
  simpa [bodyLoop] using this

theorem bodyLoop_trap {st : Stop} (h : Chain (fun j a b => body (p + j * unit) a = .ok ((), b)) j 0 s t) (hj : j < n)
    (hb : (if own = true then atElem (p + j * unit) (body (p + j * unit)) else body (p + j * unit)) t = .error st) :
    bodyLoop own unit body n p s = (t, p + j * unit, some st) := by
  obtain ⟨m, rfl⟩ := Nat.exists_eq_add_of_lt hj
  have := bodyLoop_chain (own := own) (m := m + 1) h
  rw [Nat.zero_add, Nat.zero_mul, Nat.add_zero p, bodyLoop, hb] at this
  rw [Nat.add_assoc, this]

/-- Steps before one that stops. -/
theorem chain_steps (h : Chain (fun j a b => body j a = .ok ((), b)) n 0 s t) :
    Chain (fun j a b => atElem 0 (body (0 + j * 1)) a = .ok ((), b)) n 0 s t :=
  h.imp fun j a b hb => by rw [Nat.zero_add, Nat.mul_one]; exact atElem_ok 0 hb

theorem runSteps_ok (h : Chain (fun j a b => body j a = .ok ((), b)) n 0 s t) : runSteps n body s = (t, none) := by
  rw [runSteps, bodyLoop_ok (body := fun k => atElem 0 (body k)) (chain_steps h)]

theorem runSteps_trap {tr : TrapRec} (h : Chain (fun j a b => body j a = .ok ((), b)) j 0 s t) (hj : j < n) (hb : body j t = .error (.trap tr)) :
    runSteps n body s = (t, some (.trap { tr with elem := 0 })) := by
  rw [runSteps, bodyLoop_trap (body := fun k => atElem 0 (body k)) (st := .trap { tr with elem := 0 }) (chain_steps h) hj]
  simpa using atElem_trap 0 hb

end

/-! ### One issue of a run that nothing bounds -/

/-- Bodies of one issue: a beat, a group of a product, or a strip, as far as there are any. -/
def QEntry.beatBodies (z : QEntry) (stop unit : Nat) : Nat :=
  min (if z.storing then z.vl else if isSerial z.instr || isProduct z.instr then 1 else
    (z.beatCeil (z.progress + unit) - z.progress + unit - 1) / unit) ((stop - z.progress + unit - 1) / unit)

theorem bodies_beatBodies (z : QEntry) (stop unit : Nat) :
    min (z.wholeBeats unit 1) (bodies stop unit z.progress none) = z.beatBodies stop unit := by
  simp only [QEntry.wholeBeats, bodies, ceilDiv, QEntry.beatBodies, Nat.one_mul]

section
variable {z : QEntry} {stop unit j q : Nat} {body : Nat → M Unit} {s t t1 : State} {tr : TrapRec}

theorem runSome_elems_past (h : stop ≤ z.progress) : runSome (.elems stop unit body) z none 1 s = (s, z.progress, none, true) := by
  have h0 : z.beatBodies stop unit = 0 := by
    rw [QEntry.beatBodies, Nat.sub_eq_zero_of_le h, Nat.zero_add]
    refine Nat.le_zero.mp ((Nat.min_le_right _ _).trans (Nat.le_zero.mpr ?_))
    cases unit with
    | zero => exact Nat.div_zero _
    | succ k => exact Nat.div_eq_of_lt (Nat.lt_succ_self k)
  simp [runSome, bodies_beatBodies, h0, bodyLoop, h]

theorem runSome_elems_ok (hp : z.progress < stop)
    (h : Chain (fun j a b => body (z.progress + j * unit) a = .ok ((), b)) (z.beatBodies stop unit) 0 s t) :
    runSome (.elems stop unit body) z none 1 s =
      (t, min (z.progress + z.beatBodies stop unit * unit) stop, none, decide (stop ≤ z.progress + z.beatBodies stop unit * unit)) := by
  simp [runSome, bodies_beatBodies, bodyLoop_ok h, Nat.max_eq_left hp.le]

theorem runSome_elems_trap (hp : z.progress < stop) (hu : 0 < unit) (hj : j < z.beatBodies stop unit)
    (h : Chain (fun j a b => body (z.progress + j * unit) a = .ok ((), b)) j 0 s t) (hb : body (z.progress + j * unit) t = .error (.trap tr)) :
    runSome (.elems stop unit body) z none 1 s =
      (t, z.progress + j * unit, some (.trap { tr with elem := z.progress + j * unit }), false) := by
  have hlt : z.progress + j * unit ≤ stop := by
    have hj' : j + 1 ≤ (stop - z.progress + unit - 1) / unit := hj.trans_le (Nat.min_le_right _ _)
    have := (Nat.le_div_iff_mul_le hu).mp hj'
    rw [Nat.add_mul] at this
    omega
  have hloop := bodyLoop_trap (own := true) h hj (st := .trap { tr with elem := z.progress + j * unit }) (by rw [if_pos rfl]; exact atElem_trap _ hb)
  simp [runSome, bodies_beatBodies, hloop, Nat.max_eq_left hp.le, hlt]

theorem runSome_whole_ok {m : M Unit} (h : m s = .ok ((), t)) : runSome (.whole m) z none 1 s = (t, z.progress, none, true) := by
  simp only [runSome, h]

theorem runSome_whole_trap {m : M Unit} (h : m s = .error (.trap tr)) :
    runSome (.whole m) z none 1 s = (s, z.progress, some (.trap tr), false) := by
  simp only [runSome, h]

theorem runSome_part {g : Option Nat → State → State × Nat × Option Stop} {st : Option Stop} (h : g none s = (t, q, st)) :
    runSome (.part g) z none 1 s = (t, q, st, st.isNone && decide (z.total ≤ q)) := by
  simp only [runSome, h]

theorem runSome_steps_ok {check : M Unit} {n : Nat} (hc : check s = .ok ((), t1))
    (h : Chain (fun j a b => body j a = .ok ((), b)) n 0 t1 t) : runSome (.steps check n body) z none 1 s = (t, z.progress, none, true) := by
  simp only [runSome, atElem_ok _ hc, runSteps_ok h, Option.isNone_none]

theorem runSome_steps_check {check : M Unit} {n : Nat} (hc : check s = .error (.trap tr)) :
    runSome (.steps check n body) z none 1 s = (s, z.progress, some (.trap { tr with elem := 0 }), false) := by
  simp only [runSome, atElem_trap _ hc]

theorem runSome_steps_trap {check : M Unit} {n : Nat} (hc : check s = .ok ((), t1)) (hj : j < n)
    (h : Chain (fun j a b => body j a = .ok ((), b)) j 0 t1 t) (hb : body j t = .error (.trap tr)) :
    runSome (.steps check n body) z none 1 s = (t, z.progress, some (.trap { tr with elem := 0 }), false) := by
  simp only [runSome, atElem_ok _ hc, runSteps_trap h hj hb, Option.isNone_some]

end

/-! ### The entry after an issue -/

/-- The clocks that an issue counts (R406). -/
def QEntry.took (z : QEntry) (q : Nat) (all : Bool) : Nat :=
  if z.storing then (if all then z.cap.stores.length else 0) else z.beats q all - z.beats z.progress false

/-- What an issue of entry `z` of front `f` makes of a state: the entry is at the progress `q`, with what `g` does to it, and counter 12 has counted. -/
structure Issued (f : Nat) (z : QEntry) (q : Nat) (all : Bool) (g : QEntry → QEntry) (t u : State) : Prop where
  rest    : OnlyFront f t u
  queue   : (u.front f).queue = (t.front f).queue.map fun e => if e.vsn = z.vsn then g ((e.ran q).reached q all) else e
  counter : (u.front f).counter 12 = (t.front f).counter 12 + word (z.took q all)
  front   : { u.front f with queue := [], counters := [] } = { t.front f with queue := [], counters := [] }

/-- A front with an entry gone on. -/
def Front.issued (z : QEntry) (q : Nat) (all : Bool) (x : Front) : Front :=
  (x.addCounter 12 (z.took q all)).modEntry z.vsn fun e => (e.ran q).reached q all

theorem issued_modFront (t : State) (f : Nat) (z : QEntry) (q : Nat) (all : Bool) : Issued f z q all id t (t.modFront f (Front.issued z q all)) where
  rest := onlyFront_modFront _ _ _
  queue := by rw [front_modFront_self]; rfl
  counter := by rw [front_modFront_self]; exact spGet_spSet_self _ _ _ _
  front := by simp only [front_modFront_self, Front.issued, Front.modEntry, Front.addCounter]

/-- A strip's writer goes on to its stores, unless it has written nothing; any other entry is done. -/
theorem finish_eq (e : QEntry) (q : Nat) : e.finish q =
    if e.cap.stores ≠ [] ∧ e.storing = false ∧ (ignoresStart e.instr = true ∨ e.cap.vstart.field 8 0 < e.total) then
      { e with advanced := true, storing := true, stored := if e.advanced then e.stored else 0, progress := if e.advanced then e.stored else 0 }
    else { e with progress := q, done := true } := by
  have hcond : (!e.cap.stores.isEmpty && !e.storing && (ignoresStart e.instr || decide (e.start < e.total))) = true ↔
      e.cap.stores ≠ [] ∧ e.storing = false ∧ (ignoresStart e.instr = true ∨ e.start < e.total) := by
    simp [and_assoc]
  exact if_congr hcond rfl rfl

theorem vsn_reached (e : QEntry) (q : Nat) (all : Bool) : ((e.ran q).reached q all).vsn = e.vsn := by
  have hran : (e.ran q).vsn = e.vsn := by unfold QEntry.ran; split <;> rfl
  rw [← hran]
  unfold QEntry.reached QEntry.finish
  split
  · split <;> rfl
  · rfl

theorem issued_trapped (t : State) (f : Nat) (z : QEntry) (q : Nat) (all : Bool) (tr : TrapRec) :
    Issued f z q all (fun e => { e with trap := some tr }) t (trapped (t.modFront f (Front.issued z q all)) f z tr) := by
  obtain ⟨hrest, hqueue, hcounter, hfront⟩ := issued_modFront t f z q all
  refine ⟨hrest.trans (onlyFront_modFront _ _ _), ?_, ?_, ?_⟩
  all_goals rw [trapped, front_modFront_self]
  · rw [Front.modEntry, hqueue, List.map_map]
    refine List.map_congr_left fun e _ => ?_
    by_cases h : e.vsn = z.vsn
    · simp only [Function.comp, h, if_true, id, vsn_reached]
    · simp only [Function.comp, h, if_false]
  · exact hcounter
  · simp only [Front.modEntry]
    exact hfront

section
variable {t0 t : State} {f q : Nat} {z : QEntry} {st : Option Stop} {all : Bool}

/-- Progress where no popped row has failed. -/
theorem progressEntry_eq (hl : (t0.front f).failedRow z = none)
    (h : runSome (if z.storing then .elems z.vl 1 (storeEach f z (t0.front f).binds z.cap.stores) else runOf z f) z none 1 t0 = (t, q, st, all)) :
    progressEntry t0 f none z 1 = halted (t.modFront f (Front.issued z q all)) f z st := by
  have htook : (if z.storing = true then b2n all * z.cap.stores.length else z.beats q all - z.beats z.progress false) = z.took q all := by
    cases all <;> simp [QEntry.took, b2n]
  have hlate : (if (z.reached q all).done = true then (t0.front f).failedRow z else none) = none := by rw [hl, ite_self]
  simp only [progressEntry, stripRun, h, htook, hlate, Option.isNone_none, Bool.and_true]
  rfl

theorem issued_progressEntry (hl : (t0.front f).failedRow z = none)
    (h : runSome (if z.storing then .elems z.vl 1 (storeEach f z (t0.front f).binds z.cap.stores) else runOf z f) z none 1 t0 = (t, q, none, all)) :
    Issued f z q all id t (progressEntry t0 f none z 1) := by
  rw [progressEntry_eq hl h]
  exact issued_modFront t f z q all

theorem issued_progressEntry_trap {tr : TrapRec} (hl : (t0.front f).failedRow z = none)
    (h : runSome (if z.storing then .elems z.vl 1 (storeEach f z (t0.front f).binds z.cap.stores) else runOf z f) z none 1 t0 =
      (t, q, some (.trap tr), all)) :
    Issued f z q all (fun e => { e with trap := some tr }) (logTrap t f tr z.vsn.toNat) (progressEntry t0 f none z 1) := by
  rw [progressEntry_eq hl h, halted, meet, logTrap_modFront t f (g := Front.issued z q all) (fun _ => rfl) (fun _ => rfl)]
  exact issued_trapped _ f z q all tr

end

/-! ### The event -/

/-- A front whose entry may go on stands in a package that has not tripped. -/
theorem tripped_of_ready {s : State} {f k : Nat} {y : QEntry} (h : ready s f k y = true) : s.pkg.tripped = false := by
  simp only [ready, Bool.and_eq_true, Bool.or_eq_true, Bool.not_eq_true'] at h
  obtain ⟨⟨⟨⟨hrun, -⟩, -⟩, -⟩, -⟩ := h
  rcases hrun with hrun | hstop
  · exact tripped_of_runs hrun
  · exact hstop.1.2

theorem exec_instructionIssue {s : State} {f k n : Nat} (ht : s.pkg.tripped = false) :
    exec (.instructionIssue f k n) s = .next (issueStep s f k n) := by
  have hx : exec (.instructionIssue f k n) s = event (fun s => issueStep s f k n) s := rfl
  rw [hx, event, ht, if_neg Bool.false_ne_true]

/-- An entry that nothing holds goes on without a bound. -/
theorem issueStep_goOn {s : State} {f k n : Nat} {y : QEntry} (hq : (s.front f).queue[k]? = some y) (hr : ready s f k y = true)
    (hrows : (s.front f).rowHolds y = []) (hcells : y.storing = true ∨ (s.front f).cellHolds k y = [])
    (hp : y.issued = true ∨ partnerFirst s f y = none) : issueStep s f k n = goOn s f n [] [] y := by
  have hpart : (!y.issued && (partnerFirst s f y).isSome) = false := by rcases hp with h | h <;> simp [h]
  simp only [issueStep, hq, hr, hpart, hrows, Bool.not_true, Bool.or_self, Bool.false_eq_true, if_false]
  rcases hcells with hs | hc
  · rw [if_pos hs]
  · have hmay : mayStart [] [] y = true := by simp [mayStart, reach, least]
    simp only [hc, hmay, Bool.not_true, Bool.false_eq_true, if_false, if_true, ite_self]

/-- An entry that goes on, or issues, makes progress from the state that its issue has left. -/
theorem goOn_eq {s t0 : State} {f n : Nat} {y z : QEntry}
    (h : (y.issued = true ∧ z = y ∧ t0 = if isIndexed y.instr && !y.storing then runAhead s f y.vl y else s) ∨
      (y.issued = false ∧ issueEntry (if isIndexed y.instr && !y.storing then runAhead s f y.vl y else s) f y = (t0, z, none))) :
    goOn s f n [] [] y = progressEntry t0 f none z n := by
  have hreach : reach [] [] y = none := rfl
  simp only [goOn, hreach, Option.getD_none, Nat.min_self]
  rcases h with ⟨hi, rfl, rfl⟩ | ⟨hi, h⟩
  · rw [if_pos hi]
  · rw [if_neg (by simp [hi]), h]

/-- Settles O33: an issue without a bound is one run of bodies, whose progress and stop its entry keeps. -/
theorem queueIssues : Obligations.QueueIssues := by
  unfold Obligations.QueueIssues
  intro s t0 f k y z hq hr hrows hcells s0 hissue p run ended counted moved beats Base Goes Stops
  have hs0 : (s0.front f).binds = (s.front f).binds := by
    simp only [s0]
    split
    · rw [front_runAhead]
    · rfl
  have hz : z.vsn = y.vsn ∧ (t0.front f).failedRow z = none := by
    rcases hissue with ⟨-, rfl, rfl⟩ | ⟨-, -, h⟩
    · exact ⟨rfl, failedRow_none hrows hs0 rfl rfl⟩
    · obtain ⟨hb, ws, rfl⟩ := issueEntry_ok h
      exact ⟨rfl, failedRow_none hrows (hb.trans hs0) rfl rfl⟩
  obtain ⟨hvsn, hlate⟩ := hz
  have hstep : issueStep s f k 1 = progressEntry t0 f none z 1 := by
    have hp : y.issued = true ∨ partnerFirst s f y = none := hissue.imp And.left fun h => h.2.1
    rw [issueStep_goOn hq hr hrows hcells hp]
    exact goOn_eq (hissue.imp id fun h => ⟨h.1, h.2.2⟩)
  have hends {P : State → Prop} (h : P (progressEntry t0 f none z 1)) : Ends (.instructionIssue f k 1) s P :=
    ⟨_, hstep ▸ exec_instructionIssue (tripped_of_ready hr), h⟩
  have hmoved (q : Nat) (all : Bool) (e : QEntry) : moved q all e = (e.ran q).reached q all := by
    cases all
    · rfl
    · exact (finish_eq (e.ran q) q).symm
  have hbase {q : Nat} {all : Bool} {g : QEntry → QEntry} {t u : State} (h : Issued f z q all g t u) : Base q all g t u := by
    refine ⟨h.rest, ?_, h.counter, h.front⟩
    simp only [hmoved, ← hvsn]
    exact h.queue
  have hgoes {q : Nat} {all : Bool} {t : State} (h : runSome run z none 1 t0 = (t, q, none, all)) : Goes q all t :=
    hends (hbase (issued_progressEntry hlate h))
  have hstops {q : Nat} {tr : TrapRec} {t : State} (h : runSome run z none 1 t0 = (t, q, some (.trap tr), false)) : Stops q tr t :=
    hends (by rw [← hvsn]; exact hbase (issued_progressEntry_trap hlate h))
  refine ⟨fun stop unit body hrun hle => ?_, fun stop unit body hrun hlt hu => ⟨fun t hc => ?_, fun j t tr hj hc hb => ?_⟩,
    fun body t hrun hb => ?_, fun body tr hrun hb => ?_, fun g q t hrun hg => ?_, fun g q t tr hrun hg => ?_,
    fun check n body t1 t hrun hc hb => ?_, fun check n body tr hrun hc => ?_, fun check n body j t1 t tr hrun hc hj hch hb => ?_⟩
  · exact hgoes (by rw [hrun]; exact runSome_elems_past hle)
  · exact hgoes (by rw [hrun]; exact runSome_elems_ok hlt hc)
  · exact hstops (by rw [hrun]; exact runSome_elems_trap hlt hu hj hc hb)
  · exact hgoes (by rw [hrun]; exact runSome_whole_ok hb)
  · exact hstops (by rw [hrun]; exact runSome_whole_trap hb)
  · exact hgoes (by rw [hrun, runSome_part hg]; rfl)
  · exact hstops (by rw [hrun, runSome_part hg]; rfl)
  · exact hgoes (by rw [hrun]; exact runSome_steps_ok hc hb)
  · exact hstops (by rw [hrun]; exact runSome_steps_check hc)
  · exact hstops (by rw [hrun]; exact runSome_steps_trap hc hj hch hb)

end Sys2Proof.Machine
end

section
/-! PROOFS. Elements of the plane: what a write of one leaves, and what a read of a clean one gives (R59, R60, R63, R363). -/

namespace Sys2Proof.Machine

/-! ### Bits replaced in a number -/

section
variable (old o w u : Nat)

/-- Bits `o` to `o + w − 1` of a number replaced. -/
def putBits : Nat := old - old / 2 ^ o % 2 ^ w * 2 ^ o + u % 2 ^ w * 2 ^ o

theorem split_bits : old = 2 ^ o * (2 ^ w * (old / 2 ^ o / 2 ^ w) + old / 2 ^ o % 2 ^ w) + old % 2 ^ o := by
  rw [Nat.div_add_mod, Nat.div_add_mod]

theorem putBits_eq : putBits old o w u = 2 ^ o * (2 ^ w * (old / 2 ^ o / 2 ^ w) + u % 2 ^ w) + old % 2 ^ o := by
  have h := split_bits old o w
  rw [Nat.mul_add] at h ⊢
  rw [putBits, Nat.mul_comm (old / 2 ^ o % 2 ^ w), Nat.mul_comm (u % 2 ^ w)]
  omega

theorem testBit_putBits (b : Nat) :
    (putBits old o w u).testBit b = if o ≤ b ∧ b < o + w then u.testBit (b - o) else old.testBit b := by
  have hlo : old % 2 ^ o < 2 ^ o := Nat.mod_lt _ (Nat.two_pow_pos o)
  have hmod (n : Nat) : n % 2 ^ w < 2 ^ w := Nat.mod_lt _ (Nat.two_pow_pos w)
  conv => rhs; rw [split_bits old o w]
  rw [putBits_eq, Nat.testBit_two_pow_mul_add _ hlo, Nat.testBit_two_pow_mul_add _ hlo, Nat.testBit_two_pow_mul_add _ (hmod _),
    Nat.testBit_two_pow_mul_add _ (hmod _)]
  by_cases hb : b < o
  · simp [hb, Nat.not_le.mpr hb]
  · by_cases hw : b - o < w
    · have : o ≤ b ∧ b < o + w := by omega
      simp [hb, hw, this]
    · have : ¬ (o ≤ b ∧ b < o + w) := by omega
      simp [hb, hw, this]

/-- The bits that were put, of a cell. -/
theorem putBits_read (h : o + w ≤ 32 ∨ u = 0) : putBits old o w u % 2 ^ 32 / 2 ^ o % 2 ^ w = u % 2 ^ w := by
  refine Nat.eq_of_testBit_eq fun j => ?_
  rw [Nat.testBit_mod_two_pow, Nat.testBit_mod_two_pow, Nat.testBit_div_two_pow, Nat.testBit_mod_two_pow, testBit_putBits]
  by_cases hj : j < w
  · have hin : o ≤ j + o ∧ j + o < o + w := by omega
    rcases h with h | rfl
    · have : j + o < 32 := by omega
      simp [hj, hin, this]
    · simp [hin]
  · simp [hj]

end

/-! ### The cells of an element -/

section
variable (e : Word) (first i : Nat)

/-- A doubleword has two cells. -/
theorem elemCells_pair (h : dW e = 64) : ∃ a, elemCells e first i = [a, a + 1] := ⟨_, if_pos h⟩
/-- Any other element lies in one. -/
theorem elemCells_single (h : dW e ≠ 64) : ∃ a, elemCells e first i = [a] := ⟨_, if_neg h⟩

theorem elemCells_nodup : (elemCells e first i).Nodup := by
  by_cases h : dW e = 64
  · obtain ⟨a, ha⟩ := elemCells_pair e first i h
    simp [ha]
  · obtain ⟨a, ha⟩ := elemCells_single e first i h
    simp [ha]

/-- Elements of one width have as many cells. -/
theorem length_elemCells {e' : Word} (h : dW e = dW e') (first' i' : Nat) : (elemCells e first i).length = (elemCells e' first' i').length := by
  simp only [elemCells, h]
  split <;> rfl

theorem dW_cases : dEw e ≠ 7 → dW e = 1 ∨ dW e = 2 ∨ dW e = 4 ∨ dW e = 8 ∨ dW e = 16 ∨ dW e = 32 ∨ dW e = 64 := by
  intro h
  have hlt : dEw e < 8 := Nat.mod_lt _ (by decide)
  unfold dW
  generalize dEw e = n at h hlt
  interval_cases n <;> simp_all

/-- An element of less than a doubleword ends in the cell where it begins. -/
theorem elemOff_le (h : dEw e ≠ 7) (h64 : dW e ≠ 64) : elemOff e i + dW e ≤ 32 := by
  have hoff : elemOff e i = (place e i).2 * dW e % 32 := if_neg h64
  have hdvd (w k : Nat) (hk : w * k = 32) (hw : dW e = w) : elemOff e i + dW e ≤ 32 := by
    have hpos : 0 < k := Nat.pos_of_ne_zero fun h0 => by subst h0; omega
    have hlt : (place e i).2 % k + 1 ≤ k := Nat.mod_lt _ hpos
    rw [hoff, hw, Nat.mul_comm _ w, ← hk, Nat.mul_mod_mul_left, ← Nat.mul_succ]
    exact Nat.mul_le_mul_left w hlt
  rcases dW_cases e h with hw | hw | hw | hw | hw | hw | hw
  · exact hdvd 1 32 rfl hw
  · exact hdvd 2 16 rfl hw
  · exact hdvd 4 8 rfl hw
  · exact hdvd 8 4 rfl hw
  · exact hdvd 16 2 rfl hw
  · exact hdvd 32 1 rfl hw
  · exact absurd hw h64

end

/-! ### Cells and tags after a write -/

section
variable (x : Core)

theorem cell_setCell (k c : Nat) (v : BitVec 32) (b : Bool) : (x.setCell k v b).cell c = if c = k then v else x.cell c := spGet_spSet _ _ _ _ _
theorem tag_setTag (k c : Nat) (t : Byte) : (x.setTag k t).tag c = if c = k then t else x.tag c := spGet_spSet _ _ _ _ _
theorem cell_setTag (k c : Nat) (t : Byte) : (x.setTag k t).cell c = x.cell c := rfl

theorem cell_setTags (cells : List Nat) (tags : List (Option Byte)) (c : Nat) : (x.setTags cells tags).cell c = x.cell c := by
  induction cells generalizing x tags with
  | nil => rfl
  | cons k r ih =>
    match tags with
    | [] => rfl
    | none :: ts => exact ih x ts
    | some t :: ts => exact (ih (x.setTag k t) ts).trans (cell_setTag x k c t)

/-- Tags of other cells are as before. -/
theorem tag_setTags_other {cells : List Nat} (tags : List (Option Byte)) {c : Nat} (h : c ∉ cells) : (x.setTags cells tags).tag c = x.tag c := by
  induction cells generalizing x tags with
  | nil => rfl
  | cons k r ih =>
    obtain ⟨hk, hr⟩ := not_or.mp (List.mem_cons.not.mp h)
    match tags with
    | [] => rfl
    | none :: ts => exact ih x ts hr
    | some t :: ts => rw [Core.setTags, ih _ ts hr, tag_setTag, if_neg hk]

/-- The tags given, one for each cell. -/
theorem tags_setTags_copy {cells : List Nat} (hn : cells.Nodup) {ts : List Byte} (hl : ts.length = cells.length) :
    cells.map (x.setTags cells (ts.map some)).tag = ts := by
  induction cells generalizing x ts with
  | nil => rw [List.length_eq_zero_iff.mp hl]; rfl
  | cons k r ih =>
    match ts with
    | [] => simp at hl
    | t :: ts =>
      obtain ⟨hk, hr⟩ := List.nodup_cons.mp hn
      rw [List.map_cons, List.map_cons, Core.setTags, tag_setTags_other _ _ hk, tag_setTag, if_pos rfl, ih _ hr (by simpa using hl)]

/-- One tag for every cell of an element. -/
theorem tags_setTags_same (e : Word) (first i : Nat) (t : Byte) :
    (elemCells e first i).map (x.setTags (elemCells e first i) [some t, some t]).tag = (elemCells e first i).map fun _ => t := by
  by_cases h : dW e = 64
  · obtain ⟨a, ha⟩ := elemCells_pair e first i h
    simp [ha, Core.setTags, tag_setTag]
  · obtain ⟨a, ha⟩ := elemCells_single e first i h
    simp [ha, Core.setTags, tag_setTag]

theorem setTags_keep (e : Word) (first i : Nat) : x.setTags (elemCells e first i) [none, none] = x := by
  by_cases h : dW e = 64
  · obtain ⟨a, ha⟩ := elemCells_pair e first i h
    simp [ha, Core.setTags]
  · obtain ⟨a, ha⟩ := elemCells_single e first i h
    simp [ha, Core.setTags]

section
variable {e : Word} {first i : Nat} (v : Nat)

theorem setElem_pair {a : Nat} (h : elemCells e first i = [a, a + 1]) :
    x.setElem e first i v = (x.setCell a (BitVec.ofNat 32 v) true).setCell (a + 1) (BitVec.ofNat 32 (v / 2 ^ 32)) true := by
  simp only [Core.setElem, h]

theorem setElem_single {a : Nat} (h : elemCells e first i = [a]) :
    x.setElem e first i v = x.setCell a (BitVec.ofNat 32 (putBits (x.cell a).toNat (elemOff e i) (dW e) v)) (dW e == 32) := by
  simp only [Core.setElem, h, putBits]

theorem tag_setElem (c : Nat) : (x.setElem e first i v).tag c = x.tag c := by
  unfold Core.setElem
  split <;> rfl

theorem cell_setElem_other {c : Nat} (h : c ∉ elemCells e first i) : (x.setElem e first i v).cell c = x.cell c := by
  by_cases hw : dW e = 64
  · obtain ⟨a, ha⟩ := elemCells_pair e first i hw
    rw [ha] at h
    simp only [List.mem_cons, List.not_mem_nil, or_false, not_or] at h
    rw [setElem_pair x v ha, cell_setCell, cell_setCell, if_neg h.2, if_neg h.1]
  · obtain ⟨a, ha⟩ := elemCells_single e first i hw
    rw [ha, List.mem_singleton] at h
    rw [setElem_single x v ha, cell_setCell, if_neg h]

/-- An element written reads back, cut to its width. -/
theorem elem_setElem (hv : dEw e ≠ 7 ∨ v = 0) : (x.setElem e first i v).elem e first i = v % 2 ^ dW e := by
  by_cases hw : dW e = 64
  · obtain ⟨a, ha⟩ := elemCells_pair e first i hw
    have hne : a ≠ a + 1 := by omega
    simp only [setElem_pair x v ha, Core.elem, ha, cell_setCell, if_true, if_neg hne, hw, BitVec.toNat_ofNat]
    omega
  · obtain ⟨a, ha⟩ := elemCells_single e first i hw
    have hfit : elemOff e i + dW e ≤ 32 ∨ v = 0 := hv.imp_left fun h => elemOff_le e i h hw
    simp only [setElem_single x v ha, Core.elem, ha, cell_setCell, if_true, BitVec.toNat_ofNat]
    exact putBits_read _ _ _ _ hfit

/-- The other bits of its cell are as before. -/
theorem bits_setElem {c b : Nat} (hc : c ∈ elemCells e first i) (hw : dW e ≤ 32) (hb : ¬ (elemOff e i ≤ b ∧ b < elemOff e i + dW e)) :
    ((x.setElem e first i v).cell c).getLsbD b = (x.cell c).getLsbD b := by
  obtain ⟨a, ha⟩ := elemCells_single e first i (by omega)
  rw [ha, List.mem_singleton] at hc
  rw [setElem_single x v ha, cell_setCell, if_pos hc, BitVec.getLsbD_ofNat, testBit_putBits, if_neg hb, hc, BitVec.testBit_toNat]
  by_cases hlt : b < 32
  · simp [hlt]
  · simp [hlt, BitVec.getLsbD_of_ge _ b (Nat.not_lt.mp hlt)]

theorem elem_setTags (cells : List Nat) (tags : List (Option Byte)) (e : Word) (first i : Nat) :
    (x.setTags cells tags).elem e first i = x.elem e first i := by
  simp only [Core.elem, cell_setTags]

end

/-! ### Errors of the cells -/

theorem clean_iff {e : Word} {first i : Nat} : x.clean e first i ↔
    ∀ c ∈ elemCells e first i, spGet false x.badCells c = false ∧ spGet false x.badTags c = false := by
  simp [Core.clean, badCell?]

/-- A write brings no error. -/
theorem badCells_setCell (k c : Nat) (v : BitVec 32) (b : Bool) (h : spGet false x.badCells c = false) :
    spGet false (x.setCell k v b).badCells c = false := by
  cases b
  · exact h
  · simp [Core.setCell, spGet_spSet, h]

theorem badTags_setTags {c : Nat} (cells : List Nat) (tags : List (Option Byte)) (h : spGet false x.badTags c = false) :
    spGet false (x.setTags cells tags).badTags c = false := by
  induction cells generalizing x tags with
  | nil => exact h
  | cons k r ih =>
    match tags with
    | [] => exact h
    | none :: ts => exact ih x ts h
    | some t :: ts => exact ih _ ts (by simp [Core.setTag, spGet_spSet, h])

theorem badCells_setTags (cells : List Nat) (tags : List (Option Byte)) : (x.setTags cells tags).badCells = x.badCells := by
  induction cells generalizing x tags with
  | nil => rfl
  | cons k r ih =>
    match tags with
    | [] => rfl
    | none :: ts => exact ih x ts
    | some t :: ts => exact ih _ ts

theorem clean_put {e d : Word} {first i o j : Nat} (v : Nat) (cells : List Nat) (tags : List (Option Byte)) (h : x.clean d o j) :
    ((x.setElem e first i v).setTags cells tags).clean d o j := by
  rw [clean_iff] at h ⊢
  intro c hc
  obtain ⟨hcell, htag⟩ := h c hc
  have htags : (x.setElem e first i v).badTags = x.badTags := by unfold Core.setElem; split <;> rfl
  refine ⟨?_, badTags_setTags _ _ _ (by rw [htags, htag])⟩
  rw [badCells_setTags]
  unfold Core.setElem
  split
  · exact badCells_setCell _ _ _ _ _ (badCells_setCell _ _ _ _ _ hcell)
  · exact badCells_setCell _ _ _ _ _ hcell
  · exact hcell

end

/-! ### Rows marked (R363) -/

theorem dirty_markRows (x : Front) (cells : List Nat) {r : Nat} (hr : r < 512) :
    (x.markRows cells).dirty.getLsbD r = (x.dirty.getLsbD r || cells.any fun c => c / 64 == r) := by
  simp only [Front.markRows]
  generalize x.dirty = d
  induction cells generalizing d with
  | nil => simp
  | cons c l ih =>
    rw [List.foldl_cons, ih, BitVec.getLsbD_or, BitVec.getLsbD_ofNat, Nat.testBit_two_pow, List.any_cons, Bool.or_assoc]
    simp [hr, beq_eq_decide]

/-! ### A write of an element -/

/-- Where the second operation starts from what the first has left. -/
theorem bind_of_ok {α β : Type} {m : M α} {g : α → M β} {s t : State} {a : α} (h : m s = .ok (a, t)) : (m >>= g) s = g a t := by
  simp [bind, StateT.bind, Except.bind, h]

theorem bind_of_error {α β : Type} {m : M α} {g : α → M β} {s : State} {x : Stop} (h : m s = .error x) : (m >>= g) s = .error x := by
  simp [bind, StateT.bind, Except.bind, h]

section
variable {s : State} {f first : Nat} {e : Word} {i : Nat}

/-- The state with an element of the front's core written, and its rows marked. -/
def State.putAt (s : State) (f first : Nat) (e : Word) (i v : Nat) (tags : List (Option Byte)) : State :=
  (s.modCore (f / 2) fun x => (x.setElem e first i v).setTags (elemCells e first i) tags).modFront f fun y => y.markRows (elemCells e first i)

theorem badCell_of_clean {x : Core} (h : x.clean e first i) (b : Bool) : badCell? x (elemCells e first i) b = none := by
  rw [clean_iff] at h
  simp only [badCell?, List.find?_eq_none]
  intro c hc
  obtain ⟨h1, h2⟩ := h c hc
  simp [h1, h2]

theorem putElem_clean (h : (s.core (f / 2)).clean e first i) (v : Nat) (tags : List (Option Byte)) :
    putElem f first e i v tags s = .ok ((), s.putAt f first e i v tags) := by
  have hbad : (if dW e < 32 then badCell? (s.core (f / 2)) (elemCells e first i) false else none) = none := by rw [badCell_of_clean h, ite_self]
  rw [putElem, bind_of_ok (a := s) (t := s) rfl]
  simp only [coreOf, hbad]
  rfl

theorem core_putAt (v : Nat) (tags : List (Option Byte)) : (s.putAt f first e i v tags).core (f / 2) =
    ((s.core (f / 2)).setElem e first i v).setTags (elemCells e first i) tags := by
  simp [State.putAt]

/-- What the write of an element leaves. -/
theorem elemPut_putAt {v : Nat} {tags : List (Option Byte)} {ts : List Byte} (hv : dEw e ≠ 7 ∨ v = 0)
    (hts : (elemCells e first i).map (((s.core (f / 2)).setElem e first i v).setTags (elemCells e first i) tags).tag = ts) :
    ElemPut s f first e i v ts (s.putAt f first e i v tags) where
  elem := by rw [core_putAt, elem_setTags, elem_setElem _ _ hv]
  tags := by rw [core_putAt, hts]
  cells c hc := by rw [core_putAt, cell_setTags, cell_setElem_other _ _ hc, tag_setTags_other _ _ hc, tag_setElem]; exact ⟨rfl, rfl⟩
  bits c hc hw b hb := by rw [core_putAt, cell_setTags, bits_setElem _ _ hc hw hb]
  front := by rw [State.putAt, front_modFront_self, front_modCore]; rfl
  dirty r hr := by rw [State.putAt, front_modFront_self, dirty_markRows _ _ hr, front_modCore]
  others g hg := by rw [State.putAt, front_modFront_other _ _ hg, front_modCore]
  rest := by simp [State.putAt]

/-- The value counts as far as the element's width goes. -/
theorem ElemPut.congr {v v' : Nat} {ts : List Byte} {t : State} (h : ElemPut s f first e i v ts t) (hv : v % 2 ^ dW e = v' % 2 ^ dW e) :
    ElemPut s f first e i v' ts t :=
  { h with elem := h.elem.trans hv }

/-- An element written with the tags of another of its width. -/
theorem elemPut_copied {v : Nat} {ts : List Byte} (hv : dEw e ≠ 7) (hl : ts.length = (elemCells e first i).length) :
    ElemPut s f first e i v ts (s.putAt f first e i v (ts.map some)) :=
  elemPut_putAt (.inl hv) (tags_setTags_copy _ (elemCells_nodup e first i) hl)

/-- An element written with one tag. -/
theorem elemPut_tagged {v : Nat} {t : Byte} (hv : dEw e ≠ 7 ∨ v = 0) :
    ElemPut s f first e i v ((elemCells e first i).map fun _ => t) (s.putAt f first e i v [some t, some t]) :=
  elemPut_putAt hv (tags_setTags_same _ e first i t)

/-- An element written with its tags kept. -/
theorem elemPut_kept {v : Nat} (hv : dEw e ≠ 7) :
    ElemPut s f first e i v ((elemCells e first i).map (s.core (f / 2)).tag) (s.putAt f first e i v [none, none]) :=
  elemPut_putAt (.inl hv) (by rw [setTags_keep]; exact List.map_congr_left fun c _ => tag_setElem _ v c)

theorem clean_putAt {d : Word} {o j v : Nat} {tags : List (Option Byte)} (h : (s.core (f / 2)).clean d o j) :
    ((s.putAt f first e i v tags).core (f / 2)).clean d o j := by
  rw [core_putAt]
  exact clean_put _ v _ _ h

/-! ### Reads of an element -/

theorem getElem'_clean (h : (s.core (f / 2)).clean e first i) : getElem' f first e i s = .ok ((s.core (f / 2)).elem e first i, s) := by
  rw [getElem', bind_of_ok (a := s) (t := s) rfl]
  simp only [coreOf, badCell_of_clean h]
  rfl

theorem getTags_clean (h : (s.core (f / 2)).clean e first i) :
    getTags f first e i s = .ok ((elemCells e first i).map (s.core (f / 2)).tag, s) := by
  rw [getTags, bind_of_ok (a := s) (t := s) rfl]
  simp only [coreOf, badCell_of_clean h]
  rfl

theorem checkTags_pass {ok : Nat → Bool} (h : (s.core (f / 2)).clean e first i)
    (ht : ∀ c ∈ elemCells e first i, ok ((s.core (f / 2)).tag c).toNat = true) : checkTags f first e i ok s = .ok ((), s) := by
  rw [checkTags, bind_of_ok (getTags_clean h), if_pos (by simpa using ht)]
  rfl

theorem checkTags_fail {ok : Nat → Bool} (h : (s.core (f / 2)).clean e first i)
    (ht : ¬ ∀ c ∈ elemCells e first i, ok ((s.core (f / 2)).tag c).toNat = true) :
    checkTags f first e i ok s = .error (.trap ⟨FORMAT, 0, i, 0, 0⟩) := by
  rw [checkTags, bind_of_ok (getTags_clean h), if_neg (by simpa using ht)]
  rfl

end

end Sys2Proof.Machine
end

section
/-! PROOFS. Bodies of the integer instructions, moves and splats (R66, R68, R157, R169 to R171). -/

namespace Sys2Proof.Machine

/-! ### Sources of an element instruction -/

section
variable (s : State) (f : Nat) (e : QEntry)

/-- Element `i` of operand `k`. -/
def State.srcElem (k i : Nat) : Nat := (s.core (f / 2)).elem (e.name k) e.cap.first i
/-- The tags of its cells. -/
def State.srcTags (k i : Nat) : List Byte := (elemCells (e.name k) e.cap.first i).map (s.core (f / 2)).tag
/-- None of them holds an error. -/
def State.srcClean (k i : Nat) : Prop := (s.core (f / 2)).clean (e.name k) e.cap.first i
/-- The tags are integer tags of the destination's width. -/
def State.srcInt (k i : Nat) : Prop := ∀ c ∈ elemCells (e.name k) e.cap.first i, isIntTag (dW (e.name 0)) ((s.core (f / 2)).tag c).toNat = true
/-- The element that a modifier selects, or zero (R68). -/
def State.modElem (k : Nat) (sm : BitVec 2) (i : Nat) : Nat := ((modIndex sm e.vl i).map (s.srcElem f e k)).getD 0

end

section
variable {s : State} {f i k : Nat} {e : QEntry} {sm : BitVec 2} {ok : Nat → Bool}

theorem srcElem_clean (h : s.srcClean f e k i) : getElem' f e.cap.first (e.name k) i s = .ok (s.srcElem f e k i, s) := getElem'_clean h

theorem sourceTags_clean (h : s.srcClean f e k i) : sourceTags f e k i s = .ok ((s.srcTags f e k i).map some, s) := by
  rw [sourceTags, bind_of_ok (getTags_clean h)]
  rfl

theorem modSource_unchecked (h : ∀ q, modIndex sm e.vl i = some q → s.srcClean f e k q) :
    modSource f e k sm i ok false s = .ok (s.modElem f e k sm i, s) := by
  unfold modSource State.modElem
  cases hm : modIndex sm e.vl i with
  | none => rfl
  | some q => exact getElem'_clean (h q hm)

theorem modSource_pass (h : ∀ q, modIndex sm e.vl i = some q → s.srcClean f e k q)
    (ht : ∀ q, modIndex sm e.vl i = some q → ∀ c ∈ elemCells (e.name k) e.cap.first q, ok ((s.core (f / 2)).tag c).toNat = true) :
    modSource f e k sm i ok true s = .ok (s.modElem f e k sm i, s) := by
  unfold modSource State.modElem
  cases hm : modIndex sm e.vl i with
  | none => rfl
  | some q =>
    have hcheck := atElem_ok i (checkTags_pass (h q hm) (ht q hm))
    dsimp only
    rw [if_pos rfl, bind_of_ok hcheck]
    exact getElem'_clean (h q hm)

theorem modSource_fail {q : Nat} (hm : modIndex sm e.vl i = some q) (h : s.srcClean f e k q)
    (ht : ¬ ∀ c ∈ elemCells (e.name k) e.cap.first q, ok ((s.core (f / 2)).tag c).toNat = true) :
    modSource f e k sm i ok true s = .error (.trap ⟨FORMAT, 0, i, 0, 0⟩) := by
  have hcheck := atElem_trap i (checkTags_fail h ht)
  unfold modSource
  rw [hm]
  dsimp only
  rw [if_pos rfl, bind_of_error hcheck]

theorem isActive_eq (b : Bool) (h : activeIn e.mode ((s.front f).mask e.act) i = b) : isActive f e i s = .ok (b, s) := by
  rw [← h]
  rfl

end

/-! ### The modifier (R68) -/

theorem modIndex_eq {sm : BitVec 2} {vl i : Nat} (hi : i < vl) : modIndex sm vl i =
    if sm = 0 then some i else if sm = 1 then (if i + 1 < vl then some (i + 1) else none)
    else if sm = 2 then (if 1 ≤ i then some (i - 1) else none) else some 0 := by
  have hsm : sm = 0 ∨ sm = 1 ∨ sm = 2 ∨ sm = 3 := by revert sm; decide
  have hvl : 0 < vl := by omega
  rcases hsm with rfl | rfl | rfl | rfl
  · rfl
  · rfl
  · simp [modIndex, hi.le]
  · simp [modIndex, hvl]

/-! ### Offender bits (R66) -/

/-- The state with the offender bit of element `i` set, where the entry asks for it. -/
def State.offended (s : State) (f : Nat) (e : QEntry) (i : Nat) : State :=
  if e.offen then s.modFront f fun x => x.setMask e.off (x.mask e.off ||| BitVec.ofNat 256 (2 ^ i)) else s

theorem offend_eq (s : State) (f : Nat) (e : QEntry) (i : Nat) : offend f e i s = .ok ((), s.offended f e i) := by
  unfold offend State.offended
  split <;> rfl

theorem noted_self (s : State) (f : Nat) (e : QEntry) (i : Nat) : Noted f e i false 0 s s where
  rest := .refl f s
  front := rfl
  fflags := by simp [word]
  masks := by simp

theorem noted_offended (s : State) (f : Nat) (e : QEntry) (i : Nat) : Noted f e i true 0 s (s.offended f e i) := by
  unfold State.offended
  by_cases ho : e.offen = true
  · rw [if_pos ho]
    refine ⟨onlyFront_modFront _ _ _, ?_, ?_, fun m q hq => ?_⟩
    · rw [front_modFront_self]; rfl
    · rw [front_modFront_self]; simp [word, Front.setMask]
    · rw [front_modFront_self, Front.mask_setMask]
      by_cases hm : m = e.off
      · rw [if_pos hm, hm, BitVec.getLsbD_or, BitVec.getLsbD_ofNat, Nat.testBit_two_pow]
        simp [ho, hq, beq_eq_decide, eq_comm]
      · simp [hm]
  · rw [if_neg ho]
    refine ⟨.refl f s, rfl, by simp [word], by simp [ho]⟩

/-! ### The arithmetic (R169) -/

/-- The value of a number of `w` bits in two's complement (R169). -/
def sInt (w v : Nat) : Int := if v < 2 ^ (w - 1) then v else (v : Int) - 2 ^ w

section
variable (w : Nat)

theorem wrapTo_eq (v : Int) : wrapTo w v = (v % 2 ^ w).toNat := by simp [wrapTo]

theorem sgn_eq_sInt {v : Nat} (hv : v < 2 ^ w) (hw : 0 < w) : sgn w v = sInt w v := by
  have hpow : 2 ^ w = 2 * 2 ^ (w - 1) := by rw [← Nat.pow_succ']; congr 1; omega
  have hiff : 2 * v < 2 ^ w ↔ v < 2 ^ (w - 1) := by omega
  simp [sgn, signedOf, sInt, Nat.mod_eq_of_lt hv, hiff]

theorem clampTo_eq (lo hi v : Int) :
    clampTo w lo hi v = (wrapTo w (if v < lo then lo else if hi < v then hi else v), decide (v < lo ∨ hi < v)) := by
  unfold clampTo
  by_cases hlo : v < lo
  · simp [hlo]
  · by_cases hhi : hi < v <;> simp [hlo, hhi]

end

theorem elem_lt (x : Core) {e : Word} (first i : Nat) : x.elem e first i < 2 ^ dW e := by
  by_cases hw : dW e = 64
  · obtain ⟨a, ha⟩ := elemCells_pair e first i hw
    have h1 := (x.cell a).isLt
    have h2 := (x.cell (a + 1)).isLt
    simp only [Core.elem, ha, hw]
    omega
  · obtain ⟨a, ha⟩ := elemCells_single e first i hw
    simp only [Core.elem, ha]
    exact Nat.mod_lt _ (Nat.two_pow_pos _)

/-- The integer tags of a width of a byte or more; a narrower element has none. -/
theorem isIntTag_iff {e : Word} (h : dEw e ≠ 7) (t : Nat) :
    isIntTag (dW e) t = true ↔ 8 ≤ dW e ∧ (t = intTag (dW e) ∨ t = intTag (dW e) + 1) := by
  rcases dW_cases e h with hw | hw | hw | hw | hw | hw | hw <;> simp [isIntTag, intTag, uintTag, hw]

/-! ### One element of an integer instruction (R157, R169) -/

section
variable {s : State} {f i : Nat} {e : QEntry} {op : IntOp} {y : M Nat} {v : Nat}

/-- An active element with integer tags: the result with the tags of va's cells, and the offender bit. -/
theorem intElem_active (hact : activeIn e.mode ((s.front f).mask e.act) i = true) (hd : s.srcClean f e 0 i) (ha : s.srcClean f e 1 i)
    (hint : s.srcInt f e 1 i) (hy : y s = .ok (v, s)) :
    intElem op f e i y s = .ok ((), if (op (dW (e.name 0)) (s.srcElem f e 1 i) v).2 = true
      then (s.putAt f e.cap.first (e.name 0) i (op (dW (e.name 0)) (s.srcElem f e 1 i) v).1 ((s.srcTags f e 1 i).map some)).offended f e i
      else s.putAt f e.cap.first (e.name 0) i (op (dW (e.name 0)) (s.srcElem f e 1 i) v).1 ((s.srcTags f e 1 i).map some)) := by
  unfold intElem
  rw [bind_of_ok (isActive_eq true hact), if_pos rfl, bind_of_ok (checkTags_pass ha hint), bind_of_ok hy, bind_of_ok (srcElem_clean ha)]
  dsimp only
  rw [bind_of_ok (sourceTags_clean ha), bind_of_ok (putElem_clean hd _ _)]
  by_cases hsat : (op (dW (e.name 0)) (s.srcElem f e 1 i) v).2 = true
  · rw [if_pos hsat, if_pos hsat]
    exact offend_eq _ f e i
  · rw [if_neg hsat, if_neg hsat]
    rfl

theorem intElem_format (hact : activeIn e.mode ((s.front f).mask e.act) i = true) (ha : s.srcClean f e 1 i) (hint : ¬ s.srcInt f e 1 i) :
    intElem op f e i y s = .error (.trap ⟨FORMAT, 0, i, 0, 0⟩) := by
  unfold intElem
  rw [bind_of_ok (isActive_eq true hact), if_pos rfl, bind_of_error (checkTags_fail ha hint)]

theorem intElem_stops {x : Stop} (hact : activeIn e.mode ((s.front f).mask e.act) i = true) (ha : s.srcClean f e 1 i) (hint : s.srcInt f e 1 i)
    (hy : y s = .error x) : intElem op f e i y s = .error x := by
  unfold intElem
  rw [bind_of_ok (isActive_eq true hact), if_pos rfl, bind_of_ok (checkTags_pass ha hint), bind_of_error hy]

end

/-! ### An inactive element (R66) -/

section
variable {s : State} {f i : Nat} {e : QEntry}

/-- The body leaves the state, or under MODE 2 makes the element zero. -/
def Idles (s : State) (f : Nat) (e : QEntry) (i : Nat) (tags : List Byte) (body : M Unit) : Prop :=
  (e.mode ≠ 2 → body s = .ok ((), s)) ∧ (e.mode = 2 → ∃ t, body s = .ok ((), t) ∧ ElemPut s f e.cap.first (e.name 0) i 0 tags t)

theorem idles_sameTag (hdw : dEw (e.name 0) ≠ 7) (hd : s.srcClean f e 0 i) (t : Nat) :
    Idles s f e i ((elemCells (e.name 0) e.cap.first i).map fun _ => BitVec.ofNat 8 t) (inactive f e 0 i (sameTag t)) := by
  refine ⟨fun h => ?_, fun h => ⟨_, ?_, elemPut_tagged (.inl hdw)⟩⟩
  · rw [inactive, if_neg h]; rfl
  · rw [inactive, if_pos h, sameTag, bind_of_ok (s := s) (t := s) rfl]
    exact putElem_clean hd 0 _

theorem idles_sourceTags (hdw : dEw (e.name 0) ≠ 7) (hd : s.srcClean f e 0 i) (ha : s.srcClean f e 1 i) (hw : dW (e.name 1) = dW (e.name 0)) :
    Idles s f e i (s.srcTags f e 1 i) (inactive f e 0 i (sourceTags f e 1 i)) := by
  refine ⟨fun h => ?_, fun h => ⟨_, ?_, elemPut_copied hdw ?_⟩⟩
  · rw [inactive, if_neg h]; rfl
  · rw [inactive, if_pos h, bind_of_ok (sourceTags_clean ha)]
    exact putElem_clean hd 0 _
  · rw [State.srcTags, List.length_map, length_elemCells _ _ _ hw]

end

/-! ### The instructions, by how they run -/

/-- Integer instructions of two sources. -/
def intTwos (vd va vb : VName) (sm : BitVec 2) : List Instr :=
  [.vadd vd va vb sm, .vsub vd va vb sm, .vmul vd va vb sm, .vmulh vd va vb sm, .vmin vd va vb sm, .vmax vd va vb sm, .vminu vd va vb sm,
    .vmaxu vd va vb sm, .vshl vd va vb sm, .vshr vd va vb sm, .vsra vd va vb sm, .vsadd vd va vb sm, .vssub vd va vb sm, .vsaddU vd va vb sm,
    .vssubU vd va vb sm]

/-- Shifts by an immediate. -/
def intOnes (vd va : VName) (n : BitVec 8) : List Instr := [.vshlImm vd va n, .vshrImm vd va n, .vsraImm vd va n]

/-- A splat's body (R171). -/
def splatBody (v : Nat) (e : QEntry) (f i : Nat) : M Unit := do
  if ← isActive f e i then putTagged f e.cap.first (e.name 0) i v (intTag (dW (e.name 0)))
  else inactive f e 0 i (sameTag (intTag (dW (e.name 0))))

section
variable {s : State} {f i : Nat} {e : QEntry} {sm : BitVec 2} {n : BitVec 8} {vd va vb : VName} {r : SReg}

theorem runOf_twos (h : e.instr ∈ intTwos vd va vb sm) : ∃ op, runOf e f = intRun op sm e f := by
  simp only [intTwos, List.mem_cons, List.not_mem_nil, or_false] at h
  rcases h with h | h | h | h | h | h | h | h | h | h | h | h | h | h | h
  all_goals
    rw [runOf, h]
    exact ⟨_, rfl⟩

theorem runOf_ones (h : e.instr ∈ intOnes vd va n) : ∃ op, runOf e f = shiftImmRun op n e f := by
  simp only [intOnes, List.mem_cons, List.not_mem_nil, or_false] at h
  rcases h with h | h | h
  all_goals
    rw [runOf, h]
    exact ⟨_, rfl⟩

/-- An integer instruction runs an arithmetic body on each element. -/
theorem runOf_int (h : e.instr ∈ intTwos vd va vb sm ++ intOnes vd va n) :
    ∃ (op : IntOp) (y : Nat → M Nat), runOf e f = .elems e.vl 1 fun i => intElem op f e i (y i) := by
  rcases List.mem_append.mp h with h | h
  · obtain ⟨op, hop⟩ := runOf_twos (f := f) h
    exact ⟨op, _, hop⟩
  · obtain ⟨op, hop⟩ := runOf_ones (f := f) h
    exact ⟨op, _, hop⟩

theorem runOf_splats (h : e.instr ∈ [.vsplat vd r, .vsplatImm vd n]) : ∃ v, runOf e f = .elems e.vl 1 (splatBody v e f) := by
  simp only [List.mem_cons, List.not_mem_nil, or_false] at h
  rcases h with h | h
  all_goals
    rw [runOf, h]
    exact ⟨_, rfl⟩

/-- VMVSX runs a splat's body on element 0 alone. -/
theorem runOf_vmvsx (h : e.instr = .vmvsx vd r) (hvl : 0 < e.vl) : runOf e f = .elems 1 1 (splatBody (e.scal 0).toNat e f) := by
  rw [runOf, h]
  exact congrArg (fun n => Run.elems n 1 _) (Nat.min_eq_right hvl)

/-! ### Inactive elements -/

section
variable {body : Nat → M Unit} {tags : List Byte}

/-- An entry whose element stays idle, in the terms of the statement. -/
theorem runsElem_idles (hrun : runOf e f = .elems e.vl 1 body) (h : Idles s f e i tags (body i)) :
    (e.mode ≠ 2 → RunsElem e f i s fun t => t = s) ∧ (e.mode = 2 → RunsElem e f i s (ElemPut s f e.cap.first (e.name 0) i 0 tags)) :=
  ⟨fun hm => ⟨body, s, hrun, h.1 hm, rfl⟩, fun hm => let ⟨t, ht, hp⟩ := h.2 hm; ⟨body, t, hrun, ht, hp⟩⟩

theorem Idles.of_eq {m m' : M Unit} (h : Idles s f e i tags m') (he : m s = m' s) : Idles s f e i tags m :=
  ⟨fun hm => he.trans (h.1 hm), fun hm => let ⟨t, ht, hp⟩ := h.2 hm; ⟨t, he.trans ht, hp⟩⟩

end

section
variable (hact : activeIn e.mode ((s.front f).mask e.act) i = false) (hdw : dEw (e.name 0) ≠ 7) (hd : s.srcClean f e 0 i)
include hact hdw hd

theorem idles_intElem (op : IntOp) (y : M Nat) :
    Idles s f e i ((elemCells (e.name 0) e.cap.first i).map fun _ => BitVec.ofNat 8 (intTag (dW (e.name 0)))) (intElem op f e i y) := by
  refine (idles_sameTag hdw hd _).of_eq ?_
  unfold intElem
  rw [bind_of_ok (isActive_eq false hact), if_neg Bool.false_ne_true]

theorem idles_splatBody (v : Nat) :
    Idles s f e i ((elemCells (e.name 0) e.cap.first i).map fun _ => BitVec.ofNat 8 (intTag (dW (e.name 0)))) (splatBody v e f i) := by
  refine (idles_sameTag hdw hd _).of_eq ?_
  unfold splatBody
  rw [bind_of_ok (isActive_eq false hact), if_neg Bool.false_ne_true]

theorem idle_int (h : e.instr ∈ intTwos vd va vb sm ++ intOnes vd va n ++ [.vsplat vd r, .vsplatImm vd n]) :
    let tags := (elemCells (e.name 0) e.cap.first i).map fun _ => BitVec.ofNat 8 (intTag (dW (e.name 0)))
    (e.mode ≠ 2 → RunsElem e f i s fun t => t = s) ∧ (e.mode = 2 → RunsElem e f i s (ElemPut s f e.cap.first (e.name 0) i 0 tags)) := by
  rcases List.mem_append.mp h with h | h
  · obtain ⟨op, y, hrun⟩ := runOf_int (f := f) h
    exact runsElem_idles hrun (idles_intElem hact hdw hd op (y i))
  · obtain ⟨v, hrun⟩ := runOf_splats (f := f) h
    exact runsElem_idles hrun (idles_splatBody hact hdw hd v)

theorem idle_bits (ha : s.srcClean f e 1 i) (hw : dW (e.name 1) = dW (e.name 0))
    (h : e.instr ∈ [.vand vd va vb sm, .vor vd va vb sm, .vxor vd va vb sm, .vmv vd va]) :
    (e.mode ≠ 2 → RunsElem e f i s fun t => t = s) ∧
      (e.mode = 2 → RunsElem e f i s (ElemPut s f e.cap.first (e.name 0) i 0 (s.srcTags f e 1 i))) := by
  have hidle : Idles s f e i (s.srcTags f e 1 i) (inactive f e 0 i (sourceTags f e 1 i)) := idles_sourceTags hdw hd ha hw
  have hrun : (∃ op, runOf e f = bitRun op sm e f) ∨ runOf e f = moveRun e f := by
    simp only [List.mem_cons, List.not_mem_nil, or_false] at h
    rcases h with h | h | h | h
    · exact .inl ⟨ivAnd, by rw [runOf, h]⟩
    · exact .inl ⟨ivOr, by rw [runOf, h]⟩
    · exact .inl ⟨ivXor, by rw [runOf, h]⟩
    · exact .inr (by rw [runOf, h])
  rcases hrun with ⟨op, hrun⟩ | hrun
  all_goals
    refine runsElem_idles hrun (hidle.of_eq ?_)
    rw [bind_of_ok (isActive_eq false hact), if_neg Bool.false_ne_true]

end

/-! ### Active elements -/

/-- The tags of va's cells fit the destination's cells. -/
theorem elemPut_srcTags (hdw : dEw (e.name 0) ≠ 7) (hw : dW (e.name 1) = dW (e.name 0)) (v : Nat) :
    ElemPut s f e.cap.first (e.name 0) i v (s.srcTags f e 1 i) (s.putAt f e.cap.first (e.name 0) i v ((s.srcTags f e 1 i).map some)) :=
  elemPut_copied hdw (by rw [State.srcTags, List.length_map, length_elemCells _ _ _ hw])

section
variable (hact : activeIn e.mode ((s.front f).mask e.act) i = true) (hdw : dEw (e.name 0) ≠ 7) (hd : s.srcClean f e 0 i)
include hact hdw hd

theorem splatBody_active (v : Nat) : ∃ t, splatBody v e f i s = .ok ((), t) ∧ ElemPut s f e.cap.first (e.name 0) i v
    ((elemCells (e.name 0) e.cap.first i).map fun _ => BitVec.ofNat 8 (intTag (dW (e.name 0)))) t := by
  refine ⟨_, ?_, elemPut_tagged (.inl hdw)⟩
  unfold splatBody
  rw [bind_of_ok (isActive_eq true hact), if_pos rfl]
  exact putElem_clean hd v _

section
variable (ha : s.srcClean f e 1 i) (hw : dW (e.name 1) = dW (e.name 0))
include ha hw

theorem move_active (hrun : runOf e f = moveRun e f) :
    RunsElem e f i s (ElemPut s f e.cap.first (e.name 0) i (s.srcElem f e 1 i) (s.srcTags f e 1 i)) := by
  refine ⟨_, _, hrun, ?_, elemPut_srcTags hdw hw _⟩
  rw [bind_of_ok (isActive_eq true hact), if_pos rfl, bind_of_ok (srcElem_clean ha), bind_of_ok (sourceTags_clean ha)]
  exact putElem_clean hd _ _

theorem bits_active {op : IntOp} (hb : ∀ q, modIndex sm e.vl i = some q → s.srcClean f e 2 q) (hrun : runOf e f = bitRun op sm e f) :
    RunsElem e f i s (ElemPut s f e.cap.first (e.name 0) i (op (dW (e.name 0)) (s.srcElem f e 1 i) (s.modElem f e 2 sm i)).1
      (s.srcTags f e 1 i)) := by
  refine ⟨_, _, hrun, ?_, elemPut_srcTags hdw hw _⟩
  rw [bind_of_ok (isActive_eq true hact), if_pos rfl, bind_of_ok (srcElem_clean ha), bind_of_ok (modSource_unchecked hb),
    bind_of_ok (sourceTags_clean ha)]
  exact putElem_clean hd _ _

variable (hint : s.srcInt f e 1 i) {body : Nat → M Unit} {op : IntOp} {y : M Nat} {v u : Nat} (hrun : runOf e f = .elems e.vl 1 body)
  (hbody : body i = intElem op f e i y) (hy : y s = .ok (v, s))
include hint hrun hbody hy

/-- An operation that does not saturate. -/
theorem int_active {u' : Nat} (hop : op (dW (e.name 0)) (s.srcElem f e 1 i) v = (u', false))
    (hu : u' % 2 ^ dW (e.name 0) = u % 2 ^ dW (e.name 0)) :
    RunsElem e f i s (ElemPut s f e.cap.first (e.name 0) i u (s.srcTags f e 1 i)) := by
  refine ⟨body, _, hrun, ?_, (elemPut_srcTags hdw hw u').congr hu⟩
  rw [hbody, intElem_active hact hd ha hint hy, hop, if_neg Bool.false_ne_true]

/-- One that may. -/
theorem sat_active {off : Bool} (hop : op (dW (e.name 0)) (s.srcElem f e 1 i) v = (u, off)) :
    RunsElem e f i s (ElemResult s f e (e.name 0) i u (s.srcTags f e 1 i) off 0) := by
  refine ⟨body, _, hrun, hbody ▸ intElem_active hact hd ha hint hy, _, elemPut_srcTags hdw hw u, ?_⟩
  rw [hop]
  cases off
  · exact noted_self _ f e i
  · exact noted_offended _ f e i

end

end

end

section
variable {s : State} {f i : Nat} {e : QEntry} {sm : BitVec 2} {vd va vb : VName} {r : SReg}

/-! ### VMERGE (R170) -/

section
variable (hdw : dEw (e.name 0) ≠ 7) (hd : s.srcClean f e 0 i) (hrun : runOf e f = mergeRun sm e f)
include hdw hd hrun

theorem merge_first (hm : ((s.front f).mask e.act).getLsbD i = true) (ha : s.srcClean f e 1 i) (hw : dW (e.name 1) = dW (e.name 0)) :
    RunsElem e f i s (ElemPut s f e.cap.first (e.name 0) i (s.srcElem f e 1 i) (s.srcTags f e 1 i)) := by
  refine ⟨_, _, hrun, ?_, elemPut_srcTags hdw hw _⟩
  rw [bind_of_ok (s := s) (t := s) rfl, if_pos hm, bind_of_ok (srcElem_clean ha), bind_of_ok (sourceTags_clean ha)]
  exact putElem_clean hd _ _

theorem merge_second (hm : ((s.front f).mask e.act).getLsbD i = false) {q : Nat} (hq : modIndex sm e.vl i = some q) (hb : s.srcClean f e 2 q)
    (hw : dW (e.name 2) = dW (e.name 0)) :
    RunsElem e f i s (ElemPut s f e.cap.first (e.name 0) i (s.srcElem f e 2 q) (s.srcTags f e 2 q)) := by
  refine ⟨_, _, hrun, ?_, elemPut_copied hdw (by rw [State.srcTags, List.length_map, length_elemCells _ _ _ hw])⟩
  rw [bind_of_ok (s := s) (t := s) rfl, hm, if_neg Bool.false_ne_true, hq]
  dsimp only
  rw [bind_of_ok (srcElem_clean hb), bind_of_ok (sourceTags_clean hb)]
  exact putElem_clean hd _ _

theorem merge_none (hm : ((s.front f).mask e.act).getLsbD i = false) (hq : modIndex sm e.vl i = none) :
    RunsElem e f i s (ElemPut s f e.cap.first (e.name 0) i 0 ((elemCells (e.name 0) e.cap.first i).map (s.core (f / 2)).tag)) := by
  refine ⟨_, _, hrun, ?_, elemPut_kept hdw⟩
  rw [bind_of_ok (s := s) (t := s) rfl, hm, if_neg Bool.false_ne_true, hq]
  exact putElem_clean hd _ _

end

/-! ### Values -/

section
variable {w x y : Nat}

theorem ivMinu_eq : ivMinu w x y = (min x y, false) := by rw [ivMinu, min_def]
theorem ivMaxu_eq : ivMaxu w x y = (max x y, false) := by rw [ivMaxu, max_def]
theorem ivSaddU_eq : ivSaddU w x y = clampTo w 0 (2 ^ w - 1) ((x : Int) + y) := by simp [ivSaddU]
theorem ivSsubU_eq : ivSsubU w x y = clampTo w 0 (2 ^ w - 1) ((x : Int) - y) := by simp [ivSsubU]

variable (hx : x < 2 ^ w) (hw : 0 < w)
include hx hw

theorem ivSra_eq : ivSra w x y = ((sInt w x / 2 ^ (y % w) % 2 ^ w).toNat, false) := by
  simp [ivSra, wrapTo, sgn_eq_sInt w hx hw]

variable (hy : y < 2 ^ w)
include hy

theorem ivMulh_eq : ivMulh w x y = ((sInt w x * sInt w y / 2 ^ w % 2 ^ w).toNat, false) := by
  simp [ivMulh, wrapTo, sgn_eq_sInt w hx hw, sgn_eq_sInt w hy hw]
theorem ivMin_eq : ivMin w x y = (if sInt w x ≤ sInt w y then x else y, false) := by simp [ivMin, sgn_eq_sInt w hx hw, sgn_eq_sInt w hy hw]
theorem ivMax_eq : ivMax w x y = (if sInt w x ≤ sInt w y then y else x, false) := by simp [ivMax, sgn_eq_sInt w hx hw, sgn_eq_sInt w hy hw]
theorem ivSadd_eq : ivSadd w x y = clampTo w (-2 ^ (w - 1)) (2 ^ (w - 1) - 1) (sInt w x + sInt w y) := by
  simp [ivSadd, sgn_eq_sInt w hx hw, sgn_eq_sInt w hy hw]
theorem ivSsub_eq : ivSsub w x y = clampTo w (-2 ^ (w - 1)) (2 ^ (w - 1) - 1) (sInt w x - sInt w y) := by
  simp [ivSsub, sgn_eq_sInt w hx hw, sgn_eq_sInt w hy hw]

end

/-! ### Instructions of two sources -/

theorem srcElem_lt {k : Nat} (hw : dW (e.name k) = dW (e.name 0)) : s.srcElem f e k i < 2 ^ dW (e.name 0) := by
  rw [← hw]
  exact elem_lt _ _ _

theorem modElem_lt {k : Nat} (hw : dW (e.name k) = dW (e.name 0)) : s.modElem f e k sm i < 2 ^ dW (e.name 0) := by
  unfold State.modElem
  cases modIndex sm e.vl i with
  | none => exact Nat.two_pow_pos _
  | some q => exact srcElem_lt hw

section
variable (s : State) (f i : Nat) (e : QEntry)

/-- The instruction writes `v` with the tags of va's cells. -/
def PutsElem (ins : Instr) (v : Nat) : Prop :=
  e.instr = ins → RunsElem e f i s (ElemPut s f e.cap.first (e.name 0) i v (s.srcTags f e 1 i))

/-- The instruction writes `v` kept between two bounds, and offends where it lies beyond them. -/
def SatsElem (ins : Instr) (lo hi v : Int) : Prop :=
  e.instr = ins → RunsElem e f i s (ElemResult s f e (e.name 0) i
    ((if v < lo then lo else if hi < v then hi else v) % 2 ^ dW (e.name 0)).toNat (s.srcTags f e 1 i) (decide (v < lo ∨ hi < v)) 0)

end

section
variable (hact : activeIn e.mode ((s.front f).mask e.act) i = true) (hdw : dEw (e.name 0) ≠ 7) (hd : s.srcClean f e 0 i)
  (ha : s.srcClean f e 1 i) (hw : dW (e.name 1) = dW (e.name 0)) (hA : s.srcInt f e 1 i)
include hact hdw hd ha hw hA

theorem shiftImm_active {n : BitVec 8} {op : IntOp} {u u' : Nat} (hrun : runOf e f = shiftImmRun op n e f)
    (hop : op (dW (e.name 0)) (s.srcElem f e 1 i) n.toNat = (u', false)) (hu : u' % 2 ^ dW (e.name 0) = u % 2 ^ dW (e.name 0)) :
    RunsElem e f i s (ElemPut s f e.cap.first (e.name 0) i u (s.srcTags f e 1 i)) :=
  int_active hact hdw hd ha hw hA hrun rfl (y := pure n.toNat) rfl hop hu

theorem shifts_active (n : BitVec 8) :
    let w := dW (e.name 0)
    let x := s.srcElem f e 1 i
    PutsElem s f i e (.vshlImm vd va n) (x * 2 ^ (n.toNat % w)) ∧ PutsElem s f i e (.vshrImm vd va n) (x / 2 ^ (n.toNat % w)) ∧
    PutsElem s f i e (.vsraImm vd va n) (sInt w x / 2 ^ (n.toNat % w) % 2 ^ w).toNat := by
  intro w x
  have hx : x < 2 ^ w := srcElem_lt hw
  refine ⟨fun h => ?_, fun h => ?_, fun h => ?_⟩
  · exact shiftImm_active hact hdw hd ha hw hA (op := ivShl) (by rw [runOf, h]) rfl (Nat.mod_mod _ _)
  · exact shiftImm_active hact hdw hd ha hw hA (op := ivShr) (by rw [runOf, h]) rfl rfl
  · exact shiftImm_active hact hdw hd ha hw hA (op := ivSra) (by rw [runOf, h]) (ivSra_eq hx (Nat.two_pow_pos _)) rfl

variable (hb : ∀ q, modIndex sm e.vl i = some q → s.srcClean f e 2 q) (hB : ∀ q, modIndex sm e.vl i = some q → s.srcInt f e 2 q)
include hb hB

theorem two_active {op : IntOp} {u u' : Nat} (hrun : runOf e f = intRun op sm e f)
    (hop : op (dW (e.name 0)) (s.srcElem f e 1 i) (s.modElem f e 2 sm i) = (u', false)) (hu : u' % 2 ^ dW (e.name 0) = u % 2 ^ dW (e.name 0)) :
    RunsElem e f i s (ElemPut s f e.cap.first (e.name 0) i u (s.srcTags f e 1 i)) :=
  int_active hact hdw hd ha hw hA hrun rfl (modSource_pass hb hB) hop hu

theorem two_saturating {op : IntOp} {lo hi v : Int} (hrun : runOf e f = intRun op sm e f)
    (hop : op (dW (e.name 0)) (s.srcElem f e 1 i) (s.modElem f e 2 sm i) = clampTo (dW (e.name 0)) lo hi v) :
    RunsElem e f i s (ElemResult s f e (e.name 0) i ((if v < lo then lo else if hi < v then hi else v) % 2 ^ dW (e.name 0)).toNat
      (s.srcTags f e 1 i) (decide (v < lo ∨ hi < v)) 0) := by
  rw [clampTo_eq, wrapTo_eq] at hop
  exact sat_active hact hdw hd ha hw hA hrun rfl (modSource_pass hb hB) hop

theorem twos_active (hw2 : dW (e.name 2) = dW (e.name 0)) :
    let w := dW (e.name 0)
    let x := s.srcElem f e 1 i
    let y := s.modElem f e 2 sm i
    PutsElem s f i e (.vadd vd va vb sm) (x + y) ∧ PutsElem s f i e (.vsub vd va vb sm) (((x : Int) - y) % 2 ^ w).toNat ∧
    PutsElem s f i e (.vmul vd va vb sm) (x * y) ∧ PutsElem s f i e (.vmulh vd va vb sm) (sInt w x * sInt w y / 2 ^ w % 2 ^ w).toNat ∧
    PutsElem s f i e (.vmin vd va vb sm) (if sInt w x ≤ sInt w y then x else y) ∧
    PutsElem s f i e (.vmax vd va vb sm) (if sInt w x ≤ sInt w y then y else x) ∧
    PutsElem s f i e (.vminu vd va vb sm) (min x y) ∧ PutsElem s f i e (.vmaxu vd va vb sm) (max x y) ∧
    PutsElem s f i e (.vshl vd va vb sm) (x * 2 ^ (y % w)) ∧ PutsElem s f i e (.vshr vd va vb sm) (x / 2 ^ (y % w)) ∧
    PutsElem s f i e (.vsra vd va vb sm) (sInt w x / 2 ^ (y % w) % 2 ^ w).toNat ∧
    SatsElem s f i e (.vsadd vd va vb sm) (-2 ^ (w - 1)) (2 ^ (w - 1) - 1) (sInt w x + sInt w y) ∧
    SatsElem s f i e (.vssub vd va vb sm) (-2 ^ (w - 1)) (2 ^ (w - 1) - 1) (sInt w x - sInt w y) ∧
    SatsElem s f i e (.vsaddU vd va vb sm) 0 (2 ^ w - 1) (x + y) ∧ SatsElem s f i e (.vssubU vd va vb sm) 0 (2 ^ w - 1) ((x : Int) - y) := by
  intro w x y
  have hx : x < 2 ^ w := srcElem_lt hw
  have hy : y < 2 ^ w := modElem_lt hw2
  have h0 : 0 < w := Nat.two_pow_pos _
  have puts {op : IntOp} {u u' : Nat} (hrun : runOf e f = intRun op sm e f) := two_active hact hdw hd ha hw hA hb hB (u := u) (u' := u') hrun
  have sats {op : IntOp} {lo hi v : Int} (hrun : runOf e f = intRun op sm e f) :=
    two_saturating hact hdw hd ha hw hA hb hB (lo := lo) (hi := hi) (v := v) hrun
  refine ⟨fun h => ?_, fun h => ?_, fun h => ?_, fun h => ?_, fun h => ?_, fun h => ?_, fun h => ?_, fun h => ?_, fun h => ?_, fun h => ?_,
    fun h => ?_, fun h => ?_, fun h => ?_, fun h => ?_, fun h => ?_⟩
  · exact puts (op := ivAdd) (by rw [runOf, h]) rfl (Nat.mod_mod _ _)
  · exact puts (op := ivSub) (by rw [runOf, h]) rfl (congrArg (· % 2 ^ w) (wrapTo_eq w _))
  · exact puts (op := ivMul) (by rw [runOf, h]) rfl (Nat.mod_mod _ _)
  · exact puts (op := ivMulh) (by rw [runOf, h]) (ivMulh_eq hx h0 hy) rfl
  · exact puts (op := ivMin) (by rw [runOf, h]) (ivMin_eq hx h0 hy) rfl
  · exact puts (op := ivMax) (by rw [runOf, h]) (ivMax_eq hx h0 hy) rfl
  · exact puts (op := ivMinu) (by rw [runOf, h]) ivMinu_eq rfl
  · exact puts (op := ivMaxu) (by rw [runOf, h]) ivMaxu_eq rfl
  · exact puts (op := ivShl) (by rw [runOf, h]) rfl (Nat.mod_mod _ _)
  · exact puts (op := ivShr) (by rw [runOf, h]) rfl rfl
  · exact puts (op := ivSra) (by rw [runOf, h]) (ivSra_eq hx h0) rfl
  · exact sats (op := ivSadd) (by rw [runOf, h]) (ivSadd_eq hx h0 hy)
  · exact sats (op := ivSsub) (by rw [runOf, h]) (ivSsub_eq hx h0 hy)
  · exact sats (op := ivSaddU) (by rw [runOf, h]) ivSaddU_eq
  · exact sats (op := ivSsubU) (by rw [runOf, h]) ivSsubU_eq

end

end

end Sys2Proof.Machine
end

section
/-! PROOFS. Whole names (R163 to R165), and the integer elements (O50). -/

namespace Sys2Proof.Machine

/-! ### The cells of a name (R163) -/

theorem mem_dedup (l : List Nat) (q : Nat) : q ∈ dedup l ↔ q ∈ l := by
  induction l using dedup.induct with
  | case1 => rfl
  | case2 a => rfl
  | case3 a r ih => rw [dedup, if_pos rfl, ih]; simp
  | case4 a b r h ih => rw [dedup, if_neg h, List.mem_cons, ih, ← List.mem_cons (l := b :: r)]

theorem mem_cellList (e : Word) (first q : Nat) :
    q ∈ cellList e first ↔ ((List.range (dCap e)).any fun i => (elemCells e first i).contains q) = true := by
  simp [cellList, mem_dedup]

/-! ### Cores changed, and their rows marked -/

section
variable (s : State) (f : Nat) (g : Core → Core) (cells : List Nat)

/-- The front's core changed, and the rows of the cells marked in its dirty map. -/
def State.putCells : State := (s.modCore (f / 2) g).modFront f fun y => y.markRows cells

theorem core_putCells : (s.putCells f g cells).core (f / 2) = g (s.core (f / 2)) := by simp [State.putCells]
theorem sameBytes_putCells : SameBytes s (s.putCells f g cells) := fun _ => rfl

theorem fronts_putCells : { (s.putCells f g cells).front f with dirty := 0 } = { s.front f with dirty := 0 } ∧
    (∀ h, h ≠ f → (s.putCells f g cells).front h = s.front h) ∧
    ∀ row, row < 512 → ((s.putCells f g cells).front f).dirty.getLsbD row = ((s.front f).dirty.getLsbD row || cells.any fun q => q / 64 == row) := by
  refine ⟨?_, fun h hh => ?_, fun row hr => ?_⟩
  · rw [State.putCells, front_modFront_self]; rfl
  · rw [State.putCells, front_modFront_other _ _ hh]; rfl
  · rw [State.putCells, front_modFront_self, dirty_markRows _ _ hr]; rfl

end

/-! ### RETAG (R163) -/

theorem tag_foldl_setTag (x : Core) (cells : List Nat) (t : Byte) (q : Nat) :
    (cells.foldl (fun x c => x.setTag c t) x).tag q = if q ∈ cells then t else x.tag q := by
  induction cells generalizing x with
  | nil => simp
  | cons c r ih =>
    rw [List.foldl_cons, ih, tag_setTag]
    by_cases hr : q ∈ r
    · simp [hr]
    · by_cases hc : q = c <;> simp [hr, hc]

theorem plane_foldl_setTag (x : Core) (cells : List Nat) (t : Byte) : (cells.foldl (fun x c => x.setTag c t) x).plane = x.plane :=
  List.foldlRecOn (motive := fun y : Core => y.plane = x.plane) _ _ rfl fun _ hy _ _ => hy

/-! ### PLZERO (R163) -/

theorem forUp_zero {f first : Nat} {d : Word} {n i : Nat} {s : State} (h : ∀ j, i ≤ j → j < i + n → (s.core (f / 2)).clean d first j) :
    ∃ t, forUp n i (fun i => putTagged f first d i 0 0) s = .ok ((), t) ∧
      Chain (fun i u v => ElemPut u f first d i 0 ((elemCells d first i).map fun _ => 0) v) n i s t := by
  induction n generalizing i s with
  | zero => exact ⟨s, rfl, rfl⟩
  | succ n ih =>
    obtain ⟨t, ht, hc⟩ := ih (i := i + 1) (s := s.putAt f first d i 0 [some 0, some 0]) fun j h1 h2 => clean_putAt (h j (by omega) (by omega))
    refine ⟨t, ?_, _, elemPut_tagged (.inr rfl), hc⟩
    have hput : putTagged f first d i 0 0 s = .ok ((), s.putAt f first d i 0 [some 0, some 0]) :=
      putElem_clean (h i (Nat.le_refl i) (by omega)) 0 _
    rw [forUp, bind_of_ok hput]
    exact ht

/-! ### The record of a name (R164, R165) -/

theorem recordCheck_align {e : QEntry} {f : Nat} {need : Need} {s : State} (h : (e.scal 0).toNat % 4 ≠ 0) :
    recordCheck e f need s = .error (.trap ⟨ALIGN, 2, 0, (e.scal 0).toNat, 0⟩) := by
  rw [recordCheck]
  dsimp only
  rw [if_pos h]
  rfl

/-- A translation fills TLBs, and makes records of its walk, and changes no front. -/
theorem front_tlbFor {s t : State} {f asid va : Nat} {l : Tlb} (h : tlbFor s f asid va = .ok (l, t)) (g : Nat) : t.front g = s.front g := by
  have hdrop (u : State) (c : Nat) (l : Tlb) : (dropTlb2 u c l).front g = u.front g := by
    unfold dropTlb2
    split
    · rfl
    · unfold hotAppend ringAppend
      dsimp only
      split
      · rfl
      · split <;> rfl
  have hfill (u : State) (c : Nat) (l : Tlb) : (fillTlb2 u c l).front g = u.front g := by
    unfold fillTlb2
    split
    · rfl
    · split
      · rfl
      · rw [front_setTlb2, hdrop]
  unfold tlbFor at h
  split at h
  · cases h; rfl
  · split at h
    · cases h; rfl
    · split at h
      · cases h
        exact (hfill _ _ _).trans (front_logWalk ..)
      · cases h

theorem front_translate {c : Ctx} {va : Nat} {need : Need} {s t : State} {l : Loc} (h : translate c va need s = .ok (l, t)) (g : Nat) :
    t.front g = s.front g := by
  unfold translate at h
  split at h
  · cases h; rfl
  · split at h
    · cases h
    · obtain ⟨u, _, h1, h⟩ := bind_ok_inv h
      cases h1
      cases hl : tlbFor s c.fid c.asid va with
      | error n =>
        simp only [hl] at h
        cases h
      | ok p =>
        obtain ⟨l', s'⟩ := p
        simp only [hl] at h
        obtain ⟨_, _, h2, h⟩ := bind_ok_inv h
        cases h2
        cases hc : leafCheck s' c.user need l' va with
        | error n =>
          simp only [hc] at h
          cases h
        | ok m =>
          simp only [hc] at h
          cases h
          exact front_tlbFor hl g

theorem front_touchPages {c : Ctx} {need : Need} {va n fuel : Nat} {s t : State} (h : touchPages c need va n fuel s = .ok ((), t)) (g : Nat) :
    t.front g = s.front g := by
  induction fuel generalizing va n s with
  | zero => cases h; rfl
  | succ k ih =>
    rw [touchPages] at h
    split at h
    · cases h; rfl
    · obtain ⟨l, u, h1, h2⟩ := bind_ok_inv h
      exact (ih h2).trans (front_translate h1 g)

theorem front_recordCheck {e : QEntry} {f : Nat} {need : Need} {s t : State} (h : recordCheck e f need s = .ok ((), t)) (g : Nat) :
    t.front g = s.front g := by
  by_cases hb : (e.scal 0).toNat % 4 = 0
  · rw [recordCheck] at h
    dsimp only at h
    rw [if_neg (by simpa using hb)] at h
    obtain ⟨u, _, h1, h2⟩ := bind_ok_inv h
    cases h1
    exact front_touchPages h2 g
  · rw [recordCheck_align hb] at h
    cases h

theorem length_readRecord {c : Ctx} {va size n : Nat} {s t : State} {l : List Nat} (h : readRecord c va size n s = .ok (l, t)) : l.length = n := by
  induction n generalizing va s l with
  | zero => cases h; rfl
  | succ k ih =>
    rw [readRecord] at h
    obtain ⟨v, u, -, h⟩ := bind_ok_inv h
    obtain ⟨r, w, hr, h⟩ := bind_ok_inv h
    cases h
    rw [List.length_cons, ih hr]

/-- A cell with its tag loaded. -/
def Core.loadCell (x : Core) (p : Nat × Nat × Nat) : Core := (x.setCell p.1 (BitVec.ofNat 32 p.2.1) true).setTag p.1 (BitVec.ofNat 8 p.2.2)

theorem cell_loadCell (x : Core) (p : Nat × Nat × Nat) (q : Nat) :
    (x.loadCell p).cell q = if q = p.1 then BitVec.ofNat 32 p.2.1 else x.cell q := cell_setCell x p.1 q _ true
theorem tag_loadCell (x : Core) (p : Nat × Nat × Nat) (q : Nat) :
    (x.loadCell p).tag q = if q = p.1 then BitVec.ofNat 8 p.2.2 else x.tag q := tag_setTag _ p.1 q _

/-- Cells that are not loaded are as before. -/
theorem foldl_loadCell_other (x : Core) {l : List (Nat × Nat × Nat)} {q : Nat} (h : q ∉ l.map Prod.fst) :
    (l.foldl Core.loadCell x).cell q = x.cell q ∧ (l.foldl Core.loadCell x).tag q = x.tag q := by
  induction l generalizing x with
  | nil => exact ⟨rfl, rfl⟩
  | cons p r ih =>
    obtain ⟨hp, hr⟩ := not_or.mp (List.mem_cons.not.mp h)
    obtain ⟨hcell, htag⟩ := ih (x.loadCell p) hr
    exact ⟨by rw [List.foldl_cons, hcell, cell_loadCell, if_neg hp], by rw [List.foldl_cons, htag, tag_loadCell, if_neg hp]⟩

theorem foldl_loadCell (x : Core) {l : List (Nat × Nat × Nat)} (hn : (l.map Prod.fst).Nodup) {p : Nat × Nat × Nat} (hp : p ∈ l) :
    (l.foldl Core.loadCell x).cell p.1 = BitVec.ofNat 32 p.2.1 ∧ (l.foldl Core.loadCell x).tag p.1 = BitVec.ofNat 8 p.2.2 := by
  induction l generalizing x with
  | nil => cases hp
  | cons a r ih =>
    obtain ⟨ha, hr⟩ := List.nodup_cons.mp hn
    rcases List.mem_cons.mp hp with rfl | hp
    · obtain ⟨hcell, htag⟩ := foldl_loadCell_other (x.loadCell p) ha
      exact ⟨by rw [List.foldl_cons, hcell, cell_loadCell, if_pos rfl], by rw [List.foldl_cons, htag, tag_loadCell, if_pos rfl]⟩
    · exact ih (x.loadCell a) hr hp

/-! ### The instructions on whole names -/

section
variable {s : State} {f : Nat} {e : QEntry} {vd : VName} {r : SReg} {tag : Byte}

theorem retag_runs (h : e.instr = .retag vd tag) : RunsWhole e f s fun u => u = s.putCells f
    (fun x => (cellList (e.name 0) e.cap.first).foldl (fun x c => x.setTag c tag) x) (cellList (e.name 0) e.cap.first) :=
  ⟨_, _, by rw [runOf, h]; rfl, rfl, rfl⟩

theorem plload_runs (h : e.instr = .plload vd r) {t u v : State} {ws ts : List Nat} (hcheck : recordCheck e f .read s = .ok ((), t))
    (hws : readRecord (e.ctx s f) (e.scal 0).toNat 4 (cellList (e.name 0) e.cap.first).length t = .ok (ws, u))
    (hts : readRecord (e.ctx s f) ((e.scal 0).toNat + 4 * (cellList (e.name 0) e.cap.first).length) 1
      (cellList (e.name 0) e.cap.first).length u = .ok (ts, v)) (hok : ∀ x ∈ ts, tagOk x = true) :
    RunsWhole e f s fun z => z = v.putCells f
      (fun x => ((cellList (e.name 0) e.cap.first).zip (ws.zip ts)).foldl Core.loadCell x) (cellList (e.name 0) e.cap.first) := by
  have hctx : e.ctx t f = e.ctx s f := by simp only [QEntry.ctx, front_recordCheck hcheck]
  have hnone : (ts.zipIdx.find? fun p => !tagOk p.1) = none := by
    rw [List.find?_eq_none]
    intro p hp
    simp [hok p.1 (List.fst_mem_of_mem_zipIdx hp)]
  refine ⟨_, _, by rw [runOf, h]; rfl, ?_, rfl⟩
  rw [bind_of_ok hcheck, bind_of_ok (s := t) (t := t) rfl]
  rw [hctx, bind_of_ok hws, bind_of_ok hts, hnone]
  rfl

/-- The cells loaded hold the words and tags read, in order. -/
theorem loaded_cells (x : Core) {cells ws ts : List Nat} (hn : cells.Nodup) (hw : ws.length = cells.length) (ht : ts.length = cells.length) {i q : Nat}
    (hq : cells[i]? = some q) : ((cells.zip (ws.zip ts)).foldl Core.loadCell x).cell q = BitVec.ofNat 32 (ws.getD i 0) ∧
      ((cells.zip (ws.zip ts)).foldl Core.loadCell x).tag q = BitVec.ofNat 8 (ts.getD i 0) := by
  have hi : i < cells.length := (List.getElem?_eq_some_iff.mp hq).1
  have hfst : (cells.zip (ws.zip ts)).map Prod.fst = cells := List.map_fst_zip (by simp [hw, ht])
  have hwi : ws[i]? = some (ws.getD i 0) := by rw [List.getD_eq_getElem?_getD, List.getElem?_eq_getElem (hw ▸ hi)]; rfl
  have hti : ts[i]? = some (ts.getD i 0) := by rw [List.getD_eq_getElem?_getD, List.getElem?_eq_getElem (ht ▸ hi)]; rfl
  have hmem : (q, ws.getD i 0, ts.getD i 0) ∈ cells.zip (ws.zip ts) :=
    List.mem_of_getElem? (List.getElem?_zip_eq_some.mpr ⟨hq, List.getElem?_zip_eq_some.mpr ⟨hwi, hti⟩⟩)
  exact foldl_loadCell x (hfst.symm ▸ hn) hmem

theorem loaded_other (x : Core) {cells : List Nat} (l : List (Nat × Nat)) {q : Nat} (h : q ∉ cells) :
    ((cells.zip l).foldl Core.loadCell x).cell q = x.cell q ∧ ((cells.zip l).foldl Core.loadCell x).tag q = x.tag q := by
  refine foldl_loadCell_other x fun hq => h ?_
  obtain ⟨p, hp, rfl⟩ := List.mem_map.mp hq
  exact (List.of_mem_zip hp).1

end

section
variable {s : State} {f i : Nat} {e : QEntry} {sm : BitVec 2} {n : BitVec 8} {vd va vb : VName}

theorem srcInt_iff (hdw : dEw (e.name 0) ≠ 7) {k : Nat} : s.srcInt f e k i ↔
    ∀ c ∈ elemCells (e.name k) e.cap.first i, 8 ≤ dW (e.name 0) ∧
      (((s.core (f / 2)).tag c).toNat = intTag (dW (e.name 0)) ∨ ((s.core (f / 2)).tag c).toNat = intTag (dW (e.name 0)) + 1) := by
  simp only [State.srcInt, isIntTag_iff hdw]

/-! ### Tags that are none of the width's integers (R157) -/

section
variable (hact : activeIn e.mode ((s.front f).mask e.act) i = true) (ha : s.srcClean f e 1 i)
include hact ha

theorem int_format (hA : ¬ s.srcInt f e 1 i) (h : e.instr ∈ intTwos vd va vb sm ++ intOnes vd va n) : StopsElem e f i s ⟨5, 0, i, 0, 0⟩ := by
  obtain ⟨op, y, hrun⟩ := runOf_int (f := f) h
  exact ⟨_, hrun, intElem_format hact ha hA⟩

theorem two_format {q : Nat} (hA : s.srcInt f e 1 i) (hm : modIndex sm e.vl i = some q) (hb : s.srcClean f e 2 q) (hB : ¬ s.srcInt f e 2 q)
    (h : e.instr ∈ intTwos vd va vb sm) : StopsElem e f i s ⟨5, 0, i, 0, 0⟩ := by
  obtain ⟨op, hrun⟩ := runOf_twos (f := f) h
  exact ⟨_, hrun, intElem_stops hact ha hA (modSource_fail hm hb hB)⟩

end

end

/-- Settles O50: an element's body reads clean sources, checks their tags, and writes one element; the instructions on whole names go through the cell list. -/
theorem integerElements : Obligations.IntegerElements := by
  unfold Obligations.IntegerElements
  refine ⟨?elements, ?names⟩
  case elements =>
    intro s f i e vd va vb sm n r k hdw hvl hd
    rw [← modIndex_eq hvl]
    refine ⟨fun hact => ⟨?bits, ?move, ?twos, ?ones, ?formatA, ?formatB, ?splat, ?splatImm⟩, fun hact => ⟨?idleInt, ?idleBits⟩,
      fun h0 h => ?first, fun h htwo => ⟨?mergeA, ?mergeB, ?mergeNone⟩⟩
    case bits =>
      rintro ⟨⟨hw, ha⟩, -, hb⟩
      have bits {op : IntOp} (hrun : runOf e f = bitRun op sm e f) := bits_active hact hdw hd ha hw hb hrun
      exact ⟨fun h => bits (op := ivAnd) (by rw [runOf, h]), fun h => bits (op := ivOr) (by rw [runOf, h]),
        fun h => bits (op := ivXor) (by rw [runOf, h])⟩
    case move => exact fun ⟨hw, ha⟩ h => move_active hact hdw hd ha hw (by rw [runOf, h])
    case twos =>
      rintro ⟨⟨hw, ha⟩, hw2, hb⟩ hA hB
      exact twos_active hact hdw hd ha hw ((srcInt_iff hdw).mpr hA) hb (fun q hq => (srcInt_iff hdw).mpr (hB q hq)) hw2
    case ones => exact fun ⟨hw, ha⟩ hA => shifts_active hact hdw hd ha hw ((srcInt_iff hdw).mpr hA) n
    case formatA => exact fun ⟨_, ha⟩ hA ins hins h => int_format hact ha (fun hi => hA ((srcInt_iff hdw).mp hi)) (h ▸ hins)
    case formatB =>
      rintro ⟨⟨-, ha⟩, -, hb⟩ hA hB ins hins h
      obtain ⟨q, hq⟩ := not_forall.mp hB
      obtain ⟨hm, hq⟩ := Classical.not_imp.mp hq
      exact two_format hact ha ((srcInt_iff hdw).mpr hA) hm (hb q hm) (fun hi => hq ((srcInt_iff hdw).mp hi)) (h ▸ hins)
    case splat =>
      intro h
      obtain ⟨t, ht, hp⟩ := splatBody_active hact hdw hd (e.scal 0).toNat
      exact ⟨splatBody _ e f, t, by rw [runOf, h]; rfl, ht, hp⟩
    case splatImm =>
      intro h
      obtain ⟨t, ht, hp⟩ := splatBody_active hact hdw hd (n.signExtend 64).toNat
      exact ⟨splatBody _ e f, t, by rw [runOf, h]; rfl, ht, hp⟩
    case idleInt => exact fun ins hins h => idle_int hact hdw hd (h ▸ hins)
    case idleBits => exact fun ⟨hw, ha⟩ ins hins h => idle_bits hact hdw hd ha hw (h ▸ hins)
    case first =>
      subst h0
      refine ⟨fun hact => ?_, fun hact hm => ?_, fun hact hm => ?_⟩
      · obtain ⟨t, ht, hp⟩ := splatBody_active hact hdw hd (e.scal 0).toNat
        exact ⟨_, t, runOf_vmvsx h hvl, ht, hp⟩
      · exact ⟨_, s, runOf_vmvsx h hvl, (idles_splatBody hact hdw hd _).1 hm, rfl⟩
      · obtain ⟨t, ht, hp⟩ := (idles_splatBody hact hdw hd (e.scal 0).toNat).2 hm
        exact ⟨_, t, runOf_vmvsx h hvl, ht, hp⟩
    case mergeA =>
      obtain ⟨⟨hw, ha⟩, -⟩ := htwo
      exact fun hm => merge_first hdw hd (by rw [runOf, h]) hm ha hw
    case mergeB =>
      obtain ⟨-, hw2, hb⟩ := htwo
      intro hm q hq
      have := merge_second hdw hd (by rw [runOf, h]) hm hq (hb q hq) hw2
      rw [hq]
      exact this
    case mergeNone => exact fun hm hq => merge_none hdw hd (by rw [runOf, h]) hm hq
  case names =>
    intro s t f e vd r tag k d o cells n base c In Fronts
    have hmem (q : Nat) : q ∈ cells ↔ In q = true := mem_cellList d o q
    refine ⟨hmem, fun h => ?retag, fun h hclean => ?plzero, fun h => ?plsave, fun h => ⟨fun hb => ?plloadAlign, ?plload⟩⟩
    case retag =>
      obtain ⟨m, u, hrun, hm, rfl⟩ := retag_runs (s := s) (f := f) h
      refine ⟨m, _, hrun, hm, fun q => ?_, ?_, fronts_putCells s f _ _, sameBytes_putCells s f _ _⟩
      · rw [core_putCells, tag_foldl_setTag]
        exact if_congr (hmem q) rfl rfl
      · rw [core_putCells, plane_foldl_setTag]
    case plzero =>
      obtain ⟨t, ht, hc⟩ := forUp_zero (n := dCap d) (i := 0) (s := s) fun j _ hj => hclean j (by omega)
      exact ⟨_, t, by rw [runOf, h]; rfl, ht, hc⟩
    case plsave =>
      refine ⟨_, _, by rw [runOf, h]; rfl, fun hb => recordCheck_align hb, fun i q u v hq hbad hu hv => ?_⟩
      have hget : (cellList (e.name 0) e.cap.first).getD i 0 = q := by rw [List.getD_eq_getElem?_getD, hq]; rfl
      have hclean : badCell? (s.core (coreOf f)) [q] true = none := hbad
      rw [bind_of_ok (s := s) (t := s) rfl]
      simp only [hget, hclean]
      rw [bind_of_ok (s := s) (t := s) rfl]
      exact (bind_of_ok hu).trans hv
    case plloadAlign => 
      exact ⟨_, by rw [runOf, h]; rfl, bind_of_error (recordCheck_align hb)⟩
    case plload =>
      intro u v ws ts _ hnodup hcheck hws hts hok
      obtain ⟨m, z, hrun, hm, rfl⟩ := plload_runs h hcheck hws hts hok
      refine ⟨m, _, hrun, hm, fun i q hq => ?_, fun q hq => ?_, fronts_putCells v f _ _, sameBytes_putCells v f _ _⟩
      · rw [core_putCells]
        exact loaded_cells _ hnodup (length_readRecord hws) (length_readRecord hts) hq
      · rw [core_putCells]
        exact loaded_other _ _ fun hc => by rw [(hmem q).mp hc] at hq; cases hq

end Sys2Proof.Machine
end

section
/-! PROOFS. Elements of the floating-point vector instructions (R82, R177 to R180). -/

namespace Sys2Proof.Machine

/-! ### Flags and offender bits (R66, R82) -/

section
variable {s t u : State} {f i : Nat} {e : QEntry}

/-- The state with flags ORed into the front's FFLAGS. -/
def State.flagged (s : State) (f fl : Nat) : State := s.modFront f fun x => x.orFlags fl

theorem orFlagsM_eq (s : State) (f fl : Nat) : orFlagsM f fl s = .ok ((), s.flagged f fl) := rfl

theorem Noted.flagged {off : Bool} (h : Noted f e i off 0 s t) (fl : Nat) : Noted f e i off fl s (t.flagged f fl) where
  rest := h.rest.trans (onlyFront_modFront _ _ _)
  front := by rw [State.flagged, front_modFront_self]; exact h.front
  fflags := by
    have hor : (t.front f).fflags = (s.front f).fflags := h.fflags.trans BitVec.or_zero
    rw [State.flagged, front_modFront_self, ← hor]
    rfl
  masks m q hq := by rw [State.flagged, front_modFront_self]; exact h.masks m q hq

/-- What a converted element leaves after its write: its offender bit and its flags. -/
theorem putConverted_noted {r : SatRes} {write : Nat → M Unit} (h : write r.code s = .ok ((), u)) :
    ∃ t, putConverted f e i r write s = .ok ((), t) ∧ Noted f e i r.off r.flags u t := by
  unfold putConverted
  rw [bind_of_ok h]
  cases r.off with
  | false => exact ⟨u.flagged f r.flags, rfl, (noted_self u f e i).flagged _⟩
  | true =>
    refine ⟨(u.offended f e i).flagged f r.flags, ?_, (noted_offended u f e i).flagged _⟩
    rw [if_pos rfl, bind_of_ok (offend_eq u f e i)]
    exact orFlagsM_eq _ f _

end

/-! ### Sources with one tag (R64) -/

/-- The cells of element `i` of operand `k` have the tag `t`. -/
def State.srcTag (s : State) (f : Nat) (e : QEntry) (k i t : Nat) : Prop :=
  ∀ c ∈ elemCells (e.name k) e.cap.first i, ((s.core (f / 2)).tag c).toNat = t

section
variable {s : State} {f first i t : Nat} {d : Word}

theorem checkTag_pass (h : (s.core (f / 2)).clean d first i) (ht : ∀ c ∈ elemCells d first i, ((s.core (f / 2)).tag c).toNat = t) :
    checkTags f first d i (· == t) s = .ok ((), s) :=
  checkTags_pass h fun c hc => beq_iff_eq.mpr (ht c hc)

theorem checkTag_fail (h : (s.core (f / 2)).clean d first i) (ht : ¬ ∀ c ∈ elemCells d first i, ((s.core (f / 2)).tag c).toNat = t) :
    checkTags f first d i (· == t) s = .error (.trap ⟨FORMAT, 0, i, 0, 0⟩) :=
  checkTags_fail h fun hc => ht fun c hm => beq_iff_eq.mp (hc c hm)

/-- An element written with one tag, and flags added. -/
theorem putFlagged_clean (h : (s.core (f / 2)).clean d first i) (r : Nat × Nat) (t : Nat) :
    (do putTagged f first d i r.1 t; orFlagsM f r.2 : M Unit) s =
      .ok ((), (s.putAt f first d i r.1 [some (BitVec.ofNat 8 t), some (BitVec.ofNat 8 t)]).flagged f r.2) :=
  bind_of_ok (putElem_clean h r.1 _)

end

/-! ### One element (R177) -/

/-- One tag for every cell of the destination's element. -/
def QEntry.dstTags (e : QEntry) (i t : Nat) : List Byte := (elemCells (e.name 0) e.cap.first i).map fun _ => BitVec.ofNat 8 t

section
variable {s : State} {f i : Nat} {e : QEntry} {op : FloatOp} {bf three : Bool} {y : Nat → M Nat} {tag : Option Nat}
  (hrun : runOf e f = fpElem op bf three y e f tag)

/-- The instruction writes the code `r.1` with the tag, and adds the flags `r.2`. -/
def FloatPuts (s : State) (f i : Nat) (e : QEntry) (ins : Instr) (tag : Nat) (r : Nat × Nat) : Prop := e.instr = ins →
  RunsElem e f i s (ElemResult s f e (e.name 0) i r.1 (e.dstTags i tag) false r.2)

include hrun

/-- An active element with the format's tag on every source. -/
theorem fpElem_active {v : Nat} (hact : activeIn e.mode ((s.front f).mask e.act) i = true) (hdw : dEw (e.name 0) ≠ 7) (hd : s.srcClean f e 0 i)
    (ha : s.srcClean f e 1 i) (hA : s.srcTag f e 1 i (fpTag (fmtOf (dW (e.name 0)) bf))) (hy : y i s = .ok (v, s))
    (hD : three = true → s.srcTag f e 0 i (fpTag (fmtOf (dW (e.name 0)) bf))) :
    let r := op (fmtOf (dW (e.name 0)) bf) e.env i (s.srcElem f e 1 i) v (if three then s.srcElem f e 0 i else 0)
    RunsElem e f i s (ElemResult s f e (e.name 0) i r.1
      (e.dstTags i (tag.getD (fpTag (fmtOf (dW (e.name 0)) bf)))) false r.2) := by
  intro r
  refine ⟨_, _, hrun, ?_, _, elemPut_tagged (.inl hdw), (noted_self _ f e i).flagged r.2⟩
  rw [bind_of_ok (isActive_eq true hact), if_pos rfl, bind_of_ok (checkTag_pass ha hA), bind_of_ok hy]
  cases three with
  | false =>
    dsimp only
    rw [if_neg Bool.false_ne_true, bind_of_ok (srcElem_clean ha)]
    exact putFlagged_clean hd r _
  | true =>
    dsimp only
    rw [if_pos rfl, bind_of_ok (checkTag_pass hd (hD rfl)), bind_of_ok (srcElem_clean ha), if_pos rfl, bind_of_ok (srcElem_clean hd)]
    exact putFlagged_clean hd r _

/-- A wrong tag on va's cells is met first. -/
theorem fpElem_format (hact : activeIn e.mode ((s.front f).mask e.act) i = true) (ha : s.srcClean f e 1 i)
    (hA : ¬ s.srcTag f e 1 i (fpTag (fmtOf (dW (e.name 0)) bf))) : StopsElem e f i s ⟨5, 0, i, 0, 0⟩ := by
  refine ⟨_, hrun, ?_⟩
  rw [bind_of_ok (isActive_eq true hact), if_pos rfl]
  exact bind_of_error (checkTag_fail ha hA)

end

/-- An instruction whose inactive elements, under MODE 2, become zero with one tag (R66). -/
theorem sameTag_idle {s : State} {f i t : Nat} {e : QEntry} {m : Nat → M Unit}
    (hrun : runOf e f = .elems e.vl 1 fun i => do if ← isActive f e i then m i else inactive f e 0 i (sameTag t))
    (hact : activeIn e.mode ((s.front f).mask e.act) i = false) (hdw : dEw (e.name 0) ≠ 7) (hd : s.srcClean f e 0 i) :
    (e.mode ≠ 2 → RunsElem e f i s fun t => t = s) ∧ (e.mode = 2 → RunsElem e f i s (ElemPut s f e.cap.first (e.name 0) i 0 (e.dstTags i t))) := by
  refine runsElem_idles hrun ((idles_sameTag hdw hd _).of_eq ?_)
  rw [bind_of_ok (isActive_eq false hact), if_neg Bool.false_ne_true]

/-! ### The instructions, by how they run -/

/-- Floating-point instructions of one source, but for the class. -/
def floatOnes (vd va : VName) (bf : Bool) : List Instr :=
  [.vfsqrt vd va bf, .vfrcp vd va bf, .vfrsq vd va bf, .vfabs vd va bf, .vfneg vd va bf, .vfexp2 vd va bf, .vflog2 vd va bf]

/-- Floating-point instructions of two sources, and those that read the destination too. -/
def floatTwos (vd va vb : VName) (sm : BitVec 2) (bf : Bool) : List Instr :=
  [.vfadd vd va vb sm bf, .vfsub vd va vb sm bf, .vfmul vd va vb sm bf, .vfdiv vd va vb sm bf, .vfmin vd va vb sm bf, .vfmax vd va vb sm bf,
    .vfma vd va vb sm bf, .vfms vd va vb sm bf, .vfnma vd va vb sm bf]

section
variable {s : State} {f i : Nat} {e : QEntry} {sm : BitVec 2} {bf : Bool} {vd va vb : VName}

theorem runOf_floats (h : e.instr ∈ floatOnes vd va bf ++ floatTwos vd va vb sm bf) :
    ∃ op three y, runOf e f = fpElem op bf three y e f none := by
  simp only [floatOnes, floatTwos, List.mem_append, List.mem_cons, List.not_mem_nil, or_false] at h
  rcases h with (h | h | h | h | h | h | h) | (h | h | h | h | h | h | h | h | h)
  all_goals
    rw [runOf, h]
    exact ⟨_, _, _, rfl⟩

theorem runOf_vfclass (h : e.instr = .vfclass vd va bf) : runOf e f = classRun bf e f := by rw [runOf, h]

/-! ### Active elements -/

theorem width_fmtOf {w : Nat} (h : w ∈ [16, 32, 64]) (bf : Bool) : Fp.width (fmtOf w bf) = w := by
  simp only [List.mem_cons, List.not_mem_nil, or_false] at h
  rcases h with rfl | rfl | rfl
  · cases bf <;> rfl
  · rfl
  · rfl

/-- A width that holds a floating format is not the reserved one. -/
theorem dEw_ne_of_float {d : Word} (h : dW d ∈ [16, 32, 64]) : dEw d ≠ 7 := by
  intro h7
  simp [dW, h7] at h

theorem fpAbs_eq {w : Nat} {bf : Bool} (h : Fp.width (fmtOf w bf) = w) (env : Fp.Env) (i x y z : Nat) :
    fpAbs (fmtOf w bf) env i x y z = (x % 2 ^ (w - 1), 0) := by rw [fpAbs, h]

theorem fpNeg_eq {w x : Nat} {bf : Bool} (h : Fp.width (fmtOf w bf) = w) (hx : x < 2 ^ w) (env : Fp.Env) (i y z : Nat) :
    fpNeg (fmtOf w bf) env i x y z = (Nat.xor x (2 ^ (w - 1)), 0) := by rw [fpNeg, h, Nat.mod_eq_of_lt hx]

theorem floatSource_pass {t : Nat} (hb : ∀ q, modIndex sm e.vl i = some q → s.srcClean f e 2 q)
    (hB : ∀ q, modIndex sm e.vl i = some q → s.srcTag f e 2 q t) : modSource f e 2 sm i (· == t) true s = .ok (s.modElem f e 2 sm i, s) :=
  modSource_pass hb fun q hq c hc => beq_iff_eq.mpr (hB q hq c hc)

section
variable (hact : activeIn e.mode ((s.front f).mask e.act) i = true) (hdw : dEw (e.name 0) ≠ 7) (hd : s.srcClean f e 0 i)
  (ha : s.srcClean f e 1 i) (hA : s.srcTag f e 1 i (fpTag (fmtOf (dW (e.name 0)) bf)))
include hact hdw hd ha hA

theorem float_one {op : FloatOp} {r : Nat × Nat} (hrun : runOf e f = fpRun1 op bf e f)
    (hr : op (fmtOf (dW (e.name 0)) bf) e.env i (s.srcElem f e 1 i) 0 0 = r) :
    RunsElem e f i s (ElemResult s f e (e.name 0) i r.1
      (e.dstTags i (fpTag (fmtOf (dW (e.name 0)) bf))) false r.2) :=
  hr ▸ fpElem_active hrun hact hdw hd ha hA rfl nofun

theorem floatOnes_active (hw : Fp.width (fmtOf (dW (e.name 0)) bf) = dW (e.name 0)) (hwa : dW (e.name 1) = dW (e.name 0)) :
    let w := dW (e.name 0)
    let fmt := fmtOf w bf
    let x := s.srcElem f e 1 i
    FloatPuts s f i e (.vfsqrt vd va bf) (fpTag fmt) (fpSqrt fmt e.env i x 0 0) ∧
    FloatPuts s f i e (.vfrcp vd va bf) (fpTag fmt) (fpRcp fmt e.env i x 0 0) ∧
    FloatPuts s f i e (.vfrsq vd va bf) (fpTag fmt) (fpRsq fmt e.env i x 0 0) ∧
    FloatPuts s f i e (.vfexp2 vd va bf) (fpTag fmt) (fpExp2 fmt e.env i x 0 0) ∧
    FloatPuts s f i e (.vflog2 vd va bf) (fpTag fmt) (fpLog2 fmt e.env i x 0 0) ∧
    FloatPuts s f i e (.vfabs vd va bf) (fpTag fmt) (x % 2 ^ (w - 1), 0) ∧
    FloatPuts s f i e (.vfneg vd va bf) (fpTag fmt) (Nat.xor x (2 ^ (w - 1)), 0) ∧
    FloatPuts s f i e (.vfclass vd va bf) (uintTag w) (fpClass fmt x, 0) := by
  intro w fmt x
  have one {op : FloatOp} {r : Nat × Nat} (hrun : runOf e f = fpRun1 op bf e f) := float_one hact hdw hd ha hA (r := r) hrun
  refine ⟨fun h => ?_, fun h => ?_, fun h => ?_, fun h => ?_, fun h => ?_, fun h => ?_, fun h => ?_, fun h => ?_⟩
  · exact one (op := fpSqrt) (by rw [runOf, h]) rfl
  · exact one (op := fpRcp) (by rw [runOf, h]) rfl
  · exact one (op := fpRsq) (by rw [runOf, h]) rfl
  · exact one (op := fpExp2) (by rw [runOf, h]) rfl
  · exact one (op := fpLog2) (by rw [runOf, h]) rfl
  · exact one (op := fpAbs) (by rw [runOf, h]) (fpAbs_eq hw _ _ _ _ _)
  · exact one (op := fpNeg) (by rw [runOf, h]) (fpNeg_eq hw (srcElem_lt hwa) _ _ _ _)
  · exact fpElem_active (runOf_vfclass h) hact hdw hd ha hA rfl nofun

section
variable (hb : ∀ q, modIndex sm e.vl i = some q → s.srcClean f e 2 q)
  (hB : ∀ q, modIndex sm e.vl i = some q → s.srcTag f e 2 q (fpTag (fmtOf (dW (e.name 0)) bf)))
include hb hB

theorem float_two {op : FloatOp} (hrun : runOf e f = fpRun2 op sm bf e f) :
    let r := op (fmtOf (dW (e.name 0)) bf) e.env i (s.srcElem f e 1 i) (s.modElem f e 2 sm i) 0
    RunsElem e f i s (ElemResult s f e (e.name 0) i r.1
      (e.dstTags i (fpTag (fmtOf (dW (e.name 0)) bf))) false r.2) :=
  fpElem_active hrun hact hdw hd ha hA (floatSource_pass hb hB) nofun

theorem floatTwos_active :
    let fmt := fmtOf (dW (e.name 0)) bf
    let x := s.srcElem f e 1 i
    let y := s.modElem f e 2 sm i
    FloatPuts s f i e (.vfadd vd va vb sm bf) (fpTag fmt) (fpAdd fmt e.env i x y 0) ∧
    FloatPuts s f i e (.vfsub vd va vb sm bf) (fpTag fmt) (fpSub fmt e.env i x y 0) ∧
    FloatPuts s f i e (.vfmul vd va vb sm bf) (fpTag fmt) (fpMul fmt e.env i x y 0) ∧
    FloatPuts s f i e (.vfdiv vd va vb sm bf) (fpTag fmt) (fpDiv fmt e.env i x y 0) ∧
    FloatPuts s f i e (.vfmin vd va vb sm bf) (fpTag fmt) (fpMin fmt e.env i x y 0) ∧
    FloatPuts s f i e (.vfmax vd va vb sm bf) (fpTag fmt) (fpMax fmt e.env i x y 0) := by
  intro fmt x y
  have two {op : FloatOp} (hrun : runOf e f = fpRun2 op sm bf e f) := float_two hact hdw hd ha hA hb hB hrun
  exact ⟨fun h => two (op := fpAdd) (by rw [runOf, h]), fun h => two (op := fpSub) (by rw [runOf, h]),
    fun h => two (op := fpMul) (by rw [runOf, h]), fun h => two (op := fpDiv) (by rw [runOf, h]),
    fun h => two (op := fpMin) (by rw [runOf, h]), fun h => two (op := fpMax) (by rw [runOf, h])⟩

variable (hD : s.srcTag f e 0 i (fpTag (fmtOf (dW (e.name 0)) bf)))
include hD

theorem float_three {op : FloatOp} (hrun : runOf e f = fpRun3 op sm bf e f) :
    let r := op (fmtOf (dW (e.name 0)) bf) e.env i (s.srcElem f e 1 i) (s.modElem f e 2 sm i) (s.srcElem f e 0 i)
    RunsElem e f i s (ElemResult s f e (e.name 0) i r.1
      (e.dstTags i (fpTag (fmtOf (dW (e.name 0)) bf))) false r.2) :=
  fpElem_active hrun hact hdw hd ha hA (floatSource_pass hb hB) fun _ => hD

theorem floatFused_active :
    let fmt := fmtOf (dW (e.name 0)) bf
    let x := s.srcElem f e 1 i
    let y := s.modElem f e 2 sm i
    let z := s.srcElem f e 0 i
    FloatPuts s f i e (.vfma vd va vb sm bf) (fpTag fmt) (fpFma fmt e.env i x y z) ∧
    FloatPuts s f i e (.vfms vd va vb sm bf) (fpTag fmt) (fpFms fmt e.env i x y z) ∧
    FloatPuts s f i e (.vfnma vd va vb sm bf) (fpTag fmt) (fpFnma fmt e.env i x y z) := by
  intro fmt x y z
  have three {op : FloatOp} (hrun : runOf e f = fpRun3 op sm bf e f) := float_three hact hdw hd ha hA hb hB hD hrun
  exact ⟨fun h => three (op := fpFma) (by rw [runOf, h]), fun h => three (op := fpFms) (by rw [runOf, h]),
    fun h => three (op := fpFnma) (by rw [runOf, h])⟩

end

end

/-! ### Wrong tags and inactive elements -/

theorem float_format (hact : activeIn e.mode ((s.front f).mask e.act) i = true) (ha : s.srcClean f e 1 i)
    (hA : ¬ s.srcTag f e 1 i (fpTag (fmtOf (dW (e.name 0)) bf)))
    (h : e.instr ∈ .vfclass vd va bf :: (floatOnes vd va bf ++ floatTwos vd va vb sm bf)) : StopsElem e f i s ⟨5, 0, i, 0, 0⟩ := by
  rcases List.mem_cons.mp h with h | h
  · exact fpElem_format (runOf_vfclass h) hact ha hA
  · obtain ⟨op, three, y, hrun⟩ := runOf_floats (f := f) h
    exact fpElem_format hrun hact ha hA

theorem float_idle (hact : activeIn e.mode ((s.front f).mask e.act) i = false) (hdw : dEw (e.name 0) ≠ 7) (hd : s.srcClean f e 0 i)
    (h : e.instr ∈ floatOnes vd va bf ++ floatTwos vd va vb sm bf) :
    let tags := e.dstTags i (fpTag (fmtOf (dW (e.name 0)) bf))
    (e.mode ≠ 2 → RunsElem e f i s fun t => t = s) ∧ (e.mode = 2 → RunsElem e f i s (ElemPut s f e.cap.first (e.name 0) i 0 tags)) := by
  obtain ⟨op, three, y, hrun⟩ := runOf_floats (f := f) h
  exact sameTag_idle hrun hact hdw hd

end

end Sys2Proof.Machine
end

section
/-! PROOFS. Conversions, bit planes and block scales (R184 to R187), and the floating-point elements (O52). -/

namespace Sys2Proof.Machine

/-! ### Planes of a narrow group (R92) -/

theorem chain_from_succ {P : Nat → State → State → Prop} {n i : Nat} {s t : State} :
    Chain P n (i + 1) s t ↔ Chain (fun j => P (j + 1)) n i s t := by
  induction n generalizing i s with
  | zero => rfl
  | succ n ih => exact exists_congr fun u => and_congr_right fun _ => ih

section
variable {s : State} {f first n i : Nat} {ps : List (Word × PlaneShape)}

/-- The planes of a code written one after another. -/
theorem putPlanes_clean (code : Nat) (h : ∀ p ∈ ps, dEw p.1 ≠ 7 ∧ (s.core (f / 2)).clean p.1 first i) :
    ∃ t, putPlanes f first n i code ps s = .ok ((), t) ∧ PlanesPut f first n i code ps s t := by
  induction ps generalizing s with
  | nil => exact ⟨s, rfl, rfl⟩
  | cons p r ih =>
    obtain ⟨w, wd, lo, part⟩ := p
    obtain ⟨hdw, hclean⟩ := h _ List.mem_cons_self
    obtain ⟨t, ht, hput⟩ := ih fun q hq => (h q (List.mem_cons_of_mem _ hq)).imp_right fun hc => clean_putAt hc
    refine ⟨t, (bind_of_ok (putElem_clean hclean _ _)).trans ht, _, ?_, chain_from_succ.mpr hput⟩
    rintro q ⟨⟩
    exact elemPut_tagged (.inl hdw)

theorem checkPlanes_pass (h : (s.core (f / 2)).planesTagged first n ps i) : checkPlanes f first n i ps s = .ok ((), s) := by
  induction ps with
  | nil => rfl
  | cons p r ih =>
    obtain ⟨w, wd, lo, part⟩ := p
    obtain ⟨hclean, htag⟩ := h _ List.mem_cons_self
    exact (bind_of_ok (checkTag_pass hclean htag)).trans (ih fun q hq => h q (List.mem_cons_of_mem _ hq))

theorem getPlanes_clean (h : ∀ p ∈ ps, (s.core (f / 2)).clean p.1 first i) :
    getPlanes f first i ps s = .ok ((s.core (f / 2)).joined first ps i, s) := by
  induction ps with
  | nil => rfl
  | cons p r ih =>
    obtain ⟨w, wd, lo, part⟩ := p
    have hrest := ih fun q hq => h q (List.mem_cons_of_mem _ hq)
    exact (bind_of_ok (getElem'_clean (h _ List.mem_cons_self))).trans (bind_of_ok hrest)

end

/-! ### The scale of a block (R79, R183) -/

section
variable (s : State) (f : Nat) (e : QEntry) (i : Nat)

/-- The scale code of element `i`'s block. -/
def State.scaleCode : Nat := (s.core (f / 2)).elem (e.scaleName 0) e.cap.first (i / blockLen e.cap.fmt)
/-- Its power of two; zero for a slot without blocks. -/
def State.scaleExp : Int := if nBlock e.cap.fmt = 0 then 0 else (s.scaleCode f e i : Int) - 127
/-- The slot has no blocks, or the code is a tagged E8 code of a number. -/
def State.scaled : Prop :=
  nBlock e.cap.fmt = 0 ∨ ((s.core (f / 2)).tagged e.cap.first (e.scaleName 0) (i / blockLen e.cap.fmt) 13 ∧ s.scaleCode f e i ≠ 0xFF)

end

section
variable {s : State} {f i : Nat} {e : QEntry}

theorem checkScale_tagged (h : (s.core (f / 2)).tagged e.cap.first (e.scaleName 0) (i / blockLen e.cap.fmt) 13) :
    checkScale f e 0 i s = .ok ((), s) := by
  unfold checkScale
  split
  · rfl
  · exact checkTag_pass h.1 h.2

theorem checkScale_pass (h : s.scaled f e i) : checkScale f e 0 i s = .ok ((), s) := by
  rcases h with h | ⟨h, -⟩
  · rw [checkScale, if_pos h]; rfl
  · exact checkScale_tagged h

theorem getScale_scaled (h : s.scaled f e i) : getScale f e 0 i s = .ok (s.scaleExp f e i, s) := by
  unfold getScale State.scaleExp
  split
  · rfl
  · next hb =>
    obtain ⟨⟨hclean, -⟩, hff⟩ := h.resolve_left hb
    rw [bind_of_ok (getElem'_clean hclean)]
    exact congrFun (if_neg hff) s

/-- The scale code of no number. -/
theorem getScale_reserved (hb : nBlock e.cap.fmt ≠ 0) (h : (s.core (f / 2)).clean (e.scaleName 0) e.cap.first (i / blockLen e.cap.fmt))
    (hff : s.scaleCode f e i = 0xFF) : getScale f e 0 i s = .error (.trap ⟨RESERVED_CODE, 1, i, 0, 0⟩) := by
  rw [getScale, if_neg hb, bind_of_ok (getElem'_clean h)]
  exact congrFun (if_pos hff) s

end

/-! ### One element of a conversion (R184 to R186) -/

section
variable {s : State} {f i : Nat} {e : QEntry} {vd va : VName} {dst src : BitVec 6} {n : Slot}

section
variable (hact : activeIn e.mode ((s.front f).mask e.act) i = true)
include hact

section
variable (ha : s.srcClean f e 1 i)
include ha

theorem convert_format (hbad : ¬ ∀ c ∈ elemCells (e.name 1) e.cap.first i, idTagOk src.toNat ((s.core (f / 2)).tag c).toNat = true)
    (h : e.instr = .vcvt vd va dst src ∨ e.instr = .vnarrow vd va n src) : StopsElem e f i s ⟨5, 0, i, 0, 0⟩ := by
  have hrun : runOf e f = cvtRun dst src e f ∨ runOf e f = narrowRun n src e f := h.imp (fun h => by rw [runOf, h]) fun h => by rw [runOf, h]
  rcases hrun with hrun | hrun
  all_goals
    refine ⟨_, hrun, ?_⟩
    rw [bind_of_ok (isActive_eq true hact), if_pos rfl]
    exact bind_of_error (checkTags_fail ha hbad)

variable (hsrc : ∀ c ∈ elemCells (e.name 1) e.cap.first i, idTagOk src.toNat ((s.core (f / 2)).tag c).toNat = true)
include hsrc

theorem vcvt_active (hdw : dEw (e.name 0) ≠ 7) (hd : s.srcClean f e 0 i) (h : e.instr = .vcvt vd va dst src)
    (hnum : ¬ (src.toNat = 13 ∧ s.srcElem f e 1 i = 0xFF)) :
    let r := cvtCode e.env dst.toNat src.toNat i (s.srcElem f e 1 i)
    RunsElem e f i s (ElemResult s f e (e.name 0) i r.code (e.dstTags i dst.toNat) r.off r.flags) := by
  intro r
  have hrun : runOf e f = cvtRun dst src e f := by rw [runOf, h]
  obtain ⟨t, ht, hnote⟩ := putConverted_noted (r := r) (write := fun c => putTagged f e.cap.first (e.name 0) i c dst.toNat) (f := f) (e := e) (i := i)
    (putElem_clean hd r.code _)
  refine ⟨_, t, hrun, ?_, _, elemPut_tagged (.inl hdw), hnote⟩
  rw [bind_of_ok (isActive_eq true hact), if_pos rfl, bind_of_ok (checkTags_pass ha hsrc), bind_of_ok (srcElem_clean ha)]
  exact (congrFun (if_neg hnum) s).trans ht

theorem vcvt_reserved (h : e.instr = .vcvt vd va dst src) (hsrc13 : src.toNat = 13) (hff : s.srcElem f e 1 i = 0xFF) :
    StopsElem e f i s ⟨6, 1, i, 0, 0⟩ := by
  have hrun : runOf e f = cvtRun dst src e f := by rw [runOf, h]
  refine ⟨_, hrun, ?_⟩
  rw [bind_of_ok (isActive_eq true hact), if_pos rfl, bind_of_ok (checkTags_pass ha hsrc), bind_of_ok (srcElem_clean ha)]
  exact congrFun (if_pos ⟨hsrc13, hff⟩) s

theorem vnarrow_active (hps : ∀ p ∈ e.planes 0, dEw p.1 ≠ 7 ∧ (s.core (f / 2)).clean p.1 e.cap.first i) (hk : s.scaled f e i)
    (h : e.instr = .vnarrow vd va n src) :
    let r := satSlot e.cap.fmt e.env i 0 (scaleVal (idVal src.toNat e.env.fzi (s.srcElem f e 1 i)) (-s.scaleExp f e i))
    RunsElem e f i s fun t => ∃ u, PlanesPut f e.cap.first n.toNat i r.code (e.planes 0) s u ∧ Noted f e i r.off r.flags u t := by
  intro r
  have hrun : runOf e f = narrowRun n src e f := by rw [runOf, h]
  obtain ⟨u, hu, hput⟩ := putPlanes_clean (n := n.toNat) r.code hps
  obtain ⟨t, ht, hnote⟩ := putConverted_noted (r := r) (write := fun c => putPlanes f e.cap.first n.toNat i c (e.planes 0)) (e := e) (i := i) hu
  refine ⟨_, t, hrun, ?_, u, hput, hnote⟩
  rw [bind_of_ok (isActive_eq true hact), if_pos rfl, bind_of_ok (checkTags_pass ha hsrc), bind_of_ok (checkScale_pass hk),
    bind_of_ok (getScale_scaled hk), bind_of_ok (srcElem_clean ha)]
  exact ht

theorem vnarrow_reserved (hb : nBlock e.cap.fmt ≠ 0)
    (hk : (s.core (f / 2)).tagged e.cap.first (e.scaleName 0) (i / blockLen e.cap.fmt) 13) (hff : s.scaleCode f e i = 0xFF)
    (h : e.instr = .vnarrow vd va n src) : StopsElem e f i s ⟨6, 1, i, 0, 0⟩ := by
  have hrun : runOf e f = narrowRun n src e f := by rw [runOf, h]
  refine ⟨_, hrun, ?_⟩
  rw [bind_of_ok (isActive_eq true hact), if_pos rfl, bind_of_ok (checkTags_pass ha hsrc), bind_of_ok (checkScale_tagged hk)]
  exact bind_of_error (getScale_reserved hb hk.1 hff)

end

theorem vsplitb_active (hps : ∀ p ∈ e.planes 0, dEw p.1 ≠ 7 ∧ (s.core (f / 2)).clean p.1 e.cap.first i)
    (ha : (s.core (f / 2)).tagged e.cap.first (e.name 1) i (slotTag n.toNat 0)) (h : e.instr = .vsplitb vd va n) :
    RunsElem e f i s (PlanesPut f e.cap.first n.toNat i (s.srcElem f e 1 i % 2 ^ nW e.cap.fmt) (e.planes 0) s) := by
  have hrun : runOf e f = splitRun n e f := by rw [runOf, h]
  obtain ⟨t, ht, hput⟩ := putPlanes_clean (n := n.toNat) (s.srcElem f e 1 i % 2 ^ nW e.cap.fmt) hps
  refine ⟨_, t, hrun, ?_, hput⟩
  rw [bind_of_ok (isActive_eq true hact), if_pos rfl, bind_of_ok (checkTag_pass ha.1 ha.2), bind_of_ok (srcElem_clean ha.1)]
  exact ht

section
variable (hps : (s.core (f / 2)).planesTagged e.cap.first n.toNat (e.planes 0) i)
include hps

theorem vjoinb_active (hdw : dEw (e.name 0) ≠ 7) (hd : s.srcClean f e 0 i) (h : e.instr = .vjoinb vd va n) :
    RunsElem e f i s (ElemPut s f e.cap.first (e.name 0) i ((s.core (f / 2)).joined e.cap.first (e.planes 0) i)
      (e.dstTags i (slotTag n.toNat 0))) := by
  have hrun : runOf e f = joinRun n e f := by rw [runOf, h]
  refine ⟨_, _, hrun, ?_, elemPut_tagged (.inl hdw)⟩
  rw [bind_of_ok (isActive_eq true hact), if_pos rfl, bind_of_ok (checkPlanes_pass hps), bind_of_ok (getPlanes_clean fun p hp => (hps p hp).1)]
  exact putElem_clean hd _ _

variable (hk : s.scaled f e i) (h : e.instr = .vwiden vd va dst n)
include hk h

theorem vwiden_active (hdw : dEw (e.name 0) ≠ 7) (hd : s.srcClean f e 0 i) {v : Fp.Val}
    (hv : nDecode e.cap.fmt ((s.core (f / 2)).joined e.cap.first (e.planes 0) i) = some v) :
    let r := toFixed e.env dst.toNat i (scaleVal v (s.scaleExp f e i))
    RunsElem e f i s (ElemResult s f e (e.name 0) i r.code (e.dstTags i dst.toNat) r.off r.flags) := by
  intro r
  have hrun : runOf e f = widenRun dst n e f := by rw [runOf, h]
  obtain ⟨t, ht, hnote⟩ := putConverted_noted (r := r) (write := fun c => putTagged f e.cap.first (e.name 0) i c dst.toNat) (f := f) (e := e) (i := i)
    (putElem_clean hd r.code _)
  refine ⟨_, t, hrun, ?_, _, elemPut_tagged (.inl hdw), hnote⟩
  rw [bind_of_ok (isActive_eq true hact), if_pos rfl, bind_of_ok (checkPlanes_pass hps), bind_of_ok (checkScale_pass hk),
    bind_of_ok (getPlanes_clean fun p hp => (hps p hp).1), hv]
  exact (bind_of_ok (getScale_scaled hk)).trans ht

theorem vwiden_reserved (hv : nDecode e.cap.fmt ((s.core (f / 2)).joined e.cap.first (e.planes 0) i) = none) :
    StopsElem e f i s ⟨6, 0, i, 0, 0⟩ := by
  have hrun : runOf e f = widenRun dst n e f := by rw [runOf, h]
  refine ⟨_, hrun, ?_⟩
  rw [bind_of_ok (isActive_eq true hact), if_pos rfl, bind_of_ok (checkPlanes_pass hps), bind_of_ok (checkScale_pass hk),
    bind_of_ok (getPlanes_clean fun p hp => (hps p hp).1), hv]
  rfl

end

end

/-! ### Inactive elements (R66) -/

theorem planes_idle {m : Nat → M Unit} {n : Nat} (hact : activeIn e.mode ((s.front f).mask e.act) i = false)
    (hps : ∀ p ∈ e.planes 0, dEw p.1 ≠ 7 ∧ (s.core (f / 2)).clean p.1 e.cap.first i)
    (hrun : runOf e f = .elems e.vl 1 fun i => do if ← isActive f e i then m i else inactivePlanes f e n i) :
    (e.mode ≠ 2 → RunsElem e f i s fun t => t = s) ∧ (e.mode = 2 → RunsElem e f i s (PlanesPut f e.cap.first n i 0 (e.planes 0) s)) := by
  obtain ⟨t, ht, hput⟩ := putPlanes_clean (n := n) 0 hps
  refine ⟨fun hm => ⟨_, s, hrun, ?_, rfl⟩, fun hm => ⟨_, t, hrun, ?_, hput⟩⟩
  all_goals rw [bind_of_ok (isActive_eq false hact), if_neg Bool.false_ne_true, inactivePlanes]
  · rw [if_neg hm]; rfl
  · rw [if_pos hm, ht]

end

/-! ### Block scales (R187) -/

/-- floor(log2 |x|) of a finite value other than zero. -/
def valLog (x : Fp.Val) : Option Int :=
  match x with
  | .fin _ m ex _ => if m = 0 then none else some (Fp.lead m ex)
  | _ => none

theorem maxLog_eq (a : Option Int) (x : Fp.Val) : maxLog a x = (valLog x).elim a fun q => some (max q (a.getD q)) := by
  cases x with
  | nan => rfl
  | inf => rfl
  | fin sg m ex st =>
    simp only [maxLog, valLog]
    split <;> rfl

/-- One more logarithm, in the largest so far or in the list. -/
theorem max_maxLog (a : Option Int) (x : Fp.Val) (l : List Int) :
    ((maxLog a x).toList ++ l).max? = (a.toList ++ ((valLog x).toList ++ l)).max? := by
  rw [maxLog_eq]
  cases valLog x with
  | none => rfl
  | some q =>
    cases a with
    | none => simp
    | some p =>
      calc (max q p :: l).max?
        _ = (max p q :: l).max? := by rw [max_comm]
        _ = (p :: q :: l).max? := by rw [List.max?_cons', List.max?_cons', List.foldl_cons]

section
variable (s : State) (f : Nat) (e : QEntry)

/-- The format of element `i` of va by the tag of its first cell. -/
def State.elemFmt (i : Nat) : Option FFmt := idFloat ((s.core (f / 2)).tag ((elemCells (e.name 1) e.cap.first i).headD 0)).toNat
/-- floor(log2 |x|) of element `i` of va in that format. -/
def State.elemLog (i : Nat) : Option Int := (s.elemFmt f e i).bind fun fmt => valLog (arg fmt e.env (s.srcElem f e 1 i))
/-- The active ones of `n` elements from `i` on. -/
def State.actives (n i : Nat) : List Nat := (List.range' i n).filter (activeIn e.mode ((s.front f).mask e.act))
/-- Element `i` of va can be read in the format of its tag. -/
def State.readable (i : Nat) : Prop := s.srcClean f e 1 i ∧ ∃ fmt, s.elemFmt f e i = some fmt ∧ Fp.width fmt = dW (e.name 1)

end

section
variable {s : State} {f : Nat} {e : QEntry}

theorem headD_srcTags (k i : Nat) : (s.srcTags f e k i).headD 0 = (s.core (f / 2)).tag ((elemCells (e.name k) e.cap.first i).headD 0) := by
  by_cases hw : dW (e.name k) = 64
  · obtain ⟨a, ha⟩ := elemCells_pair (e.name k) e.cap.first i hw
    rw [State.srcTags, ha]; rfl
  · obtain ⟨a, ha⟩ := elemCells_single (e.name k) e.cap.first i hw
    rw [State.srcTags, ha]; rfl

theorem elemLog_readable {i : Nat} {fmt : FFmt} (h : s.elemFmt f e i = some fmt) :
    s.elemLog f e i = valLog (arg fmt e.env (s.srcElem f e 1 i)) := by rw [State.elemLog, h]; rfl

theorem actives_eq_map (n i : Nat) :
    s.actives f e n i = ((List.range n).map fun j => i + j).filter fun j => activeIn e.mode ((s.front f).mask e.act) j :=
  congrArg (List.filter _) List.range'_eq_map_range

theorem actives_succ (n i : Nat) : s.actives f e (n + 1) i =
    if activeIn e.mode ((s.front f).mask e.act) i then i :: s.actives f e n (i + 1) else s.actives f e n (i + 1) := by
  rw [State.actives, List.range'_succ, List.filter_cons]
  rfl

/-- The largest logarithm of the active elements of a run, and of one given. -/
theorem blockLog_eq {n i : Nat} (a : Option Int) (h : ∀ j ∈ s.actives f e n i, s.readable f e j) :
    blockLog f e n i a s = .ok ((a.toList ++ (s.actives f e n i).filterMap (s.elemLog f e)).max?, s) := by
  induction n generalizing i a with
  | zero => cases a <;> rfl
  | succ n ih =>
    rw [actives_succ] at h ⊢
    rw [blockLog]
    cases hact : activeIn e.mode ((s.front f).mask e.act) i with
    | false =>
      rw [hact, if_neg Bool.false_ne_true] at h
      rw [bind_of_ok (isActive_eq false hact), if_neg Bool.false_ne_true, if_neg Bool.false_ne_true]
      exact ih a h
    | true =>
      rw [hact, if_pos rfl] at h
      obtain ⟨hclean, fmt, hfmt, hw⟩ := h i List.mem_cons_self
      have hid : idFloat ((s.srcTags f e 1 i).headD 0).toNat = some fmt := by rw [headD_srcTags]; exact hfmt
      have hlist : (i :: s.actives f e n (i + 1)).filterMap (s.elemLog f e) =
          (s.elemLog f e i).toList ++ (s.actives f e n (i + 1)).filterMap (s.elemLog f e) := by
        rw [List.filterMap_cons]
        cases s.elemLog f e i <;> rfl
      have htags : getTags f e.cap.first (e.name 1) i s = .ok (s.srcTags f e 1 i, s) := getTags_clean hclean
      rw [bind_of_ok (isActive_eq true hact), if_pos rfl, if_pos rfl, bind_of_ok htags, hlist, elemLog_readable hfmt, ← max_maxLog]
      dsimp only
      rw [hid]
      dsimp only
      rw [if_neg (not_not_intro hw), bind_of_ok (srcElem_clean hclean)]
      exact ih _ fun j hj => h j (List.mem_cons_of_mem _ hj)

/-- The code that VSCALEB writes. -/
def scaleOf (fmt : Word) (a : Option Int) : Nat :=
  match a with
  | none => 127
  | some l => (min (max (l - slotLog2Max fmt + 127) 0) 254).toNat

theorem vscaleb_block {b : Nat} {vd va : VName} {n : Slot} (h : e.instr = .vscaleb vd va n) (hdw : dEw (e.name 0) ≠ 7) (hd : s.srcClean f e 0 b)
    {l : List Nat} (hl : s.actives f e (min (blockLen e.cap.fmt) (e.vl - b * blockLen e.cap.fmt)) (b * blockLen e.cap.fmt) = l)
    (hread : ∀ j ∈ l, s.readable f e j) {a : Option Int} (hmax : (l.filterMap (s.elemLog f e)).max? = a) :
    RunsBody e f (ceilDiv e.vl (blockLen e.cap.fmt)) 1 b s
      (ElemPut s f e.cap.first (e.name 0) b (scaleOf e.cap.fmt a) (e.dstTags b e8Tag)) := by
  subst hl hmax
  have hrun : runOf e f = scalebRun e f := by rw [runOf, h]
  refine ⟨_, _, hrun, ?_, elemPut_tagged (.inl hdw)⟩
  rw [bind_of_ok (blockLog_eq none hread)]
  exact putElem_clean hd _ _

end

/-- Settles O52: an element's body checks the tags of clean sources, and writes one element, or the planes of one, with its flags and offender bit; a
block's scale is the largest of its elements' logarithms. -/
theorem floatElements : Obligations.FloatElements := by
  unfold Obligations.FloatElements
  refine ⟨?elements, ?conversions, ?scales⟩
  case elements =>
    intro s f i e vd va vb sm bf k hw hwa hvl hd ha
    rw [← modIndex_eq hvl]
    have hdw : dEw (e.name 0) ≠ 7 := dEw_ne_of_float hw
    refine ⟨fun hact hA => floatOnes_active hact hdw hd ha hA (width_fmtOf hw bf) hwa,
      fun hact ⟨_, hb⟩ hA hB => floatTwos_active hact hdw hd ha hA hb hB,
      fun hact ⟨_, hb⟩ hA hB hD => floatFused_active hact hdw hd ha hA hb hB hD,
      fun hact hA ins hins h => float_format hact ha hA (h ▸ hins),
      fun hact => ⟨fun ins hins h => float_idle hact hdw hd (h ▸ hins), fun h => sameTag_idle (runOf_vfclass h) hact hdw hd⟩⟩
  case conversions =>
    intro s f i e vd va dst src n k hdw _ _ hd hps
    refine ⟨fun hact => ⟨?cvt, ?narrow, ?narrowReserved, ?widen, ?split, ?join, ?format⟩, fun hact => ?idle⟩
    case cvt =>
      exact fun ⟨ha, hsrc⟩ h => ⟨fun hnum => vcvt_active hact ha hsrc hdw hd h hnum, fun h13 hff => vcvt_reserved hact ha hsrc h h13 hff⟩
    case narrow => exact fun ⟨ha, hsrc⟩ hk h => vnarrow_active hact ha hsrc hps hk h
    case narrowReserved => exact fun ⟨ha, hsrc⟩ hb hk hff h => vnarrow_reserved hact ha hsrc hb hk hff h
    case widen =>
      exact fun hp hk h => ⟨fun v hv => vwiden_active hact hp hk h hdw hd hv, fun hv => vwiden_reserved hact hp hk h hv⟩
    case split => exact fun ha h => vsplitb_active hact hps ha h
    case join => exact fun hp h => vjoinb_active hact hp hdw hd h
    case format =>
      rintro ⟨c, hc, hbad⟩ ha h
      exact convert_format hact ha (fun hok => Bool.false_ne_true (hbad.symm.trans (hok c hc))) h
    case idle =>
      exact ⟨fun h => sameTag_idle (by rw [runOf, h]; rfl) hact hdw hd, fun h => sameTag_idle (by rw [runOf, h]; rfl) hact hdw hd,
        fun h => sameTag_idle (by rw [runOf, h]; rfl) hact hdw hd, fun h => planes_idle hact hps (by rw [runOf, h]; rfl),
        fun h => planes_idle hact hps (by rw [runOf, h]; rfl)⟩
  case scales =>
    intro s f b e vd va n k h hdw _ hd hread
    have hl := actives_eq_map (s := s) (f := f) (e := e) (min (blockLen e.cap.fmt) (e.vl - b * blockLen e.cap.fmt)) (b * blockLen e.cap.fmt)
    exact ⟨fun hnone => vscaleb_block h hdw hd hl hread (a := none) (List.max?_eq_none_iff.mpr hnone),
      fun q hq hmax => vscaleb_block h hdw hd hl hread (a := some q) (List.max?_eq_some_iff.mpr ⟨hq, hmax⟩)⟩

end Sys2Proof.Machine
end

section
/-! PROOFS. The fields of an instruction word (R99): what the decoder reads from the sum that the encoder makes of them, and
the sum of the fields of a word. -/

namespace Sys2Proof

/-! ### Packing and reading the formats -/

theorem bits_packSR {op d a b fn : Nat} (ho : op < 64) (hd : d < 32) (ha : a < 32) (hb : b < 32) (hf : fn < 2048) :
    bits (packSR op d a b fn) 31 26 = op ∧ bits (packSR op d a b fn) 25 21 = d ∧ bits (packSR op d a b fn) 20 16 = a ∧
      bits (packSR op d a b fn) 15 11 = b ∧ bits (packSR op d a b fn) 10 0 = fn := by
  simp only [packSR, bits]
  omega

theorem bits_packSI {op d a imm : Nat} (ho : op < 64) (hd : d < 32) (ha : a < 32) (hi : imm < 65536) :
    bits (packSI op d a imm) 31 26 = op ∧ bits (packSI op d a imm) 25 21 = d ∧ bits (packSI op d a imm) 20 16 = a ∧
      bits (packSI op d a imm) 15 0 = imm := by
  simp only [packSI, bits]
  omega

theorem bits_packSJ {op d disp : Nat} (ho : op < 64) (hd : d < 32) (hp : disp < 2097152) :
    bits (packSJ op d disp) 31 26 = op ∧ bits (packSJ op d disp) 25 21 = d ∧ bits (packSJ op d disp) 20 0 = disp := by
  simp only [packSJ, bits]
  omega

theorem bits_packVR {op vd va vb sm fn : Nat} (ho : op < 64) (hd : vd < 64) (ha : va < 64) (hb : vb < 64) (hs : sm < 4) (hf : fn < 64) :
    bits (packVR op vd va vb sm fn) 31 26 = op ∧ bits (packVR op vd va vb sm fn) 25 20 = vd ∧ bits (packVR op vd va vb sm fn) 19 14 = va ∧
      bits (packVR op vd va vb sm fn) 13 8 = vb ∧ bits (packVR op vd va vb sm fn) 7 6 = sm ∧ bits (packVR op vd va vb sm fn) 5 0 = fn := by
  simp only [packVR, bits]
  omega

theorem bits_packVS {op vd va sb fn : Nat} (ho : op < 64) (hd : vd < 64) (ha : va < 64) (hb : sb < 32) (hf : fn < 512) :
    bits (packVS op vd va sb fn) 31 26 = op ∧ bits (packVS op vd va sb fn) 25 20 = vd ∧ bits (packVS op vd va sb fn) 19 14 = va ∧
      bits (packVS op vd va sb fn) 13 9 = sb ∧ bits (packVS op vd va sb fn) 8 0 = fn := by
  simp only [packVS, bits]
  omega

theorem bits_packVI {op vd va imm fn : Nat} (ho : op < 64) (hd : vd < 64) (ha : va < 64) (hi : imm < 256) (hf : fn < 64) :
    bits (packVI op vd va imm fn) 31 26 = op ∧ bits (packVI op vd va imm fn) 25 20 = vd ∧ bits (packVI op vd va imm fn) 19 14 = va ∧
      bits (packVI op vd va imm fn) 13 6 = imm ∧ bits (packVI op vd va imm fn) 5 0 = fn := by
  simp only [packVI, bits]
  omega

theorem bits_packVM {op vd a vx fn : Nat} (ho : op < 64) (hd : vd < 64) (ha : a < 32) (hx : vx < 64) (hf : fn < 512) :
    bits (packVM op vd a vx fn) 31 26 = op ∧ bits (packVM op vd a vx fn) 25 20 = vd ∧ bits (packVM op vd a vx fn) 19 15 = a ∧
      bits (packVM op vd a vx fn) 14 9 = vx ∧ bits (packVM op vd a vx fn) 8 0 = fn := by
  simp only [packVM, bits]
  omega

theorem bits_packMX {op va vb vc fn : Nat} (ho : op < 64) (ha : va < 64) (hb : vb < 64) (hc : vc < 64) (hf : fn < 256) :
    bits (packMX op va vb vc fn) 31 26 = op ∧ bits (packMX op va vb vc fn) 25 20 = va ∧ bits (packMX op va vb vc fn) 19 14 = vb ∧
      bits (packMX op va vb vc fn) 13 8 = vc ∧ bits (packMX op va vb vc fn) 7 0 = fn := by
  simp only [packMX, bits]
  omega

section
variable {w op : Nat} (hw : w < 2 ^ 32) (hop : bits w 31 26 = op)
include hw hop

theorem packSR_bits : packSR op (bits w 25 21) (bits w 20 16) (bits w 15 11) (bits w 10 0) = w := by
  simp only [packSR, bits] at *
  omega

theorem packSI_bits : packSI op (bits w 25 21) (bits w 20 16) (bits w 15 0) = w := by
  simp only [packSI, bits] at *
  omega

theorem packSJ_bits : packSJ op (bits w 25 21) (bits w 20 0) = w := by
  simp only [packSJ, bits] at *
  omega

theorem packVR_bits : packVR op (bits w 25 20) (bits w 19 14) (bits w 13 8) (bits w 7 6) (bits w 5 0) = w := by
  simp only [packVR, bits] at *
  omega

theorem packVS_bits : packVS op (bits w 25 20) (bits w 19 14) (bits w 13 9) (bits w 8 0) = w := by
  simp only [packVS, bits] at *
  omega

theorem packVI_bits : packVI op (bits w 25 20) (bits w 19 14) (bits w 13 6) (bits w 5 0) = w := by
  simp only [packVI, bits] at *
  omega

theorem packVM_bits : packVM op (bits w 25 20) (bits w 19 15) (bits w 14 9) (bits w 8 0) = w := by
  simp only [packVM, bits] at *
  omega

theorem packMX_bits : packMX op (bits w 25 20) (bits w 19 14) (bits w 13 8) (bits w 7 0) = w := by
  simp only [packMX, bits] at *
  omega

end

theorem bits_lt (n hi lo : Nat) : bits n hi lo < 2 ^ (hi + 1 - lo) := Nat.mod_lt _ (Nat.two_pow_pos _)

theorem bits_mod {n m hi lo : Nat} (hl : lo ≤ hi) (hm : hi < m) : bits (n % 2 ^ m) hi lo = bits n hi lo := by
  obtain ⟨k, rfl⟩ := Nat.exists_eq_add_of_le (show lo ≤ m by omega)
  rw [bits, bits, Nat.pow_add, Nat.mod_mul_right_div_self, Nat.mod_mod_of_dvd _ (Nat.pow_dvd_pow 2 (by omega))]

/-- The decoder reads bits 31 to 0 of a number alone. -/
theorem decode_ofNat (n : Nat) : decode (BitVec.ofNat 32 n) = decodeNat n := by
  show decodeNat (n % 2 ^ 32) = decodeNat n
  unfold decodeNat
  simp (disch := decide) only [bits_mod]

/-! ### The table that decodes each major opcode (R107) -/

theorem decodeNat_packSR {d a b fn : Nat} (hd : d < 32) (ha : a < 32) (hb : b < 32) (hf : fn < 2048) :
    decodeNat (packSR 1 d a b fn) = dec01 d a b fn ∧ decodeNat (packSR 0x22 d a b fn) = decAtomic d a b fn ∧
    decodeNat (packSR 0x2E d a b fn) = dec2E d a b fn ∧ decodeNat (packSR 0x2F d a b fn) = dec2F d a b fn ∧
    decodeNat (packSR 0x35 d a b fn) = dec35 d a b fn ∧ decodeNat (packSR 0x36 d a b fn) = dec36 d a b fn ∧
    decodeNat (packSR 0x3B d a b fn) = dec3B d a b fn := by
  unfold decodeNat
  simp (disch := omega) only [bits_packSR, and_self]

theorem decodeNat_packSI {d a imm : Nat} (hd : d < 32) (ha : a < 32) (hi : imm < 65536) :
    (∀ op, 2 ≤ op → op < 8 → decodeNat (packSI op d a imm) = decImm op d a imm) ∧
    decodeNat (packSI 8 d a imm) = dec08 d a imm ∧
    (∀ op, 10 ≤ op → op < 16 → decodeNat (packSI op d a imm) = decBranch op d a imm) ∧
    decodeNat (packSI 0x20 d a imm) = decLoad d a imm ∧ decodeNat (packSI 0x21 d a imm) = decStore d a imm ∧
    decodeNat (packSI 0x3A d a imm) = dec3A d a imm ∧ decodeNat (packSI 0x3C d a imm) = dec3C d a imm := by
  unfold decodeNat
  refine ⟨fun op h h' => ?_, ?_, fun op h h' => ?_, ?_⟩
  · interval_cases op <;> simp (disch := omega) only [bits_packSI]
  · simp (disch := omega) only [bits_packSI]
  · interval_cases op <;> simp (disch := omega) only [bits_packSI]
  · simp (disch := omega) only [bits_packSI, and_self]

theorem decodeNat_packSJ {d disp : Nat} (hd : d < 32) (hp : disp < 2097152) :
    decodeNat (packSJ 9 d disp) = some (.jal (sr d) (BitVec.ofNat 21 disp)) := by
  unfold decodeNat
  simp (disch := omega) only [bits_packSJ]

theorem decodeNat_packVR {vd va vb sm fn : Nat} (hd : vd < 64) (ha : va < 64) (hb : vb < 64) (hs : sm < 4) (hf : fn < 64) :
    decodeNat (packVR 0x10 vd va vb sm fn) = dec10 vd va vb sm fn ∧ decodeNat (packVR 0x13 vd va vb sm fn) = dec13 vd va vb sm fn ∧
    decodeNat (packVR 0x14 vd va vb sm fn) = dec14 vd va vb sm fn ∧
    (∀ op, 0x15 ≤ op → op < 0x18 → decodeNat (packVR op vd va vb sm fn) = decConv op vd va vb sm fn) ∧
    decodeNat (packVR 0x18 vd va vb sm fn) = dec18 vd va vb sm fn ∧ decodeNat (packVR 0x19 vd va vb sm fn) = dec19 vd va vb sm fn := by
  unfold decodeNat
  refine ⟨?_, ?_, ?_, fun op h h' => ?_, ?_⟩
  · simp (disch := omega) only [bits_packVR]
  · simp (disch := omega) only [bits_packVR]
  · simp (disch := omega) only [bits_packVR]
  · interval_cases op <;> simp (disch := omega) only [bits_packVR]
  · simp (disch := omega) only [bits_packVR, and_self]

theorem decodeNat_packVS {vd va sb fn : Nat} (hd : vd < 64) (ha : va < 64) (hb : sb < 32) (hf : fn < 512) :
    decodeNat (packVS 0x11 vd va sb fn) = dec11 vd va sb fn ∧ decodeNat (packVS 0x1A vd va sb fn) = dec1A vd va sb fn ∧
    decodeNat (packVS 0x28 vd va sb fn) = dec28 vd va sb fn := by
  unfold decodeNat
  simp (disch := omega) only [bits_packVS, and_self]

theorem decodeNat_packVI {vd va imm fn : Nat} (hd : vd < 64) (ha : va < 64) (hi : imm < 256) (hf : fn < 64) :
    decodeNat (packVI 0x12 vd va imm fn) = dec12 vd va imm fn ∧ decodeNat (packVI 0x29 vd va imm fn) = dec29 vd va imm fn := by
  unfold decodeNat
  simp (disch := omega) only [bits_packVI, and_self]

theorem decodeNat_packVM {vd a vx fn : Nat} (hd : vd < 64) (ha : a < 32) (hx : vx < 64) (hf : fn < 512) :
    decodeNat (packVM 0x23 vd a vx fn) = dec23 vd a vx fn ∧ decodeNat (packVM 0x34 vd a vx fn) = dec34 vd a vx fn := by
  unfold decodeNat
  simp (disch := omega) only [bits_packVM, and_self]

theorem decodeNat_packMX {va vb vc fn : Nat} (ha : va < 64) (hb : vb < 64) (hc : vc < 64) (hf : fn < 256) :
    decodeNat (packMX 0x2A va vb vc fn) = dec2A va vb vc fn := by
  unfold decodeNat
  simp (disch := omega) only [bits_packMX]

end Sys2Proof
end

section
/-! PROOFS. The decoder gives no instruction but one whose word it has read (O58): each row of its tables agrees with the encoder, and is of a
well-formed instruction. -/

namespace Sys2Proof

/-- `i` is an instruction, and `w` is its word. -/
def IsWordOf (w : Nat) (i : Instr) : Prop := i.wf = true ∧ i.isEvent = false ∧ encodeNat i = some w

/-- The decoding `o` of a word gives no instruction but one whose word `w` is. -/
def Sound (w : Nat) (o : Option Instr) : Prop := ∀ i, o = some i → IsWordOf w i

@[simp] theorem sound_none (w : Nat) : Sound w none := by simp [Sound]

@[simp] theorem sound_some {w : Nat} {i : Instr} : Sound w (some i) ↔ IsWordOf w i := by simp [Sound]

@[simp] theorem sound_need {w : Nat} {c : Bool} {i : Instr} : Sound w (need c i) ↔ (c = true → IsWordOf w i) := by
  cases c <;> simp [need]

theorem isWordOf_of {w n : Nat} {i : Instr} (hwf : i.wf = true) (hev : i.isEvent = false) (he : encodeNat i = some n) (hn : n = w) :
    IsWordOf w i :=
  ⟨hwf, hev, hn ▸ he⟩

/-! ### Operands of a field's width -/

@[simp] theorem sr_toNat (n : Nat) : (sr n).toNat = n % 32 := BitVec.toNat_ofNat n 5
@[simp] theorem vn_toNat (n : Nat) : (vn n).toNat = n % 64 := BitVec.toNat_ofNat n 6
@[simp] theorem mk_toNat (n : Nat) : (mk n).toNat = n % 8 := BitVec.toNat_ofNat n 3
@[simp] theorem sl_toNat (n : Nat) : (sl n).toNat = n % 16 := BitVec.toNat_ofNat n 4
@[simp] theorem m2_toNat (n : Nat) : (m2 n).toNat = n % 4 := BitVec.toNat_ofNat n 2
@[simp] theorem c6_toNat (n : Nat) : (c6 n).toNat = n % 64 := BitVec.toNat_ofNat n 6

theorem ffmtOf_code {n : Nat} (h : n < 4) : (ffmtOf n).code = n := by decide +revert
theorem cvtTyOf_code {n : Nat} (h : n < 8) : (cvtTyOf n).code = n := by decide +revert
theorem cvtTyOf_isInt {n : Nat} (h4 : 4 ≤ n) (h : n < 8) : (cvtTyOf n).isInt = true := by decide +revert
theorem scopeOf_code {n : Nat} (h : n < 4) : (scopeOf n).code = n := by decide +revert
theorem b2n_beq_one {n : Nat} (h : n < 2) : b2n (n == 1) = n := by decide +revert

/-! ### Opcode 0x01 -/

section
variable {d a b fn : Nat} (hd : d < 32) (ha : a < 32) (hb : b < 32)
include hd ha hb

theorem decInt_sound : Sound (packSR 1 d a b fn) (decInt d a b fn) := by
  unfold decInt
  split
  case h_29 => exact sound_none _
  all_goals
    simp only [sound_some, sound_need, beq_iff_eq]
    intros
    exact isWordOf_of rfl rfl rfl (by simp only [packSR, sr_toNat]; omega)

omit hb in
theorem decShiftImm_sound (hf : fn < 512) : Sound (packSR 1 d a b (512 + fn)) (decShiftImm d a b fn) := by
  unfold decShiftImm
  split
  case h_4 => exact sound_none _
  all_goals
    simp only [sound_need, beq_iff_eq]
    intro hb
    exact isWordOf_of rfl rfl rfl (by simp only [packSR, sr_toNat, BitVec.toNat_ofNat]; omega)

theorem decFp_sound : Sound (packSR 1 d a b (1024 + fn)) (decFp d a b fn) := by
  have hcode := ffmtOf_code (n := fn / 8 % 4) (by omega)
  have hty := cvtTyOf_code (n := fn % 8) (by omega)
  unfold decFp
  dsimp only
  split
  case h_12 => exact sound_none _
  case h_11 =>
    simp only [sound_need, Bool.and_eq_true, beq_iff_eq, decide_eq_true_eq]
    rintro ⟨hb, h4⟩
    exact isWordOf_of (cvtTyOf_isInt h4 (by omega)) rfl rfl (by simp only [packSR, sr_toNat, hcode, hty]; omega)
  all_goals
    simp only [sound_need, Bool.and_eq_true, beq_iff_eq]
    intro h
    exact isWordOf_of rfl rfl rfl (by simp only [packSR, sr_toNat, hcode, hty]; omega)

theorem dec01_sound : Sound (packSR 1 d a b fn) (dec01 d a b fn) := by
  unfold dec01
  split
  case h_1 h =>
    rw [show packSR 1 d a b fn = packSR 1 d a b (fn % 512) by congr 1; omega]
    exact decInt_sound hd ha hb
  case h_2 h =>
    rw [show packSR 1 d a b fn = packSR 1 d a b (512 + fn % 512) by congr 1; omega]
    exact decShiftImm_sound hd ha (by omega)
  case h_3 h =>
    rw [show packSR 1 d a b fn = packSR 1 d a b (1024 + fn % 512) by congr 1; omega]
    exact decFp_sound hd ha hb
  case h_4 h =>
    simp only [sound_need, beq_iff_eq]
    intro hb
    exact isWordOf_of rfl rfl rfl (by simp only [packSR, sr_toNat, BitVec.toNat_ofNat]; omega)
  case h_5 => exact sound_none _

/-! ### The other opcodes of formats SR and XE -/

theorem decAtomic_sound : Sound (packSR 0x22 d a b fn) (decAtomic d a b fn) := by
  have hw := b2n_beq_one (n := fn / 8 % 2) (by omega)
  have hu := b2n_beq_one (n := fn / 16 % 2) (by omega)
  unfold decAtomic
  dsimp only
  split
  case isFalse => exact sound_none _
  split
  case h_9 => exact sound_none _
  all_goals
    simp only [sound_some, sound_need, Bool.not_eq_true', beq_eq_false_iff_ne]
    intros
    exact isWordOf_of rfl rfl rfl (by simp only [packSR, sr_toNat, hw, hu]; omega)

theorem dec2E_sound (hf : fn < 2048) : Sound (packSR 0x2E d a b fn) (dec2E d a b fn) := by
  have ho := b2n_beq_one (n := fn / 16 % 2) (by omega)
  unfold dec2E
  dsimp only
  split
  case h_7 => exact sound_none _
  all_goals
    simp only [sound_some, sound_need, Bool.and_eq_true, Bool.not_eq_true', beq_iff_eq, beq_eq_false_iff_ne]
    intros
    exact isWordOf_of rfl rfl rfl (by simp only [packSR, sr_toNat, vn_toNat, ho]; omega)

theorem dec2F_sound : Sound (packSR 0x2F d a b fn) (dec2F d a b fn) := by
  unfold dec2F
  split
  case h_7 => exact sound_none _
  all_goals
    simp only [sound_some, sound_need, beq_iff_eq]
    intros
    exact isWordOf_of rfl rfl rfl (by simp only [packSR, sr_toNat]; omega)

theorem dec35_sound (hf : fn < 2048) : Sound (packSR 0x35 d a b fn) (dec35 d a b fn) := by
  have ho := b2n_beq_one (n := fn / 16 % 2) (by omega)
  unfold dec35
  dsimp only
  split
  case isFalse => exact sound_none _
  split
  case h_10 => exact sound_none _
  all_goals
    simp only [sound_some, sound_need, Bool.and_eq_true, Bool.not_eq_true', beq_iff_eq, beq_eq_false_iff_ne]
    intros
    exact isWordOf_of rfl rfl rfl (by simp only [packSR, sr_toNat, ho]; omega)

theorem dec36_sound (hf : fn < 2048) : Sound (packSR 0x36 d a b fn) (dec36 d a b fn) := by
  unfold dec36
  dsimp only
  split
  case h_7 => exact sound_none _
  case h_1 =>
    simp only [sound_need, decide_eq_true_eq]
    intro h
    have hu := b2n_beq_one h
    exact isWordOf_of rfl rfl rfl (by simp only [packSR, sr_toNat, hu]; omega)
  all_goals
    simp only [sound_need, Bool.and_eq_true, beq_iff_eq, decide_eq_true_eq]
    intro h
    exact isWordOf_of rfl rfl rfl (by simp only [packSR, sr_toNat, m2_toNat]; omega)

omit hd ha hb in
theorem dec3B_sound : Sound (packSR 0x3B d a b fn) (dec3B d a b fn) := by
  have hs := scopeOf_code (n := fn / 4 % 4) (by omega)
  unfold dec3B
  dsimp only
  split
  case isFalse => exact sound_none _
  split
  case h_4 => exact sound_none _
  all_goals
    exact sound_some.mpr (isWordOf_of rfl rfl rfl (by simp only [packSR, hs]; omega))

end

/-! ### Formats SI, SB and SJ -/

section
variable {op d a imm : Nat} (hd : d < 32) (ha : a < 32) (hi : imm < 65536)
include hd ha hi

theorem decImm_sound : Sound (packSI op d a imm) (decImm op d a imm) := by
  unfold decImm
  split
  case h_7 => exact sound_none _
  all_goals exact sound_some.mpr (isWordOf_of rfl rfl rfl (by simp only [packSI, sr_toNat, BitVec.toNat_ofNat]; omega))

omit ha in
theorem dec08_sound : Sound (packSI 8 d a imm) (dec08 d a imm) := by
  unfold dec08
  split
  case h_3 => exact sound_none _
  all_goals exact sound_some.mpr (isWordOf_of rfl rfl rfl (by simp only [packSI, sr_toNat, m2_toNat, BitVec.toNat_ofNat]; omega))

theorem decBranch_sound : Sound (packSI op d a imm) (decBranch op d a imm) := by
  unfold decBranch
  split
  case h_7 => exact sound_none _
  all_goals exact sound_some.mpr (isWordOf_of rfl rfl rfl (by simp only [packSI, sr_toNat, BitVec.toNat_ofNat]; omega))

omit hi in
theorem decLoad_sound : Sound (packSI 0x20 d a imm) (decLoad d a imm) := by
  unfold decLoad
  dsimp only
  split
  case h_8 => exact sound_none _
  all_goals exact sound_some.mpr (isWordOf_of rfl rfl rfl (by simp only [packSI, sr_toNat, BitVec.toNat_ofNat]; omega))

omit hi in
theorem decStore_sound : Sound (packSI 0x21 d a imm) (decStore d a imm) := by
  unfold decStore
  dsimp only
  split
  case h_5 => exact sound_none _
  all_goals exact sound_some.mpr (isWordOf_of rfl rfl rfl (by simp only [packSI, sr_toNat, BitVec.toNat_ofNat]; omega))

omit hi in
theorem dec3A_sound : Sound (packSI 0x3A d a imm) (dec3A d a imm) := by
  have hx : (BitVec.ofNat 12 (imm % 4096)).toNat = imm % 4096 := by simp
  unfold dec3A
  dsimp only
  split
  case h_6 => exact sound_none _
  case h_1 | h_2 =>
    simp only [sound_need, Bool.and_eq_true, beq_iff_eq]
    rintro ⟨h0, hcr⟩
    exact isWordOf_of (show isCr _ = true by rwa [hx]) rfl rfl (by simp only [packSI, sr_toNat, hx]; omega)
  all_goals
    simp only [sound_need, Bool.and_eq_true, beq_iff_eq]
    intro h
    exact isWordOf_of rfl rfl rfl (by simp only [packSI, hx]; omega)

omit hd hi in
theorem dec3C_sound : Sound (packSI 0x3C d a imm) (dec3C d a imm) := by
  unfold dec3C
  dsimp only
  split
  case h_4 => exact sound_none _
  case h_1 =>
    split
    case isFalse => exact sound_none _
    split
    case h_4 => exact sound_none _
    all_goals
      simp only [sound_some, sound_need, beq_iff_eq]
      intros
      exact isWordOf_of rfl rfl rfl (by simp only [packSI, mk_toNat, BitVec.toNat_ofNat]; omega)
  all_goals
    simp only [sound_need, Bool.and_eq_true, beq_iff_eq]
    intro h
    exact isWordOf_of rfl rfl rfl (by simp only [packSI, sr_toNat]; omega)

end

theorem jal_sound {d disp : Nat} (hd : d < 32) (hp : disp < 2097152) : Sound (packSJ 9 d disp) (some (.jal (sr d) (BitVec.ofNat 21 disp))) :=
  sound_some.mpr (isWordOf_of rfl rfl rfl (by simp only [packSJ, sr_toNat, BitVec.toNat_ofNat]; omega))

/-! ### Formats VR and VI -/

section
variable {op vd va vb sm imm fn : Nat} (hd : vd < 64) (ha : va < 64) (hb : vb < 64) (hs : sm < 4) (hi : imm < 256) (hf : fn < 64)
include hd ha

include hb hs in
theorem dec10_sound : Sound (packVR 0x10 vd va vb sm fn) (dec10 vd va vb sm fn) := by
  unfold dec10
  split
  case h_21 => exact sound_none _
  all_goals
    simp only [sound_some, sound_need, Bool.and_eq_true, beq_iff_eq]
    intros
    exact isWordOf_of rfl rfl rfl (by simp only [packVR, vn_toNat, m2_toNat]; omega)

include hb hs in
theorem dec13_sound : Sound (packVR 0x13 vd va vb sm fn) (dec13 vd va vb sm fn) := by
  unfold dec13
  dsimp only
  split
  case h_13 => exact sound_none _
  all_goals
    simp only [sound_need, Bool.and_eq_true, beq_iff_eq, decide_eq_true_eq]
    intro h
    exact isWordOf_of rfl rfl rfl (by simp only [packVR, sr_toNat, vn_toNat, mk_toNat, m2_toNat]; omega)

include hb hs hf in
theorem dec14_sound : Sound (packVR 0x14 vd va vb sm fn) (dec14 vd va vb sm fn) := by
  have hbf := b2n_beq_one (n := fn / 32) (by omega)
  unfold dec14
  dsimp only
  split
  case h_22 => exact sound_none _
  all_goals
    simp only [sound_some, sound_need, Bool.and_eq_true, beq_iff_eq, decide_eq_true_eq]
    intros
    exact isWordOf_of rfl rfl rfl (by simp only [packVR, vn_toNat, mk_toNat, m2_toNat, hbf]; omega)

include hb hf in
theorem decConv_sound : Sound (packVR op vd va vb sm fn) (decConv op vd va vb sm fn) := by
  have hcode {n : Nat} (hn : n < 64) : (c6 n).toNat = n := by simp [Nat.mod_eq_of_lt hn]
  unfold decConv
  split
  case h_4 => exact sound_none _
  all_goals
    simp only [sound_need, Bool.and_eq_true, beq_iff_eq]
  case h_1 =>
    rintro ⟨hsm, hok⟩
    exact isWordOf_of (show cvtCodes _ _ = true by rwa [hcode hf, hcode hb]) rfl rfl (by simp only [packVR, vn_toNat, c6_toNat]; omega)
  case h_2 =>
    rintro ⟨⟨hsm, hn⟩, hok⟩
    exact isWordOf_of (show narrowSrc _ = true by rwa [hcode hb]) rfl rfl (by simp only [packVR, vn_toNat, sl_toNat, c6_toNat]; omega)
  case h_3 =>
    rintro ⟨⟨hsm, hn⟩, hok⟩
    exact isWordOf_of (show widenDst _ = true by rwa [hcode hf]) rfl rfl (by simp only [packVR, vn_toNat, sl_toNat, c6_toNat]; omega)

theorem dec18_sound : Sound (packVR 0x18 vd va vb sm fn) (dec18 vd va vb sm fn) := by
  unfold dec18
  dsimp only
  split
  case h_4 => exact sound_none _
  all_goals
    simp only [sound_need, Bool.and_eq_true, beq_iff_eq]
    intro h
    exact isWordOf_of rfl rfl rfl (by simp only [packVR, vn_toNat, sl_toNat]; omega)

include hb in
theorem dec19_sound : Sound (packVR 0x19 vd va vb sm fn) (dec19 vd va vb sm fn) := by
  unfold dec19
  dsimp only
  split
  case h_8 => exact sound_none _
  case h_1 | h_2 | h_3 =>
    simp only [sound_need, Bool.and_eq_true, beq_iff_eq]
    intro h
    exact isWordOf_of rfl rfl rfl (by simp only [packVR, vn_toNat]; omega)
  all_goals
    simp only [sound_need, Bool.and_eq_true, beq_iff_eq, decide_eq_true_eq]
    rintro ⟨⟨hsm, hvb⟩, hty⟩
    exact isWordOf_of (decide_eq_true (by simp only [m2_toNat]; omega)) rfl rfl (by simp only [packVR, vn_toNat, m2_toNat]; omega)

include hi in
theorem dec12_sound : Sound (packVI 0x12 vd va imm fn) (dec12 vd va imm fn) := by
  have hn : (BitVec.ofNat 8 imm).toNat = imm := by simp [Nat.mod_eq_of_lt hi]
  unfold dec12
  dsimp only
  split
  case h_7 => exact sound_none _
  case h_1 | h_2 => exact sound_some.mpr (isWordOf_of rfl rfl rfl (by simp only [packVI, vn_toNat, hn]; omega))
  case h_6 =>
    simp only [sound_need, beq_iff_eq]
    intro hva
    exact isWordOf_of rfl rfl rfl (by simp only [packVI, vn_toNat, hn]; omega)
  all_goals
    simp only [sound_need, decide_eq_true_eq]
    intro hlt
    exact isWordOf_of (decide_eq_true (by rwa [hn])) rfl rfl (by simp only [packVI, vn_toNat, hn]; omega)

include hi in
omit ha in
theorem dec29_sound : Sound (packVI 0x29 vd va imm fn) (dec29 vd va imm fn) := by
  have hn : (BitVec.ofNat 8 imm).toNat = imm := by simp [Nat.mod_eq_of_lt hi]
  unfold dec29
  split
  case h_3 => exact sound_none _
  case h_1 =>
    simp only [sound_need, beq_iff_eq]
    intro hva
    exact isWordOf_of rfl rfl rfl (by simp only [packVI, vn_toNat, hn]; omega)
  case h_2 =>
    simp only [sound_need, Bool.and_eq_true, beq_iff_eq]
    rintro ⟨hva, htag⟩
    exact isWordOf_of (show tagOk _ = true by rwa [hn]) rfl rfl (by simp only [packVI, vn_toNat, hn]; omega)

end

/-! ### Formats VS, VM and MX -/

section
variable {x y z fn : Nat} (hx : x < 64)
include hx

theorem dec11_sound (hy : y < 64) (hz : z < 32) : Sound (packVS 0x11 x y z fn) (dec11 x y z fn) := by
  unfold dec11
  split
  case h_5 => exact sound_none _
  all_goals
    simp only [sound_need, Bool.and_eq_true, beq_iff_eq, decide_eq_true_eq]
    intro h
    exact isWordOf_of rfl rfl rfl (by simp only [packVS, sr_toNat, vn_toNat, mk_toNat]; omega)

theorem dec1A_sound (hy : y < 64) (hz : z < 32) : Sound (packVS 0x1A x y z fn) (dec1A x y z fn) := by
  unfold dec1A
  dsimp only
  split
  case h_6 => exact sound_none _
  case h_4 =>
    simp only [sound_need, decide_eq_true_eq]
    intro hty
    exact isWordOf_of (decide_eq_true (by simp only [m2_toNat]; omega)) rfl rfl (by simp only [packVS, sr_toNat, vn_toNat, m2_toNat]; omega)
  all_goals
    simp only [sound_need, beq_iff_eq]
    intro h
    exact isWordOf_of rfl rfl rfl (by simp only [packVS, sr_toNat, vn_toNat]; omega)

theorem dec28_sound (hy : y < 64) (hz : z < 32) : Sound (packVS 0x28 x y z fn) (dec28 x y z fn) := by
  unfold dec28
  split
  case h_9 => exact sound_none _
  all_goals
    simp only [sound_some, sound_need, Bool.and_eq_true, beq_iff_eq]
    intros
    exact isWordOf_of rfl rfl rfl (by simp only [packVS, sr_toNat, vn_toNat]; omega)

theorem dec23_sound (hy : y < 32) (hz : z < 64) (hf : fn < 512) : Sound (packVM 0x23 x y z fn) (dec23 x y z fn) := by
  unfold dec23
  dsimp only
  split
  case h_14 => exact sound_none _
  case h_7 =>
    have hty : (BitVec.ofNat 5 (fn / 16)).toNat = fn / 16 := Nat.mod_eq_of_lt (by omega)
    simp only [sound_need]
    intro hok
    exact isWordOf_of (show scaddTy _ = true by rwa [hty]) rfl rfl (by simp only [packVM, sr_toNat, vn_toNat, hty]; omega)
  case h_10 =>
    simp only [sound_need, Bool.and_eq_true, beq_iff_eq, decide_eq_true_eq]
    rintro ⟨hz, ha⟩
    exact isWordOf_of (decide_eq_true (by simp only [sr_toNat]; omega)) rfl rfl (by simp only [packVM, sr_toNat, vn_toNat]; omega)
  case h_12 =>
    simp only [sound_need, decide_eq_true_eq]
    intro hlt
    exact isWordOf_of rfl rfl rfl (by simp only [packVM, sr_toNat, vn_toNat, b2n_beq_one hlt]; omega)
  all_goals
    simp only [sound_need, Bool.and_eq_true, beq_iff_eq]
    intro h
    exact isWordOf_of rfl rfl rfl (by simp only [packVM, sr_toNat, vn_toNat]; omega)

theorem dec34_sound (hy : y < 32) : Sound (packVM 0x34 x y z fn) (dec34 x y z fn) := by
  have hw := b2n_beq_one (n := fn / 16 % 2) (by omega)
  unfold dec34
  dsimp only
  split
  case isFalse => exact sound_none _
  split
  case h_5 => exact sound_none _
  all_goals exact sound_some.mpr (isWordOf_of rfl rfl rfl (by simp only [packVM, sr_toNat, vn_toNat, hw]; omega))

theorem dec2A_sound (hy : y < 64) (hz : z < 64) (hf : fn < 256) : Sound (packMX 0x2A x y z fn) (dec2A x y z fn) := by
  unfold dec2A
  dsimp only
  split
  case h_8 => exact sound_none _
  case h_1 =>
    simp only [sound_need, Bool.and_eq_true, beq_iff_eq, decide_eq_true_eq]
    rintro ⟨hc, hlt⟩
    exact isWordOf_of (decide_eq_true (by simp only [sl_toNat]; omega)) rfl rfl (by simp only [packMX, vn_toNat, sl_toNat]; omega)
  case h_5 | h_6 =>
    simp only [sound_need, Bool.and_eq_true, beq_iff_eq, decide_eq_true_eq]
    rintro ⟨⟨hc, hb⟩, hlt⟩
    exact isWordOf_of (decide_eq_true (by simp only [sl_toNat]; omega)) rfl rfl (by simp only [packMX, sr_toNat, vn_toNat, sl_toNat]; omega)
  all_goals
    simp only [sound_some, sound_need, Bool.and_eq_true, beq_iff_eq]
    intros
    exact isWordOf_of rfl rfl rfl (by simp only [packMX, vn_toNat, sl_toNat]; omega)

end

/-! ### The decoder -/

theorem Sound.of_eq {v w : Nat} {o : Option Instr} (hs : Sound v o) (h : v = w) : Sound w o := h ▸ hs

/-- R103, R107: whatever a number of 32 bits decodes to has that number as its word. -/
theorem decodeNat_sound {w : Nat} (hw : w < 2 ^ 32) : Sound w (decodeNat w) := by
  unfold decodeNat
  dsimp only
  split
  case h_1 hop => exact (dec01_sound (bits_lt ..) (bits_lt ..) (bits_lt ..)).of_eq (packSR_bits hw hop)
  case h_2 | h_3 | h_4 | h_5 | h_6 | h_7 => exact (decImm_sound (bits_lt ..) (bits_lt ..) (bits_lt ..)).of_eq (packSI_bits hw rfl)
  case h_8 hop => exact (dec08_sound (bits_lt ..) (bits_lt ..)).of_eq (packSI_bits hw hop)
  case h_9 hop => exact (jal_sound (bits_lt ..) (bits_lt ..)).of_eq (packSJ_bits hw hop)
  case h_10 | h_11 | h_12 | h_13 | h_14 | h_15 =>
    exact (decBranch_sound (bits_lt ..) (bits_lt ..) (bits_lt ..)).of_eq (packSI_bits hw rfl)
  case h_16 hop => exact (dec10_sound (bits_lt ..) (bits_lt ..) (bits_lt ..) (bits_lt ..)).of_eq (packVR_bits hw hop)
  case h_17 hop => exact (dec11_sound (bits_lt ..) (bits_lt ..) (bits_lt ..)).of_eq (packVS_bits hw hop)
  case h_18 hop => exact (dec12_sound (bits_lt ..) (bits_lt ..) (bits_lt ..)).of_eq (packVI_bits hw hop)
  case h_19 hop => exact (dec13_sound (bits_lt ..) (bits_lt ..) (bits_lt ..) (bits_lt ..)).of_eq (packVR_bits hw hop)
  case h_20 hop => exact (dec14_sound (bits_lt ..) (bits_lt ..) (bits_lt ..) (bits_lt ..) (bits_lt ..)).of_eq (packVR_bits hw hop)
  case h_21 | h_22 | h_23 => exact (decConv_sound (bits_lt ..) (bits_lt ..) (bits_lt ..) (bits_lt ..)).of_eq (packVR_bits hw rfl)
  case h_24 hop => exact (dec18_sound (bits_lt ..) (bits_lt ..)).of_eq (packVR_bits hw hop)
  case h_25 hop => exact (dec19_sound (bits_lt ..) (bits_lt ..) (bits_lt ..)).of_eq (packVR_bits hw hop)
  case h_26 hop => exact (dec1A_sound (bits_lt ..) (bits_lt ..) (bits_lt ..)).of_eq (packVS_bits hw hop)
  case h_27 hop => exact (decLoad_sound (bits_lt ..) (bits_lt ..)).of_eq (packSI_bits hw hop)
  case h_28 hop => exact (decStore_sound (bits_lt ..) (bits_lt ..)).of_eq (packSI_bits hw hop)
  case h_29 hop => exact (decAtomic_sound (bits_lt ..) (bits_lt ..) (bits_lt ..)).of_eq (packSR_bits hw hop)
  case h_30 hop => exact (dec23_sound (bits_lt ..) (bits_lt ..) (bits_lt ..) (bits_lt ..)).of_eq (packVM_bits hw hop)
  case h_31 hop => exact (dec28_sound (bits_lt ..) (bits_lt ..) (bits_lt ..)).of_eq (packVS_bits hw hop)
  case h_32 hop => exact (dec29_sound (bits_lt ..) (bits_lt ..)).of_eq (packVI_bits hw hop)
  case h_33 hop => exact (dec2A_sound (bits_lt ..) (bits_lt ..) (bits_lt ..) (bits_lt ..)).of_eq (packMX_bits hw hop)
  case h_34 hop => exact (dec2E_sound (bits_lt ..) (bits_lt ..) (bits_lt ..) (bits_lt ..)).of_eq (packSR_bits hw hop)
  case h_35 hop => exact (dec2F_sound (bits_lt ..) (bits_lt ..) (bits_lt ..)).of_eq (packSR_bits hw hop)
  case h_36 hop => exact (dec34_sound (bits_lt ..) (bits_lt ..)).of_eq (packVM_bits hw hop)
  case h_37 hop => exact (dec35_sound (bits_lt ..) (bits_lt ..) (bits_lt ..) (bits_lt ..)).of_eq (packSR_bits hw hop)
  case h_38 hop => exact (dec36_sound (bits_lt ..) (bits_lt ..) (bits_lt ..) (bits_lt ..)).of_eq (packSR_bits hw hop)
  case h_39 hop => exact (dec3A_sound (bits_lt ..) (bits_lt ..)).of_eq (packSI_bits hw hop)
  case h_40 hop => exact dec3B_sound.of_eq (packSR_bits hw hop)
  case h_41 hop => exact (dec3C_sound (bits_lt ..)).of_eq (packSI_bits hw hop)
  case h_42 => exact sound_none _

end Sys2Proof
end

section
/-! PROOFS. Every well-formed instruction is read back from its word (O58), and words written out (O57). -/

namespace Sys2Proof

/-- An instruction has a word, and that word decodes to it. -/
def ReadsBack (i : Instr) : Prop := ∃ n, encodeNat i = some n ∧ decodeNat n = some i

@[simp] theorem need_true (i : Instr) : need true i = some i := rfl

@[simp] theorem sr_of_toNat (v : SReg) : sr v.toNat = v := by simp [sr]
@[simp] theorem vn_of_toNat (v : VName) : vn v.toNat = v := by simp [vn]
@[simp] theorem mk_of_toNat (v : MReg) : mk v.toNat = v := by simp [mk]
@[simp] theorem m2_of_toNat (v : BitVec 2) : m2 v.toNat = v := by simp [m2]
@[simp] theorem sl_of_toNat (v : Slot) : sl v.toNat = v := by simp [sl]
@[simp] theorem c6_of_toNat (v : BitVec 6) : c6 v.toNat = v := by simp [c6]

@[simp] theorem sreg_lt (v : SReg) : v.toNat < 32 := v.isLt
@[simp] theorem mreg_lt (v : MReg) : v.toNat < 8 := v.isLt

theorem field_div {m x r : Nat} (hx : m ∣ x) (hr : r < m) : (x + r) / m = x / m := by
  rw [Nat.add_div_of_dvd_right hx, Nat.div_eq_of_lt hr, Nat.add_zero]

theorem field_mod {m x r : Nat} (hx : m ∣ x) (hr : r < m) : (x + r) % m = r := by
  rw [Nat.add_mod, Nat.mod_eq_zero_of_dvd hx, Nat.zero_add, Nat.mod_mod, Nat.mod_eq_of_lt hr]

theorem ofNat_field {w x : Nat} (hx : 2 ^ w ∣ x) (v : BitVec w) : BitVec.ofNat w (x + v.toNat) = v := by
  apply BitVec.eq_of_toNat_eq
  rw [BitVec.toNat_ofNat, field_mod hx v.isLt]

theorem b2n_beq (b : Bool) : (b2n b == 1) = b := by cases b <;> rfl

/-- VIDX and ORD in the function field of XGATH (R131). -/
theorem xgath_readsBack (a b c : SReg) (v : VName) (o : Bool) : ReadsBack (.xgath a b c v o) := by
  have ho := Laws.b2n_lt o
  have hfn : (v.toNat * 32 + b2n o * 16 + 1) % 16 = 1 := by omega
  have hord : (v.toNat * 32 + b2n o * 16 + 1) / 16 % 2 = b2n o := by omega
  have hidx : (v.toNat * 32 + b2n o * 16 + 1) / 32 = v.toNat := by omega
  exact ⟨_, rfl, by simp (disch := omega) only [decodeNat_packSR, dec2E, hfn, hord, hidx, b2n_beq, sr_of_toNat, vn_of_toNat]⟩

/-- The code and the mask of a conditional breakpoint, below its form in bits 11 and 10 (R116). -/
theorem brk_fields {x : Nat} (hx : 1024 ∣ x) (hlt : x < 4096) (c : BitVec 7) (m : MReg) :
    (x + m.toNat * 128 + c.toNat) / 4096 = 0 ∧ (x + m.toNat * 128 + c.toNat) % 4096 = x + m.toNat * 128 + c.toNat ∧
      (x + m.toNat * 128 + c.toNat) / 1024 = x / 1024 ∧ mk ((x + m.toNat * 128 + c.toNat) / 128) = m ∧
      BitVec.ofNat 7 (x + m.toNat * 128 + c.toNat) = c := by
  have hmask : (x + m.toNat * 128 + c.toNat) / 128 = x / 128 + m.toNat := by omega
  refine ⟨by omega, by omega, by omega, ?_, ofNat_field (by omega) c⟩
  rw [hmask]
  exact ofNat_field (by omega) m

/-- Each row of the encoder, by major opcode: the fields are read back, and the table of the opcode gives the instruction again. -/
theorem readsBack (i : Instr) (hwf : i.wf = true) (hev : i.isEvent = false) : ReadsBack i := by
  cases i
  -- opcode 0x01
  case add | sub | mul | mulh | mulhu | div | divu | rem | remu | and | or | xor | andn | shl | shr | sra | slt | sltu | min | max | minu | maxu
    | clz | ctz | popc | sextb | sexth | sextw =>
    exact ⟨_, rfl, by simp (disch := omega) [decodeNat_packSR, dec01, decInt]⟩
  case shli | shri | srai =>
    refine ⟨_, rfl, ?_⟩
    simp (disch := omega) [decodeNat_packSR, dec01, decShiftImm, Nat.add_assoc, Nat.div_eq_of_lt, Nat.mod_eq_of_lt, field_div, field_mod]
  case fadd f | fsub f | fmul f | fdiv f | fma f | fmin f | fmax f | fcmp f | fsqrt f =>
    exact ⟨_, rfl, by cases f <;> simp (disch := omega) [decodeNat_packSR, dec01, decFp, FFmt.code, ffmtOf]⟩
  case fcvtToFloat f t =>
    refine ⟨_, rfl, ?_⟩
    cases f <;> cases t <;> simp (disch := omega) [decodeNat_packSR, dec01, decFp, FFmt.code, ffmtOf, CvtTy.code, cvtTyOf]
  case fcvtToInt t f =>
    refine ⟨_, rfl, ?_⟩
    cases t <;> cases f <;>
      simp (disch := omega) [Instr.wf, CvtTy.isInt, decodeNat_packSR, dec01, decFp, FFmt.code, ffmtOf, CvtTy.code, cvtTyOf] at hwf ⊢
  case jalr => exact ⟨_, rfl, by simp (disch := omega) [decodeNat_packSR, dec01, field_div, ofNat_field]⟩
  -- opcodes 0x02 to 0x0F
  case addi | andi | ori | xori | slti | sltiu => exact ⟨_, rfl, by simp (disch := omega) [decodeNat_packSI, decImm]⟩
  case lis | lih => exact ⟨_, rfl, by simp (disch := omega) [decodeNat_packSI, dec08, Nat.div_eq_of_lt, m2, ofNat_field]⟩
  case jal => exact ⟨_, rfl, by simp (disch := omega) [decodeNat_packSJ]⟩
  case beq | bne | blt | bge | bltu | bgeu => exact ⟨_, rfl, by simp (disch := omega) [decodeNat_packSI, decBranch]⟩
  -- opcodes 0x10 to 0x1A
  case vadd | vsub | vmul | vmulh | vmin | vmax | vminu | vmaxu | vand | vor | vxor | vshl | vshr | vsra | vsadd | vssub | vmerge | vmv | vsaddU
    | vssubU =>
    exact ⟨_, rfl, by simp (disch := omega) [decodeNat_packVR, dec10]⟩
  case vsplat | vmvsx | vmvxs | mset => exact ⟨_, rfl, by simp (disch := omega) [decodeNat_packVS, dec11]⟩
  case vslideupImm | vslidednImm | vsplatImm => exact ⟨_, rfl, by simp (disch := omega) [decodeNat_packVI, dec12]⟩
  case vshlImm | vshrImm | vsraImm =>
    simp only [Instr.wf] at hwf
    exact ⟨_, rfl, by simp (disch := omega) [decodeNat_packVI, dec12, hwf]⟩
  case vcmpEq | vcmpNe | vcmpLt | vcmpGe | vcmpLtu | vcmpGeu | mand | mor | mxor | mnot | mpopc | mfirst =>
    exact ⟨_, rfl, by simp (disch := omega) [decodeNat_packVR, dec13]⟩
  case vfadd f | vfsub f | vfmul f | vfma f | vfms f | vfnma f | vfdiv f | vfmin f | vfmax f | vfsqrt f | vfrcp f | vfrsq f | vfabs f | vfneg f
    | vfexp2 f | vflog2 f | vfclass f | vfcmpEq f | vfcmpLt f | vfcmpLe f | vfcmpUn f =>
    exact ⟨_, rfl, by cases f <;> simp (disch := omega) [decodeNat_packVR, dec14, b2n]⟩
  case vcvt | vnarrow | vwiden =>
    simp only [Instr.wf] at hwf
    exact ⟨_, rfl, by simp (disch := omega) [decodeNat_packVR, decConv, field_div, sl, ofNat_field, hwf]⟩
  case vsplitb | vjoinb | vscaleb =>
    exact ⟨_, rfl, by simp (disch := omega) [decodeNat_packVR, dec18, Nat.div_eq_of_lt, field_div, sl, ofNat_field]⟩
  case vperm | vcompress | vexpand => exact ⟨_, rfl, by simp (disch := omega) [decodeNat_packVR, dec19]⟩
  case vredsum | vredmax | vredmin | vscan =>
    simp only [Instr.wf] at hwf
    exact ⟨_, rfl, by simp (disch := omega) [decodeNat_packVR, dec19, field_div, field_mod, hwf]⟩
  case vslideup | vslidedn | vbcast | vhist => exact ⟨_, rfl, by simp (disch := omega) [decodeNat_packVS, dec1A]⟩
  case vtopk =>
    simp only [Instr.wf] at hwf
    exact ⟨_, rfl, by simp (disch := omega) [decodeNat_packVS, dec1A, field_div, field_mod, hwf]⟩
  -- opcodes 0x20 to 0x23
  case ldb | ldbu | ldh | ldhu | ldw | ldwu | ldd =>
    exact ⟨_, rfl, by simp (disch := omega) [decodeNat_packSI, decLoad, Nat.div_eq_of_lt, field_div, ofNat_field]⟩
  case stb | sth | stw | std =>
    exact ⟨_, rfl, by simp (disch := omega) [decodeNat_packSI, decStore, Nat.div_eq_of_lt, field_div, ofNat_field]⟩
  case amoadd w | amoand w | amoor w | amoxor w | amoswap w | amocas w =>
    exact ⟨_, rfl, by cases w <;> simp (disch := omega) [decodeNat_packSR, decAtomic, b2n]⟩
  case amomin w u | amomax w u =>
    exact ⟨_, rfl, by cases w <;> cases u <;> simp (disch := omega) [decodeNat_packSR, decAtomic, b2n]⟩
  case vld | vst | vlds | vsts | vldx | vstx | vldz | vstz | vldw | sunbind => exact ⟨_, rfl, by simp (disch := omega) [decodeNat_packVM, dec23]⟩
  case vscadd | vstpair =>
    simp only [Instr.wf] at hwf
    exact ⟨_, rfl, by simp (disch := omega) [decodeNat_packVM, dec23, field_div, field_mod, hwf]⟩
  case sbind o => exact ⟨_, rfl, by cases o <;> simp (disch := omega) [decodeNat_packVM, dec23, b2n]⟩
  -- opcodes 0x28 to 0x2F
  case carve | carveq | uncarve | plzero | plsave | plload | setvl | lpreq =>
    exact ⟨_, rfl, by simp (disch := omega) [decodeNat_packVS, dec28]⟩
  case setvli => exact ⟨_, rfl, by simp (disch := omega) [decodeNat_packVI, dec29]⟩
  case retag =>
    simp only [Instr.wf] at hwf
    exact ⟨_, rfl, by simp (disch := omega) [decodeNat_packVI, dec29, hwf]⟩
  case mma | mrd | mwr =>
    simp only [Instr.wf] at hwf
    exact ⟨_, rfl, by simp (disch := omega) [decodeNat_packMX, dec2A, field_div, field_mod, hwf]⟩
  case mman | mmas | mzero | mwait => exact ⟨_, rfl, by simp (disch := omega) [decodeNat_packMX, dec2A, field_div, field_mod]⟩
  case xcopy o | xfill o => exact ⟨_, rfl, by cases o <;> simp (disch := omega) [decodeNat_packSR, dec2E, b2n]⟩
  case xgath a b c v o => exact xgath_readsBack a b c v o
  case xquery | xcancel | waitw => exact ⟨_, rfl, by simp (disch := omega) [decodeNat_packSR, dec2E]⟩
  case take | tenq | tdone | tcancel | claim | claimp => exact ⟨_, rfl, by simp (disch := omega) [decodeNat_packSR, dec2F]⟩
  -- opcodes 0x34 to 0x3C
  case agld w | agst w | agadd w | agmerge w => exact ⟨_, rfl, by cases w <;> simp (disch := omega) [decodeNat_packVM, dec34, b2n]⟩
  case agsweep o | unorm o | uapply o => exact ⟨_, rfl, by cases o <;> simp (disch := omega) [decodeNat_packSR, dec35, b2n]⟩
  case step | rsbegin | rsnext | rsread | rsend | rsvisit => exact ⟨_, rfl, by simp (disch := omega) [decodeNat_packSR, dec35]⟩
  case cxred u => exact ⟨_, rfl, by cases u <;> simp (disch := omega) [decodeNat_packSR, dec36, b2n]⟩
  case cxgath | cxa2a | cxbar => exact ⟨_, rfl, by simp (disch := omega) [decodeNat_packSR, dec36]⟩
  case cupclr n | cupadd n a b =>
    have hlist {k : Nat} (hk : k < 16) : (n.toNat * 32 + k) / 16 = n.toNat * 2 := by omega
    have hlt : n.toNat * 2 < 8 := by omega
    exact ⟨_, rfl, by simp (disch := omega) [decodeNat_packSR, dec36, hlist, hlt, field_div, field_mod]⟩
  case mfc | mtc =>
    simp only [Instr.wf] at hwf
    exact ⟨_, rfl, by simp (disch := omega) [decodeNat_packSI, dec3A, Nat.div_eq_of_lt, Nat.mod_eq_of_lt, hwf]⟩
  case trap => exact ⟨_, rfl, by simp (disch := omega) [decodeNat_packSI, dec3A, field_div, field_mod]⟩
  case kret | exit => exact ⟨_, rfl, by simp (disch := omega) [decodeNat_packSI, dec3A]⟩
  case fsv s | fvs s | fvv s => exact ⟨_, rfl, by cases s <;> simp (disch := omega) [decodeNat_packSR, dec3B, Scope.code, scopeOf]⟩
  case brk => exact ⟨_, rfl, by simp (disch := omega) [decodeNat_packSI, dec3C, Nat.div_eq_of_lt, Nat.mod_eq_of_lt]⟩
  case brkAny c m | brkAll c m => exact ⟨_, rfl, by simp (disch := omega) [decodeNat_packSI, dec3C, brk_fields]⟩
  case pcaps | pcape => exact ⟨_, rfl, by simp (disch := omega) [decodeNat_packSI, dec3C]⟩
  all_goals cases hev

/-- Settles O58: an instruction's fields are read back from its word, and each row of the decoder's tables gives an instruction of that word. -/
theorem encodeDecode : Obligations.EncodeDecode := by
  unfold Obligations.EncodeDecode
  constructor
  · intro i hwf hev
    obtain ⟨n, henc, hdec⟩ := readsBack i hwf hev
    exact ⟨BitVec.ofNat 32 n, by rw [encode, henc]; rfl, (decode_ofNat n).trans hdec⟩
  · intro w i h
    obtain ⟨hwf, hev, henc⟩ := decodeNat_sound w.isLt i h
    exact ⟨hwf, hev, by rw [encode, henc, Option.map_some, BitVec.ofNat_toNat, BitVec.setWidth_eq]⟩

/-! ### Words written out -/

/-- The major opcodes that no table of R108 to R131 has (R103). -/
def unassignedOpcodes : List Nat := [0x00, 0x1B, 0x1C, 0x1D, 0x1E, 0x1F, 0x24, 0x25, 0x26, 0x27, 0x2B, 0x2C, 0x2D, 0x30, 0x31, 0x32, 0x33, 0x37,
  0x38, 0x39, 0x3D, 0x3E, 0x3F]

theorem decodeNat_unassigned {w : Nat} (h : bits w 31 26 ∈ unassignedOpcodes) : decodeNat w = none := by
  unfold decodeNat
  dsimp only
  generalize bits w 31 26 = op at h ⊢
  unfold unassignedOpcodes at h
  fin_cases h <;> rfl

theorem bits_opcode (w : BitVec 32) : bits w.toNat 31 26 = w.toNat / 2 ^ 26 :=
  Nat.mod_eq_of_lt (Nat.div_lt_of_lt_mul w.isLt)

/-- Settles O57: one word of each format, and the opcodes that no table has. -/
theorem decodeWords : Obligations.DecodeWords := by
  unfold Obligations.DecodeWords
  exact ⟨rfl, rfl, rfl, rfl, rfl, rfl, rfl, rfl, rfl, rfl, rfl, rfl, rfl, rfl, rfl, fun w hop => decodeNat_unassigned (bits_opcode w ▸ hop)⟩

end Sys2Proof
end

section
/-! PROOFS. TRAP, words that do not decode, and breakpoints (O12). -/

namespace Sys2Proof.Machine

section
variable {s t : State} {i : Instr} {code : BitVec 7} {addr : Nat}

theorem addCounter_counter (x : Front) (n k : Nat) : (x.addCounter n k).counter n = x.counter n + word k := spGet_spSet_self _ _ _ _

theorem addCounter_counter_other (x : Front) {n j : Nat} (k : Nat) (h : j ≠ n) : (x.addCounter n k).counter j = x.counter j :=
  spGet_spSet_other _ _ _ h

/-! ### TRAP (R150) -/

/-- Such a trap is logged nowhere and counts no event (R73). -/
theorem frontTrap_counter {r : TrapRec} (hr : s.trapReady r.cause) (hc : 11 < r.cause) (n : Nat) :
    (frontTrap s r).me.counter n = s.me.counter n := by
  obtain ⟨hq, hm⟩ := hr
  have ht : frontTrap s r = s.setFront s.cur (s.me.trapped r s.me.pc s.me.vsn) := by
    rw [frontTrap, hq]
    simp only [List.isEmpty_nil, if_true]
    rw [logTrap_other s s.cur r _ (by omega) (by omega) (by omega) (by omega)]
    exact takeTrap_eq hm
  have hme : (frontTrap s r).me = s.me.trapped r s.me.pc s.me.vsn := by
    rw [ht]
    exact front_setFront_self s s.cur _
  rw [hme, Front.counter, trapped_counters, Front.counter]

theorem ends_trap (n : BitVec 12) (hr : s.trapReady 13) :
    Ends (.trap n) s fun t => Traps s 13 0xFF n.toNat t ∧ t.me.counter 13 = s.me.counter 13 := by
  obtain ⟨t, hx, ht⟩ : Ends (.trap n) s (Traps s 13 0xFF n.toNat) :=
    ends_trapAt s 13 0xFF n.toNat rfl hr (by decide) (by decide) (by decide) (by decide) (by decide) (by decide)
  obtain rfl : frontTrap s ⟨13, 0xFF, 0, n.toNat, 0⟩ = t := Host.Outcome.next.inj hx
  exact ⟨_, hx, ht, frontTrap_counter hr (show 11 < 13 by decide) 13⟩

/-! ### Breakpoints (R411) -/

/-- A BREAK trap that is counted in slot 13 is a BREAK trap. -/
theorem TrapTaken.of_counted {f sub elem : Nat} {pc : Word} {vsn : BitVec 32}
    (h : TrapTaken (s.modFront f fun x => x.addCounter 13 1) f 13 sub elem addr pc vsn t) : TrapTaken s f 13 sub elem addr pc vsn t := by
  have hrest := (onlyFront_modFront s f _).trans h.rest
  have hcount (i : Nat) (hi : i ≠ 13) : (t.front f).counter i = (s.front f).counter i := by
    rw [h.counters i (.inl hi), front_modFront_self, addCounter_counter_other _ _ hi]
  cases h
  simp only [front_modFront_self] at *
  constructor
  case rest => exact hrest
  case mem => exact hrest.sameBytes
  case counters => exact fun i hi => hcount i (hi.resolve_right fun h => h rfl)
  all_goals assumption

/-- A breakpoint that fires with nothing older queued. -/
theorem ends_fireBrk (hx : exec i s = fireBrk code addr s) (hr : s.trapReady 13) :
    Ends i s fun t => Traps s 13 code.toNat addr t ∧ t.me.counter 13 = s.me.counter 13 + 1 := by
  obtain ⟨hq, hm⟩ := hr
  let u := s.modFront s.cur fun x => x.addCounter 13 1
  let r : TrapRec := ⟨BREAK, code.toNat, 0, addr, 0⟩
  have hfront : u.front s.cur = s.me.addCounter 13 1 := front_modFront_self s s.cur _
  have htaken : TrapTaken u s.cur 13 code.toNat 0 addr s.me.pc s.me.vsn (takeTrap u s.cur r s.me.pc s.me.vsn) :=
    trapTaken_takeTrap (r := r) (.inr (.inl rfl)) (show 13 < 256 by decide) (show code.toNat < 256 by omega) (show 0 < 512 by decide)
  refine ⟨takeTrap u s.cur r s.me.pc s.me.vsn, ?_, htaken.of_counted, ?_⟩
  · rw [hx, fireBrk, hq]
    rfl
  · have hme : (takeTrap u s.cur r s.me.pc s.me.vsn).me = (s.me.addCounter 13 1).trapped r s.me.pc s.me.vsn := by
      rw [takeTrap_eq (.inr (.inl rfl)), hfront]
      exact front_setFront_self u s.cur _
    rw [hme, Front.counter, trapped_counters]
    exact addCounter_counter s.me 13 1

theorem writing_of_empty {x : Front} (h : x.queue = []) (cells : List Nat) : x.writing cells = false := by
  rw [Front.writing, h]
  rfl

/-- The active elements that the mask `m` has set. -/
def Front.hitsNow (x : Front) (m : MReg) : List Nat := x.activeNow.filter fun i => (x.mask m.toNat).getLsbD i

/-- A conditional breakpoint with nothing queued: it fires or changes nothing. -/
theorem condBrk_eq {m : MReg} {fires : List Nat → List Nat → Bool} (hq : s.me.queue = []) :
    condBrk code m fires s = if fires s.me.activeNow (s.me.hitsNow m) then
      fireBrk code ((s.me.hitsNow m).headD 0 + (s.me.hitsNow m).length * 2 ^ 16) s else .next s.advance :=
  if_neg (by rw [writing_of_empty hq]; exact Bool.false_ne_true)

theorem exec_brkAny {m : MReg} (hq : s.me.queue = []) : exec (.brkAny code m) s = if s.me.hitsNow m ≠ [] then
    fireBrk code ((s.me.hitsNow m).headD 0 + (s.me.hitsNow m).length * 2 ^ 16) s else .next s.advance := by
  show condBrk code m (fun _ hit => !hit.isEmpty) s = _
  rw [condBrk_eq hq]
  simp

theorem exec_brkAll {m : MReg} (hq : s.me.queue = []) : exec (.brkAll code m) s =
    if s.me.activeNow ≠ [] ∧ s.me.hitsNow m = s.me.activeNow then
      fireBrk code ((s.me.hitsNow m).headD 0 + (s.me.hitsNow m).length * 2 ^ 16) s else .next s.advance := by
  show condBrk code m (fun act hit => !act.isEmpty && hit == act) s = _
  rw [condBrk_eq hq]
  simp

end

/-- Settles O12: TRAP and ILLEGAL are traps of the front, and a breakpoint is one that is counted, fired by the active elements and the hits. -/
theorem trapsAndBreakpoints : Obligations.TrapsAndBreakpoints := by
  unfold Obligations.TrapsAndBreakpoints
  refine ⟨fun s => ⟨fun n hr => ends_trap n hr, fun w hr => ?illegal, fun code hr => ends_fireBrk rfl hr⟩, fun s code m hr => ?cond⟩
  case illegal =>
    exact ends_trapAt s 1 0 0 rfl hr (by decide) (by decide) (by decide) (by decide) (by decide) (by decide)
  case cond =>
    have hq : s.me.queue = [] := hr.1
    have goes {i : Instr} (hx : exec i s = .next s.advance) : Ends i s (Passes s (s.me.pc + 4)) := ⟨s.advance, hx, passes_advance s⟩
    refine ⟨fun h => ?anyFires, fun h => ?anyPasses, fun hact h => ?allFires, fun h => ?allPasses⟩
    case anyFires => exact ends_fireBrk ((exec_brkAny hq).trans (if_pos h)) hr
    case anyPasses => exact goes ((exec_brkAny hq).trans (if_neg (not_not_intro h)))
    case allFires => exact ends_fireBrk ((exec_brkAll hq).trans (if_pos ⟨hact, h⟩)) hr
    case allPasses =>
      refine goes ((exec_brkAll hq).trans (if_neg ?_))
      rintro ⟨hact, hall⟩
      exact h.elim hact (absurd hall)

end Sys2Proof.Machine
end

section
/-! PROOFS. What a step runs (O56): the instruction under way, the one fetched, or the event that its turn names. -/

namespace Sys2Proof.Machine

section
variable {s t : State} {p n va : Nat} {i : Instr}

/-! ### The fetch (R99, R103) -/

theorem checkRead_clean (he : t.errAt p n = false) (hb : t.badAt p n = false) : checkRead p n va t = .ok ((), t) := by
  simp [checkRead, he, hb, bind, StateT.bind, Except.bind, get, getThe, MonadStateOf.get, StateT.get, pure, StateT.pure, Except.pure]

/-- Memory that holds no error is read as it stands (R374, R378). -/
theorem readMem_clean (he : t.errAt p n = false) (hb : t.badAt p n = false) : readMem p n va t = .ok (t.read p n, t) :=
  bind_of_ok (checkRead_clean he hb)

theorem fetchWord_clean (ht : translate s.ctx s.me.pc.toNat .fetch s = .ok (.mem p, t)) (he : t.errAt p 4 = false)
    (hb : t.badAt p 4 = false) : fetchWord s = .ok (t.read p 4, t) :=
  (bind_of_ok ht).trans (readMem_clean he hb)

theorem fetch_underWay (h : s.underWay = some i) : fetch s = .ok (i, s) := by
  rw [fetch, h]

theorem fetch_of_word {w : Nat} (hu : s.underWay = none) (h : fetchWord s = .ok (w, t)) :
    fetch s = .ok ((decode (BitVec.ofNat 32 w)).getD (.illegalWord (BitVec.ofNat 32 w)), t) := by
  rw [fetch, hu, h]

/-! ### The turn (R132) -/

theorem frontStep_of_fetch (hb : beforeFetch s = none) (hf : fetch s = .ok (i, t)) : frontStep s = onNext (afterFront s) (exec i t) := by
  rw [frontStep, hb, hf]

theorem step_of_noTurn (h : s.turns = []) : step s = frontStep s := by
  rw [step, h]

theorem step_of_frontTurn {f : Nat} {r : List Move} (h : s.turns = .front f :: r) (hf : f < 1024) : step s = frontStep (s.turnOf r f) := by
  rw [step, h]
  exact if_pos hf

theorem step_of_eventTurn {r : List Move} (h : s.turns = .event i :: r) : step s = eventStep { s with turns := r } i := by
  rw [step, h]
  rfl

theorem arrives_of_event (he : i.isEvent = true) (hw : i.wf = true) (hn : ∀ v, i ≠ .illegalWord v) : arrives i = true := by
  unfold arrives
  split
  next v => exact absurd rfl (hn v)
  next => rw [he, hw]; rfl

theorem eventStep_of_arrives (h : arrives i = true) : eventStep s i = onNext (tick s) (exec i s) :=
  if_pos h

end

/-- Settles O56: the step is the turn of the front or of the event, and the fetch reads the word at PC where nothing is under way. -/
theorem stepRunsDecoded : Obligations.StepRunsDecoded := by
  unfold Obligations.StepRunsDecoded
  intro s u t p r i w after
  refine ⟨fun hturn hbefore => ?front, fun hturn hu hev hwf hill => ?event⟩
  case front =>
    have hstep : step s = frontStep u := by
      rcases hturn with ⟨h, rfl⟩ | ⟨f, h, hf, rfl⟩
      · exact step_of_noTurn h
      · exact step_of_frontTurn h hf
    refine ⟨fun j hj => hstep.trans (frontStep_of_fetch hbefore (fetch_underWay hj)), fun hnone ht he hb => ?_⟩
    have hfetch := fetch_of_word hnone (fetchWord_clean ht he hb)
    constructor
    · intro hd
      rw [show decode (BitVec.ofNat 32 (t.read p 4)) = some i from hd] at hfetch
      exact hstep.trans (frontStep_of_fetch hbefore hfetch)
    · intro hd
      rw [show decode (BitVec.ofNat 32 (t.read p 4)) = none from hd] at hfetch
      exact hstep.trans (frontStep_of_fetch hbefore hfetch)
  case event =>
    subst hu
    exact (step_of_eventTurn hturn).trans (eventStep_of_arrives (arrives_of_event hev hwf hill))

end Sys2Proof.Machine
end

section
/-! PROOFS. Integer register operations, division, shifts, immediates and constants (O1); branches and jumps (O2). -/

namespace Sys2Proof.Machine

/-! ### Values of the shifts and comparisons (R133) -/

section
variable (a b : Word) (k : Nat)

theorem ushiftRight_eq_div : a >>> k = BitVec.ofNat 64 (a.toNat / 2 ^ k) := by
  rw [← Nat.shiftRight_eq_div_pow, ← BitVec.toNat_ushiftRight, BitVec.ofNat_toNat, BitVec.setWidth_eq]

theorem sshiftRight_eq_div : a.sshiftRight k = BitVec.ofInt 64 (a.toInt / 2 ^ k) := by
  have hdiv : a.toInt >>> k = a.toInt / 2 ^ k := by rw [Int.shiftRight_eq_div_pow, Nat.cast_pow, Nat.cast_ofNat]
  rw [← hdiv, ← BitVec.toInt_sshiftRight, BitVec.ofInt_toInt]

theorem ofBool_decide (p : Prop) [Decidable p] : ofBool (decide p) = if p then 1 else 0 := by
  by_cases h : p <;> simp [ofBool, h]

theorem ofBool_slt : ofBool (a.slt b) = if a.toInt < b.toInt then 1 else 0 := by rw [BitVec.slt_eq_decide, ofBool_decide]

theorem ofBool_ult : ofBool (a.ult b) = if a.toNat < b.toNat then 1 else 0 := ofBool_decide _

variable (x y : Word)

theorem ite_slt : (if a.slt b then x else y) = if a.toInt < b.toInt then x else y := if_congr BitVec.slt_iff_toInt_lt rfl rfl

theorem ite_ult : (if a.ult b then x else y) = if a.toNat < b.toNat then x else y := if_congr decide_eq_true_iff rfl rfl

end

/-! ### Counts of leading and trailing zeros (R133) -/

theorem testBit_bitLen_le {n i : Nat} (h : bitLen n ≤ i) : n.testBit i = false := by
  by_cases hn : n = 0
  · rw [hn, Nat.zero_testBit]
  · rw [bitLen, if_neg hn] at h
    exact Nat.testBit_lt_two_pow ((Nat.log2_lt hn).mp h)

theorem testBit_bitLen_pred {n : Nat} (h : bitLen n ≠ 0) : n.testBit (bitLen n - 1) = true := by
  have hn : n ≠ 0 := fun h0 => h (if_pos h0)
  rw [bitLen, if_neg hn, Nat.add_sub_cancel]
  exact Nat.testBit_log2 hn

theorem bitLen_le {n w : Nat} (h : n < 2 ^ w) : bitLen n ≤ w := by
  unfold bitLen
  split
  next => exact Nat.zero_le w
  next hn => exact (Nat.log2_lt hn).mpr h

theorem ctzCount_le (n fuel : Nat) : ctzCount n fuel ≤ fuel := by
  induction fuel generalizing n with
  | zero => exact le_refl 0
  | succ k ih =>
    rw [ctzCount]
    split
    · exact Nat.zero_le _
    · exact Nat.succ_le_succ (ih _)

theorem testBit_lt_ctzCount {n fuel i : Nat} (h : i < ctzCount n fuel) : n.testBit i = false := by
  induction fuel generalizing n i with
  | zero => exact absurd h (Nat.not_lt_zero i)
  | succ k ih =>
    rw [ctzCount] at h
    split at h
    next => exact absurd h (Nat.not_lt_zero i)
    next hodd =>
      cases i with
      | zero => simpa [Nat.testBit_zero] using hodd
      | succ j => rw [Nat.testBit_succ]; exact ih (Nat.lt_of_succ_lt_succ h)

theorem testBit_ctzCount {n fuel : Nat} (h : ctzCount n fuel < fuel) : n.testBit (ctzCount n fuel) = true := by
  induction fuel generalizing n with
  | zero => exact absurd h (Nat.not_lt_zero _)
  | succ k ih =>
    rw [ctzCount] at h ⊢
    split at h
    next hodd => rw [if_pos hodd, Nat.testBit_zero, hodd]; rfl
    next hodd => rw [if_neg hodd, Nat.testBit_succ]; exact ih (Nat.lt_of_succ_lt_succ h)

/-! ### Division (R134) -/

section
variable (a b : Word)

/-- The quotient of the most negative number by −1, which does not fit, has the value that R134 gives. -/
theorem ofInt_tdiv_corner (ha : a.toInt = -2 ^ 63) (hb : b.toInt = -1) : BitVec.ofInt 64 (a.toInt.tdiv b.toInt) = BitVec.ofInt 64 (-2 ^ 63) := by
  rw [ha, hb]
  decide

theorem divS_eq : divS a b = if b = 0 then -1 else if a.toInt = -2 ^ 63 ∧ b.toInt = -1 then BitVec.ofInt 64 (-2 ^ 63) else
    BitVec.ofInt 64 (a.toInt.tdiv b.toInt) := by
  unfold divS
  split
  next => exact BitVec.neg_one_eq_allOnes.symm
  next =>
    split
    next h => exact ofInt_tdiv_corner a b h.1 h.2
    next => rfl

theorem remS_eq : remS a b = if b = 0 then a else if a.toInt = -2 ^ 63 ∧ b.toInt = -1 then 0 else
    BitVec.ofInt 64 (a.toInt - b.toInt * a.toInt.tdiv b.toInt) := by
  unfold remS
  split
  next => rfl
  next =>
    split
    next h => rw [h.1, h.2]; decide
    next => rw [Int.tmod_def]

theorem divU_eq : divU a b = if b = 0 then BitVec.ofNat 64 (2 ^ 64 - 1) else BitVec.ofNat 64 (a.toNat / b.toNat) := by
  unfold divU
  split
  next => rfl
  next => rw [← BitVec.toNat_udiv, BitVec.ofNat_toNat, BitVec.setWidth_eq]

theorem remU_eq : remU a b = if b = 0 then a else BitVec.ofNat 64 (a.toNat % b.toNat) := by
  unfold remU
  split
  next => rfl
  next => rw [← BitVec.toNat_umod, BitVec.ofNat_toNat, BitVec.setWidth_eq]

variable {a b}

/-- Quotient and remainder give the dividend back, modulo 2^64 (R134). -/
theorem eq_divS_mul_add_remS (hb : b ≠ 0) : a = divS a b * b + remS a b := by
  have hint : a.toInt = a.toInt.tdiv b.toInt * b.toInt + a.toInt.tmod b.toInt := (Int.tdiv_mul_add_tmod a.toInt b.toInt).symm
  calc a = BitVec.ofInt 64 (a.toInt.tdiv b.toInt * b.toInt + a.toInt.tmod b.toInt) := by rw [← hint, BitVec.ofInt_toInt]
    _ = divS a b * b + remS a b := by rw [BitVec.ofInt_add, BitVec.ofInt_mul, BitVec.ofInt_toInt, divS, remS, if_neg hb, if_neg hb]

theorem eq_divU_mul_add_remU (hb : b ≠ 0) : a = divU a b * b + remU a b := by
  rw [divU, remU, if_neg hb, if_neg hb]
  apply BitVec.eq_of_toNat_eq
  rw [BitVec.toNat_add, BitVec.toNat_mul, BitVec.toNat_udiv, BitVec.toNat_umod, Nat.mod_add_mod, Nat.div_add_mod']
  exact (Nat.mod_eq_of_lt a.isLt).symm

end

/-! ### Constants (R137) -/

theorem getLsbD_putHalf (w : Word) {k : Nat} (hk : k < 4) (v : BitVec 16) (i : Nat) : (putHalf w k v).getLsbD i =
    if 16 * k ≤ i ∧ i < 16 * k + 16 then v.getLsbD (i - 16 * k) else w.getLsbD i := by
  have hput : putHalf w k v = word (putBits w.toNat (16 * k) 16 v.toNat) := by
    rw [putHalf, Word.field, bits, putBits, show 16 * k + 15 + 1 - 16 * k = 16 by omega, Nat.mod_eq_of_lt v.isLt]
  rw [hput, word, BitVec.getLsbD_ofNat, testBit_putBits, BitVec.testBit_toNat, BitVec.testBit_toNat]
  by_cases hi : i < 64
  · rw [decide_eq_true hi, Bool.true_and]
  · rw [decide_eq_false hi, Bool.false_and, if_neg (by omega), BitVec.getLsbD_of_ge w i (by omega)]

/-! ### The instructions -/

/-- An instruction that ends in `result` writes the value, however it is expressed. -/
theorem ends_value {s : State} {d : SReg} {v w : Word} {i : Instr} (h : exec i s = result d v s) (hv : v = w) :
    Ends i s (Writes s d w (s.me.pc + 4)) := hv ▸ ends_result s d v h

/-- A misaligned address or target raises ALIGN (R73). -/
theorem ends_align {s : State} {sub addr : Nat} {i : Instr} (h : exec i s = trapAt ALIGN sub addr s) (hs : sub < 256) (hr : s.trapReady 7) :
    Ends i s (Traps s 7 sub addr) :=
  ends_trapAt s 7 sub addr h hr (by decide) hs (by decide) (by decide) (by decide) fun h9 => absurd h9 (by decide)

/-- Settles O1: each instruction writes one value to its destination, and that value is the one of the tables. -/
theorem integerOps : Obligations.IntegerOps := by
  unfold Obligations.IntegerOps
  refine ⟨fun s d a b => ?registers, fun s d a => ?counts, fun s d a b => ?division, fun s d a c imm hw => ?immediates⟩
  case registers =>
    exact ⟨ends_result s d _ rfl, ends_result s d _ rfl, ends_result s d _ rfl, ends_result s d _ rfl, ends_result s d _ rfl,
      ends_result s d _ rfl, ends_result s d _ rfl, ends_result s d _ rfl, ends_result s d _ rfl, ends_result s d _ rfl,
      ends_value rfl (ushiftRight_eq_div _ _), ends_value rfl (sshiftRight_eq_div _ _), ends_value rfl (ofBool_slt _ _),
      ends_value rfl (ofBool_ult _ _), ends_value rfl (ite_slt _ _ _ _), ends_value rfl (ite_slt _ _ _ _),
      ends_value rfl (ite_ult _ _ _ _), ends_value rfl (ite_ult _ _ _ _)⟩
  case counts =>
    have hlen : bitLen (s.reg a).toNat ≤ 64 := bitLen_le (s.reg a).isLt
    refine ⟨⟨64 - bitLen (s.reg a).toNat, by omega, fun i hi => ?above, fun hk => ?top, ends_result s d _ rfl⟩,
      ⟨ctzCount (s.reg a).toNat 64, ctzCount_le _ _, fun i hi => testBit_lt_ctzCount hi, testBit_ctzCount, ends_result s d _ rfl⟩,
      ends_result s d _ rfl, ends_result s d _ rfl, ends_result s d _ rfl, ends_result s d _ rfl⟩
    case above => exact testBit_bitLen_le (show bitLen (s.reg a).toNat ≤ i by omega)
    case top =>
      have hbit : (s.reg a).toNat.testBit (bitLen (s.reg a).toNat - 1) = true := testBit_bitLen_pred (by omega)
      rwa [show 63 - (64 - bitLen (s.reg a).toNat) = bitLen (s.reg a).toNat - 1 by omega]
  case division =>
    refine ⟨ends_value rfl (divS_eq _ _), ends_value rfl (remS_eq _ _), ends_value rfl (divU_eq _ _), ends_value rfl (remU_eq _ _),
      fun hb => ?_⟩
    rw [← divS_eq, ← remS_eq, ← divU_eq, ← remU_eq]
    exact ⟨eq_divS_mul_add_remS hb, eq_divU_mul_add_remU hb⟩
  case immediates =>
    exact ⟨ends_result s d _ rfl, ends_value rfl (ushiftRight_eq_div _ _), ends_value rfl (sshiftRight_eq_div _ _), ends_result s d _ rfl,
      ends_result s d _ rfl, ends_result s d _ rfl, ends_result s d _ rfl, ends_value rfl (ofBool_slt _ _), ends_value rfl (ofBool_ult _ _),
      ends_result s d _ rfl, putHalf (s.reg d) hw.toNat imm, getLsbD_putHalf _ hw.isLt imm, ends_result s d _ rfl⟩

/-! ### Branches and jumps (R146, R147) -/

section
variable {s : State} {a b : SReg}

/-- A branch whose condition is written as a proposition. -/
theorem ends_branch_of {n : Nat} {c : Bool} {p : Prop} [Decidable p] {disp : BitVec n} {i : Instr} (h : exec i s = branch c disp s)
    (hc : c = decide p) : Ends i s (Passes s (if decide p then s.me.pc + 4 * disp.signExtend 64 else s.me.pc + 4)) :=
  hc ▸ ends_branch s c disp h

theorem not_slt_eq (x y : Word) : (!x.slt y) = decide (y.toInt ≤ x.toInt) := by
  rw [BitVec.slt_eq_decide, ← decide_not, decide_eq_decide, Int.not_lt]

theorem not_ult_eq (x y : Word) : (!x.ult y) = decide (y.toNat ≤ x.toNat) := by
  rw [BitVec.ult, ← decide_not, decide_eq_decide, Nat.not_lt]

theorem bne_eq_decide_ne (x y : Word) : (x != y) = decide (x ≠ y) := by rw [bne, beq_eq_decide, decide_not]

theorem field_1_0 (w : Word) : w.field 1 0 = w.toNat % 4 := congrArg (· % 4) (Nat.div_one _)

theorem exec_jalr_aligned {d : SReg} {off : BitVec 9} (h : (s.reg a + 4 * off.signExtend 64).toNat % 4 = 0) :
    exec (.jalr d a off) s = .next ((s.setReg d (s.me.pc + 4)).completeAt (s.reg a + 4 * off.signExtend 64)) :=
  if_neg (not_not_intro ((field_1_0 _).trans h))

theorem exec_jalr_misaligned {d : SReg} {off : BitVec 9} (h : (s.reg a + 4 * off.signExtend 64).toNat % 4 ≠ 0) :
    exec (.jalr d a off) s = trapAt ALIGN 1 (s.reg a + 4 * off.signExtend 64).toNat s :=
  if_pos ((field_1_0 _).trans_ne h)

end

/-- Settles O2: a branch goes on by its condition; a jump links, its target being read before. -/
theorem jumps : Obligations.Jumps := by
  unfold Obligations.Jumps
  refine ⟨fun s d a b disp far => ?branches, fun s d a off => ⟨fun h => ?aligned, fun h hr => ?misaligned⟩⟩
  case branches =>
    exact ⟨ends_branch_of rfl (beq_eq_decide _ _), ends_branch_of rfl (bne_eq_decide_ne _ _), ends_branch_of rfl BitVec.slt_eq_decide,
      ends_branch_of rfl (not_slt_eq _ _), ends_branch_of rfl rfl, ends_branch_of rfl (not_ult_eq _ _), _, rfl, writes_completeAt s d _ _⟩
  case aligned => exact ⟨_, exec_jalr_aligned h, writes_completeAt s d _ _⟩
  case misaligned => exact ends_align (exec_jalr_misaligned h) (by decide) hr

end Sys2Proof.Machine
end

section
/-! PROOFS. Accesses of the instruction at the front: the state that a translation leaves, the traps that are recorded, and what an access of
memory, of a device register and of a peer gives (R144, R374, R376, R378, R385, R386). -/

namespace Sys2Proof.Machine

/-! ### Error records and translation leave the current front and its number -/

section
variable (s : State)

@[simp] theorem cur_ringAppend (r : RecRing) (rec : List Byte) : (ringAppend s r rec).1.cur = s.cur := by
  unfold ringAppend
  dsimp only
  split
  · rfl
  · split <;> rfl

theorem cur_errAppend (d : Nat) (rec : List Byte) : (errAppend s d rec).cur = s.cur := cur_ringAppend s _ _

theorem cur_hotAppend (d : Nat) (rec : List Byte) : (hotAppend s d rec).cur = s.cur := cur_ringAppend s _ _

@[simp] theorem cur_errRecord (d va phys asid kind core front seq : Nat) : (errRecord s d va phys asid kind core front seq).cur = s.cur := by
  rw [errRecord, cur_errAppend]

@[simp] theorem cur_logWalk (d core front asid va : Nat) : (logWalk s d core front asid va).cur = s.cur := by
  unfold logWalk
  refine List.foldlRecOn (motive := fun t : State => t.cur = s.cur) _ _ rfl fun t ht a _ => ?_
  split
  · rw [cur_errRecord, ht]
  · split
    · rw [cur_errRecord, ht]
    · exact ht

@[simp] theorem cur_missed (f va : Nat) : (s.missed f va).cur = s.cur := by
  simp only [State.missed, apply_ite State.cur, State.walked, cur_logWalk, ite_self]

@[simp] theorem front_missed (f va g : Nat) : (s.missed f va).front g = s.front g := by
  unfold State.missed
  dsimp only
  split
  · rfl
  · rw [State.walked, front_logWalk]

@[simp] theorem me_missed (f va : Nat) : (s.missed f va).me = s.me := by rw [State.me, cur_missed, front_missed, State.me]

theorem cur_dropTlb2 (c : Nat) (e : Tlb) : (dropTlb2 s c e).cur = s.cur := by
  unfold dropTlb2
  split
  · rfl
  · exact cur_hotAppend ..

theorem cur_fillTlb2 (c : Nat) (e : Tlb) : (fillTlb2 s c e).cur = s.cur := by
  unfold fillTlb2
  split
  · rfl
  · split
    · rfl
    · exact cur_dropTlb2 ..

end

section
variable {s t : State} {c : Ctx} {va : Nat} {need : Need} {l : Loc}

theorem cur_tlbFor {f asid : Nat} {e : Tlb} (h : tlbFor s f asid va = .ok (e, t)) : t.cur = s.cur := by
  unfold tlbFor at h
  split at h
  · cases h; rfl
  · split at h
    · cases h; rfl
    · split at h
      · cases h
        exact (cur_fillTlb2 ..).trans (cur_logWalk ..)
      · cases h

/-- A translation leaves the state as it was, in the scratchpad window, or as the look-up of the page leaves it. -/
theorem translate_ok (h : translate c va need s = .ok (l, t)) : t = s ∨ ∃ e, tlbFor s c.fid c.asid va = .ok (e, t) := by
  unfold translate at h
  split at h
  · cases h; exact .inl rfl
  · split at h
    · cases h
    · obtain ⟨_, _, hget, h⟩ := bind_ok_inv h
      cases hget
      cases hpage : tlbFor s c.fid c.asid va with
      | error sub => simp only [hpage] at h; cases h
      | ok p =>
        obtain ⟨e, u⟩ := p
        simp only [hpage] at h
        obtain ⟨_, _, hset, h⟩ := bind_ok_inv h
        cases hset
        cases hleaf : leafCheck u c.user need e va with
        | error sub => simp only [hleaf] at h; cases h
        | ok l' => simp only [hleaf] at h; cases h; exact .inr ⟨e, rfl⟩

theorem cur_translate (h : translate c va need s = .ok (l, t)) : t.cur = s.cur := by
  rcases translate_ok h with rfl | ⟨e, he⟩
  · rfl
  · exact cur_tlbFor he

theorem me_translate (h : translate c va need s = .ok (l, t)) : t.me = s.me := by
  rw [State.me, cur_translate h, front_translate h, State.me]

end

/-! ### Traps that are recorded (R376, log 71) -/

section
variable {s u : State} {i : Instr} {r : TrapRec} {va pa : Nat}

/-- A trap with nothing older queued is taken from the state `u` that its error records leave. -/
theorem trapTaken_logged (hu : logTrap s s.cur r s.me.vsn.toNat = u) (hf : u.front s.cur = s.me) (hr : s.trapReady r.cause)
    (hc : r.cause < 256) (hs : r.sub < 256) (he : r.elem < 512) :
    TrapTaken u s.cur r.cause r.sub r.elem r.addr s.me.pc s.me.vsn (frontTrap s r) := by
  obtain ⟨hq, hm⟩ := hr
  have htrap : frontTrap s r = takeTrap u s.cur r s.me.pc s.me.vsn := by
    simp only [frontTrap, hq, List.isEmpty_nil, if_true, hu]
  rw [htrap]
  exact trapTaken_takeTrap (by rw [hf]; exact hm) hc hs he

/-- Of a fault of translation the records of its walk are made, but for one above the address space. -/
theorem logTrap_fault (hc : r.cause = 8 ∨ r.cause = 9) (f n : Nat) :
    logTrap s f r n = if r.cause = 9 ∧ r.sub = 1 then s else s.missed f r.addr := by
  unfold logTrap
  rcases hc with h | h <;> by_cases hs : r.sub = 1 <;> simp [h, hs, INTEGRITY, MEMERR, PAGE, ACCESS]

/-- Of a unit in error, and of a bad block, a record is made after those of the walk. -/
theorem logTrap_memErr (f n : Nat) : logTrap s f ⟨MEMERR, 0, 0, va, pa⟩ n =
    errRecord (s.missed f va) (dieOf f) va pa (s.front f).asid 1 (f / 2 % 64) (f % 2) n := by
  simp [logTrap, INTEGRITY, MEMERR, PAGE, ACCESS]

theorem logTrap_integrity (sub f n : Nat) : logTrap s f ⟨INTEGRITY, sub, 0, va, pa⟩ n =
    errRecord (s.missed f va) (dieOf f) va pa (s.front f).asid 5 (f / 2 % 64) (f % 2) n := by
  simp [logTrap, INTEGRITY, PAGE, ACCESS]

theorem ends_accessFault (hx : exec i s = .next (frontTrap s r)) (hc : r.cause = 8 ∨ r.cause = 9) (hs : r.sub < 256) (he : r.elem = 0)
    (hr : s.trapReady r.cause) : Ends i s (Traps (if r.cause = 9 ∧ r.sub = 1 then s else s.missed s.cur r.addr) r.cause r.sub r.addr) := by
  have hme : (if r.cause = 9 ∧ r.sub = 1 then s else s.missed s.cur r.addr).me = s.me := by split <;> simp
  have hcur : (if r.cause = 9 ∧ r.sub = 1 then s else s.missed s.cur r.addr).cur = s.cur := by split <;> simp
  refine ⟨_, hx, ?_⟩
  rw [Traps, hme, hcur, ← he]
  exact trapTaken_logged (logTrap_fault hc _ _) (by rw [← hme, State.me, hcur]) hr (by omega) hs (by omega)

/-- A refusal, or an access that no link carries, is an access fault after the translation. -/
theorem ends_access {sub : Nat} (hx : exec i s = .next (frontTrap s ⟨ACCESS, sub, 0, va, 0⟩)) (h1 : sub ≠ 1) (hs : sub < 256) (hr : s.trapReady 9) :
    Ends i s (Traps (s.missed s.cur va) 9 sub va) := by
  have hfault := ends_accessFault hx (.inr rfl) hs rfl hr
  rwa [if_neg fun h => h1 h.2] at hfault

theorem ends_memErr (hx : exec i s = .next (frontTrap s ⟨MEMERR, 0, 0, va, pa⟩)) (hr : s.trapReady 0x0A) : Ends i s (Fails s 0x0A 0 va pa 1) :=
  ⟨_, hx, trapTaken_logged (r := ⟨MEMERR, 0, 0, va, pa⟩) (logTrap_memErr _ _) (by simp [State.me]) hr (show 10 < 256 by decide) (show 0 < 256 by decide)
    (show 0 < 512 by decide)⟩

/-- A front that can take a trap of a cause below BREAK can take INTEGRITY: it is in user mode. -/
theorem ends_integrity {cause sub : Nat} (hx : exec i s = .next (frontTrap s ⟨INTEGRITY, sub, 0, va, pa⟩)) (hs : sub < 256)
    (hr : s.trapReady cause) (hc : cause < 13) : Ends i s (Fails s 0x0B sub va pa 5) :=
  have huser : s.me.kernel = false := hr.2.resolve_right (by omega)
  ⟨_, hx, trapTaken_logged (r := ⟨INTEGRITY, sub, 0, va, pa⟩) (logTrap_integrity _ _ _) (by simp [State.me]) ⟨hr.1, .inl huser⟩
    (show 11 < 256 by decide) hs (show 0 < 512 by decide)⟩

end

/-! ### Outcomes of an operation at the front -/

section
variable {s t : State} {m : M Unit} {r : TrapRec} {q : Remote}

theorem atFrontIn_ok (w : Wait) (h : m s = .ok ((), t)) : atFrontIn w m s = .next t := by
  rw [atFrontIn, h]

theorem atFrontNext_ok (h : m s = .ok ((), t)) : atFrontNext m s = .next t.advance := atFrontIn_ok _ (bind_of_ok h)

theorem atFrontIn_trap (w : Wait) (h : m s = .error (.trap r)) : atFrontIn w m s = .next (frontTrap s r) := by
  rw [atFrontIn, h]

theorem atFrontNext_trap (h : m s = .error (.trap r)) : atFrontNext m s = .next (frontTrap s r) := atFrontIn_trap _ (bind_of_error h)

theorem atFrontNext_wait (h : m s = .error (.wait (some q))) : atFrontNext m s = .next ((s.request q).blocked .retry) := by
  rw [atFrontNext, atFront, atFrontIn, bind_of_error h]

theorem get_bind {β : Type} (g : State → M β) : ((get : M State) >>= g) s = g s s := rfl

end

/-! ### Memory (R374, R378) -/

section
variable {t : State} {p n v va : Nat}

theorem checkRead_err (h : t.errAt p n = true) : checkRead p n va t = .error (.trap ⟨MEMERR, 0, 0, va, p⟩) := by
  rw [checkRead, get_bind, if_pos h]
  rfl

theorem checkRead_bad (he : t.errAt p n = false) (h : t.badAt p n = true) : checkRead p n va t = .error (.trap ⟨INTEGRITY, 0, 0, va, p⟩) := by
  rw [checkRead, get_bind, if_neg (Bool.eq_false_iff.mp he), if_pos h]
  rfl

theorem checkWrite_clean (he : t.partErr p n = false) (hb : t.partBad p n = false) : checkWrite p n va t = .ok ((), t) := by
  rw [checkWrite, get_bind, if_neg (Bool.eq_false_iff.mp he), if_neg (Bool.eq_false_iff.mp hb)]
  rfl

theorem checkWrite_err (h : t.partErr p n = true) : checkWrite p n va t = .error (.trap ⟨MEMERR, 0, 0, va, p⟩) := by
  rw [checkWrite, get_bind, if_pos h]
  rfl

theorem checkWrite_bad (he : t.partErr p n = false) (h : t.partBad p n = true) : checkWrite p n va t = .error (.trap ⟨INTEGRITY, 1, 0, va, p⟩) := by
  rw [checkWrite, get_bind, if_neg (Bool.eq_false_iff.mp he), if_pos h]
  rfl

theorem writeMem_clean (he : t.partErr p n = false) (hb : t.partBad p n = false) : writeMem p n v va t = .ok ((), t.write p (leBytes n v)) :=
  bind_of_ok (checkWrite_clean he hb)

end

/-! ### Peers (R385, R386) -/

section
variable {t : State} {agent : Agent} {d a n cls va : Nat} {data b : List Byte} {q : Remote}

/-- The request of an agent, as the statements have it. -/
def State.asked (t : State) (agent : Agent) (d a n cls : Nat) (data : List Byte) : Option Remote :=
  t.remotes.find? fun r => r.agent == agent && r.pkg == d && r.addr == a && r.len == n && r.cls == cls && r.data == data

/-- What is no atomic is looked for by all that it asks. -/
theorem find_asked (h3 : cls ≠ 3) : t.remotes.find? (fun r => r.agent == agent && r.cls == cls &&
    (r.cls == 3 || r.pkg == d && r.addr == a && r.len == n && r.data == data)) = t.asked agent d a n cls data := by
  refine congrFun (congrArg List.find? (funext fun r => ?_)) _
  by_cases hr : r.cls = cls
  · have hatomic : (cls == 3) = false := beq_eq_false_iff_ne.mpr h3
    simp [hr, hatomic, Bool.and_assoc]
  · have hother : (r.cls == cls) = false := beq_eq_false_iff_ne.mpr hr
    simp only [hother, Bool.and_false, Bool.false_and]

theorem askPeer_answered (h3 : cls ≠ 3) (h : t.asked agent d a n cls data = some q) (ha : q.answer = some b) (hb : b ≠ []) :
    askPeer agent d a n cls va data t = .ok (b, { t with remotes := t.remotes.erase q }) := by
  have he : (!b.isEmpty) = true := by simpa using hb
  rw [askPeer, get_bind, find_asked h3, h]
  dsimp only
  rw [ha]
  dsimp only
  rw [if_pos he]
  rfl

theorem askPeer_empty (h3 : cls ≠ 3) (h : t.asked agent d a n cls data = some q) (ha : q.answer = some []) :
    askPeer agent d a n cls va data t =
      .error (.trap (if inHbm a || inVault a then ⟨INTEGRITY, 0, 0, va, a⟩ else ⟨ACCESS, 6, 0, va, 0⟩)) := by
  rw [askPeer, get_bind, find_asked h3, h]
  dsimp only
  rw [ha]
  dsimp only [List.isEmpty_nil]
  rw [if_neg (by decide)]
  split <;> rfl

theorem askPeer_unreachable (h3 : cls ≠ 3) (h : t.asked agent d a n cls data = none) (hl : t.liveLinks d = []) :
    askPeer agent d a n cls va data t = .error (.trap ⟨ACCESS, 8, 0, va, 0⟩) := by
  rw [askPeer, get_bind, find_asked h3, h]
  dsimp only
  rw [if_pos (by rw [hl]; rfl)]
  rfl

theorem askPeer_asks {tag : Nat} (h3 : cls ≠ 3) (h : t.asked agent d a n cls data = none) (hl : t.liveLinks d ≠ []) (ht : t.freeTag = some tag) :
    askPeer agent d a n cls va data t = .error (.wait (some ⟨agent, tag, d, a, n, cls, data, none⟩)) := by
  rw [askPeer, get_bind, find_asked h3, h]
  dsimp only
  rw [if_neg (by simpa using hl), ht]
  rfl

theorem send_unreachable {tag len addr : Nat} (h : t.liveLinks d = []) : t.send d cls tag len addr data agent = none :=
  if_pos (by rw [h]; rfl)

theorem writeLoc_peer {u : State} {v : Nat} (h : t.send d 0 0 n a (leBytes n v) agent = some u) : writeLoc agent (.peer d a) n v va t = .ok ((), u) := by
  rw [writeLoc, get_bind, h]
  rfl

theorem writeLoc_unreachable {v : Nat} (h : t.liveLinks d = []) : writeLoc agent (.peer d a) n v va t = .error (.trap ⟨ACCESS, 8, 0, va, 0⟩) := by
  rw [writeLoc, get_bind, send_unreachable h]
  rfl

end

end Sys2Proof.Machine
end

section
/-! PROOFS. Scalar loads and stores (O3, O4), and scalar accesses whose translation faults (O7). -/

namespace Sys2Proof.Machine

/-! ### Loads (R143, R144) -/

section
variable {s t u : State} {i : Instr} {n v : Nat} {g : Nat → Word} {d a : SReg} {off : BitVec 13} {c : Ctx} {va : Nat} {l : Loc} {r : TrapRec}

theorem loadVa_of_translate (h : translate c va .read s = .ok (l, t)) : loadVa c va n s = readLoc c.agent l n va t := bind_of_ok h

theorem loadVa_fault (h : translate c va .read s = .error (.trap r)) : loadVa c va n s = .error (.trap r) := bind_of_error h

theorem load_aligned (h : (s.ea a off).toNat % n = 0) : load n g d a off s =
    atFrontNext (do let v ← loadVa s.ctx (s.ea a off).toNat n; modify fun s => s.setReg d (g v)) s := if_neg (not_not_intro h)

theorem load_misaligned (h : (s.ea a off).toNat % n ≠ 0) : load n g d a off s = trapAt ALIGN 0 (s.ea a off).toNat s := if_pos h

/-- A load that has its value, in a state where the front stands as before. -/
theorem ends_load (hx : exec i s = load n g d a off s) (ha : (s.ea a off).toNat % n = 0) (hl : loadVa s.ctx (s.ea a off).toNat n s = .ok (v, u))
    (hme : u.me = s.me) : Ends i s (Writes u d (g v) (s.me.pc + 4)) := by
  have hrun : exec i s = .next (u.setReg d (g v)).advance := by rw [hx, load_aligned ha, atFrontNext_ok (bind_of_ok hl)]
  have hpc : (u.setReg d (g v)).me.pc = s.me.pc := by rw [me_setReg, Front.setReg_pc, hme]
  refine ⟨_, hrun, ?_⟩
  rw [State.advance, hpc]
  exact writes_completeAt u d (g v) _

theorem exec_load_trap (hx : exec i s = load n g d a off s) (ha : (s.ea a off).toNat % n = 0)
    (hl : loadVa s.ctx (s.ea a off).toNat n s = .error (.trap r)) : exec i s = .next (frontTrap s r) := by
  rw [hx, load_aligned ha, atFrontNext_trap (bind_of_error hl)]

theorem exec_load_asks {q : Remote} (hx : exec i s = load n g d a off s) (ha : (s.ea a off).toNat % n = 0)
    (hl : loadVa s.ctx (s.ea a off).toNat n s = .error (.wait (some q))) : exec i s = .next ((s.request q).blocked .retry) := by
  rw [hx, load_aligned ha, atFrontNext_wait (bind_of_error hl)]

end

section
variable {t u : State} {agent : Agent} {d a n va : Nat} {bs : List Byte} {q : Remote} {x : Stop}

theorem readLoc_peer (h : askPeer agent d a n 1 va [] t = .ok (bs, u)) : readLoc agent (.peer d a) n va t = .ok (leNat bs, u) := bind_of_ok h

theorem readLoc_peer_stops (h : askPeer agent d a n 1 va [] t = .error x) : readLoc agent (.peer d a) n va t = .error x := bind_of_error h

end

/-- Settles O3: a load takes the value that its location gives, or the trap or the wait that the location answers. -/
theorem scalarLoads : Obligations.ScalarLoads := by
  unfold Obligations.ScalarLoads
  intro s t d a off p pkg bs q ea Ld
  have loads (i : SReg → SReg → BitVec 13 → Instr) (n : Nat) (ext : Nat → Word) (hx : exec (i d a off) s = load n ext d a off s) : Ld i n ext := by
    refine ⟨fun ha ht he hb => ?memory, fun ha ht hr => ⟨fun he => ?unit, fun he hb => ?block⟩, fun ha ht => ?device,
      fun ha ht => ⟨?answered, ?asks, ?refused, ?unreachable⟩, fun ha hr => ?misaligned⟩
    case memory => exact ends_load hx ha ((loadVa_of_translate ht).trans (readMem_clean he hb)) (me_translate ht)
    case unit => exact ends_memErr (exec_load_trap hx ha ((loadVa_of_translate ht).trans (bind_of_error (checkRead_err he)))) hr
    case block =>
      exact ends_integrity (exec_load_trap hx ha ((loadVa_of_translate ht).trans (bind_of_error (checkRead_bad he hb)))) (by decide) hr
        (by decide)
    case device => exact ends_load hx ha (loadVa_of_translate ht) (me_translate ht)
    case answered =>
      intro hq
      obtain ⟨hfind, hanswer, hne⟩ := hq
      rw [cur_translate ht] at hfind
      have hme : t.me = s.me := me_translate ht
      exact ends_load hx ha ((loadVa_of_translate ht).trans (readLoc_peer (askPeer_answered (by decide) hfind hanswer hne))) hme
    case asks =>
      intro hnone hlive tag htag
      rw [State.unasked, cur_translate ht] at hnone
      exact ⟨_, exec_load_asks hx ha ((loadVa_of_translate ht).trans (readLoc_peer_stops (askPeer_asks (by decide) hnone hlive htag))), rfl⟩
    case refused =>
      rintro ⟨r, hfind, hanswer⟩ hr
      rw [cur_translate ht] at hfind
      have hrun := exec_load_trap hx ha ((loadVa_of_translate ht).trans (readLoc_peer_stops (askPeer_empty (by decide) hfind hanswer)))
      split at hrun
      next hserved => rw [if_pos hserved]; exact ends_integrity hrun (by decide) hr (by decide)
      next hserved => rw [if_neg hserved]; exact ends_access hrun (by decide) (by decide) hr
    case unreachable =>
      intro hnone hlive hr
      rw [State.unasked, cur_translate ht] at hnone
      exact ends_access (exec_load_trap hx ha ((loadVa_of_translate ht).trans (readLoc_peer_stops (askPeer_unreachable (by decide) hnone hlive))))
        (by decide) (by decide) hr
    case misaligned => exact ends_align (hx.trans (load_misaligned ha)) (by decide) hr
  exact ⟨loads .ldb 1 _ rfl, loads .ldbu 1 _ rfl, loads .ldh 2 _ rfl, loads .ldhu 2 _ rfl, loads .ldw 4 _ rfl, loads .ldwu 4 _ rfl, loads .ldd 8 _ rfl⟩

/-! ### Stores (R143, R144) -/

section
variable {s t u : State} {i : Instr} {n v : Nat} {a b : SReg} {off : BitVec 13} {c : Ctx} {va : Nat} {l : Loc} {r : TrapRec}

theorem storeVa_of_translate (h : translate c va .write s = .ok (l, t)) : storeVa c va n v s = writeLoc c.agent l n v va t := bind_of_ok h

theorem storeVa_fault (h : translate c va .write s = .error (.trap r)) : storeVa c va n v s = .error (.trap r) := bind_of_error h

theorem store_aligned (h : (s.ea a off).toNat % n = 0) :
    store n a b off s = atFrontNext (storeVa s.ctx (s.ea a off).toNat n ((s.reg b).toNat % 256 ^ n)) s := if_neg (not_not_intro h)

theorem store_misaligned (h : (s.ea a off).toNat % n ≠ 0) : store n a b off s = trapAt ALIGN 0 (s.ea a off).toNat s := if_pos h

theorem exec_store (hx : exec i s = store n a b off s) (ha : (s.ea a off).toNat % n = 0)
    (hw : storeVa s.ctx (s.ea a off).toNat n ((s.reg b).toNat % 256 ^ n) s = .ok ((), u)) : exec i s = .next u.advance := by
  rw [hx, store_aligned ha, atFrontNext_ok hw]

theorem exec_store_trap (hx : exec i s = store n a b off s) (ha : (s.ea a off).toNat % n = 0)
    (hw : storeVa s.ctx (s.ea a off).toNat n ((s.reg b).toNat % 256 ^ n) s = .error (.trap r)) : exec i s = .next (frontTrap s r) := by
  rw [hx, store_aligned ha, atFrontNext_trap hw]

/-- The bytes of a store written, and its instruction complete. -/
theorem stores_write (t : State) (p n v : Nat) : Stores t p n v (t.write p (leBytes n (v % 256 ^ n))).advance where
  bytes := by
    refine ⟨?_, fun x hx => ?_⟩
    · exact (read_write_self t p n (v % 256 ^ n)).trans (Nat.mod_mod _ _)
    · exact (byte_advance _ x).trans (byte_write_outside t p x _ (by rw [leBytes_length]; omega))
  regs r := reg_advance _ r
  done := completed_of t _ id t.me rfl rfl rfl rfl _ (me_advance _)
  rest := ⟨rfl, fun g hg => front_advance_other (t.write p _) hg⟩

end

/-- Settles O4: a store writes at its location, or takes the trap that the location answers. -/
theorem scalarStores : Obligations.ScalarStores := by
  unfold Obligations.ScalarStores
  intro s t a b off p pkg ea St
  have stores (i : SReg → SReg → BitVec 13 → Instr) (n : Nat) (hx : exec (i a b off) s = store n a b off s) : St i n := by
    refine ⟨fun ha ht he hb => ?memory, fun ha ht hr => ⟨fun he => ?unit, fun he hb => ?block⟩, fun ha ht => ?device,
      fun ha ht => ⟨fun u hsend => ?sent, fun hlive hr => ?unreachable⟩, fun ha hr => ?misaligned⟩
    case memory => exact ⟨_, exec_store hx ha ((storeVa_of_translate ht).trans (writeMem_clean he hb)), stores_write t p n _⟩
    case unit => exact ends_memErr (exec_store_trap hx ha ((storeVa_of_translate ht).trans (bind_of_error (checkWrite_err he)))) hr
    case block =>
      exact ends_integrity (exec_store_trap hx ha ((storeVa_of_translate ht).trans (bind_of_error (checkWrite_bad he hb)))) (by decide) hr
        (by decide)
    case device => exact ⟨_, exec_store hx ha (storeVa_of_translate ht), passes_advance _⟩
    case sent => exact ⟨_, exec_store hx ha ((storeVa_of_translate ht).trans (writeLoc_peer hsend)), passes_advance u⟩
    case unreachable =>
      exact ends_access (exec_store_trap hx ha ((storeVa_of_translate ht).trans (writeLoc_unreachable hlive))) (by decide) (by decide) hr
    case misaligned => exact ends_align (hx.trans (store_misaligned ha)) (by decide) hr
  exact ⟨stores .stb 1 rfl, stores .sth 2 rfl, stores .stw 4 rfl, stores .std 8 rfl⟩

/-! ### Faults of translation (R144, R243) -/

section
variable {s : State} {i j : Instr} {code : Nat} {g : Nat → Nat → Nat → Nat → Option Nat} {d a b : SReg} {w64 : Bool} {va : Nat} {r : TrapRec}

/-- An atomic that no peer has been asked for is translated. -/
theorem atomicPlace_of_noAtomic (h : s.noAtomic) : atomicPlace s.ctx va s = translate s.ctx va .both s := by
  have hasking : s.asking s.ctx.agent = none := by
    rw [State.asking, Option.map_eq_none_iff, List.find?_eq_none]
    intro q hq hall
    simp only [Bool.and_eq_true, beq_iff_eq] at hall
    exact h q hq hall.1.1 hall.1.2
  rw [atomicPlace, get_bind, hasking]

theorem exec_atomic_fault (hx : exec i s = atomic j code g d a b w64 s) (ha : (s.reg a).toNat % (if w64 then 8 else 4) = 0) (hn : s.noAtomic)
    (hf : translate s.ctx (s.reg a).toNat .both s = .error (.trap r)) : exec i s = .next (frontTrap s r) := by
  rw [hx, atomic, if_neg (not_not_intro ha)]
  exact atFrontIn_trap _ (bind_of_error ((atomicPlace_of_noAtomic hn).trans hf))

end

/-- Settles O7: the fault of the translation is the trap of the instruction, whichever makes the access. -/
theorem scalarAccessFaults : Obligations.ScalarAccessFaults := by
  unfold Obligations.ScalarAccessFaults
  intro s d a b off w64 uns cause sub addr phys ea va n hc hsub hr fault T
  have traps {i : Instr} (hx : exec i s = .next (frontTrap s ⟨cause, sub, 0, addr, phys⟩)) : T i := ends_accessFault hx hc hsub rfl hr
  refine ⟨fun hf => ?loads, fun hf => ?stores, fun hf ha hn => ?atomics⟩
  case loads =>
    have load {i : Instr} {n : Nat} {g : Nat → Word} (hx : exec i s = Machine.load n g d a off s) (ha : ea % n = 0) : T i :=
      traps (exec_load_trap hx ha (loadVa_fault hf))
    exact ⟨load rfl (Nat.mod_one ea), load rfl (Nat.mod_one ea), fun ha => ⟨load rfl ha, load rfl ha⟩, fun ha => ⟨load rfl ha, load rfl ha⟩,
      fun ha => load rfl ha⟩
  case stores =>
    have store {i : Instr} {n : Nat} (hx : exec i s = Machine.store n a b off s) (ha : ea % n = 0) : T i :=
      traps (exec_store_trap hx ha (storeVa_fault hf))
    exact ⟨store rfl (Nat.mod_one ea), fun ha => store rfl ha, fun ha => store rfl ha, fun ha => store rfl ha⟩
  case atomics =>
    have atomic {i j : Instr} {code : Nat} {g : Nat → Nat → Nat → Nat → Option Nat} (o : Out) (hx : exec i s = o)
        (ho : o = Machine.atomic j code g d a b w64 s) : T i := traps (exec_atomic_fault (hx.trans ho) ha hn hf)
    exact ⟨atomic (execAmoadd d a b w64 s) rfl rfl, atomic (execAmomin d a b w64 uns s) rfl rfl, atomic (execAmomax d a b w64 uns s) rfl rfl,
      atomic (execAmoand d a b w64 s) rfl rfl, atomic (execAmoor d a b w64 s) rfl rfl, atomic (execAmoxor d a b w64 s) rfl rfl,
      atomic (execAmoswap d a b w64 s) rfl rfl, atomic (execAmocas d a b w64 s) rfl rfl⟩

end Sys2Proof.Machine
end

section
/-! PROOFS. Scalar floating point (O8): the result and the flags of one operation. -/

namespace Sys2Proof.Machine

section
variable {s t : State} {d a : SReg} {v : Word} {i : Instr} {r : Nat × Nat}

/-- What every register reads once `d` has been written says what `d` reads, and that the others read as before. -/
theorem dest_of_reg (h : ∀ q, t.reg q = (s.setReg d v).reg q) : Dest s d v t := by
  obtain ⟨hdest, hregs⟩ := (writes_completeAt s d v 0).dest
  simp only [reg_completeAt] at hdest hregs
  exact ⟨(h d).trans hdest, fun q hq => (h q).trans (hregs q hq)⟩

theorem me_flagged (s : State) (fl : Nat) : (s.flagged s.cur fl).me = s.me.orFlags fl := front_modFront_self s s.cur _

theorem me_setReg_flagged (fl : Nat) : ((s.setReg d v).flagged s.cur fl).me = (s.me.setReg d v).orFlags fl :=
  (me_flagged (s.setReg d v) fl).trans (by rw [me_setReg])

/-- An instruction that ends in `fresult` writes the result and ORs the flags. -/
theorem ends_fresult (hx : exec i s = fresult d r s) (hv : word r.1 = v) : Ends i s (FloatWrites s d v r.2) := by
  subst hv
  let u := (s.setReg d (word r.1)).flagged s.cur r.2
  have hme : u.me = (s.me.setReg d (word r.1)).orFlags r.2 := me_setReg_flagged _
  have hpc : u.me.pc = s.me.pc := by rw [hme]; exact Front.setReg_pc ..
  have hfront : u.advance.me = ((s.me.setReg d (word r.1)).orFlags r.2).complete (s.me.pc + 4) := by rw [me_advance, hpc, hme]
  have hrest : OnlyFront s.cur s u.advance :=
    ((onlyFront_modFront s s.cur _).trans (onlyFront_modFront _ s.cur _)).trans (onlyFront_advance u)
  refine ⟨u.advance, hx, ?_⟩
  constructor
  case dest => exact dest_of_reg fun q => by rw [reg_advance, State.reg, hme, State.reg, me_setReg]; rfl
  case flags =>
    rw [hfront]
    exact congrArg (· ||| word r.2) (Front.setReg_fflags ..)
  case done =>
    refine completed_of s _ _ ((s.me.setReg d (word r.1)).orFlags r.2) (Front.setReg_dbgctl ..) (Front.setReg_kernel ..) (Front.setReg_deleg ..) ?_ _
      hfront
    unfold Front.setReg
    split <;> rfl
  case rest => exact hrest
  case mem => exact hrest.sameBytes

/-- FCVT to an integer type: INT32 alone is sign-extended (R142). -/
theorem exec_fcvtToInt {dst : CvtTy} {fmt : FFmt} (h : dst.isInt = true) :
    let q := satFixed s.fenv (idWidth (cvtId dst)) (idSigned (cvtId dst)) 0 0 (arg fmt s.fenv (s.reg a).toNat)
    exec (.fcvtToInt d a dst fmt) s =
      fresult d (if cvtId dst = 5 then (sx (BitVec.ofNat 32 q.code)).toNat else q.code, q.flags) s :=
  if_neg (by rw [h]; decide)

theorem cvtId_eq_5 (dst : CvtTy) : cvtId dst = 5 ↔ dst = .int32 := by cases dst <;> decide

end

/-- Settles O8: each instruction is one operation of the model on its operands, whose result and flags it leaves. -/
theorem scalarFloat : Obligations.ScalarFloat := by
  unfold Obligations.ScalarFloat
  intro s d a b fmt env A B D F
  have op {i : Instr} {r : Nat × Nat} (hx : exec i s = fresult d r s) : F i r := ends_fresult hx rfl
  refine ⟨op rfl, op rfl, op rfl, op rfl, op rfl, op rfl, op rfl, op rfl, op rfl, fun src => op rfl, fun dst h => ?_⟩
  refine ends_fresult (exec_fcvtToInt h) ?_
  rw [apply_ite word, if_congr (cvtId_eq_5 dst) rfl rfl, word, BitVec.ofNat_toNat, BitVec.setWidth_eq]
  rfl

end Sys2Proof.Machine
end

section
/-! PROOFS. EXIT (O14): what a front's run being set leaves of its core, what the end of a front leaves, and when EXIT comes to it. -/

namespace Sys2Proof.Machine

/-! ### The run of a front (R198, R203, R228, R363) -/

section
variable (x : Core) (f n : Nat)

/-- A run set changes the columns owned and released, and nothing else of the core. -/
theorem resize_kept : { x.resize f n with own0 := 0, own1 := 0, freed0 := 0, freed1 := 0 } = { x with own0 := 0, own1 := 0, freed0 := 0, freed1 := 0 } := by
  unfold Core.resize Core.setOwn Core.setFreed
  rcases Nat.mod_two_eq_zero_or_one f with h | h
  · simp [h, Nat.add_mod]
  · simp [h, Nat.add_mod]

theorem resize_target : (x.resize f n).target = x.target := (congrArg Core.target (resize_kept x f n) :)
theorem resize_plane : (x.resize f n).plane = x.plane := (congrArg Core.plane (resize_kept x f n) :)
theorem resize_tags : (x.resize f n).tags = x.tags := (congrArg Core.tags (resize_kept x f n) :)
theorem resize_carafe : (x.resize f n).carafe = x.carafe := (congrArg Core.carafe (resize_kept x f n) :)

theorem own_resize_self : (x.resize f n).own f = n := by
  unfold Core.resize Core.setOwn Core.own
  split <;> rfl

theorem own_resize_other {g : Nat} (h : g % 2 ≠ f % 2) : (x.resize f n).own g = x.own g := by
  unfold Core.resize Core.setOwn Core.setFreed Core.own
  rcases Nat.mod_two_eq_zero_or_one f with hf | hf
  · have hg : g % 2 = 1 := by omega
    simp [hf, hg, Nat.add_mod]
  · have hg : g % 2 = 0 := by omega
    simp [hf, hg, Nat.add_mod]

end

section
variable (s : State) (f : Nat)

theorem core_setOwn (n : Nat) : (s.setOwn f n).core (f / 2) = (s.core (f / 2)).resize f n := by
  have hcore : (s.modCore (f / 2) fun x => x.resize f n).core (f / 2) = (s.core (f / 2)).resize f n := core_modCore_self _ _ _
  unfold State.setOwn
  dsimp only
  split
  · exact hcore
  · exact hcore

/-- Beside the core, a run set changes the dirty map of its front alone (R363). -/
theorem setOwn_rest (n : Nat) : { s.setOwn f n with fronts := [], cores := [] } = { s with fronts := [], cores := [] } := by
  unfold State.setOwn
  dsimp only
  split <;> rfl

theorem front_setOwn_other {g : Nat} (n : Nat) (h : g ≠ f) : (s.setOwn f n).front g = s.front g := by
  unfold State.setOwn
  dsimp only
  split
  · rfl
  · exact front_modFront_other _ _ h

theorem front_setOwn_dirty (n g : Nat) : { (s.setOwn f n).front g with dirty := 0 } = { s.front g with dirty := 0 } := by
  by_cases h : g = f
  · subst h
    unfold State.setOwn
    dsimp only
    split
    · rfl
    · rw [front_modFront_self]
      rfl
  · rw [front_setOwn_other s f n h]

/-- A bound front takes columns, or nothing happens (R228). -/
theorem regrow_cases : s.regrow f = s ∨ ∃ n, s.regrow f = s.setOwn f n := by
  unfold State.regrow
  dsimp only
  split
  · exact .inr ⟨_, rfl⟩
  · exact .inl rfl

theorem regrow_rest : { s.regrow f with fronts := [], cores := [] } = { s with fronts := [], cores := [] } := by
  rcases regrow_cases s f with h | ⟨n, h⟩ <;> rw [h]
  exact setOwn_rest s f n

theorem front_regrow_other {g : Nat} (h : g ≠ f) : (s.regrow f).front g = s.front g := by
  rcases regrow_cases s f with hr | ⟨n, hr⟩ <;> rw [hr]
  exact front_setOwn_other s f n h

theorem front_regrow_dirty (g : Nat) : { (s.regrow f).front g with dirty := 0 } = { s.front g with dirty := 0 } := by
  rcases regrow_cases s f with hr | ⟨n, hr⟩ <;> rw [hr]
  exact front_setOwn_dirty s f n g

/-- What the partner of a front that takes columns sees of the core. -/
theorem core_regrow_partner {p : Nat} (hp : p / 2 = f / 2) (hpar : p % 2 ≠ f % 2) :
    ((s.regrow f).core (p / 2)).own p = (s.core (p / 2)).own p ∧ ((s.regrow f).core (p / 2)).target = (s.core (p / 2)).target ∧
      ((s.regrow f).core (p / 2)).plane = (s.core (p / 2)).plane ∧ ((s.regrow f).core (p / 2)).tags = (s.core (p / 2)).tags ∧
      ((s.regrow f).core (p / 2)).carafe = (s.core (p / 2)).carafe := by
  rw [hp]
  rcases regrow_cases s f with hr | ⟨n, hr⟩ <;> rw [hr]
  · exact ⟨rfl, rfl, rfl, rfl, rfl⟩
  · rw [core_setOwn]
    exact ⟨own_resize_other _ _ _ hpar, resize_target _ _ _, resize_plane _ _ _, resize_tags _ _ _, resize_carafe _ _ _⟩

end

theorem partner_parity (f : Nat) : f % 2 ≠ partner f % 2 := by
  unfold partner
  split <;> omega

/-! ### The end of a front (R152, R206, R361, R363) -/

/-- A front has ended, as the statement has it: its slot record, its registers, its lanes and what stays. -/
def FrontEnded (s t : State) : Prop :=
  let k := s.cur / 2
  (t.slot s.cur).state = 3 ∧ t.resident s.cur = false ∧ t.front s.cur = { Front.reset with dirty := s.me.dirty } ∧
    (t.core k).own s.cur = 0 ∧ (t.core k).target = (if s.cur % 2 = 0 then 0 else 64) ∧
    (t.core k).plane = (s.core k).plane ∧ (t.core k).tags = (s.core k).tags ∧ (t.core k).carafe = (s.core k).carafe ∧
    t.jobs = s.jobs ∧ SameBytes s t

/-- The front has ended, and its partner has taken no column yet. -/
def State.left (s : State) (f : Nat) : State :=
  (((s.disarm f).setSlot f { s.slot f with state := 3 }).modCore (f / 2) fun x =>
    { x.resize f 0 with target := if f % 2 = 0 then 0 else 64 }).setFront f { Front.reset with dirty := (s.front f).dirty }

theorem exitFront_eq (s : State) (f : Nat) : exitFront s f = (s.left f).regrow (partner f) := rfl

section
variable (s : State) (f : Nat)

theorem core_left : (s.left f).core (f / 2) = { (s.core (f / 2)).resize f 0 with target := if f % 2 = 0 then 0 else 64 } := by
  rw [State.left, core_setFront, core_modCore_self]
  rfl

theorem slot_left : ((s.left f).slot f).state = 3 := by rw [State.left, slot_setFront, slot_modCore, slot_setSlot_self]

theorem front_left_other {g : Nat} (h : g ≠ f) : (s.left f).front g = s.front g := front_setFront_other _ _ h

theorem slot_exitFront : ((exitFront s f).slot f).state = 3 := by
  have hslots : (exitFront s f).slots = (s.left f).slots := (congrArg State.slots (regrow_rest (s.left f) (partner f)) :)
  rw [State.slot, hslots]
  exact slot_left s f

theorem front_exitFront_self : (exitFront s f).front f = { Front.reset with dirty := (s.front f).dirty } := by
  rw [exitFront_eq, front_regrow_other _ _ (partner_ne f).symm]
  exact front_setFront_self _ _ _

/-- The other fronts stand as before, but for the rows that the partner takes over (R363). -/
theorem front_exitFront_other {g : Nat} (h : g ≠ f) : { (exitFront s f).front g with dirty := 0 } = { s.front g with dirty := 0 } := by
  rw [exitFront_eq, front_regrow_dirty, front_left_other s f h]

end

/-- The end of the current front, from a state that differs from `s` in other fronts alone. -/
theorem frontEnded_exitFront {s v : State} (hme : v.front s.cur = s.me) (hrest : { v with fronts := [] } = { s with fronts := [] }) :
    FrontEnded s (exitFront v s.cur) := by
  have hcores : v.core (s.cur / 2) = s.core (s.cur / 2) := (congrArg (fun t : State => t.core (s.cur / 2)) hrest :)
  have hbytes : SameBytes s v := fun a => (congrArg (fun t : State => t.byte a) hrest :)
  have hgrown := regrow_rest (v.left s.cur) (partner s.cur)
  have hjobs : (exitFront v s.cur).jobs = v.jobs := (congrArg State.jobs hgrown :)
  have hsame : SameBytes v (exitFront v s.cur) := fun a => (congrArg (fun t : State => t.byte a) hgrown :)
  have hslot := slot_exitFront v s.cur
  obtain ⟨hown, htarget, hplane, htags, hcarafe⟩ := core_regrow_partner (v.left s.cur) (partner s.cur) (partner_div s.cur).symm (partner_parity s.cur)
  rw [core_left, hcores] at hown htarget hplane htags hcarafe
  refine ⟨hslot, ?resident, ?front, hown.trans (own_resize_self _ _ _), htarget, hplane.trans (resize_plane _ _ _), htags.trans (resize_tags _ _ _),
    hcarafe.trans (resize_carafe _ _ _), hjobs.trans (congrArg State.jobs hrest :), fun a => (hsame a).trans (hbytes a)⟩
  case resident => simp [State.resident, hslot]
  case front => rw [front_exitFront_self, hme]

/-! ### The TAKEs that wake (R346) -/

section
variable (s : State) (lid dva : Nat)

/-- A wake changes what other fronts wait for, and nothing else. -/
theorem wakeTakes_frame : { wakeTakes s lid dva with fronts := [] } = { s with fronts := [] } ∧ (wakeTakes s lid dva).front s.cur = s.me ∧
    ∀ g, { (wakeTakes s lid dva).front g with wait := .no } = { s.front g with wait := .no } := by
  unfold wakeTakes
  dsimp only
  refine List.foldlRecOn (motive := fun t : State => { t with fronts := [] } = { s with fronts := [] } ∧ t.front s.cur = s.me ∧
    ∀ g, { t.front g with wait := .no } = { s.front g with wait := .no }) _ _ ⟨rfl, rfl, fun _ => rfl⟩ fun t ht f _ => ?_
  obtain ⟨hrest, hme, hwait⟩ := ht
  split
  next hsleeps =>
    have hf : f ≠ s.cur := by simpa using (Bool.and_eq_true_iff.mp hsleeps).2
    refine ⟨hrest, (front_modFront_other t _ hf.symm).trans hme, fun g => ?_⟩
    by_cases hg : g = f
    · subst hg
      rw [front_modFront_self]
      exact hwait g
    · rw [front_modFront_other t _ hg]
      exact hwait g
  next => exact ⟨hrest, hme, hwait⟩

end

/-! ### EXIT (R152, R347) -/

section
variable {s : State} {task : Word × Word × Word}

/-- What EXIT waits for first: its queue, and the fills in flight, but in its own middle. -/
def State.emptied (s : State) : Bool := s.amid || (s.me.queue.isEmpty && !s.filling s.cur none)

/-- A front that holds a task retires it, wakes the TAKEs on its descriptor, and ends. -/
def retireAndExit (c : Ctx) (task : Word × Word × Word) : M Unit := do
  let _ ← retire c task
  modify fun u => exitFront (wakeTakes u u.me.lid task.1.toNat) u.cur

theorem exit_waits_eq (s : State) : (!s.amid && (!s.me.queue.isEmpty || s.filling s.cur none)) = !s.emptied := by
  rw [State.emptied, Bool.not_or, Bool.not_and, Bool.not_not]

theorem exec_exit_notEmptied (h : s.emptied = false) : exec .exit s = .next (s.blocked .retry) :=
  if_pos (by rw [exit_waits_eq, h]; rfl)

theorem not_exit_waits (h : s.emptied = true) : ¬ (!s.amid && (!s.me.queue.isEmpty || s.filling s.cur none)) = true := by
  rw [exit_waits_eq, h]
  decide

theorem exec_exit_noTask (h : s.emptied = true) (ht : s.me.task = none) : exec .exit s = .next (exitFront s s.cur) := by
  show execExit s = _
  rw [execExit, if_neg (not_exit_waits h), ht]

theorem exec_exit_holding (h : s.emptied = true) (ht : s.me.task = some task) : exec .exit s =
    if s.amid || s.settled s.cur then oneAtATime task.1.toNat (fun w => atFrontIn w (retireAndExit s.ctx task) s) s
    else .next (s.blocked .retry) := by
  show execExit s = _
  rw [execExit, if_neg (not_exit_waits h), ht]
  rfl

theorem exec_exit_heldBack (h : s.emptied = true) (ht : s.me.task = some task)
    (hw : (s.amid || s.settled s.cur) = false ∨ s.serving (descLoc s task.1.toNat) = true) : exec .exit s = .next (s.blocked .retry) := by
  rw [exec_exit_holding h ht]
  rcases hw with hw | hw
  · rw [if_neg (Bool.eq_false_iff.mp hw)]
  · rw [oneAtATime, if_pos hw, ite_self]

theorem exec_exit_task (h : s.emptied = true) (ht : s.me.task = some task) (hgo : (s.amid || s.settled s.cur) = true)
    (hs : s.serving (descLoc s task.1.toNat) = false) :
    exec .exit s = atFrontIn (serialWait (descLoc s task.1.toNat)) (retireAndExit s.ctx task) s := by
  rw [exec_exit_holding h ht, if_pos hgo, oneAtATime, if_neg (Bool.eq_false_iff.mp hs)]

/-- A task retired, in the state `u`, and the front's end. -/
theorem retireAndExit_ok {u : State} {n : Nat} (h : retire s.ctx task s = .ok (n, u)) :
    retireAndExit s.ctx task s = .ok ((), exitFront (wakeTakes u u.me.lid task.1.toNat) u.cur) := bind_of_ok h

end

/-- Settles O14: EXIT waits, ends its front, or does so after its task is retired, whose trap it takes. -/
theorem exitEndsFront : Obligations.ExitEndsFront := by
  unfold Obligations.ExitEndsFront
  intro s u n task Ended empty go
  refine ⟨fun h => ⟨_, exec_exit_notEmptied h, waits_blocked s _⟩, fun h ht => ?noTask, fun h ht => ⟨?waits, ?retired, ?trap⟩⟩
  case noTask =>
    exact ⟨_, exec_exit_noTask h ht, frontEnded_exitFront rfl rfl, fun g hg => front_exitFront_other s s.cur hg⟩
  case waits => exact fun hw => ⟨_, exec_exit_heldBack h ht hw, waits_blocked s _⟩
  case retired =>
    intro hgo hs hret
    obtain ⟨hrest, hme, hwait⟩ := wakeTakes_frame u u.me.lid task.1.toNat
    refine ⟨_, (exec_exit_task h ht hgo hs).trans (atFrontIn_ok _ (retireAndExit_ok hret)), frontEnded_exitFront hme hrest, fun g hg => ?_⟩
    calc { (exitFront (wakeTakes u u.me.lid task.1.toNat) u.cur).front g with dirty := 0, wait := .no }
      _ = { (wakeTakes u u.me.lid task.1.toNat).front g with dirty := 0, wait := .no } :=
        congrArg (fun x : Front => { x with wait := .no }) (front_exitFront_other _ _ hg)
      _ = { u.front g with dirty := 0, wait := .no } := congrArg (fun x : Front => { x with dirty := 0 }) (hwait g)
  case trap =>
    intro k va hgo hs hret hk hr
    have htrap : exec .exit s = trapAt 0x10 k va s := (exec_exit_task h ht hgo hs).trans (atFrontIn_trap _ (bind_of_error hret))
    exact ends_trapAt s 0x10 k va htrap hr (by decide) hk (by decide) (by decide) (by decide) fun h9 => absurd h9 (by decide)

end Sys2Proof.Machine
end

section
/-! PROOFS. Carve entries (O22): what an entry written changes, which check of R61 fails, and the origin that CARVEQ moves. -/

namespace Sys2Proof.Machine

/-! ### The checks of an entry (R61) -/

section
variable {e : Word} {width : Nat}

theorem edgeCheck_invalid (h : dValid e = false) : edgeCheck e width = some 1 := by
  rw [edgeCheck, h]
  rfl

theorem edgeCheck_valid (h : dValid e = true) : edgeCheck e width = edgeBody e width := by
  rw [edgeCheck, h]
  rfl

theorem edgeBody_fits {vl : Nat} (h : EntryFits e width vl) : edgeBody e width = none := by
  rw [← edgeCheck_valid h.valid, edgeCheck_fits h]

theorem edgeBody_reservedWidth (h : dEw e = 7) : edgeBody e width = some 2 := if_pos (.inl h)

theorem edgeBody_position (hw : dEw e ≠ 7) (hz : e.field 63 50 = 0) (hp : epw width (dW e) ≤ dLastPos e) :
    edgeBody e width = some 3 := by
  rw [edgeBody, if_neg (not_or.mpr ⟨hw, not_not_intro hz⟩), if_pos hp]

end

/-- An EDGE trap of the instruction at the front. -/
theorem ends_edge {s : State} {i : Instr} {sub : Nat} (h : exec i s = trapAt EDGE sub 0 s) (hr : s.trapReady 3) (hs : sub < 256) :
    Ends i s (Traps s 3 sub 0) :=
  ends_trapAt s 3 sub 0 h hr (by decide) hs (by decide) (by decide) (by decide) fun h9 => absurd h9 (by decide)

/-! ### An entry written (R58) -/

section
variable (s : State) (v : VName) (e : Word)

theorem Front.gen_setEntry (x : Front) (n j : Nat) : (x.setEntry n e).gen j = if j = n then x.gen n + 1 else x.gen j :=
  spGet_spSet _ _ _ _ _

/-- An entry written, and the next instruction. -/
def State.carved : State := (s.modFront s.cur fun x => x.setEntry v.toNat e).advance

theorem me_carved : (s.carved v e).me = (s.me.setEntry v.toNat e).complete (s.me.pc + 4) := by
  have hme : (s.modFront s.cur fun x => x.setEntry v.toNat e).me = s.me.setEntry v.toNat e := front_modFront_self s s.cur _
  rw [State.carved, me_advance, hme]
  rfl

theorem entrySet_carved : EntrySet s v e (s.carved v e) := by
  have hrest : OnlyFront s.cur s (s.carved v e) :=
    (onlyFront_modFront s s.cur fun x => x.setEntry v.toNat e).trans (onlyFront_advance (s.modFront s.cur fun x => x.setEntry v.toNat e))
  have hentry (j : Nat) : (s.carved v e).me.entry j = if j = v.toNat then e else s.me.entry j := by
    rw [me_carved]
    exact Front.entry_setEntry s.me v.toNat j e
  have hgen (j : Nat) : (s.carved v e).me.gen j = if j = v.toNat then s.me.gen v.toNat + 1 else s.me.gen j := by
    rw [me_carved]
    exact Front.gen_setEntry e s.me v.toNat j
  constructor
  case entry => rw [hentry, if_pos rfl]
  case gen => rw [hgen, if_pos rfl]
  case other => exact fun j hj => ⟨by rw [hentry, if_neg hj], by rw [hgen, if_neg hj]⟩
  case regs => intro r; rw [State.reg, me_carved]; rfl
  case done => exact completed_of s _ _ (s.me.setEntry v.toNat e) rfl rfl rfl rfl _ (me_carved s v e)
  case rest => exact hrest
  case mem => exact hrest.sameBytes

end

section
variable {s : State} {v : VName} {e : Word}

theorem putEntry_fits (h : EntryFits e (s.window s.cur).2 0) : putEntry v e s = .next (s.carved v e) := by
  rw [putEntry, edgeBody_fits h]
  rfl

theorem putEntry_edge {sub : Nat} (h : edgeBody e (s.window s.cur).2 = some sub) : putEntry v e s = trapAt EDGE sub 0 s := by
  rw [putEntry, h]

variable {b : SReg}

theorem exec_carve_invalid (h : dValid (s.reg b) = false) : exec (.carve v b) s = .next (s.carved v (s.reg b)) :=
  if_neg (by rw [h]; exact Bool.false_ne_true)

theorem exec_carve_valid (h : dValid (s.reg b) = true) : exec (.carve v b) s = putEntry v (s.reg b) s := if_pos h

end

/-! ### The origin moved (R159) -/

theorem signedOf_toNat {w : Nat} (x : BitVec w) : signedOf w x.toNat = x.toInt := by
  simp [signedOf, BitVec.toInt, Nat.mod_eq_of_lt x.isLt]

theorem signedOf_field_15_0 (w : Word) : signedOf 16 (w.field 15 0) = (w.setWidth 16).toInt := by
  rw [← signedOf_toNat, BitVec.toNat_setWidth, Word.field, bits, Nat.pow_zero, Nat.div_one]

theorem signedOf_field_31_16 (w : Word) : signedOf 16 (w.field 31 16) = ((w >>> 16).setWidth 16).toInt := by
  rw [← signedOf_toNat, BitVec.toNat_setWidth, BitVec.toNat_ushiftRight, Nat.shiftRight_eq_div_pow]
  rfl

/-- The row that an offset moves an entry's origin to. -/
def movedRow (src off : Word) : Int :=
  if dWrap src then ((src.field 10 2 : Int) + (off.setWidth 16).toInt) % 512 else (src.field 10 2 : Int) + (off.setWidth 16).toInt

/-- The position. -/
def movedPos (src off : Word) : Int := (src.field 21 11 : Int) + ((off >>> 16).setWidth 16).toInt

theorem exec_carveq (s : State) (vd va : VName) (b : SReg) : exec (.carveq vd va b) s =
    let src := s.me.entry va.toNat
    if !dValid src then trapAt EDGE 1 0 s
    else if movedRow src (s.reg b) < 0 ∨ 511 < movedRow src (s.reg b) then trapAt EDGE 4 0 s
    else if movedPos src (s.reg b) < 0 ∨ 2047 < movedPos src (s.reg b) then trapAt EDGE 3 0 s
    else putEntry vd (moveEntry src (movedRow src (s.reg b)).toNat (movedPos src (s.reg b)).toNat) s := by
  show execCarveq vd va b s = _
  simp only [execCarveq, signedOf_field_15_0, signedOf_field_31_16]
  rfl

section
variable {s : State} {vd va : VName} {b : SReg}

theorem exec_carveq_invalid (h : dValid (s.me.entry va.toNat) = false) : exec (.carveq vd va b) s = trapAt EDGE 1 0 s := by
  rw [exec_carveq]
  exact if_pos (by rw [h]; rfl)

variable (hv : dValid (s.me.entry va.toNat) = true)
include hv

theorem exec_carveq_row (h : movedRow (s.me.entry va.toNat) (s.reg b) < 0 ∨ 511 < movedRow (s.me.entry va.toNat) (s.reg b)) :
    exec (.carveq vd va b) s = trapAt EDGE 4 0 s := by
  rw [exec_carveq]
  dsimp only
  rw [hv, if_neg (by decide), if_pos h]

variable (hr : ¬ (movedRow (s.me.entry va.toNat) (s.reg b) < 0 ∨ 511 < movedRow (s.me.entry va.toNat) (s.reg b)))
include hr

theorem exec_carveq_position (h : movedPos (s.me.entry va.toNat) (s.reg b) < 0 ∨ 2047 < movedPos (s.me.entry va.toNat) (s.reg b)) :
    exec (.carveq vd va b) s = trapAt EDGE 3 0 s := by
  rw [exec_carveq]
  dsimp only
  rw [hv, if_neg (by decide), if_neg hr, if_pos h]

theorem exec_carveq_moved (h : ¬ (movedPos (s.me.entry va.toNat) (s.reg b) < 0 ∨ 2047 < movedPos (s.me.entry va.toNat) (s.reg b))) :
    exec (.carveq vd va b) s = putEntry vd (moveEntry (s.me.entry va.toNat) (movedRow (s.me.entry va.toNat) (s.reg b)).toNat
      (movedPos (s.me.entry va.toNat) (s.reg b)).toNat) s := by
  rw [exec_carveq]
  dsimp only
  rw [hv, if_neg (by decide), if_neg hr, if_neg h]

end

/-- ROW0 and EPOS0 of an entry between the bits below and above them. -/
theorem toNat_eq_origin (e : Word) : e.toNat = e.toNat / 2 ^ 22 * 2 ^ 22 + dEpos e * 2 ^ 11 + dRow0 e * 2 ^ 2 + e.toNat % 2 ^ 2 := by
  simp only [dEpos, dRow0, Word.field, bits, Nat.reducePow, Nat.reduceAdd, Nat.reduceSub]
  omega

/-- An entry that differs in ROW0 and EPOS0 alone is the moved one. -/
theorem moveEntry_eq {src n : Word} (h : ∀ i, ¬ (2 ≤ i ∧ i < 22) → n.getLsbD i = src.getLsbD i) :
    moveEntry src (n.field 10 2) (n.field 21 11) = n := by
  have hlow : n.toNat % 2 ^ 2 = src.toNat % 2 ^ 2 := by
    refine Nat.eq_of_testBit_eq fun i => ?_
    rw [Nat.testBit_mod_two_pow, Nat.testBit_mod_two_pow]
    by_cases hi : i < 2
    · rw [BitVec.testBit_toNat, BitVec.testBit_toNat, h i (by omega)]
    · simp [hi]
  have hhigh : n.toNat / 2 ^ 22 = src.toNat / 2 ^ 22 := by
    refine Nat.eq_of_testBit_eq fun i => ?_
    rw [Nat.testBit_div_two_pow, Nat.testBit_div_two_pow, BitVec.testBit_toNat, BitVec.testBit_toNat, h _ (by omega)]
  refine BitVec.eq_of_toNat_eq ?_
  have hsrc := toNat_eq_origin src
  have hn : n.toNat = n.toNat / 2 ^ 22 * 2 ^ 22 + n.field 21 11 * 2 ^ 11 + n.field 10 2 * 2 ^ 2 + n.toNat % 2 ^ 2 := toNat_eq_origin n
  rw [moveEntry, word, BitVec.toNat_ofNat, Nat.mod_eq_of_lt] <;> omega

/-- Settles O22: CARVE, CARVEQ and UNCARVE write one entry, or the first check that fails is their trap. -/
theorem carveEntries : Obligations.CarveEntries := by
  unfold Obligations.CarveEntries
  intro s vd va b w e src row pos row'
  have carve {i : Instr} {n : Word} (h : exec i s = .next (s.carved vd n)) : Ends i s (EntrySet s vd n) := ⟨_, h, entrySet_carved s vd n⟩
  refine ⟨fun hv => carve (exec_carve_invalid hv), fun hfit => ?fits, fun hv h7 hr => ?reserved, fun hv hw hz hp hr => ?position,
    carve rfl, fun hv hr => ?invalid, fun hv hrow hr => ?row, fun hv h0 h1 hpos hr => ?pos, fun n hv hrow hpos hsame hfit => ?moved⟩
  case fits => exact carve ((exec_carve_valid hfit.valid).trans (putEntry_fits hfit))
  case reserved =>
    exact ends_edge ((exec_carve_valid hv).trans (putEntry_edge (edgeBody_reservedWidth h7))) hr (by decide)
  case position =>
    exact ends_edge ((exec_carve_valid hv).trans (putEntry_edge (edgeBody_position hw hz hp))) hr (by decide)
  case invalid => exact ends_edge (exec_carveq_invalid hv) hr (by decide)
  case row => exact ends_edge (exec_carveq_row hv hrow) hr (by decide)
  case pos =>
    have hrow : ¬ (row' < 0 ∨ 511 < row') := by omega
    exact ends_edge (exec_carveq_position hv hrow hpos) hr (by decide)
  case moved =>
    have hrow' : movedRow src (s.reg b) = n.field 10 2 := hrow.symm
    have hpos' : movedPos src (s.reg b) = n.field 21 11 := hpos.symm
    have hlt : n.field 10 2 < 512 := Nat.mod_lt _ (by decide)
    have hlt' : n.field 21 11 < 2048 := Nat.mod_lt _ (by decide)
    have hx := exec_carveq_moved (vd := vd) hv (by rw [hrow']; omega) (by rw [hpos']; omega)
    rw [hrow', hpos', Int.toNat_natCast, Int.toNat_natCast, moveEntry_eq hsame, putEntry_fits hfit] at hx
    exact carve hx

end Sys2Proof.Machine
end

section
/-! PROOFS. The strip boundary of SETVL and SETVLI (O23): the columns that it gives, and the grant made in them. -/

namespace Sys2Proof.Machine

/-! ### The strip boundary (R161, R203) -/

/-- The columns that a front owns from its next strip boundary on: those of its share that its partner leaves. -/
theorem newOwn_eq (x : Core) (f : Nat) :
    x.newOwn f = if f % 2 = 0 then min x.target (64 - x.own1) else min (64 - x.target) (64 - x.own0) := by
  unfold Core.newOwn Core.share Core.own
  rcases Nat.mod_two_eq_zero_or_one f with h | h
  · simp [h, Nat.add_mod]
  · simp [h, Nat.add_mod]

section
variable {s : State} {v : VName}

theorem strip_undefined (h : dValid (s.me.effective v.toNat) = false) : strip v s = .trap 1 := if_pos (by rw [h]; rfl)

theorem strip_noColumn (hv : dValid (s.me.effective v.toNat) = true) (h0 : (s.core (s.cur / 2)).newOwn s.cur = 0) : strip v s = .wait := by
  unfold strip
  dsimp only
  rw [hv, if_neg (by decide)]
  exact if_pos h0

/-- A strip boundary taken: the front's run, and what a bound partner takes of the columns released. -/
def State.stripped (s : State) : State := (s.setOwn s.cur ((s.core (s.cur / 2)).newOwn s.cur)).regrow (partner s.cur)

theorem strip_fits (h0 : (s.core (s.cur / 2)).newOwn s.cur ≠ 0)
    (hfit : EntryFits (s.me.effective v.toNat)
      (((s.core (s.cur / 2)).setOwn s.cur ((s.core (s.cur / 2)).newOwn s.cur)).window s.cur).2 0) :
    strip v s = .ok s.stripped (s.me.effective v.toNat)
      (((s.core (s.cur / 2)).setOwn s.cur ((s.core (s.cur / 2)).newOwn s.cur)).window s.cur).2 := by
  unfold strip
  dsimp only [coreOf]
  rw [hfit.valid, if_neg (by decide), if_neg h0, edgeBody_fits hfit]
  rfl

end

section
variable (s : State)

theorem stripped_rest : { s.stripped with fronts := [], cores := [] } = { s with fronts := [], cores := [] } :=
  (regrow_rest _ _).trans (setOwn_rest s _ _)

theorem stripped_cur : s.stripped.cur = s.cur := (congrArg State.cur (stripped_rest s) :)

theorem front_stripped (g : Nat) : { s.stripped.front g with dirty := 0 } = { s.front g with dirty := 0 } :=
  (front_regrow_dirty _ _ g).trans (front_setOwn_dirty s _ _ g)

theorem core_stripped :
    (s.stripped.core (s.cur / 2)).own s.cur = (s.core (s.cur / 2)).newOwn s.cur ∧
      (s.stripped.core (s.cur / 2)).target = (s.core (s.cur / 2)).target ∧
      (s.stripped.core (s.cur / 2)).plane = (s.core (s.cur / 2)).plane ∧ (s.stripped.core (s.cur / 2)).tags = (s.core (s.cur / 2)).tags := by
  obtain ⟨hown, htarget, hplane, htags, -⟩ := core_regrow_partner (s.setOwn s.cur ((s.core (s.cur / 2)).newOwn s.cur)) (partner s.cur)
    (partner_div s.cur).symm (partner_parity s.cur)
  rw [core_setOwn] at hown htarget hplane htags
  exact ⟨hown.trans (own_resize_self _ _ _), htarget.trans (resize_target _ _ _), hplane.trans (resize_plane _ _ _),
    htags.trans (resize_tags _ _ _)⟩

/-! ### The grant (R161) -/

/-- A grant of `g` elements of the entry `e` at a strip boundary, written to VL and to `d`. -/
def State.granted (g : Nat) (e : Word) (d : SReg) : State := ((s.stripped.setVl g e).setReg d (word g)).advance

/-- VL of a grant. -/
def Front.granted (x : Front) (g : Nat) (e : Word) : Front := { x with vl := word (g + dEw e * 2 ^ 9) }

variable (g : Nat) (e : Word) (d : SReg)

theorem front_stripped_me : { s.stripped.me with dirty := 0 } = { s.me with dirty := 0 } := by
  rw [State.me, stripped_cur]
  exact front_stripped s s.cur

theorem me_setVl : (s.setVl g e).me = s.me.granted g e := front_modFront_self s s.cur _

theorem me_granted : (s.granted g e d).me = ((s.stripped.me.granted g e).setReg d (word g)).complete (s.me.pc + 4) := by
  have hpc : s.stripped.me.pc = s.me.pc := (congrArg Front.pc (front_stripped_me s) :)
  rw [State.granted, me_advance, me_setReg, me_setVl, Front.setReg_pc, Front.granted, hpc]

/-- Beside the strip boundary, a grant changes the front alone. -/
theorem onlyFront_granted : OnlyFront s.cur s.stripped (s.granted g e d) := by
  have hvl : OnlyFront s.stripped.cur s.stripped (s.stripped.setVl g e) := onlyFront_modFront _ _ _
  have hreg : OnlyFront s.stripped.cur (s.stripped.setVl g e) ((s.stripped.setVl g e).setReg d (word g)) := onlyFront_modFront _ _ _
  rw [← stripped_cur s]
  exact (hvl.trans hreg).trans (onlyFront_advance ((s.stripped.setVl g e).setReg d (word g)))

theorem core_granted (j : Nat) : (s.granted g e d).core j = s.stripped.core j := by
  rw [State.core, (congrArg State.cores (onlyFront_granted s g e d).rest :), State.core]

theorem granted_granted : Granted s ((s.core (s.cur / 2)).newOwn s.cur) g e (s.granted g e d) := by
  obtain ⟨hown, htarget, hplane, htags⟩ := core_stripped s
  have hme := front_stripped_me s
  constructor
  case own => rwa [core_granted]
  case target => rwa [core_granted]
  case cells => rw [core_granted]; exact ⟨hplane, htags⟩
  case vl => rw [me_granted]; exact Front.setReg_vl ..
  case done =>
    have hd : s.stripped.me.dbgctl = s.me.dbgctl := (congrArg Front.dbgctl hme :)
    have hk : s.stripped.me.kernel = s.me.kernel := (congrArg Front.kernel hme :)
    have hu : s.stripped.me.deleg = s.me.deleg := (congrArg Front.deleg hme :)
    refine completed_of s _ _ ((s.stripped.me.granted g e).setReg d (word g)) ((Front.setReg_dbgctl ..).trans hd) ((Front.setReg_kernel ..).trans hk)
      ((Front.setReg_deleg ..).trans hu) ?_ _ (me_granted s g e d)
    calc { ((s.stripped.me.granted g e).setReg d (word g)).base with vl := 0, dirty := 0 }
      _ = { ({ s.stripped.me with dirty := 0 } : Front).base with vl := 0 } := by unfold Front.setReg; split <;> rfl
      _ = { s.me.base with vl := 0, dirty := 0 } := by rw [hme]; rfl
  case others =>
    intro p hp
    rw [(onlyFront_granted s g e d).others p hp, front_stripped]

theorem granted_dest : Dest s d (word g) (s.granted g e d) := by
  refine dest_of_reg fun q => ?_
  have hregs : s.stripped.me.regs = s.me.regs := (congrArg Front.regs (front_stripped_me s) :)
  have hreg : (s.stripped.me.granted g e).reg q = s.me.reg q := by simp only [Front.reg, Front.granted, hregs]
  rw [State.reg, me_granted, Front.reg_complete, Front.reg_setReg, hreg, reg_setReg]
  rfl

theorem granted_bytes : SameBytes s (s.granted g e d) := fun a => by
  have hmem : s.stripped.mem = s.mem := (congrArg State.mem (stripped_rest s) :)
  rw [State.byte, (onlyFront_granted s g e d).mem, hmem, State.byte]

end

/-- A result that goes to s0 changes no register. -/
theorem Dest.discarded {s t : State} {v : Word} (h : Dest s 0 v t) (r : SReg) : t.reg r = s.reg r := by
  by_cases hr : r = 0
  · subst hr
    exact (Front.reg_zero _).trans (Front.reg_zero _).symm
  · exact h.regs r hr

section
variable {s : State} {v : VName} {n : Nat} {d : SReg}

theorem setVl_undefined (h : dValid (s.me.effective v.toNat) = false) : setVl v n d s = trapAt EDGE 1 0 s := by
  rw [setVl, strip_undefined h]

theorem setVl_noColumn (hv : dValid (s.me.effective v.toNat) = true) (h0 : (s.core (s.cur / 2)).newOwn s.cur = 0) :
    setVl v n d s = .next (s.blocked .lanes) := by
  rw [setVl, strip_noColumn hv h0]

theorem setVl_fits {w : Nat} (h0 : (s.core (s.cur / 2)).newOwn s.cur ≠ 0)
    (hw : (((s.core (s.cur / 2)).setOwn s.cur ((s.core (s.cur / 2)).newOwn s.cur)).window s.cur).2 = w)
    (hfit : EntryFits (s.me.effective v.toNat) w 0) :
    setVl v n d s = .next (s.granted (min n (min (vlmax w (dW (s.me.effective v.toNat))) (dCap (s.me.effective v.toNat))))
      (s.me.effective v.toNat) d) := by
  subst hw
  rw [setVl, strip_fits h0 hfit]
  rfl

end

theorem counted_eq (n : BitVec 8) : counted n.toNat 256 = if n = 0 then 256 else n.toNat :=
  if_congr (BitVec.toNat_inj (y := 0)) rfl rfl

/-- Settles O23: the strip boundary waits, traps, or gives the columns in which the name's entry is checked and the grant is made. -/
theorem vectorLength : Obligations.VectorLength := by
  unfold Obligations.VectorLength
  intro s vd b n f k new w e grant imm
  have hnew : k.newOwn f = new := newOwn_eq k f
  have himm : exec (.setvli vd n) s = setVl vd imm 0 s := congrArg (fun r => setVl vd r 0 s) (counted_eq n)
  refine ⟨fun hfit h0 => ?fits, fun hv h0 => ?noColumn, fun hv hr => ?undefined⟩
  case fits =>
    have hcols : k.newOwn f ≠ 0 := by rwa [hnew]
    have hw : ((k.setOwn f (k.newOwn f)).window f).2 = w := by rw [hnew]
    have hgrant (r : Nat) (d : SReg) : Granted s new (grant r) e (s.granted (grant r) e d) := by
      rw [← hnew]
      exact granted_granted s (grant r) e d
    exact ⟨⟨_, setVl_fits hcols hw hfit, hgrant _ b, granted_dest s _ e b, granted_bytes s _ e b⟩,
      ⟨_, himm.trans (setVl_fits hcols hw hfit), hgrant _ 0, (granted_dest s _ e 0).discarded, granted_bytes s _ e 0⟩⟩
  case noColumn =>
    have hcols : k.newOwn f = 0 := hnew.trans h0
    exact ⟨⟨_, setVl_noColumn hv hcols, waits_blocked s _⟩, ⟨_, himm.trans (setVl_noColumn hv hcols), waits_blocked s _⟩⟩
  case undefined =>
    exact ⟨ends_edge (setVl_undefined hv) hr (by decide), ends_edge (himm.trans (setVl_undefined hv)) hr (by decide)⟩

end Sys2Proof.Machine
end

section
/-! PROOFS. LPREQ (O24): the requests that lead to a valid TARGET, and what TARGET leaves once it is written. -/

namespace Sys2Proof.Machine

/-! ### Valid targets (R162, R200, R201) -/

/-- TARGET that a request of `n` lanes asks for, on a core with no retired lane. -/
def State.laneGoal (s : State) (n : Nat) : Nat :=
  if s.cur % 2 = 0 then (if s.resident (partner s.cur) then min n 56 else n) else if s.resident (partner s.cur) then max (64 - n) 8 else 64 - n

theorem live_of_noRetired {x : Core} (h : x.lanemap = 0) : x.live = 64 := by
  rw [Core.live, h]
  decide

/-- With 64 live lanes a multiple of 8 is a valid TARGET, if two resident fronts each keep 8 lanes. -/
theorem targetOk_64 {t : Nat} {res0 res1 : Bool} (h8 : t % 8 = 0) (ht : t ≤ 64) (hres : res0 = true → res1 = true → 8 ≤ t ∧ t ≤ 56) :
    targetOk 64 t res0 res1 = true := by
  have hboth : (!(res0 && res1) || decide (8 ≤ t ∧ t ≤ 56)) = true := by
    cases res0 with
    | false => rfl
    | true =>
      cases res1 with
      | false => rfl
      | true => exact decide_eq_true (hres rfl rfl)
  simpa [targetOk, h8, ht] using hboth

section
variable {s : State} {b : SReg}

section
variable {n : Nat} (hhi : n ≤ 64)
include hhi

theorem laneGoal_le : s.laneGoal n ≤ 64 := by
  unfold State.laneGoal
  split <;> split <;> omega

variable (h8 : n % 8 = 0) (hlo : 8 ≤ n)
include h8 hlo

theorem laneGoal_mod : s.laneGoal n % 8 = 0 := by
  unfold State.laneGoal
  split <;> split <;> omega

/-- Beside a resident partner, each front keeps 8 lanes. -/
theorem laneGoal_shared (hres : s.resident (partner s.cur) = true) : 8 ≤ s.laneGoal n ∧ s.laneGoal n ≤ 56 := by
  rw [State.laneGoal, if_pos hres, if_pos hres]
  split <;> omega

/-- The multiples of 8 from 8 to 64 lead to a valid TARGET. -/
theorem laneGoal_ok : targetOk 64 (s.laneGoal n) (s.resident (2 * (s.cur / 2))) (s.resident (2 * (s.cur / 2) + 1)) = true := by
  refine targetOk_64 (laneGoal_mod hhi h8 hlo) (laneGoal_le hhi) fun h0 h1 => laneGoal_shared hhi h8 hlo ?_
  by_cases h : s.cur % 2 = 0
  · have hp : partner s.cur = 2 * (s.cur / 2) + 1 := by rw [partner, if_pos h]; omega
    rwa [hp]
  · have hp : partner s.cur = 2 * (s.cur / 2) := by rw [partner, if_neg h]; omega
    rwa [hp]

end

/-! ### The instruction (R162, R202, R228) -/

theorem exec_lpreq_ignored (h : (s.reg b).field 6 0 % 8 ≠ 0 ∨ (s.reg b).field 6 0 < 8 ∨ 64 < (s.reg b).field 6 0 ∨
    (s.core (s.cur / 2)).lock = true) : exec (.lpreq b) s = .next s.advance := by
  have hreq : ((s.reg b).field 6 0 % 8 == 0 && decide (8 ≤ (s.reg b).field 6 0 ∧ (s.reg b).field 6 0 ≤ 64) && !(s.core (s.cur / 2)).lock) =
      false := by
    rw [Bool.eq_false_iff]
    intro hall
    simp only [Bool.and_eq_true, beq_iff_eq, decide_eq_true_eq, Bool.not_eq_true'] at hall
    obtain ⟨⟨h8, hlo, hhi⟩, hlock⟩ := hall
    rcases h with h | h | h | h
    · exact h h8
    · omega
    · omega
    · exact Bool.false_ne_true (hlock.symm.trans h)
  show execLpreq b s = _
  unfold execLpreq
  dsimp only [coreOf]
  rw [hreq, Bool.false_and, if_neg Bool.false_ne_true]

/-- A lane target set, and the partner settled (R228). -/
def State.retargeted (s : State) (t : Nat) : State := startIfOwned (s.modCore (s.cur / 2) fun x => x.partitioned (word t)) (partner s.cur)

section
variable {t : Nat} (ht : t ≤ 64)
include ht

theorem field_target : (word t).field 6 0 = t := by
  rw [field_word _ _ _ (by decide), bits]
  omega

theorem flag_target : (word t).flag 25 = false := by
  rw [flag_field, field_word _ _ _ (by decide), bits, Nat.div_eq_of_lt (by omega)]
  rfl

theorem Core.partitioned_target {x : Core} (hl : x.lock = false) : x.partitioned (word t) = { x with target := t } := by
  rw [Core.partitioned, field_target ht, flag_target ht, ← hl]

end

theorem exec_lpreq_taken (h8 : (s.reg b).field 6 0 % 8 = 0) (hlo : 8 ≤ (s.reg b).field 6 0) (hhi : (s.reg b).field 6 0 ≤ 64)
    (hlock : (s.core (s.cur / 2)).lock = false) (hmap : (s.core (s.cur / 2)).lanemap = 0) :
    exec (.lpreq b) s = .next (s.retargeted (s.laneGoal ((s.reg b).field 6 0))).advance := by
  have hlive := live_of_noRetired hmap
  have hok := laneGoal_ok (s := s) hhi h8 hlo
  have hcore : (s.core (s.cur / 2)).partitioned (word (s.laneGoal ((s.reg b).field 6 0))) =
      { s.core (s.cur / 2) with target := s.laneGoal ((s.reg b).field 6 0) } := Core.partitioned_target (laneGoal_le hhi) hlock
  show execLpreq b s = _
  rw [State.retargeted, State.modCore, hcore]
  unfold execLpreq
  dsimp only [coreOf]
  rw [hlive]
  -- With 64 live lanes the target of the model's arm is `laneGoal`.
  change Host.Outcome.next (State.advance (if (_ && targetOk 64 (s.laneGoal ((s.reg b).field 6 0)) _ _) = true then _ else _)) = _
  rw [hok, if_pos (by simp [h8, hlo, hhi, hlock])]
  rfl

end

/-- Settles O24: a request that is no valid one, or that LOCK holds off, passes; any other sets TARGET, and the partner settles. -/
theorem laneRequests : Obligations.LaneRequests := by
  unfold Obligations.LaneRequests
  intro s b n c even p res goal
  have hp : p = partner s.cur := if_congr beq_iff_eq rfl rfl
  have hgoal : goal = s.laneGoal n := by
    have hres : res = s.resident (partner s.cur) := congrArg s.resident hp
    rw [State.laneGoal, ← hres]
    exact if_congr beq_iff_eq rfl rfl
  refine ⟨fun h => ⟨_, exec_lpreq_ignored h, passes_advance s⟩,
    fun h8 hlo hhi hlock hmap => ⟨_, exec_lpreq_taken h8 hlo hhi hlock hmap, ?taken⟩⟩
  case taken =>
    rw [hp, hgoal]
    have hset : PartnerSettled s (partner s.cur) ((word (s.laneGoal n)).field 6 0) (s.retargeted (s.laneGoal n)) := by
      rw [State.retargeted, ← partner_div]
      exact partnerSettled_startIfOwned _
    obtain ⟨htarget, hunlocked, hown, hplane, htags, hset, hregs, hdone, hothers, -, hrest⟩ :=
      lpart_completed (s := s) (u := s.retargeted (s.laneGoal n)) (v := word (s.laneGoal n)) (cur_startIfOwned _ _) hset (core_startIfOwned _ _)
        (fun g hg => ⟨front_startIfOwned_other _ hg, slot_startIfOwned_other _ hg⟩) (startIfOwned_rest _ _)
    have hle : s.laneGoal n ≤ 64 := laneGoal_le hhi
    rw [field_target hle] at htarget hset
    rw [flag_target hle] at hunlocked
    have hmem : (s.retargeted (s.laneGoal n)).advance.mem = s.mem := (congrArg State.mem hrest :)
    exact ⟨htarget, hown, hunlocked, hplane, htags, hset, hregs, hdone, fun a => by rw [State.byte, hmem, State.byte],
      fun g hg hgp => (hothers g hg hgp).1⟩

end Sys2Proof.Machine
end

section
/-! PROOFS. Reads of the vector state at the front (O25): VMVXS, MPOPC and MFIRST. -/

namespace Sys2Proof.Machine

/-! ### VMVXS (R172) -/

/-- An element's value `v` as a result: extended by its sign when its tag is the signed one of the width. -/
def elementWord (e : Word) (tag v : Nat) : Word :=
  if tag = intTag (dW e) ∧ 8 ≤ dW e then (if v < 2 ^ (dW e - 1) then word v else BitVec.ofInt 64 ((v : Int) - 2 ^ dW e)) else word v

theorem word_addr64 (x : Int) : word (addr64 x) = BitVec.ofInt 64 x := by
  refine BitVec.eq_of_toNat_eq ?_
  rw [word, addr64, wrapTo, BitVec.toNat_ofNat, BitVec.toNat_ofInt, Nat.mod_eq_of_lt]
  omega

theorem word_signedOf {w v : Nat} (hv : v < 2 ^ w) (hw : 0 < w) :
    word (addr64 (signedOf w v)) = if v < 2 ^ (w - 1) then word v else BitVec.ofInt 64 ((v : Int) - 2 ^ w) := by
  have hs : signedOf w v = sInt w v := sgn_eq_sInt w hv hw
  rw [word_addr64, hs, sInt, apply_ite (BitVec.ofInt 64), BitVec.ofInt_natCast]
  rfl

section
variable {s : State} {e : Word} {first f i : Nat}

theorem headD_tags (x : Core) (e : Word) (first i : Nat) :
    ((elemCells e first i).map x.tag).headD 0 = x.tag ((elemCells e first i).headD 0) := by
  by_cases hw : dW e = 64
  · obtain ⟨a, ha⟩ := elemCells_pair e first i hw
    rw [ha]; rfl
  · obtain ⟨a, ha⟩ := elemCells_single e first i hw
    rw [ha]; rfl

/-- A clean element 0 read as a result. -/
theorem element0_clean (h : (s.core (f / 2)).clean e first 0) : ∃ n, element0 e first f s = .ok (n, s) ∧
    word n = elementWord e ((s.core (f / 2)).tag ((elemCells e first 0).headD 0)).toNat ((s.core (f / 2)).elem e first 0) := by
  refine ⟨if ((s.core (f / 2)).tag ((elemCells e first 0).headD 0)).toNat = intTag (dW e) ∧ 8 ≤ dW e
    then addr64 (signedOf (dW e) ((s.core (f / 2)).elem e first 0)) else (s.core (f / 2)).elem e first 0, ?read, ?value⟩
  case read =>
    rw [element0, bind_of_ok (getTags_clean h)]
    rw [headD_tags, bind_of_ok (getElem'_clean h)]
    rfl
  case value =>
    rw [apply_ite word, word_signedOf (elem_lt _ _ _) (Nat.two_pow_pos _)]
    rfl

end

section
variable {s : State} {d : SReg} {va : VName}

theorem exec_vmvxs_read (hfit : EntryFits (s.me.effective va.toNat) (s.window s.cur).2 0)
    (hgo : s.readWaits (elemCells (s.me.effective va.toNat) (s.window s.cur).1 0) = false) : exec (.vmvxs d va) s =
      atFrontNext (do setRegM d (← element0 (s.me.effective va.toNat) (s.window s.cur).1 s.cur)) s := by
  show execVmvxs d va s = _
  rw [execVmvxs, edgeCheck_fits hfit]
  dsimp only
  rw [hgo, if_neg Bool.false_ne_true]

theorem exec_vmvxs_waits (hfit : EntryFits (s.me.effective va.toNat) (s.window s.cur).2 0)
    (hw : s.readWaits (elemCells (s.me.effective va.toNat) (s.window s.cur).1 0) = true) : exec (.vmvxs d va) s = .next (s.blocked .retry) := by
  show execVmvxs d va s = _
  rw [execVmvxs, edgeCheck_fits hfit]
  dsimp only
  rw [hw, if_pos rfl]

theorem exec_vmvxs_undefined (h : dValid (s.me.effective va.toNat) = false) : exec (.vmvxs d va) s = trapAt EDGE 1 0 s := by
  show execVmvxs d va s = _
  rw [execVmvxs, edgeCheck_invalid h]

end

/-! ### MPOPC and MFIRST (R168) -/

section
variable {s : State} {d : SReg} {m : MReg} {g : List Nat → Word} {i : Instr} (hx : exec i s = maskRead m d g s)
include hx

theorem ends_maskRead_waits (h : s.me.writing [maskKey m.toNat] = true) : Ends i s (Waits s .retry) :=
  ⟨_, hx.trans (if_pos h), waits_blocked s _⟩

theorem ends_maskRead (h : s.me.writing [maskKey m.toNat] = false) {v : Word} (hv : g (s.me.maskBits m.toNat) = v) :
    Ends i s (Writes s d v (s.me.pc + 4)) := by
  subst hv
  exact ends_result s d _ (hx.trans (if_neg (by rw [h]; exact Bool.false_ne_true)))

end

/-- The bits of a mask are listed from the lowest index on. -/
theorem maskBits_sorted (x : Front) (m : Nat) : (x.maskBits m).Pairwise (· < ·) := List.pairwise_lt_range.filter _

/-- The head of a rising list is its least member. -/
theorem head?_of_least {l : List Nat} (hl : l.Pairwise (· < ·)) {i : Nat} (hi : i ∈ l) (hmin : ∀ j ∈ l, i ≤ j) : l.head? = some i := by
  cases l with
  | nil => cases hi
  | cons a r =>
    rcases List.mem_cons.mp hi with rfl | hr
    · rfl
    · have hlt := List.rel_of_pairwise_cons hl hr
      have hle := hmin a List.mem_cons_self
      omega

/-- Settles O25: each read waits for what older entries have still to write, and then is a result. -/
theorem vectorStateReads : Obligations.VectorStateReads := by
  unfold Obligations.VectorStateReads
  intro s d va m e win k v tag ones
  have hpopc : exec (.mpopc d m) s = maskRead m d (fun l => word l.length) s := rfl
  have hfirst : exec (.mfirst d m) s = maskRead m d (fun l => (l.head?.map word).getD (-1)) s := rfl
  refine ⟨fun hfit hgo hclean => ?read, fun hfit hw => ⟨_, exec_vmvxs_waits hfit hw, waits_blocked s _⟩,
    fun hv hr => ends_edge (exec_vmvxs_undefined hv) hr (by decide),
    fun hgo => ⟨ends_maskRead hpopc hgo rfl, fun hnil => ?none, fun i hi hmin => ?first⟩,
    fun hw => ⟨ends_maskRead_waits hpopc hw, ends_maskRead_waits hfirst hw⟩⟩
  case read =>
    obtain ⟨n, hn, hword⟩ := element0_clean hclean
    have hset : (do setRegM d (← element0 e win.1 s.cur) : M Unit) s = .ok ((), s.setReg d (word n)) := by
      rw [bind_of_ok hn]
      rfl
    have hx : exec (.vmvxs d va) s = result d (word n) s := (exec_vmvxs_read hfit hgo).trans (atFrontNext_ok hset)
    rw [hword] at hx
    exact ends_result s d _ hx
  case none =>
    have hbits : s.me.maskBits m.toNat = [] := hnil
    exact ends_maskRead hfirst hgo (by rw [hbits]; rfl)
  case first =>
    have hhead : (s.me.maskBits m.toNat).head? = some i := head?_of_least (maskBits_sorted s.me m.toNat) hi hmin
    exact ends_maskRead hfirst hgo (by rw [hhead]; rfl)

end Sys2Proof.Machine
end

section
/-! PROOFS. Compares and mask operations (O51): a mask bit or a whole mask written, and the element that a compare reads. -/

namespace Sys2Proof.Machine

/-! ### A mask written (R65, R166) -/

section
variable {s t : State} {f md i : Nat} {v : Bool} {x : BitVec 256}

/-- Nothing but the mask `md` of the front has changed, and flags have been ORed into FFLAGS. -/
def MaskOnly (s : State) (f md fl : Nat) (t : State) : Prop :=
  OnlyFront f s t ∧ { t.front f with masks := [], fflags := 0 } = { s.front f with masks := [], fflags := 0 } ∧
    (t.front f).fflags = (s.front f).fflags ||| word fl ∧ ∀ q, q ≠ md → (t.front f).mask q = (s.front f).mask q

/-- Bit `i` of the mask `md` is `v`, and every other bit is as before. -/
def BitWritten (s : State) (f md i : Nat) (v : Bool) (t : State) : Prop :=
  ∀ q, q < 256 → ((t.front f).mask md).getLsbD q = if q = i then v else ((s.front f).mask md).getLsbD q

/-- The state with a mask written. -/
def State.masked (s : State) (f md : Nat) (x : BitVec 256) : State := s.modFront f fun y => y.setMask md x

theorem mask_masked : ((s.masked f md x).front f).mask md = x := by
  rw [State.masked, front_modFront_self, Front.mask_setMask, if_pos rfl]

theorem maskOnly_masked : MaskOnly s f md 0 (s.masked f md x) := by
  refine ⟨onlyFront_modFront _ _ _, ?_, ?_, fun q hq => ?_⟩
  · rw [State.masked, front_modFront_self]; rfl
  · rw [State.masked, front_modFront_self]; exact BitVec.or_zero.symm
  · rw [State.masked, front_modFront_self, Front.mask_setMask, if_neg hq]

theorem MaskOnly.flagged (h : MaskOnly s f md 0 t) (fl : Nat) : MaskOnly s f md fl (t.flagged f fl) := by
  obtain ⟨hrest, hfront, hflags, hmasks⟩ := h
  have hold : (t.front f).fflags = (s.front f).fflags := hflags.trans BitVec.or_zero
  have hself : (t.flagged f fl).front f = (t.front f).orFlags fl := front_modFront_self t f _
  refine ⟨hrest.trans (onlyFront_modFront _ _ _), ?_, ?_, fun q hq => ?_⟩
  · rw [hself]; exact hfront
  · rw [hself, ← hold]; rfl
  · rw [hself]; exact hmasks q hq

theorem BitWritten.flagged (h : BitWritten s f md i v t) (fl : Nat) : BitWritten s f md i v (t.flagged f fl) := by
  have hself : (t.flagged f fl).front f = (t.front f).orFlags fl := front_modFront_self t f _
  rw [BitWritten, hself]
  exact h

/-- A mask with bit `i` replaced. -/
def putBit (x : BitVec 256) (i : Nat) (v : Bool) : BitVec 256 :=
  if v then x ||| BitVec.ofNat 256 (2 ^ i) else x &&& ~~~(BitVec.ofNat 256 (2 ^ i))

theorem getLsbD_putBit (x : BitVec 256) (i : Nat) (v : Bool) {q : Nat} (hq : q < 256) :
    (putBit x i v).getLsbD q = if q = i then v else x.getLsbD q := by
  have hbit : (BitVec.ofNat 256 (2 ^ i)).getLsbD q = decide (q = i) := by
    rw [BitVec.getLsbD_ofNat, Nat.testBit_two_pow]
    simp [hq, eq_comm]
  cases v with
  | false =>
    simp only [putBit, Bool.false_eq_true, if_false, BitVec.getLsbD_and, BitVec.getLsbD_not, hq, hbit]
    by_cases h : q = i <;> simp [h]
  | true =>
    simp only [putBit, if_true, BitVec.getLsbD_or, hbit]
    by_cases h : q = i <;> simp [h]

theorem putMaskBit_eq (s : State) (f md i : Nat) (v : Bool) :
    putMaskBit f md i v s = .ok ((), s.masked f md (putBit ((s.front f).mask md) i v)) := rfl

theorem bitWritten_masked : BitWritten s f md i v (s.masked f md (putBit ((s.front f).mask md) i v)) := fun q hq => by
  rw [mask_masked, getLsbD_putBit _ _ _ hq]

end

/-! ### The element of a compare (R65, R166, R181) -/

/-- A compare: the tags of va's element are checked, then `m` writes its bit; an inactive element clears it under MODE 2. -/
def compareRun (ok : Nat → Bool) (m : Nat → M Unit) (md : MReg) (e : QEntry) (f : Nat) : Run :=
  .elems e.vl 1 fun i => do
    if ← isActive f e i then
      checkTags f e.cap.first (e.name 0) i ok
      m i
    else if e.mode = 2 then putMaskBit f md.toNat i false else pure ()

/-- The compares of integers. -/
def intCompares (md : MReg) (va vb : VName) (sm : BitVec 2) : List Instr :=
  [.vcmpEq md va vb sm, .vcmpNe md va vb sm, .vcmpLt md va vb sm, .vcmpGe md va vb sm, .vcmpLtu md va vb sm, .vcmpGeu md va vb sm]

/-- The compares of floats. -/
def floatCompares (md : MReg) (va vb : VName) (sm : BitVec 2) (bf : Bool) : List Instr :=
  [.vfcmpEq md va vb sm bf, .vfcmpLt md va vb sm bf, .vfcmpLe md va vb sm bf, .vfcmpUn md va vb sm bf]

section
variable {s : State} {f i : Nat} {e : QEntry} {md : MReg} {va vb : VName} {sm : BitVec 2} {bf : Bool}

theorem runOf_intCompares (h : e.instr ∈ intCompares md va vb sm) :
    ∃ m, runOf e f = compareRun (isIntTag (dW (e.name 0))) m md e f := by
  simp only [intCompares, List.mem_cons, List.not_mem_nil, or_false] at h
  rcases h with h | h | h | h | h | h
  all_goals
    rw [runOf, h]
    exact ⟨_, rfl⟩

theorem runOf_floatCompares (h : e.instr ∈ floatCompares md va vb sm bf) :
    ∃ m, runOf e f = compareRun (· == fpTag (fmtOf (dW (e.name 0)) bf)) m md e f := by
  simp only [floatCompares, List.mem_cons, List.not_mem_nil, or_false] at h
  rcases h with h | h | h | h
  all_goals
    rw [runOf, h]
    exact ⟨_, rfl⟩

section
variable {ok : Nat → Bool} {m : Nat → M Unit} (hrun : runOf e f = compareRun ok m md e f)
include hrun

theorem compare_idle (hact : activeIn e.mode ((s.front f).mask e.act) i = false) :
    (e.mode = 2 → RunsElem e f i s fun t => MaskOnly s f md.toNat 0 t ∧ BitWritten s f md.toNat i false t) ∧
      (e.mode ≠ 2 → RunsElem e f i s fun t => t = s) := by
  refine ⟨fun hm => ⟨_, _, hrun, ?_, maskOnly_masked, bitWritten_masked⟩, fun hm => ⟨_, s, hrun, ?_, rfl⟩⟩
  · rw [bind_of_ok (isActive_eq false hact), if_neg Bool.false_ne_true, if_pos hm]
    exact putMaskBit_eq s f md.toNat i false
  · rw [bind_of_ok (isActive_eq false hact), if_neg Bool.false_ne_true, if_neg hm]
    rfl

variable (hact : activeIn e.mode ((s.front f).mask e.act) i = true) (ha : s.srcClean f e 0 i)
include hact ha

/-- A wrong tag on va's cells (R64). -/
theorem compare_format {c : Nat} (hc : c ∈ elemCells (e.name 0) e.cap.first i) (hbad : ok ((s.core (f / 2)).tag c).toNat ≠ true) :
    StopsElem e f i s ⟨5, 0, i, 0, 0⟩ := by
  refine ⟨_, hrun, ?_⟩
  rw [bind_of_ok (isActive_eq true hact), if_pos rfl]
  exact bind_of_error (checkTags_fail ha fun h => hbad (h c hc))

theorem compare_active {t : State} {P : State → Prop}
    (hok : ∀ c ∈ elemCells (e.name 0) e.cap.first i, ok ((s.core (f / 2)).tag c).toNat = true) (hm : m i s = .ok ((), t)) (ht : P t) :
    RunsElem e f i s P := by
  refine ⟨_, t, hrun, ?_, ht⟩
  rw [bind_of_ok (isActive_eq true hact), if_pos rfl]
  exact (bind_of_ok (checkTags_pass ha hok)).trans hm

end

/-! ### Compares of active elements -/

section
variable (s f i e md)

/-- The instruction writes `v` to bit `i` of its mask, and adds the flags `fl`. -/
def SetsBit (ins : Instr) (v : Bool) (fl : Nat) : Prop :=
  e.instr = ins → RunsElem e f i s fun t => MaskOnly s f md.toNat fl t ∧ BitWritten s f md.toNat i v t

end

section
variable (hact : activeIn e.mode ((s.front f).mask e.act) i = true) (ha : s.srcClean f e 0 i)
  (hb : ∀ q, modIndex sm e.vl i = some q → s.srcClean f e 1 q)
include hact ha hb

theorem cmpRun_active (hA : s.srcInt f e 0 i) (hB : ∀ q, modIndex sm e.vl i = some q → s.srcInt f e 1 q)
    {c : Nat → Nat → Nat → Bool} {v : Bool}
    (hrun : runOf e f = cmpRun c md sm e f) (hv : c (dW (e.name 0)) (s.srcElem f e 0 i) (s.modElem f e 1 sm i) = v) :
    RunsElem e f i s fun t => MaskOnly s f md.toNat 0 t ∧ BitWritten s f md.toNat i v t := by
  refine compare_active (ok := isIntTag (dW (e.name 0))) hrun hact ha hA ?_ ⟨maskOnly_masked, bitWritten_masked⟩
  rw [bind_of_ok (modSource_pass hb hB), bind_of_ok (srcElem_clean ha), hv]
  exact putMaskBit_eq s f md.toNat i v

theorem intCompares_active (hA : s.srcInt f e 0 i) (hB : ∀ q, modIndex sm e.vl i = some q → s.srcInt f e 1 q)
    (hw : dW (e.name 1) = dW (e.name 0)) :
    let w := dW (e.name 0)
    let x := s.srcElem f e 0 i
    let y := s.modElem f e 1 sm i
    SetsBit s f i e md (.vcmpEq md va vb sm) (x == y) 0 ∧ SetsBit s f i e md (.vcmpNe md va vb sm) (x != y) 0 ∧
    SetsBit s f i e md (.vcmpLt md va vb sm) (decide (sInt w x < sInt w y)) 0 ∧
    SetsBit s f i e md (.vcmpGe md va vb sm) (decide (sInt w y ≤ sInt w x)) 0 ∧
    SetsBit s f i e md (.vcmpLtu md va vb sm) (decide (x < y)) 0 ∧ SetsBit s f i e md (.vcmpGeu md va vb sm) (decide (y ≤ x)) 0 := by
  intro w x y
  have hx : sgn w x = sInt w x := sgn_eq_sInt w (srcElem_lt rfl) (Nat.two_pow_pos _)
  have hy : sgn w y = sInt w y := sgn_eq_sInt w (modElem_lt hw) (Nat.two_pow_pos _)
  have sets {c : Nat → Nat → Nat → Bool} {v : Bool} (hrun : runOf e f = cmpRun c md sm e f) (hv : c w x y = v) :=
    cmpRun_active hact ha hb hA hB hrun hv
  refine ⟨fun h => ?_, fun h => ?_, fun h => ?_, fun h => ?_, fun h => ?_, fun h => ?_⟩
  · exact sets (c := icEq) (by rw [runOf, h]) rfl
  · exact sets (c := icNe) (by rw [runOf, h]) rfl
  · exact sets (c := icLt) (by rw [runOf, h]) (by rw [icLt, hx, hy])
  · exact sets (c := icGe) (by rw [runOf, h]) (by rw [icGe, hx, hy])
  · exact sets (c := icLtu) (by rw [runOf, h]) rfl
  · exact sets (c := icGeu) (by rw [runOf, h]) rfl

theorem fpCmpRun_active (hA : s.srcTag f e 0 i (fpTag (fmtOf (dW (e.name 0)) bf)))
    (hB : ∀ q, modIndex sm e.vl i = some q → s.srcTag f e 1 q (fpTag (fmtOf (dW (e.name 0)) bf))) {c : FCond} {v : Bool} {fl : Nat}
    (hrun : runOf e f = fpCmpRun c md sm bf e f)
    (hv : fpCond c (fmtOf (dW (e.name 0)) bf) e.env (s.srcElem f e 0 i) (s.modElem f e 1 sm i) = (v, fl)) :
    RunsElem e f i s fun t => MaskOnly s f md.toNat fl t ∧ BitWritten s f md.toNat i v t := by
  refine compare_active (ok := (· == fpTag (fmtOf (dW (e.name 0)) bf))) hrun hact ha (fun c hc => beq_iff_eq.mpr (hA c hc)) ?_
    ⟨maskOnly_masked.flagged fl, bitWritten_masked.flagged fl⟩
  have hy : modSource f e 1 sm i (· == fpTag (fmtOf (dW (e.name 0)) bf)) true s = .ok (s.modElem f e 1 sm i, s) :=
    modSource_pass hb fun q hq c hc => beq_iff_eq.mpr (hB q hq c hc)
  rw [bind_of_ok hy, bind_of_ok (srcElem_clean ha), hv]
  dsimp only
  rw [bind_of_ok (putMaskBit_eq s f md.toNat i v)]
  exact orFlagsM_eq _ f fl

theorem floatCompares_active (hA : s.srcTag f e 0 i (fpTag (fmtOf (dW (e.name 0)) bf)))
    (hB : ∀ q, modIndex sm e.vl i = some q → s.srcTag f e 1 q (fpTag (fmtOf (dW (e.name 0)) bf))) :
    let fmt := fmtOf (dW (e.name 0)) bf
    let x := arg fmt e.env (s.srcElem f e 0 i)
    let y := arg fmt e.env (s.modElem f e 1 sm i)
    let nan := if Fp.cmp x y = none then Fp.NV else 0
    SetsBit s f i e md (.vfcmpEq md va vb sm bf) (Fp.cmp x y == some .eq) (Fp.sigFlag [x, y]) ∧
    SetsBit s f i e md (.vfcmpLt md va vb sm bf) (Fp.cmp x y == some .lt) nan ∧
    SetsBit s f i e md (.vfcmpLe md va vb sm bf) (Fp.cmp x y == some .lt || Fp.cmp x y == some .eq) nan ∧
    SetsBit s f i e md (.vfcmpUn md va vb sm bf) (Fp.cmp x y == none) (Fp.sigFlag [x, y]) := by
  intro fmt x y nan
  have sets {c : FCond} {v : Bool} {fl : Nat} (hrun : runOf e f = fpCmpRun c md sm bf e f)
      (hv : fpCond c fmt e.env (s.srcElem f e 0 i) (s.modElem f e 1 sm i) = (v, fl)) := fpCmpRun_active hact ha hb hA hB hrun hv
  have hnone : (Fp.cmp x y).isNone = (Fp.cmp x y == none) := by cases Fp.cmp x y <;> rfl
  have hnan : (if (Fp.cmp x y).isNone = true then Fp.NV else 0) = nan := if_congr Option.isNone_iff_eq_none rfl rfl
  refine ⟨fun h => ?_, fun h => ?_, fun h => ?_, fun h => ?_⟩
  · exact sets (c := .eq) (by rw [runOf, h]) rfl
  · exact sets (c := .lt) (by rw [runOf, h]) (by rw [← hnan]; rfl)
  · exact sets (c := .le) (by rw [runOf, h]) (by rw [← hnan]; rfl)
  · exact sets (c := .un) (by rw [runOf, h]) (by rw [← hnone]; rfl)

end

/-! ### Whole masks (R167) -/

theorem maskRun_whole {g : Front → BitVec 256} {x : BitVec 256} (hrun : runOf e f = maskRun md g f) (hx : g (s.front f) = x) :
    RunsWhole e f s fun t => MaskOnly s f md.toNat 0 t ∧ (t.front f).mask md.toNat = x :=
  ⟨_, s.masked f md.toNat x, hrun, by rw [← hx]; rfl, maskOnly_masked, mask_masked⟩

/-- The mask with its lowest `n` bits set. -/
theorem getLsbD_lowMask (n : Nat) {q : Nat} (hq : q < 256) : (BitVec.ofNat 256 (2 ^ min n 256 - 1)).getLsbD q = decide (q < n) := by
  rw [BitVec.getLsbD_ofNat, Nat.testBit_two_pow_sub_one]
  simp [hq]

end

/-- Settles O51: a compare's body reads two clean elements with their tags and writes one bit, or clears it, and a mask operation writes one mask. -/
theorem maskInstructions : Obligations.MaskInstructions := by
  unfold Obligations.MaskInstructions
  intro s f i e md ma mb va vb sm bf r
  refine ⟨fun hdw hw hvl _ ha => ?elements, fun _ _ hact ins hins => ?idle, fun h => maskRun_whole (by rw [runOf, h]) rfl,
    fun h => maskRun_whole (by rw [runOf, h]) rfl, fun h => maskRun_whole (by rw [runOf, h]) rfl, fun h => maskRun_whole (by rw [runOf, h]) rfl,
    fun h => ?set⟩
  case elements =>
    rw [← modIndex_eq hvl]
    refine fun hb => ⟨fun hact ⟨hA, hB⟩ => ?ints, fun hact _ ⟨hA, hB⟩ => ?floats, fun hact ⟨c, hc, hbad⟩ ins hins h => ?intFormat,
      fun hact ⟨c, hc, hbad⟩ ins hins h => ?floatFormat⟩
    case ints => exact intCompares_active hact ha hb ((srcInt_iff hdw).mpr hA) (fun q hq => (srcInt_iff hdw).mpr (hB q hq)) hw
    case floats => exact floatCompares_active hact ha hb hA hB
    case intFormat =>
      obtain ⟨m, hrun⟩ := runOf_intCompares (f := f) (h ▸ hins)
      exact compare_format hrun hact ha hc fun hok => hbad ((isIntTag_iff hdw _).mp hok)
    case floatFormat =>
      obtain ⟨m, hrun⟩ := runOf_floatCompares (f := f) (h ▸ hins)
      exact compare_format hrun hact ha hc fun hok => hbad (beq_iff_eq.mp hok)
  case idle =>
    have hrun (h : e.instr = ins) : ∃ ok m, runOf e f = compareRun ok m md e f := by
      rcases List.mem_append.mp hins with hi | hi
      · obtain ⟨m, hrun⟩ := runOf_intCompares (f := f) (h ▸ hi)
        exact ⟨_, m, hrun⟩
      · obtain ⟨m, hrun⟩ := runOf_floatCompares (f := f) (h ▸ hi)
        exact ⟨_, m, hrun⟩
    refine ⟨fun hm h => ?clears, fun hm h => ?stays⟩
    case clears =>
      obtain ⟨ok, m, hrun⟩ := hrun h
      exact (compare_idle hrun hact).1 hm
    case stays =>
      obtain ⟨ok, m, hrun⟩ := hrun h
      exact (compare_idle hrun hact).2 hm
  case set =>
    obtain ⟨m, t, hrun, hm, honly, hmask⟩ := maskRun_whole (s := s) (f := f) (e := e) (md := md)
      (g := fun _ => BitVec.ofNat 256 (2 ^ min (e.scal 0).toNat 256 - 1)) (by rw [runOf, h]) rfl
    exact ⟨m, t, hrun, hm, honly, fun q hq => by rw [hmask, getLsbD_lowMask _ hq]⟩

end Sys2Proof.Machine
end

section
/-! PROOFS. Elements moved one after another, sources read whole, and movements: slides, VPERM, VCOMPRESS and VEXPAND (R188 to R191). -/

namespace Sys2Proof.Machine

/-! ### Operations one after another -/

section
variable {body : Nat → M Unit} {Q : Nat → State → State → Prop} {I : Nat → State → Prop} {n i : Nat} {s t : State}

/-- Bodies that all complete, each of them as `Q` says and with the invariant `I` kept. -/
theorem exists_chain (step : ∀ j a, i ≤ j → j < i + n → I j a → ∃ b, body j a = .ok ((), b) ∧ Q j a b ∧ I (j + 1) b) (h : I i s) :
    ∃ t, Chain (fun j a b => body j a = .ok ((), b) ∧ Q j a b) n i s t := by
  induction n generalizing i s with
  | zero => exact ⟨s, rfl⟩
  | succ n ih =>
    obtain ⟨u, hbody, hq, hu⟩ := step i s (Nat.le_refl i) (by omega) h
    obtain ⟨t, ht⟩ := ih (fun j a h1 h2 => step j a (by omega) (by omega)) hu
    exact ⟨t, u, ⟨hbody, hq⟩, ht⟩

theorem forUp_ok (h : Chain (fun j a b => body j a = .ok ((), b)) n i s t) : forUp n i body s = .ok ((), t) := by
  induction n generalizing i s with
  | zero =>
    obtain rfl : t = s := h
    rfl
  | succ n ih =>
    obtain ⟨u, hbody, hc⟩ := h
    rw [forUp, bind_of_ok hbody]
    exact ih hc

/-- A chain of weaker moves, from what holds of the moves that it has. -/
theorem Chain.imp_of_lt {P : Nat → State → State → Prop} (h : ∀ j a b, i ≤ j → j < i + n → P j a b → Q j a b)
    (hc : Chain P n i s t) : Chain Q n i s t := by
  induction n generalizing i s with
  | zero => exact hc
  | succ n ih =>
    obtain ⟨u, hp, hc⟩ := hc
    exact ⟨u, h i s u (Nat.le_refl i) (by omega) hp, ih (fun j a b h1 h2 => h j a b (by omega) (by omega)) hc⟩

/-- A chain with its moves numbered from `p` on. -/
theorem Chain.shift {p : Nat} (h : Chain Q n (p + i) s t) : Chain (fun j => Q (p + j * 1)) n i s t := by
  induction n generalizing i s with
  | zero => exact h
  | succ n ih =>
    obtain ⟨u, hq, hc⟩ := h
    exact ⟨u, by simpa using hq, ih hc⟩

theorem forUp_runs (step : ∀ j a, i ≤ j → j < i + n → I j a → ∃ b, body j a = .ok ((), b) ∧ Q j a b ∧ I (j + 1) b) (h : I i s) :
    ∃ t, forUp n i body s = .ok ((), t) ∧ Chain Q n i s t := by
  obtain ⟨t, ht⟩ := exists_chain step h
  exact ⟨t, forUp_ok (ht.imp fun _ _ _ hb => hb.1), ht.imp fun _ _ _ hb => hb.2⟩

theorem bodyLoop_runs (step : ∀ j a, i ≤ j → j < i + n → I j a → ∃ b, body j a = .ok ((), b) ∧ Q j a b ∧ I (j + 1) b) (h : I i s) :
    ∃ t, bodyLoop true 1 body n i s = (t, i + n, none) ∧ Chain Q n i s t := by
  obtain ⟨t, ht⟩ := exists_chain step h
  have hok := bodyLoop_ok (own := true) (Chain.shift (i := 0) (ht.imp fun _ _ _ hb => hb.1))
  exact ⟨t, by rw [hok, Nat.mul_one], ht.imp fun _ _ _ hb => hb.2⟩

end

theorem readAt_ok {α : Type} {m : M α} {s u : State} {a : α} (h : m s = .ok (a, s)) : readAt s m u = .ok (a, u) := by
  simp only [readAt, h]

theorem putTagged_clean {s : State} {f first i : Nat} {d : Word} (h : (s.core (f / 2)).clean d first i) (v t : Nat) :
    putTagged f first d i v t s = .ok ((), s.putAt f first d i v [some (BitVec.ofNat 8 t), some (BitVec.ofNat 8 t)]) :=
  putElem_clean h v _

/-- A run from the progress on, with nothing that bounds it, to VL.LEN. -/
theorem runsTo_partUp {e : QEntry} {f : Nat} {s : State} {body : State → Nat → M Unit} {Q : Nat → State → State → Prop} {I : Nat → State → Prop}
    (hrun : runOf e f = partUp e body) (hp : e.progress ≤ e.vl)
    (step : ∀ j a, e.progress ≤ j → j < e.vl → I j a → ∃ b, body s j a = .ok ((), b) ∧ Q j a b ∧ I (j + 1) b) (h : I e.progress s) :
    RunsTo e f e.vl s (Chain Q (e.vl - e.progress) e.progress s) := by
  obtain ⟨t, ht, hc⟩ := bodyLoop_runs (n := e.vl - e.progress) (fun j a h1 h2 => step j a h1 (by omega)) h
  refine ⟨_, t, hrun, ?_, hc⟩
  rw [Option.getD_none, Nat.min_self, ht, Nat.add_sub_cancel' hp]

/-! ### Active elements -/

/-- Element `i` is active (R65). -/
def State.active (s : State) (f : Nat) (e : QEntry) (i : Nat) : Bool := activeIn e.mode ((s.front f).mask e.act) i
/-- The active elements. -/
def State.activeElems (s : State) (f : Nat) (e : QEntry) : List Nat := (List.range e.vl).filter (s.active f e)
/-- Those from the captured VSTART on. -/
def State.activesFrom (s : State) (f : Nat) (e : QEntry) : List Nat := (s.activeElems f e).filter fun i => decide (e.start ≤ i)
/-- The cells of element `i` of operand `k` have tags that pass a check. -/
def State.srcPasses (s : State) (f : Nat) (e : QEntry) (k : Nat) (ok : Nat → Bool) (i : Nat) : Prop :=
  ∀ c ∈ elemCells (e.name k) e.cap.first i, ok ((s.core (f / 2)).tag c).toNat = true
/-- Every active element of operand `k` from the captured VSTART on is free of errors. -/
def State.sourceClean (s : State) (f : Nat) (e : QEntry) (k : Nat) : Prop := ∀ i ∈ s.activesFrom f e, s.srcClean f e k i
/-- The tags of each of them pass a check. -/
def State.sourcePasses (s : State) (f : Nat) (e : QEntry) (k : Nat) (ok : Nat → Bool) : Prop := ∀ i ∈ s.activesFrom f e, s.srcPasses f e k ok i
/-- Element `i` is the first of them whose tags do not. -/
def State.firstBad (s : State) (f : Nat) (e : QEntry) (k : Nat) (ok : Nat → Bool) (i : Nat) : Prop :=
  i ∈ s.activesFrom f e ∧ (∀ j ∈ s.activesFrom f e, j < i → s.srcPasses f e k ok j) ∧ ¬ s.srcPasses f e k ok i
/-- Each active element from the captured VSTART on, with its value in operand `k`. -/
def State.valuesFrom (s : State) (f : Nat) (e : QEntry) (k : Nat) : List (Nat × Nat) := (s.activesFrom f e).map fun j => (j, s.srcElem f e k j)
/-- Every element that the destination may have is free of errors. -/
def State.dstClean (s : State) (f : Nat) (e : QEntry) : Prop := ∀ i, i < 256 → s.srcClean f e 0 i

section
variable {s u : State} {f i : Nat} {e : QEntry}

theorem isActive_active (s : State) (f : Nat) (e : QEntry) (i : Nat) : isActive f e i s = .ok (s.active f e i, s) := rfl

theorem mem_activeElems : i ∈ s.activeElems f e ↔ i < e.vl ∧ s.active f e i = true := by simp [State.activeElems]

theorem mem_activesFrom : i ∈ s.activesFrom f e ↔ e.start ≤ i ∧ i < e.vl ∧ s.active f e i = true := by
  simp [State.activesFrom, mem_activeElems, and_comm]

theorem activesFrom_sorted (s : State) (f : Nat) (e : QEntry) : (s.activesFrom f e).Pairwise (· < ·) :=
  (List.pairwise_lt_range.filter _).filter _

theorem actives_cons {k : Nat} (h : s.active f e i = true) : s.actives f e (k + 1) i = i :: s.actives f e k (i + 1) :=
  (actives_succ k i).trans (if_pos h)

theorem actives_skip {k : Nat} (h : s.active f e i = false) : s.actives f e (k + 1) i = s.actives f e k (i + 1) :=
  (actives_succ k i).trans (if_neg (by rw [← State.active, h]; exact Bool.false_ne_true))

theorem activeElems_eq (s : State) (f : Nat) (e : QEntry) : s.activeElems f e = s.actives f e e.vl 0 := by
  rw [State.activeElems, List.range_eq_range']
  rfl

theorem activesFrom_eq (s : State) (f : Nat) (e : QEntry) : s.activesFrom f e = s.actives f e (e.vl - e.start) e.start := by
  have hrange : (List.range' e.start (e.vl - e.start)).Pairwise (· < ·) := List.pairwise_lt_range'
  refine (activesFrom_sorted s f e).eq_of_mem_iff (hrange.filter _) fun i => ?_
  rw [mem_activesFrom, State.actives, List.mem_filter, List.mem_range'_1]
  constructor
  · rintro ⟨h1, h2, h3⟩
    exact ⟨⟨h1, by omega⟩, h3⟩
  · rintro ⟨⟨h1, h2⟩, h3⟩
    exact ⟨h1, by omega, h3⟩

theorem State.dstClean.putAt (h : u.dstClean f e) (v : Nat) (tags : List (Option Byte)) : (u.putAt f e.cap.first (e.name 0) i v tags).dstClean f e :=
  fun j hj => clean_putAt (h j hj)

end

/-! ### Sources read whole (R191) -/

section
variable {s : State} {f i k n : Nat} {e : QEntry} {ok : Nat → Bool}

/-- Some tag of an element fails the check when not all of them pass it. -/
theorem any_tags (s : State) (f : Nat) (e : QEntry) (k : Nat) (ok : Nat → Bool) (i : Nat) :
    (((s.srcTags f e k i).any fun t => !ok t.toNat) = true) ↔ ¬ s.srcPasses f e k ok i := by
  simp [State.srcTags, State.srcPasses]

/-- An active element that passes is read, and the elements after it. -/
theorem gatherChecked_active (hact : s.active f e i = true) (hclean : s.srcClean f e k i) (hok : s.srcPasses f e k ok i) :
    gatherChecked f e (e.name k) ok (n + 1) i s =
      (do return (i, s.srcElem f e k i) :: (← gatherChecked f e (e.name k) ok n (i + 1)) : M (List (Nat × Nat))) s := by
  have htags : getTags f e.cap.first (e.name k) i s = .ok (s.srcTags f e k i, s) := getTags_clean hclean
  rw [gatherChecked, bind_of_ok (isActive_active s f e i), hact, if_pos rfl, bind_of_ok htags, if_neg (by rw [any_tags]; exact not_not_intro hok)]
  exact bind_of_ok (srcElem_clean hclean)

theorem gatherChecked_idle (hact : s.active f e i = false) :
    gatherChecked f e (e.name k) ok (n + 1) i s = gatherChecked f e (e.name k) ok n (i + 1) s := by
  rw [gatherChecked, bind_of_ok (isActive_active s f e i), hact, if_neg Bool.false_ne_true]

theorem gatherChecked_bad (hact : s.active f e i = true) (hclean : s.srcClean f e k i) (hbad : ¬ s.srcPasses f e k ok i) :
    gatherChecked f e (e.name k) ok (n + 1) i s = .error (.trap ⟨FORMAT, 0, e.start, i, 0⟩) := by
  have htags : getTags f e.cap.first (e.name k) i s = .ok (s.srcTags f e k i, s) := getTags_clean hclean
  rw [gatherChecked, bind_of_ok (isActive_active s f e i), hact, if_pos rfl, bind_of_ok htags, if_pos ((any_tags ..).mpr hbad)]
  rfl

theorem gatherChecked_ok (h : ∀ j ∈ s.actives f e n i, s.srcClean f e k j ∧ s.srcPasses f e k ok j) :
    gatherChecked f e (e.name k) ok n i s = .ok ((s.actives f e n i).map fun j => (j, s.srcElem f e k j), s) := by
  induction n generalizing i with
  | zero => rfl
  | succ n ih =>
    cases hact : s.active f e i with
    | false =>
      rw [actives_skip hact] at h ⊢
      rw [gatherChecked_idle hact, ih h]
    | true =>
      rw [actives_cons hact] at h ⊢
      obtain ⟨hclean, hok⟩ := h i List.mem_cons_self
      rw [gatherChecked_active hact hclean hok, bind_of_ok (ih fun j hj => h j (List.mem_cons_of_mem i hj))]
      rfl

theorem gatherChecked_stops {j : Nat} (hj : j ∈ s.actives f e n i) (hclean : ∀ q ∈ s.actives f e n i, s.srcClean f e k q)
    (hbefore : ∀ q ∈ s.actives f e n i, q < j → s.srcPasses f e k ok q) (hbad : ¬ s.srcPasses f e k ok j) :
    gatherChecked f e (e.name k) ok n i s = .error (.trap ⟨FORMAT, 0, e.start, j, 0⟩) := by
  induction n generalizing i with
  | zero => cases hj
  | succ n ih =>
    cases hact : s.active f e i with
    | false =>
      rw [actives_skip hact] at hj hclean hbefore
      rw [gatherChecked_idle hact, ih hj hclean hbefore]
    | true =>
      have hc : s.srcClean f e k i := hclean i (by rw [actives_cons hact]; exact List.mem_cons_self)
      rw [actives_cons hact] at hj hclean hbefore
      rcases List.mem_cons.mp hj with rfl | hjr
      · exact gatherChecked_bad hact hc hbad
      · have hij : i < j := (List.mem_range'_1.mp (List.mem_of_mem_filter hjr)).1
        rw [gatherChecked_active hact hc (hbefore i List.mem_cons_self hij)]
        exact bind_of_error (ih hjr (fun q hq => hclean q (List.mem_cons_of_mem i hq)) fun q hq => hbefore q (List.mem_cons_of_mem i hq))

/-- The active elements, clean and with tags that pass, are read with their values. -/
theorem wholeSource_ok (hclean : s.sourceClean f e k) (hok : s.sourcePasses f e k ok) :
    wholeSource f e (e.name k) ok s = .ok (s.valuesFrom f e k, s) := by
  rw [wholeSource, State.valuesFrom, activesFrom_eq]
  exact gatherChecked_ok fun j hj => by
    rw [← activesFrom_eq] at hj
    exact ⟨hclean j hj, hok j hj⟩

/-- The first active element with a tag that does not pass is named. -/
theorem wholeSource_stops (hclean : s.sourceClean f e k) (hbad : s.firstBad f e k ok i) :
    wholeSource f e (e.name k) ok s = .error (.trap ⟨FORMAT, 0, e.start, i, 0⟩) := by
  unfold State.sourceClean at hclean
  unfold State.firstBad at hbad
  rw [activesFrom_eq] at hclean hbad
  obtain ⟨hi, hbefore, hbad⟩ := hbad
  exact gatherChecked_stops hi hclean hbefore hbad

theorem runsWhole_result {m : M Unit} {P : State → Prop} {t : State} (hrun : runOf e f = wholeResult e m) (hlt : e.start < e.vl)
    (hm : m s = .ok ((), t)) (hp : P t) : RunsWhole e f s P :=
  ⟨_, t, hrun, by rw [if_pos hlt, atElem_ok _ hm], hp⟩

theorem stopsWhole_source {g : List (Nat × Nat) → M Unit} (hrun : runOf e f = wholeResult e (wholeSource f e (e.name k) ok >>= g))
    (hclean : s.sourceClean f e k) (hbad : s.firstBad f e k ok i) : StopsWhole e f s ⟨5, 0, e.start, i, 0⟩ := by
  obtain ⟨h1, h2, -⟩ := mem_activesFrom.mp hbad.1
  exact ⟨_, hrun, by rw [if_pos (by omega), atElem_trap _ (bind_of_error (wholeSource_stops hclean hbad))]; rfl⟩

/-- The value kept under a key of a list. -/
theorem find?_keyed {α : Type} (l : List Nat) (h : Nat → α) (j : Nat) :
    ((l.map fun i => (i, h i)).find? fun p => p.1 == j).map (·.2) = if l.contains j = true then some (h j) else none := by
  induction l with
  | nil => rfl
  | cons i r ih =>
    rw [List.map_cons, List.find?_cons]
    by_cases hij : i = j
    · simp [hij]
    · rw [beq_false_of_ne hij]
      simpa [Ne.symm hij] using ih

end

/-! ### Movements (R188, R189) -/

section
variable (s : State) (f : Nat) (e : QEntry)

/-- Element `i` has taken source element `j` of the state `s`, or zero bits and its old tags where `j` lies beyond VL.LEN. -/
def CrossPut (i j : Nat) (u t : State) : Prop :=
  if j < e.vl then ElemPut u f e.cap.first (e.name 0) i (s.srcElem f e 1 j) (s.srcTags f e 1 j) t
  else ElemPut u f e.cap.first (e.name 0) i 0 (u.srcTags f e 0 i) t

/-- What a movement makes of element `i`, whose source index is `src i`. -/
def Moved (src : Nat → Option Nat) (i : Nat) (u t : State) : Prop := match src i with
  | none => t = u
  | some j => if s.active f e i = true then CrossPut s f e i j u t
    else if e.mode = 2 then ElemPut u f e.cap.first (e.name 0) i 0 (u.srcTags f e 0 i) t else t = u

/-- Bits and tags of source element `j`. -/
def State.crossed (j : Nat) : Nat × List (Option Byte) := if j < e.vl then (s.srcElem f e 1 j, (s.srcTags f e 1 j).map some) else (0, [none, none])

end

section
variable {s u : State} {f i j : Nat} {e : QEntry} {src : Nat → Option Nat}

/-- The source index that VPERM takes for an element: its index element, where that has been read. -/
def State.permSrc (s : State) (f : Nat) (e : QEntry) (i : Nat) : Option Nat :=
  (((s.valuesFrom f e 2).find? fun p => p.1 == i).map (·.2)).orElse fun _ => some 0

theorem permSrc_eq : s.permSrc f e i = some (if (s.activesFrom f e).contains i = true then s.srcElem f e 2 i else 0) := by
  rw [State.permSrc, State.valuesFrom, find?_keyed]
  split <;> rfl

/-- The source index of an element that is not active is not looked at. -/
theorem moved_permSrc {t : State} (hi : e.start ≤ i ∧ i < e.vl) :
    Moved s f e (s.permSrc f e) i u t ↔ Moved s f e (fun i => some (s.srcElem f e 2 i)) i u t := by
  simp only [Moved, permSrc_eq]
  cases hact : s.active f e i with
  | true => rw [if_pos (List.contains_iff_mem.mpr (mem_activesFrom.mpr ⟨hi.1, hi.2, hact⟩))]
  | false => simp only [Bool.false_eq_true, if_false]

theorem crossSrc_eq (ha : j < e.vl → s.srcClean f e 1 j) : crossSrc f e j s = .ok (s.crossed f e j, s) := by
  unfold crossSrc State.crossed
  by_cases hj : j < e.vl
  · rw [if_pos hj, if_pos hj, bind_of_ok (srcElem_clean (ha hj)), bind_of_ok (sourceTags_clean (ha hj))]
    rfl
  · rw [if_neg hj, if_neg hj]
    rfl

section
variable (hdw : dEw (e.name 0) ≠ 7)
include hdw

theorem elemPut_zero : ElemPut u f e.cap.first (e.name 0) i 0 (u.srcTags f e 0 i) (u.putAt f e.cap.first (e.name 0) i 0 [none, none]) :=
  elemPut_kept hdw

variable (hw : dW (e.name 1) = dW (e.name 0))
include hw

theorem crossPut_crossed :
    CrossPut s f e i j u (u.putAt f e.cap.first (e.name 0) i (s.crossed f e j).1 (s.crossed f e j).2) := by
  unfold CrossPut State.crossed
  by_cases hj : j < e.vl
  · rw [if_pos hj, if_pos hj]
    exact elemPut_copied hdw (by rw [State.srcTags, List.length_map, length_elemCells _ _ _ hw])
  · rw [if_neg hj, if_neg hj]
    exact elemPut_zero hdw

theorem elemPut_crossed (hj : j < e.vl) : ElemPut u f e.cap.first (e.name 0) i (s.srcElem f e 1 j) (s.srcTags f e 1 j)
    (u.putAt f e.cap.first (e.name 0) i (s.crossed f e j).1 (s.crossed f e j).2) := by
  have h := crossPut_crossed (s := s) (u := u) (f := f) (i := i) (j := j) hdw hw
  rwa [CrossPut, if_pos hj] at h

variable (ha : ∀ j, j < e.vl → s.srcClean f e 1 j)
include ha

theorem moveBody_runs {src : Nat → Option Nat} (hi : i < 256) (hd : u.dstClean f e) :
    ∃ t, moveBody (fun i => pure (src i)) e f s i u = .ok ((), t) ∧ Moved s f e src i u t ∧ t.dstClean f e := by
  have hread : readAt s (pure (src i) : M (Option Nat)) u = .ok (src i, u) := rfl
  unfold moveBody Moved
  rw [bind_of_ok hread]
  cases src i with
  | none => exact ⟨u, rfl, rfl, hd⟩
  | some j =>
    dsimp only
    rw [bind_of_ok (readAt_ok (isActive_active s f e i))]
    cases s.active f e i with
    | true =>
      simp only [if_true]
      rw [bind_of_ok (readAt_ok (crossSrc_eq (ha j)))]
      exact ⟨_, putElem_clean (hd i hi) _ _, crossPut_crossed hdw hw, hd.putAt _ _⟩
    | false =>
      simp only [Bool.false_eq_true, if_false]
      by_cases hm : e.mode = 2
      · simp only [if_pos hm]
        exact ⟨_, putElem_clean (hd i hi) _ _, elemPut_zero hdw, hd.putAt _ _⟩
      · simp only [if_neg hm]
        exact ⟨u, rfl, rfl, hd⟩

variable (hd : s.dstClean f e) (hvl : e.vl ≤ 256)
include hd hvl

theorem slide_runs (hrun : runOf e f = slideRun src e f) (hp : e.progress ≤ e.vl) :
    RunsTo e f e.vl s (Chain (Moved s f e src) (e.vl - e.progress) e.progress s) :=
  runsTo_partUp (I := fun _ u => u.dstClean f e) hrun hp (fun _ _ _ hj hu => moveBody_runs hdw hw ha (by omega) hu) hd

/-- The index elements of VPERM are read whole; an element that is not active needs none. -/
theorem perm_runs (hrun : runOf e f = permRun e f) (hclean : s.sourceClean f e 2) (hok : s.sourcePasses f e 2 (isIntTag (dW (e.name 0)))) :
    RunsWhole e f s (Chain (Moved s f e fun i => some (s.srcElem f e 2 i)) (e.vl - e.start) e.start s) := by
  by_cases hlt : e.start < e.vl
  · obtain ⟨t, ht, hc⟩ := forUp_runs (n := e.vl - e.start) (i := e.start) (s := s) (I := fun _ u => u.dstClean f e)
      (fun j a _ hj ha' => moveBody_runs (src := s.permSrc f e) hdw hw ha (i := j) (by omega) ha') hd
    refine runsWhole_result hrun hlt ?_ (hc.imp_of_lt fun j a b h1 h2 h => (moved_permSrc ⟨h1, by omega⟩).mp h)
    rw [bind_of_ok (wholeSource_ok hclean hok), bind_of_ok (s := s) (t := s) rfl]
    exact ht
  · refine ⟨_, s, hrun, by rw [if_neg hlt]; rfl, ?_⟩
    rw [Nat.sub_eq_zero_of_le (by omega)]
    rfl

end

end

/-! ### Compress and expand (R190) -/

section
variable {s : State} {f : Nat} {e : QEntry}

theorem activeList_eq (k i : Nat) : activeList f e k i s = .ok (s.actives f e k i, s) := by
  induction k generalizing i with
  | zero => rfl
  | succ k ih =>
    rw [activeList, bind_of_ok (isActive_active s f e i)]
    cases hact : s.active f e i with
    | false => rw [if_neg Bool.false_ne_true, ih, actives_skip hact]
    | true =>
      rw [if_pos rfl, bind_of_ok (ih (i + 1)), actives_cons hact]
      rfl

theorem activeList_activeElems : activeList f e e.vl 0 s = .ok (s.activeElems f e, s) := by
  rw [activeList_eq, activeElems_eq]

/-- The sources of moves, read. -/
theorem readMoves_eq {l : List (Nat × Nat)} (h : ∀ p ∈ l, p.2 < e.vl → s.srcClean f e 1 p.2) :
    readMoves f e l s = .ok (l.map fun p => (p.1, s.crossed f e p.2), s) := by
  induction l with
  | nil => rfl
  | cons p r ih =>
    rw [readMoves, bind_of_ok (atElem_ok _ (crossSrc_eq (h p List.mem_cons_self)))]
    dsimp only
    rw [bind_of_ok (ih fun q hq => h q (List.mem_cons_of_mem p hq))]
    rfl

/-- Moves written, in order: move number `p` as `Q p` says. -/
theorem writeMoves_runs {Q : Nat → State → State → Prop} {l : List (Nat × Nat × List (Option Byte))} {n : Nat} {u : State} (hu : u.dstClean f e)
    (hl : ∀ p m, l[p]? = some m → m.1 < 256 ∧ ∀ v, Q (n + p) v (v.putAt f e.cap.first (e.name 0) m.1 m.2.1 m.2.2)) :
    ∃ t, writeMoves f e l u = .ok ((), t) ∧ Chain Q l.length n u t := by
  induction l generalizing n u with
  | nil => exact ⟨u, rfl, rfl⟩
  | cons m r ih =>
    obtain ⟨hlt, hq⟩ := hl 0 m rfl
    obtain ⟨t, ht, hc⟩ := ih (n := n + 1) (hu.putAt (i := m.1) m.2.1 m.2.2) fun p q hp => by
      rw [Nat.add_right_comm]
      exact hl (p + 1) q hp
    refine ⟨t, ?_, _, hq u, hc⟩
    rw [writeMoves, bind_of_ok (atElem_ok _ (putElem_clean (hu m.1 hlt) _ _)), ht]

/-- Moves that a list of elements makes, each by its place in the list. -/
theorem writeMoves_zipIdx {Q : Nat → Nat → State → State → Prop} {l : List Nat} {g : Nat × Nat → Nat × Nat × List (Option Byte)} (hd : s.dstClean f e)
    (h : ∀ p i, l[p]? = some i → (g (i, p)).1 < 256 ∧ ∀ u, Q p i u (u.putAt f e.cap.first (e.name 0) (g (i, p)).1 (g (i, p)).2.1 (g (i, p)).2.2)) :
    ∃ t, writeMoves f e (l.zipIdx.map g) s = .ok ((), t) ∧ Chain (fun p u t => ∀ i, l[p]? = some i → Q p i u t) l.length 0 s t := by
  obtain ⟨t, ht, hc⟩ := writeMoves_runs (n := 0) (Q := fun p u t => ∀ i, l[p]? = some i → Q p i u t) (l := l.zipIdx.map g) hd fun p m hm => by
    rw [List.getElem?_map, List.getElem?_zipIdx, Option.map_map, Option.map_eq_some_iff] at hm
    obtain ⟨i, hi, rfl⟩ := hm
    simp only [Function.comp_apply, Nat.zero_add]
    obtain ⟨hlt, hq⟩ := h p i hi
    refine ⟨hlt, fun u j hj => ?_⟩
    obtain rfl : i = j := Option.some.inj (hi.symm.trans hj)
    exact hq u
  exact ⟨t, ht, by simpa using hc⟩

theorem activeElems_lt {p i : Nat} (h : (s.activeElems f e)[p]? = some i) : p < e.vl ∧ i < e.vl := by
  obtain ⟨hp, -⟩ := List.getElem?_eq_some_iff.mp h
  have hle : (s.activeElems f e).length ≤ e.vl := by
    simpa [State.activeElems] using List.length_filter_le (s.active f e) (List.range e.vl)
  exact ⟨by omega, (mem_activeElems.mp (List.mem_of_getElem? h)).1⟩

/-- The elements that VEXPAND writes: the active ones, and under MODE 2 then the others (R190). -/
def State.expandGoals (s : State) (f : Nat) (e : QEntry) : List Nat :=
  s.activeElems f e ++ if e.mode = 2 then (List.range e.vl).filter fun i => !s.active f e i else []

/-- What VEXPAND makes of the element `i` at place `p` of its goals: source element `p`, or zero with its old tags. -/
def ExpandPut (s : State) (f : Nat) (e : QEntry) (p i : Nat) (u t : State) : Prop :=
  if p < (s.activeElems f e).length then ElemPut u f e.cap.first (e.name 0) i (s.srcElem f e 1 p) (s.srcTags f e 1 p) t
  else ElemPut u f e.cap.first (e.name 0) i 0 (u.srcTags f e 0 i) t

theorem expandGoals_lt {i : Nat} (h : i ∈ s.expandGoals f e) : i < e.vl := by
  rcases List.mem_append.mp h with h | h
  · exact (mem_activeElems.mp h).1
  · split at h
    · exact List.mem_range.mp (List.mem_of_mem_filter h)
    · cases h

/-- The elements that are not listed as active are those that are not. -/
theorem idleElems_eq (s : State) (f : Nat) (e : QEntry) :
    ((List.range e.vl).filter fun i => !(s.activeElems f e).contains i) = (List.range e.vl).filter fun i => !s.active f e i := by
  refine List.filter_congr fun i hi => ?_
  have hiff : (s.activeElems f e).contains i = s.active f e i := by
    rw [Bool.eq_iff_iff, List.contains_iff_mem, mem_activeElems]
    exact and_iff_right (List.mem_range.mp hi)
  rw [hiff]

/-- VEXPAND's moves: the first elements to the active ones, then zero to the others. -/
theorem expandMoves_eq (s : State) (f : Nat) (e : QEntry) :
    (s.activeElems f e).zipIdx.map (fun p => (p.1, s.crossed f e p.2)) ++
      (if e.mode = 2 then (List.range e.vl).filter fun i => !(s.activeElems f e).contains i else []).map (fun i => (i, 0, [none, none])) =
    (s.expandGoals f e).zipIdx.map fun q => (q.1, if q.2 < (s.activeElems f e).length then s.crossed f e q.2 else (0, [none, none])) := by
  rw [idleElems_eq, State.expandGoals, List.zipIdx_append, List.map_append]
  refine congrArg₂ _ (List.map_congr_left fun q hq => ?_) ?_
  · have hlt := List.snd_lt_of_mem_zipIdx hq
    rw [if_pos (by omega)]
  · conv => lhs; rw [← List.zipIdx_map_fst (0 + (s.activeElems f e).length) (if e.mode = 2 then _ else _), List.map_map]
    refine List.map_congr_left fun q hq => ?_
    have hge := List.le_snd_of_mem_zipIdx hq
    rw [if_neg (by omega)]
    rfl

section
variable (hdw : dEw (e.name 0) ≠ 7) (hw : dW (e.name 1) = dW (e.name 0)) (ha : ∀ j, j < e.vl → s.srcClean f e 1 j)
  (hd : s.dstClean f e) (hvl : e.vl ≤ 256)
include hdw hw ha hd hvl

theorem compress_runs (hrun : runOf e f = compressRun e f) :
    RunsWhole e f s (Chain (fun p u t => ∀ j, (s.activeElems f e)[p]? = some j →
      ElemPut u f e.cap.first (e.name 0) p (s.srcElem f e 1 j) (s.srcTags f e 1 j) t) (s.activeElems f e).length 0 s) := by
  obtain ⟨t, ht, hc⟩ := writeMoves_zipIdx (g := fun q => (q.2, s.crossed f e q.1)) hd fun p j hj => by
    obtain ⟨hp, hlt⟩ := activeElems_lt hj
    exact ⟨by dsimp only; omega, fun u => elemPut_crossed hdw hw hlt⟩
  refine ⟨_, t, hrun, ?_, hc⟩
  rw [bind_of_ok activeList_activeElems, bind_of_ok (readMoves_eq fun p _ hp => ha _ hp), List.map_map]
  exact ht

theorem expand_runs (hrun : runOf e f = expandRun e f) :
    RunsWhole e f s (Chain (fun p u t => ∀ i, (s.expandGoals f e)[p]? = some i → ExpandPut s f e p i u t) (s.expandGoals f e).length 0 s) := by
  obtain ⟨t, ht, hc⟩ := writeMoves_zipIdx (Q := ExpandPut s f e) (l := s.expandGoals f e)
    (g := fun q => (q.1, if q.2 < (s.activeElems f e).length then s.crossed f e q.2 else (0, [none, none]))) hd fun p i hi => by
      have hlt : i < e.vl := expandGoals_lt (List.mem_of_getElem? hi)
      refine ⟨by dsimp only; omega, fun u => ?_⟩
      unfold ExpandPut
      by_cases hp : p < (s.activeElems f e).length
      · obtain ⟨hlt, -⟩ := activeElems_lt (List.getElem?_eq_getElem hp)
        simp only [if_pos hp]
        exact elemPut_crossed hdw hw hlt
      · simp only [if_neg hp]
        exact elemPut_zero hdw
  refine ⟨_, t, hrun, ?_, hc⟩
  rw [bind_of_ok activeList_activeElems, bind_of_ok (readMoves_eq fun p _ hp => ha _ hp), expandMoves_eq]
  exact ht

end

end

end Sys2Proof.Machine
end

section
/-! PROOFS. Reductions (R96, R191, R192): the tag check of a type, and the tree that combines the active elements. -/

namespace Sys2Proof.Machine

/-! ### Types (R177, R191) -/

section
variable {ty : BitVec 2} {w t : Nat}

/-- The format of a type at a width, or none for integers. -/
theorem tyFmt_eq (ty : BitVec 2) (w : Nat) : tyFmt ty w =
    if ty = 0 then none else some (if w = 16 then (if ty = 2 then .bf16 else .fp16) else if w = 32 then .fp32 else .fp64) := by
  simp only [tyFmt, fmtOf, beq_iff_eq]

/-- A tag that a type takes at a width: an integer tag of it, or the tag of the type's format. -/
def TyTag (ty : BitVec 2) (w t : Nat) : Prop :=
  match if ty = 0 then none else some (if w = 16 then (if ty = 2 then FFmt.bf16 else .fp16) else if w = 32 then .fp32 else .fp64) with
  | none => 8 ≤ w ∧ (t = intTag w ∨ t = intTag w + 1)
  | some q => t = fpTag q

theorem tyOk_iff {d : Word} (h : dEw d ≠ 7) : tyOk ty (dW d) t = true ↔ TyTag ty (dW d) t := by
  rw [tyOk, TyTag, ← tyFmt_eq]
  cases tyFmt ty (dW d) with
  | none => exact isIntTag_iff h t
  | some q => exact beq_iff_eq

theorem srcPasses_tyOk {s : State} {f k i : Nat} {e : QEntry} {d : Word} (h : dEw d ≠ 7) :
    s.srcPasses f e k (tyOk ty (dW d)) i ↔ ∀ c ∈ elemCells (e.name k) e.cap.first i, TyTag ty (dW d) ((s.core (f / 2)).tag c).toNat :=
  forall₂_congr fun _ _ => tyOk_iff h

theorem firstBad_tyOk {s : State} {f k i : Nat} {e : QEntry} {d : Word} (h : dEw d ≠ 7) (hi : i ∈ s.activesFrom f e)
    (hbefore : ∀ j ∈ s.activesFrom f e, j < i → ∀ c ∈ elemCells (e.name k) e.cap.first j, TyTag ty (dW d) ((s.core (f / 2)).tag c).toNat)
    (hbad : ¬ ∀ c ∈ elemCells (e.name k) e.cap.first i, TyTag ty (dW d) ((s.core (f / 2)).tag c).toNat) :
    s.firstBad f e k (tyOk ty (dW d)) i :=
  ⟨hi, fun j hj hji => (srcPasses_tyOk h).mpr (hbefore j hj hji), fun hp => hbad ((srcPasses_tyOk h).mp hp)⟩

end

/-! ### The tree (R96) -/

/-- Two adjacent slots of a level combined: an absent one passes the other through. -/
def pairSlot (g : Nat → Nat → Nat × Fp.Flags) (a b : Option Nat) : Option Nat := match a, b with
  | some a, some b => some (g a b).1
  | a, b => a.or b

/-- A slot of the tree stands for the values `xs`: it is absent where there are none, and else holds what `R` relates to them. -/
inductive SlotHolds (R : List Nat → Nat → Prop) : List Nat → Option Nat → Prop
  | absent : SlotHolds R [] none
  | value {xs : List Nat} {v : Nat} (h : R xs v) : SlotHolds R xs (some v)

/-- The slots of a level stand for the values `xs`, in order. -/
inductive LevelHolds (R : List Nat → Nat → Prop) : List Nat → List (Option Nat) → Prop
  | nil : LevelHolds R [] []
  | cons {ys zs : List Nat} {o : Option Nat} {r : List (Option Nat)} (h : SlotHolds R ys o) (hr : LevelHolds R zs r) : LevelHolds R (ys ++ zs) (o :: r)

section
variable {g : Nat → Nat → Nat × Fp.Flags} {R : List Nat → Nat → Prop}

/-- What a slot gives as the result of a reduction: zero where it is absent. -/
theorem SlotHolds.getD {xs : List Nat} {o : Option Nat} (h : SlotHolds R xs o) : (xs = [] ∧ o.getD 0 = 0) ∨ R xs (o.getD 0) := by
  cases h with
  | absent => exact .inl ⟨rfl, rfl⟩
  | value h => exact .inr h

theorem pairUp_cons (a b : Option Nat) (r : List (Option Nat)) : (pairUp g (a :: b :: r)).1 = pairSlot g a b :: (pairUp g r).1 := by
  cases a <;> cases b <;> rfl

theorem length_pairUp : ∀ l : List (Option Nat), (pairUp g l).1.length = (l.length + 1) / 2
  | [] => rfl
  | [_] => by simp [pairUp]
  | a :: b :: r => by
    rw [pairUp_cons, List.length_cons, length_pairUp r, List.length_cons, List.length_cons]
    omega

section
variable (hg : ∀ xs ys a b, R xs a → R ys b → R (xs ++ ys) (g a b).1)
include hg

theorem slotHolds_pairSlot {xs ys : List Nat} {a b : Option Nat} (ha : SlotHolds R xs a) (hb : SlotHolds R ys b) :
    SlotHolds R (xs ++ ys) (pairSlot g a b) := by
  cases ha with
  | absent => cases hb with
    | absent => exact .absent
    | value hb => exact .value hb
  | value ha => cases hb with
    | absent =>
      rw [List.append_nil]
      exact .value ha
    | value hb => exact .value (hg _ _ _ _ ha hb)

theorem levelHolds_pairUp : ∀ {xs : List Nat} {l : List (Option Nat)}, LevelHolds R xs l → LevelHolds R xs (pairUp g l).1
  | _, _, .nil => .nil
  | _, [none], h => h
  | _, [some _], h => h
  | _, a :: b :: r, .cons ha (.cons hb hr) => by
    rw [pairUp_cons, ← List.append_assoc]
    exact .cons (slotHolds_pairSlot hg ha hb) (levelHolds_pairUp hr)

/-- A tree with levels enough for its slots stands for all their values. -/
theorem slotHolds_treeOf {n : Nat} {l : List (Option Nat)} {xs : List Nat} (hl : l.length ≤ 2 ^ n) (h : LevelHolds R xs l) :
    SlotHolds R xs (treeOf g n l).1 := by
  induction n generalizing l with
  | zero =>
    cases h with
    | nil => exact .absent
    | cons h hr => cases hr with
      | nil =>
        rw [List.append_nil]
        exact h
      | cons => simp at hl
  | succ n ih =>
    refine ih ?_ (levelHolds_pairUp hg h)
    rw [length_pairUp]
    rw [Nat.pow_succ] at hl
    omega

end

/-- A combination that raises no flag makes a tree that raises none. -/
theorem pairUp_flags (hg : ∀ a b, (g a b).2 = 0) : ∀ l : List (Option Nat), (pairUp g l).2 = 0
  | [] => rfl
  | [_] => by simp [pairUp]
  | none :: _ :: r => pairUp_flags hg r
  | some _ :: none :: r => pairUp_flags hg r
  | some a :: some b :: r => by simp [pairUp, hg, pairUp_flags hg r]

theorem treeOf_flags (hg : ∀ a b, (g a b).2 = 0) (n : Nat) (l : List (Option Nat)) : (treeOf g n l).2 = 0 := by
  induction n generalizing l with
  | zero => rfl
  | succ n ih => simp [treeOf, ih, pairUp_flags hg]

/-- Slots that hold the values of some indices, and are absent at the others. -/
theorem levelHolds_slots {x : Nat → Nat} (hx : ∀ i, R [x i] (x i)) (p : Nat → Bool) (l : List Nat) :
    LevelHolds R ((l.filter p).map x) (l.map fun i => if p i = true then some (x i) else none) := by
  induction l with
  | nil => exact .nil
  | cons i r ih =>
    cases hp : p i with
    | false =>
      rw [List.filter_cons_of_neg (by simp [hp]), List.map_cons, hp]
      exact .cons .absent ih
    | true =>
      rw [List.filter_cons_of_pos hp, List.map_cons, List.map_cons, hp]
      exact .cons (ys := [x i]) (.value (hx i)) ih

end

/-! ### Reductions (R192) -/

theorem foldl_or (l : List Nat) (h : Nat → Nat) (z : Nat) : l.foldl (fun fl i => fl ||| h i) z = z ||| l.foldl (fun fl i => fl ||| h i) 0 := by
  induction l generalizing z with
  | nil => simp
  | cons i r ih => rw [List.foldl_cons, List.foldl_cons, ih, ih (0 ||| h i), Nat.zero_or, Nat.or_assoc]

section
variable (s : State) (f : Nat) (e : QEntry) (op : RedOp) (ty : BitVec 2)

/-- Element `i` as an operand of a reduction, with its flags. -/
def State.redLeafAt (i : Nat) : Nat × Fp.Flags := redLeaf ty (dW (e.name 1)) e.env (s.srcElem f e 1 i)
/-- The active elements as operands. -/
def State.redLeaves : List (Nat × Nat × Fp.Flags) := (s.activesFrom f e).map fun i => (i, s.redLeafAt f e ty i)
/-- The 256 slots of the tree. -/
def State.redSlots : List (Option Nat) := (List.range 256).map fun i => if (s.activesFrom f e).contains i = true then some (s.redLeafAt f e ty i).1 else none
/-- The tree of R96. -/
def State.redTree : Option Nat × Fp.Flags := treeOf (combine op ty (dW (e.name 1)) e.env) 8 (s.redSlots f e ty)
/-- The flags of the operands. -/
def State.redFlags : Nat := (s.activesFrom f e).foldl (fun fl i => fl ||| (s.redLeafAt f e ty i).2) 0

end

section
variable {s : State} {f : Nat} {e : QEntry} {op : RedOp} {ty : BitVec 2}

theorem filter_activesFrom (hvl : e.vl ≤ 256) : (List.range 256).filter (s.activesFrom f e).contains = s.activesFrom f e := by
  have hrange : (List.range 256).Pairwise (· < ·) := List.pairwise_lt_range
  refine (hrange.filter _).eq_of_mem_iff (activesFrom_sorted s f e) fun i => ?_
  rw [List.mem_filter, List.mem_range, List.contains_iff_mem]
  refine and_iff_right_of_imp fun h => ?_
  obtain ⟨-, hi, -⟩ := mem_activesFrom.mp h
  omega

theorem redLeaves_eq : (s.valuesFrom f e 1).map (fun p => (p.1, redLeaf ty (dW (e.name 1)) e.env p.2)) = s.redLeaves f e ty := List.map_map

theorem redSlots_eq : ((List.range 256).map fun i => ((s.redLeaves f e ty).find? fun p => p.1 == i).map (·.2.1)) = s.redSlots f e ty :=
  List.map_congr_left fun i _ => by
    have h := congrArg (Option.map Prod.fst) (find?_keyed (s.activesFrom f e) (s.redLeafAt f e ty) i)
    rw [Option.map_map, apply_ite (Option.map Prod.fst)] at h
    exact h

theorem foldl_redLeaves (fl : Nat) : (s.redLeaves f e ty).foldl (fun fl p => fl ||| p.2.2) fl = fl ||| s.redFlags f e ty := by
  rw [State.redLeaves, List.foldl_map]
  exact foldl_or _ _ _

theorem reduce_runs (hrun : runOf e f = redRun op ty e f) (hlt : e.start < e.vl) (hdw : dEw (e.name 0) ≠ 7) (hd : s.dstClean f e)
    (hclean : s.sourceClean f e 1) (hok : s.sourcePasses f e 1 (tyOk ty (dW (e.name 1)))) :
    RunsWhole e f s (ElemResult s f e (e.name 0) 0 ((s.redTree f e op ty).1.getD 0) (e.dstTags 0 (tyTag ty (dW (e.name 1)))) false
      ((s.redTree f e op ty).2 ||| s.redFlags f e ty)) := by
  refine runsWhole_result (t := (s.putAt f e.cap.first (e.name 0) 0 ((s.redTree f e op ty).1.getD 0) _).flagged f _) hrun hlt ?_
    ⟨_, elemPut_tagged (.inl hdw), (noted_self _ f e 0).flagged _⟩
  rw [bind_of_ok (wholeSource_ok hclean hok)]
  dsimp only
  rw [redLeaves_eq, redSlots_eq, ← State.redTree, foldl_redLeaves]
  generalize s.redTree f e op ty = r
  exact putFlagged_clean (hd 0 (by omega)) (r.1.getD 0, r.2 ||| s.redFlags f e ty) _

/-! ### Reductions of integers, by value -/

/-- The tree of integers stands for the values of the active elements, and raises no flag. -/
theorem slotHolds_tree {R : List Nat → Nat → Prop} (hvl : e.vl ≤ 256)
    (hg : ∀ xs ys a b, R xs a → R ys b → R (xs ++ ys) (combine op 0 (dW (e.name 1)) e.env a b).1) (hx : ∀ i, R [s.srcElem f e 1 i] (s.srcElem f e 1 i)) :
    SlotHolds R ((s.activesFrom f e).map (s.srcElem f e 1)) (s.redTree f e op 0).1 := by
  have h := levelHolds_slots hx (s.activesFrom f e).contains (List.range 256)
  rw [filter_activesFrom hvl] at h
  exact slotHolds_treeOf hg (by simp [State.redSlots]) h

theorem tree_flags_int : (s.redTree f e op 0).2 ||| s.redFlags f e 0 = 0 := by
  have htree : (s.redTree f e op 0).2 = 0 := treeOf_flags (fun a b => by cases op <;> rfl) 8 _
  have hleaf (l : List Nat) : l.foldl (fun fl i => fl ||| (s.redLeafAt f e 0 i).2) 0 = 0 := List.foldl_fixed' (fun _ => Nat.zero_or _) l
  rw [htree, State.redFlags, hleaf, Nat.or_zero]

theorem srcElem_lt_width (s : State) (f : Nat) (e : QEntry) (k i : Nat) : s.srcElem f e k i < 2 ^ dW (e.name k) := elem_lt _ _ _

theorem sgn_srcElem (s : State) (f : Nat) (e : QEntry) (k i : Nat) : sgn (dW (e.name k)) (s.srcElem f e k i) = sInt (dW (e.name k)) (s.srcElem f e k i) :=
  sgn_eq_sInt _ (srcElem_lt_width s f e k i) (Nat.two_pow_pos _)

theorem combine_sum {w a b : Nat} {env : Fp.Env} : (combine .sum 0 w env a b).1 = (a + b) % 2 ^ w := rfl
theorem combine_max {w a b : Nat} {env : Fp.Env} : (combine .max 0 w env a b).1 = if sgn w a ≤ sgn w b then b else a := rfl
theorem combine_min {w a b : Nat} {env : Fp.Env} : (combine .min 0 w env a b).1 = if sgn w a ≤ sgn w b then a else b := rfl

/-- The sum modulo 2^w. -/
theorem tree_sum (hvl : e.vl ≤ 256) :
    (s.redTree f e .sum 0).1.getD 0 = ((s.activesFrom f e).map (s.srcElem f e 1)).sum % 2 ^ dW (e.name 1) := by
  have hg (xs ys : List Nat) (a b : Nat) (ha : a = xs.sum % 2 ^ dW (e.name 1)) (hb : b = ys.sum % 2 ^ dW (e.name 1)) :
      (combine .sum 0 (dW (e.name 1)) e.env a b).1 = (xs ++ ys).sum % 2 ^ dW (e.name 1) := by
    rw [combine_sum, ha, hb, List.sum_append, ← Nat.add_mod]
  have hx (i : Nat) : s.srcElem f e 1 i = [s.srcElem f e 1 i].sum % 2 ^ dW (e.name 1) := by
    rw [List.sum_singleton, Nat.mod_eq_of_lt (srcElem_lt_width s f e 1 i)]
  have h := slotHolds_tree (s := s) (R := fun xs v => v = xs.sum % 2 ^ dW (e.name 1)) hvl hg hx
  rcases h.getD with ⟨hnil, hzero⟩ | h
  · rw [hzero, hnil, List.sum_nil, Nat.zero_mod]
  · exact h

/-- The value `q` is zero where there is no active element, and else one of theirs that all of theirs are related to by `le`. -/
def Best (s : State) (f : Nat) (e : QEntry) (le : Int → Int → Prop) (q : Nat) : Prop :=
  (s.activesFrom f e = [] ∧ q = 0) ∨ ∃ i ∈ s.activesFrom f e, q = s.srcElem f e 1 i ∧
    ∀ j ∈ s.activesFrom f e, le (sInt (dW (e.name 1)) (s.srcElem f e 1 j)) (sInt (dW (e.name 1)) q)

/-- One of the values `xs` that all of them are related to. -/
def MaxOf (le : Int → Int → Prop) (w : Nat) (xs : List Nat) (v : Nat) : Prop := v ∈ xs ∧ ∀ y ∈ xs, le (sgn w y) (sgn w v)

theorem tree_best {le : Int → Int → Prop} (hvl : e.vl ≤ 256) (hrefl : ∀ u, le u u) (htrans : ∀ u v w, le u v → le v w → le u w)
    (hpick : ∀ a b, ((combine op 0 (dW (e.name 1)) e.env a b).1 = a ∧ le (sgn (dW (e.name 1)) b) (sgn (dW (e.name 1)) a)) ∨
      ((combine op 0 (dW (e.name 1)) e.env a b).1 = b ∧ le (sgn (dW (e.name 1)) a) (sgn (dW (e.name 1)) b))) :
    Best s f e le ((s.redTree f e op 0).1.getD 0) := by
  have hg (xs ys : List Nat) (a b : Nat) (ha : MaxOf le (dW (e.name 1)) xs a) (hb : MaxOf le (dW (e.name 1)) ys b) :
      MaxOf le (dW (e.name 1)) (xs ++ ys) (combine op 0 (dW (e.name 1)) e.env a b).1 := by
    obtain ⟨ha, hxs⟩ := ha
    obtain ⟨hb, hys⟩ := hb
    rcases hpick a b with ⟨hp, hle⟩ | ⟨hp, hle⟩
    · rw [hp]
      exact ⟨List.mem_append_left _ ha, fun y hy => (List.mem_append.mp hy).elim (hxs y) fun hy => htrans _ _ _ (hys y hy) hle⟩
    · rw [hp]
      exact ⟨List.mem_append_right _ hb, fun y hy => (List.mem_append.mp hy).elim (fun hy => htrans _ _ _ (hxs y hy) hle) (hys y)⟩
  have hx (i : Nat) : MaxOf le (dW (e.name 1)) [s.srcElem f e 1 i] (s.srcElem f e 1 i) :=
    ⟨List.mem_singleton_self _, fun y hy => by rw [List.mem_singleton.mp hy]; exact hrefl _⟩
  have h := slotHolds_tree (s := s) hvl hg hx
  rcases h.getD with ⟨hnil, hzero⟩ | ⟨hv, hall⟩
  · exact .inl ⟨List.map_eq_nil_iff.mp hnil, hzero⟩
  · obtain ⟨i, hi, hv⟩ := List.mem_map.mp hv
    refine .inr ⟨i, hi, hv.symm, fun j hj => ?_⟩
    rw [← sgn_srcElem s f e 1 j, ← hv, ← sgn_srcElem s f e 1 i, hv]
    exact hall _ (List.mem_map_of_mem hj)

theorem tree_max (hvl : e.vl ≤ 256) : Best s f e (· ≤ ·) ((s.redTree f e .max 0).1.getD 0) := by
  refine tree_best hvl le_refl (fun _ _ _ => le_trans) fun a b => ?_
  rw [combine_max]
  by_cases h : sgn (dW (e.name 1)) a ≤ sgn (dW (e.name 1)) b
  · exact .inr ⟨if_pos h, h⟩
  · exact .inl ⟨if_neg h, by omega⟩

theorem tree_min (hvl : e.vl ≤ 256) : Best s f e (fun u v => v ≤ u) ((s.redTree f e .min 0).1.getD 0) := by
  refine tree_best hvl le_refl (fun _ _ _ h1 h2 => le_trans h2 h1) fun a b => ?_
  rw [combine_min]
  by_cases h : sgn (dW (e.name 1)) a ≤ sgn (dW (e.name 1)) b
  · exact .inl ⟨if_pos h, h⟩
  · exact .inr ⟨if_neg h, by omega⟩

end

end Sys2Proof.Machine
end

section
/-! PROOFS. Scans (R97, R193): the running value in the entry's further state, and the element that each step writes. -/

namespace Sys2Proof.Machine

/-! ### The running value kept (R97) -/

theorem div_mod_mod_of_dvd {c m q n : Nat} (h : q * n ∣ m) : c % m / q % n = c / q % n := by
  rw [← Nat.mod_mul_right_div_self, ← Nat.mod_mul_right_div_self, Nat.mod_mod_of_dvd _ h]

/-- Bits below 64 of a number are those of the number modulo 2^64. -/
theorem bits_mod64 {c hi lo : Nat} (h : hi < 64) (hl : lo ≤ hi) : bits (c % 2 ^ 64) hi lo = bits c hi lo := by
  unfold bits
  refine div_mod_mod_of_dvd ?_
  rw [← Nat.pow_add]
  exact Nat.pow_dvd_pow 2 (by omega)

theorem bit_mod64 {c i : Nat} (h : i < 64) : bit (c % 2 ^ 64) i = bit c i := by
  have hdiv : c % 2 ^ 64 / 2 ^ i % 2 = c / 2 ^ i % 2 := by
    refine div_mod_mod_of_dvd ?_
    rw [← Nat.pow_succ]
    exact Nat.pow_dvd_pow 2 h
  rw [bit, bit, hdiv]

/-- A code is decoded from its low 64 bits. -/
theorem decode_mod64 (f : FFmt) (c : Nat) : Fp.decode f (c % 2 ^ 64) = Fp.decode f c := by
  have hsign : bit (c % 2 ^ 64) (Fp.width f - 1) = bit c (Fp.width f - 1) := bit_mod64 (by cases f <;> decide)
  have hexp : bits (c % 2 ^ 64) (Fp.width f - 2) (Fp.mbits f) = bits c (Fp.width f - 2) (Fp.mbits f) :=
    bits_mod64 (by cases f <;> decide) (by cases f <;> decide)
  have hman : c % 2 ^ 64 % 2 ^ Fp.mbits f = c % 2 ^ Fp.mbits f := Nat.mod_mod_of_dvd _ (Nat.pow_dvd_pow 2 (by cases f <;> decide))
  simp only [Fp.decode, hsign, hexp, hman]

/-- The running value counts in its low 64 bits alone. -/
theorem scanStep_mod64 {ty : BitVec 2} {w : Nat} (hw : w ≤ 64) (env : Fp.Env) (i r x : Nat) :
    scanStep ty w env i (some (r % 2 ^ 64)) x = scanStep ty w env i (some r) x := by
  unfold scanStep
  cases tyFmt ty w with
  | none =>
    have h : (r % 2 ^ 64 + x) % 2 ^ w = (r + x) % 2 ^ w := by
      rw [Nat.add_mod, Nat.mod_mod_of_dvd _ (Nat.pow_dvd_pow 2 hw), ← Nat.add_mod]
    simp only [h]
  | some q => simp only [decode_mod64]

theorem dW_le (e : Word) (h : dEw e ≠ 7) : dW e ≤ 64 := by
  rcases dW_cases e h with h | h | h | h | h | h | h <;> omega

/-- In a rising list, what is at most a member is what is below it, and the member. -/
theorem filter_le_of_sorted {l : List Nat} {i : Nat} (hl : l.Pairwise (· < ·)) (hi : i ∈ l) :
    l.filter (fun j => decide (j ≤ i)) = l.filter (fun j => decide (j < i)) ++ [i] := by
  induction l with
  | nil => cases hi
  | cons a r ih =>
    obtain ⟨ha, hr⟩ := List.pairwise_cons.mp hl
    rcases List.mem_cons.mp hi with rfl | hir
    · have hle : r.filter (fun j => decide (j ≤ i)) = [] := List.filter_eq_nil_iff.mpr fun j hj => by simpa using ha j hj
      have hlt : r.filter (fun j => decide (j < i)) = [] := List.filter_eq_nil_iff.mpr fun j hj => by simpa using (ha j hj).le
      rw [List.filter_cons_of_pos (by simp), List.filter_cons_of_neg (by simp), hle, hlt, List.nil_append]
    · have hai := ha i hir
      rw [List.filter_cons_of_pos (by simpa using hai.le), List.filter_cons_of_pos (by simpa using hai), ih hr hir, List.cons_append]

/-! ### The values of a scan (R193) -/

section
variable (s : State) (f : Nat) (e : QEntry) (ty : BitVec 2)

/-- The running value and the flags after the elements of a list, in order: the first begins it. -/
def State.scanList (l : List Nat) : Nat × Fp.Flags := l.foldl (fun p j =>
  scanStep ty (dW (e.name 1)) e.env j (if l.head? = some j then none else some p.1) (s.srcElem f e 1 j)) (0, 0)

/-- The active elements from the captured VSTART on, up to element `i`. -/
def State.activesTo (i : Nat) : List Nat := (s.activesFrom f e).filter fun j => decide (j ≤ i)
/-- Those before it. -/
def State.activesBelow (i : Nat) : List Nat := (s.activesFrom f e).filter fun j => decide (j < i)

end

section
variable {s : State} {f i : Nat} {e : QEntry} {ty : BitVec 2} {l : List Nat}

theorem scanList_single : s.scanList f e ty [i] = scanStep ty (dW (e.name 1)) e.env i none (s.srcElem f e 1 i) := by
  simp [State.scanList]

/-- One more element takes the value that stands. -/
theorem scanList_append (hl : l ≠ []) (hi : i ∉ l) :
    s.scanList f e ty (l ++ [i]) = scanStep ty (dW (e.name 1)) e.env i (some (s.scanList f e ty l).1) (s.srcElem f e 1 i) := by
  have hhead : (l ++ [i]).head? = l.head? := List.head?_append_of_ne_nil l hl
  have hne : l.head? ≠ some i := fun h => hi (List.mem_of_head? h)
  rw [State.scanList, List.foldl_append, hhead, List.foldl_cons, List.foldl_nil, if_neg hne]
  rfl

theorem scanList_int_sum (hl : l ≠ []) (hn : l.Nodup) : (s.scanList f e 0 l).1 = (l.map (s.srcElem f e 1)).sum % 2 ^ dW (e.name 1) := by
  induction l using List.reverseRecOn with
  | nil => exact absurd rfl hl
  | append_singleton l i ih =>
    by_cases h : l = []
    · subst h
      rw [List.nil_append, scanList_single, List.map_singleton, List.sum_singleton, Nat.mod_eq_of_lt (srcElem_lt_width s f e 1 i)]
      rfl
    · obtain ⟨hl', -, hdisj⟩ := List.nodup_append.mp hn
      have hi : i ∉ l := fun hi => hdisj i hi i (List.mem_singleton_self i) rfl
      have hstep (r : Nat) : (scanStep 0 (dW (e.name 1)) e.env i (some r) (s.srcElem f e 1 i)).1 = (r + s.srcElem f e 1 i) % 2 ^ dW (e.name 1) := rfl
      rw [scanList_append h hi, hstep, ih h hl', List.map_append, List.sum_append, List.map_singleton, List.sum_singleton, Nat.mod_add_mod]

theorem activesTo_active (h : i ∈ s.activesFrom f e) : s.activesTo f e i = s.activesBelow f e i ++ [i] :=
  filter_le_of_sorted (activesFrom_sorted s f e) h

theorem activesTo_nodup : (s.activesTo f e i).Nodup := ((activesFrom_sorted s f e).filter _).imp Nat.ne_of_lt

theorem not_mem_activesBelow : i ∉ s.activesBelow f e i := fun h => absurd (of_decide_eq_true (List.mem_filter.mp h).2) (Nat.lt_irrefl i)

theorem activesBelow_succ : s.activesBelow f e (i + 1) = s.activesTo f e i :=
  List.filter_congr fun j _ => by simp

theorem activesTo_idle (h : i ∉ s.activesFrom f e) : s.activesTo f e i = s.activesBelow f e i :=
  List.filter_congr fun j hj => by
    have hne : j ≠ i := fun hij => h (hij ▸ hj)
    simp only [decide_eq_decide]
    omega

theorem activesBelow_start : s.activesBelow f e e.start = [] :=
  List.filter_eq_nil_iff.mpr fun j hj => by
    obtain ⟨h, -, -⟩ := mem_activesFrom.mp hj
    simpa using h

end

/-! ### The further state of an entry (R358) -/

section
variable {u : State} {f : Nat} {e : QEntry}

/-- The state with the further state of an entry written. -/
def State.withAux (u : State) (f : Nat) (e : QEntry) (v : Nat) : State := u.modFront f fun x => x.modEntry e.vsn fun y => { y with aux := v }

theorem queue_putAt (u : State) (f first : Nat) (d : Word) (i v : Nat) (tags : List (Option Byte)) :
    ((u.putAt f first d i v tags).front f).queue = (u.front f).queue := by
  rw [State.putAt, front_modFront_self, front_modCore, Front.markRows]

theorem queue_flagged (u : State) (f fl : Nat) : ((u.flagged f fl).front f).queue = (u.front f).queue := by
  rw [State.flagged, front_modFront_self, Front.orFlags]

theorem State.dstClean.flagged (h : u.dstClean f e) (fl : Nat) : (u.flagged f fl).dstClean f e := h
theorem State.dstClean.withAux (h : u.dstClean f e) (v : Nat) : (u.withAux f e v).dstClean f e := h

theorem setAux_eq (v : Nat) : setAux f e v u = .ok ((), u.withAux f e v) := rfl

/-- The queue holds the entry, with the further state `n`. -/
def AuxIs (f : Nat) (e : QEntry) (n : Nat) (u : State) : Prop := ∃ y, (u.front f).queue.find? (fun y => y.vsn == e.vsn) = some y ∧ y.aux = n

theorem AuxIs.of_queue {n : Nat} {t : State} (h : AuxIs f e n u) (hq : (t.front f).queue = (u.front f).queue) : AuxIs f e n t := by
  rwa [AuxIs, hq]

theorem auxIs_withAux {n : Nat} (h : AuxIs f e n u) (v : Nat) : AuxIs f e v (u.withAux f e v) := by
  obtain ⟨y, hy, -⟩ := h
  have hsame : ((fun y : QEntry => y.vsn == e.vsn) ∘ fun y => if y.vsn = e.vsn then { y with aux := v } else y) = fun y => y.vsn == e.vsn := by
    funext y
    simp only [Function.comp_apply]
    split <;> rfl
  have hvsn : y.vsn = e.vsn := by simpa using List.find?_some hy
  refine ⟨{ y with aux := v }, ?_, rfl⟩
  rw [State.withAux, front_modFront_self, Front.modEntry, List.find?_map, hsame, hy, Option.map_some, if_pos hvsn]

end

/-! ### One element of VSCAN (R193) -/

/-- What VSCAN makes of element `i`. -/
def ScanPut (s : State) (f : Nat) (e : QEntry) (ty : BitVec 2) (i : Nat) (u t : State) : Prop :=
  if s.active f e i = true then ∃ v, ElemPut u f e.cap.first (e.name 0) i (s.scanList f e ty (s.activesTo f e i)).1
      (e.dstTags i (tyTag ty (dW (e.name 1)))) v ∧ OnlyFront f v t ∧
    (ty = 0 → (s.scanList f e ty (s.activesTo f e i)).1 = ((s.activesTo f e i).map (s.srcElem f e 1)).sum % 2 ^ dW (e.name 1)) ∧
    (t.front f).fflags = (v.front f).fflags ||| word (s.scanList f e ty (s.activesTo f e i)).2 ∧
    { t.front f with queue := [], fflags := 0 } = { v.front f with queue := [], fflags := 0 }
  else if e.mode = 2 then ElemPut u f e.cap.first (e.name 0) i 0 (e.dstTags i (tyTag ty (dW (e.name 1)))) t else t = u

/-- The further state that holds the running value after the elements of a list, if there is one. -/
def State.scanAux (s : State) (f : Nat) (e : QEntry) (ty : BitVec 2) (l : List Nat) : Nat :=
  if l = [] then 0 else (s.scanList f e ty l).1 + 2 ^ 64

section
variable {s u : State} {f i : Nat} {e : QEntry} {ty : BitVec 2}

/-- The step from the further state gives the running value of the list with its next element. -/
theorem scanStep_scanAux {l : List Nat} (hw : dW (e.name 1) ≤ 64) (hi : i ∉ l) :
    scanStep ty (dW (e.name 1)) e.env i (if s.scanAux f e ty l < 2 ^ 64 then none else some (s.scanAux f e ty l % 2 ^ 64)) (s.srcElem f e 1 i) =
      s.scanList f e ty (l ++ [i]) := by
  by_cases h : l = []
  · subst h
    rw [State.scanAux, if_pos rfl, if_pos (Nat.two_pow_pos _), List.nil_append, scanList_single]
  · rw [State.scanAux, if_neg h, if_neg (by omega), Nat.add_mod_right, scanStep_mod64 hw, scanList_append h hi]

variable (hdw : dEw (e.name 0) ≠ 7) (hwa : dEw (e.name 1) ≠ 7) (hlt : i < 256) (hd : u.dstClean f e)
  (haux : AuxIs f e (s.scanAux f e ty (s.activesBelow f e i)) u)
include hdw hlt hd haux

theorem scanBody_idle (hact : s.active f e i = false) : ∃ t, scanBody ty e f s i u = .ok ((), t) ∧ ScanPut s f e ty i u t ∧ t.dstClean f e ∧
    AuxIs f e (s.scanAux f e ty (s.activesBelow f e (i + 1))) t := by
  have hread : readAt s (isActive f e i) u = .ok (false, u) := readAt_ok (isActive_eq false hact)
  have hnot : ¬ s.active f e i = true := by rw [hact]; exact Bool.false_ne_true
  have hbelow : s.activesBelow f e (i + 1) = s.activesBelow f e i := by
    rw [activesBelow_succ, activesTo_idle fun h => hnot (mem_activesFrom.mp h).2.2]
  rw [hbelow]
  simp only [ScanPut, if_neg hnot]
  unfold scanBody
  dsimp only
  rw [bind_of_ok hread, if_neg Bool.false_ne_true]
  by_cases hm : e.mode = 2
  · refine ⟨_, ?_, by rw [if_pos hm]; exact elemPut_tagged (.inl hdw), hd.putAt _ _, haux.of_queue (queue_putAt ..)⟩
    rw [inactive, if_pos hm, sameTag, bind_of_ok (s := u) (t := u) rfl]
    exact putElem_clean (hd i hlt) 0 _
  · exact ⟨u, (idles_sameTag hdw (hd i hlt) _).1 hm, by rw [if_neg hm], hd, haux⟩

include hwa

theorem scanBody_active (hi : i ∈ s.activesFrom f e) (ha : s.srcClean f e 1 i) (hok : s.srcPasses f e 1 (tyOk ty (dW (e.name 1))) i) :
    ∃ t, scanBody ty e f s i u = .ok ((), t) ∧ ScanPut s f e ty i u t ∧ t.dstClean f e ∧
      AuxIs f e (s.scanAux f e ty (s.activesBelow f e (i + 1))) t := by
  obtain ⟨-, -, hact⟩ := mem_activesFrom.mp hi
  obtain ⟨y, hy, hyaux⟩ := haux
  let r := s.scanList f e ty (s.activesTo f e i)
  let tag := BitVec.ofNat 8 (tyTag ty (dW (e.name 1)))
  let v := u.putAt f e.cap.first (e.name 0) i r.1 [some tag, some tag]
  have hread : readAt s (isActive f e i) u = .ok (true, u) := readAt_ok (isActive_eq true hact)
  have hstep : scanStep ty (dW (e.name 1)) e.env i (if y.aux < 2 ^ 64 then none else some (y.aux % 2 ^ 64)) (s.srcElem f e 1 i) = r := by
    rw [hyaux, scanStep_scanAux (dW_le _ hwa) not_mem_activesBelow, ← activesTo_active hi]
  have hqueue : ((v.flagged f r.2).front f).queue = (u.front f).queue := (queue_flagged v f r.2).trans (queue_putAt ..)
  have hlist : s.activesTo f e i ≠ [] := by rw [activesTo_active hi]; exact List.append_ne_nil_of_right_ne_nil _ (List.cons_ne_nil i [])
  refine ⟨(v.flagged f r.2).withAux f e (r.1 + 2 ^ 64), ?_, ?_, ((hd.putAt _ _).flagged _).withAux _, ?_⟩
  · unfold scanBody
    dsimp only
    rw [bind_of_ok hread, if_pos rfl, bind_of_ok (readAt_ok (checkTags_pass ha hok)), bind_of_ok (readAt_ok (srcElem_clean ha)),
      bind_of_ok (s := u) (t := u) rfl, hy, Option.map_some, Option.getD_some, hstep, bind_of_ok (putTagged_clean (hd i hlt) _ _),
      bind_of_ok (orFlagsM_eq _ f _)]
    exact setAux_eq _
  · rw [ScanPut, if_pos hact]
    refine ⟨v, elemPut_tagged (.inl hdw), (onlyFront_modFront _ _ _).trans (onlyFront_modFront _ _ _), ?_, ?_, ?_⟩
    · rintro rfl
      exact scanList_int_sum hlist activesTo_nodup
    · rw [State.withAux, front_modFront_self, State.flagged, front_modFront_self]
      rfl
    · rw [State.withAux, front_modFront_self, State.flagged, front_modFront_self]
      rfl
  · rw [activesBelow_succ, State.scanAux, if_neg hlist]
    exact auxIs_withAux (AuxIs.of_queue ⟨y, hy, hyaux⟩ hqueue) _

omit hlt hd haux

theorem scan_runs (hrun : runOf e f = scanRun ty e f) (hd : s.dstClean f e) (hvl : e.vl ≤ 256) (hp : e.progress = e.start) (hle : e.start ≤ e.vl)
    (haux : AuxIs f e 0 s)
    (hclean : s.sourceClean f e 1) (hok : s.sourcePasses f e 1 (tyOk ty (dW (e.name 1)))) :
    RunsTo e f e.vl s (Chain (ScanPut s f e ty) (e.vl - e.start) e.start s) := by
  have h := runsTo_partUp (Q := ScanPut s f e ty)
    (I := fun i u => u.dstClean f e ∧ AuxIs f e (s.scanAux f e ty (s.activesBelow f e i)) u) hrun (by omega) (fun i u h1 h2 ⟨hu, ha⟩ => by
      cases hact : s.active f e i with
      | false => exact scanBody_idle hdw (by omega) hu ha hact
      | true =>
        have hi : i ∈ s.activesFrom f e := mem_activesFrom.mpr ⟨by omega, h2, hact⟩
        exact scanBody_active hdw hwa (by omega) hu ha hi (hclean i hi) (hok i hi))
    ⟨hd, by rw [hp, activesBelow_start]; exact haux⟩
  rwa [hp] at h

end

end Sys2Proof.Machine
end

section
/-! PROOFS. VTOPK (R194): candidates in order, and the indices that each group writes. -/

namespace Sys2Proof.Machine

/-! ### Candidates in order (R194) -/

/-- Candidate `p` precedes `q`: its value is larger, or the same at a lower index. -/
def precedes (w : Nat) (p q : Nat × Nat) : Bool := decide (sgn w q.2 < sgn w p.2 ∨ (sgn w p.2 = sgn w q.2 ∧ p.1 < q.1))

section
variable {w : Nat} {p q r : Nat × Nat} {l : List (Nat × Nat)}

theorem precedes_iff : precedes w p q = true ↔ sgn w q.2 < sgn w p.2 ∨ (sgn w p.2 = sgn w q.2 ∧ p.1 < q.1) := decide_eq_true_iff

theorem precedes_asymm (h : precedes w p q = true) : precedes w q p = false := by
  rw [Bool.eq_false_iff, Ne, precedes_iff]
  rw [precedes_iff] at h
  omega

theorem precedes_irrefl (p : Nat × Nat) : precedes w p p = false := by
  rw [Bool.eq_false_iff, Ne, precedes_iff]
  omega

theorem insertBy_perm (before : Nat → Nat → Bool) (p : Nat × Nat) (l : List (Nat × Nat)) : (insertBy before p l).Perm (p :: l) := by
  induction l with
  | nil => exact .refl _
  | cons q r ih =>
    rw [insertBy]
    split
    · exact .refl _
    · exact (ih.cons q).trans (.swap p q r)

theorem foldl_insertBy_perm (before : Nat → Nat → Bool) (l acc : List (Nat × Nat)) :
    (l.foldl (fun l p => insertBy before p l) acc).Perm (l ++ acc) := by
  induction l generalizing acc with
  | nil => exact .refl _
  | cons p r ih => exact (ih _).trans (((insertBy_perm before p acc).append_left r).trans List.perm_middle)

theorem larger_int (w : Nat) (env : Fp.Env) (a b : Nat) : larger 0 w env a b = decide (sgn w b < sgn w a) := rfl

variable {env : Fp.Env}

/-- A candidate of a higher index than all others is put in order. -/
theorem insertBy_sorted (hl : l.Pairwise fun p q => precedes w p q = true)
    (hp : ∀ q ∈ l, q.1 < p.1) : (insertBy (larger 0 w env) p l).Pairwise fun p q => precedes w p q = true := by
  induction l with
  | nil => exact List.pairwise_singleton _ _
  | cons q r ih =>
    obtain ⟨hq, hr⟩ := List.pairwise_cons.mp hl
    have hqp := hp q List.mem_cons_self
    rw [insertBy, larger_int]
    split
    · next hlt =>
      have hlt : sgn w q.2 < sgn w p.2 := of_decide_eq_true hlt
      refine List.pairwise_cons.mpr ⟨fun z hz => precedes_iff.mpr (.inl ?_), hl⟩
      rcases List.mem_cons.mp hz with rfl | hz
      · exact hlt
      · have hqz := precedes_iff.mp (hq z hz)
        omega
    · next hge =>
      have hge : ¬ sgn w q.2 < sgn w p.2 := fun h => hge (decide_eq_true h)
      refine List.pairwise_cons.mpr ⟨fun z hz => ?_, ih hr fun z hz => hp z (List.mem_cons_of_mem q hz)⟩
      rcases List.mem_cons.mp ((insertBy_perm (larger 0 w env) p r).mem_iff.mp hz) with rfl | hz
      · exact precedes_iff.mpr (by omega)
      · exact hq z hz

/-- Candidates by rising index come into order. -/
theorem foldl_insertBy_sorted {acc : List (Nat × Nat)} (hl : l.Pairwise fun p q => p.1 < q.1)
    (hacc : acc.Pairwise fun p q => precedes w p q = true) (h : ∀ p ∈ l, ∀ q ∈ acc, q.1 < p.1) :
    (l.foldl (fun l p => insertBy (larger 0 w env) p l) acc).Pairwise fun p q => precedes w p q = true := by
  induction l generalizing acc with
  | nil => exact hacc
  | cons p r ih =>
    obtain ⟨hp, hr⟩ := List.pairwise_cons.mp hl
    refine ih hr (insertBy_sorted hacc (h p List.mem_cons_self)) fun q hq z hz => ?_
    rcases List.mem_cons.mp ((insertBy_perm (larger 0 w env) p acc).mem_iff.mp hz) with rfl | hz
    · exact hp q hq
    · exact h q (List.mem_cons_of_mem p hq) z hz

/-- In order, the candidate at place `t` has `t` others that precede it. -/
theorem length_filter_precedes {t : Nat} (hl : l.Pairwise fun p q => precedes w p q = true) (ht : l[t]? = some p) :
    (l.filter fun q => precedes w q p).length = t := by
  induction l generalizing t with
  | nil => cases ht
  | cons q r ih =>
    obtain ⟨hq, hr⟩ := List.pairwise_cons.mp hl
    cases t with
    | zero =>
      obtain rfl : q = p := by simpa using ht
      have hnil : r.filter (fun z => precedes w z q) = [] := List.filter_eq_nil_iff.mpr fun z hz => by simp [precedes_asymm (hq z hz)]
      rw [List.filter_cons_of_neg (by simp [precedes_irrefl]), hnil]
      rfl
    | succ t =>
      have ht : r[t]? = some p := by simpa using ht
      rw [List.filter_cons_of_pos (p := fun z => precedes w z p) (hq p (List.mem_of_getElem? ht)), List.length_cons, ih hr ht]

end

/-! ### The outputs of VTOPK -/

/-- The outputs of groups of `k`, at place `i`. -/
theorem getD_flatMap_range {k m i : Nat} {h : Nat → List Nat} (hk : ∀ j, (h j).length = k) (hi : i < m * k) :
    ((List.range m).flatMap h).getD i 0 = (h (i / k)).getD (i % k) 0 := by
  induction m with
  | zero => omega
  | succ m ih =>
    have hlen : ((List.range m).flatMap h).length = m * k := by simp [List.length_flatMap, hk]
    rw [List.range_succ, List.flatMap_append, List.flatMap_singleton]
    rw [Nat.succ_mul] at hi
    by_cases hlt : i < m * k
    · rw [List.getD_append _ _ _ _ (by omega), ih hlt]
    · have hk0 : 0 < k := by omega
      have hdiv : i / k = m := by rw [Nat.div_eq_iff hk0]; omega
      have hmod : i % k = i - m * k := by rw [Nat.mod_eq_sub_mul_div, hdiv, Nat.mul_comm]
      rw [List.getD_append_right _ _ _ _ (by omega), hlen, hdiv, hmod]

theorem length_topkGroup (ty : BitVec 2) (w : Nat) (env : Fp.Env) (src : List (Nat × Nat)) (k g j : Nat) : (topkGroup ty w env src k g j).length = k := by
  simp [topkGroup]

section
variable (s : State) (f : Nat) (e : QEntry) (ty : BitVec 2)

/-- An element with its value. -/
def State.valued (i : Nat) : Nat × Nat := (i, s.srcElem f e 1 i)
/-- The candidates of group `j`, of `g` elements. -/
def State.candidates (g j : Nat) : List Nat := (s.activesFrom f e).filter fun i => decide (j * g ≤ i ∧ i < j * g + g)
/-- Candidate `c` has a larger value than `q`, or the same at a lower index. -/
def State.ahead (c q : Nat) : Bool :=
  decide (sInt (dW (e.name 1)) (s.srcElem f e 1 q) < sInt (dW (e.name 1)) (s.srcElem f e 1 c) ∨
    (sInt (dW (e.name 1)) (s.srcElem f e 1 c) = sInt (dW (e.name 1)) (s.srcElem f e 1 q) ∧ c < q))

/-- Place `t` of group `j` is the index in the group of the candidate that `t` others are ahead of, or all ones where there are no more. -/
def Ranked (g j t v : Nat) : Prop := ((s.candidates f e g j).length ≤ t ∧ v = 2 ^ dW (e.name 0) - 1) ∨
  ∃ c ∈ s.candidates f e g j, ((s.candidates f e g j).filter fun q => s.ahead f e q c).length = t ∧ v = c - j * g

/-- All outputs of VTOPK. -/
def State.topkOuts : List Nat := (List.range (e.vl / topkG (e.scal 0) e.vl)).flatMap
  (topkGroup ty (dW (e.name 0)) e.env (s.valuesFrom f e 1) (topkK (e.scal 0)) (topkG (e.scal 0) e.vl))

/-- The flags of the candidates. -/
def State.topkFlags : Nat := (s.activesFrom f e).foldl (fun fl i => fl ||| (topkNaN ty (dW (e.name 0)) e.env (s.srcElem f e 1 i)).2) 0

end

section
variable {s : State} {f : Nat} {e : QEntry} {ty : BitVec 2} {g j t : Nat}

theorem precedes_valued (c q : Nat) : precedes (dW (e.name 1)) (s.valued f e c) (s.valued f e q) = s.ahead f e c q := by
  simp only [precedes, State.valued, State.ahead, sgn_srcElem]

/-- The candidates of a group in the order of R194. -/
theorem ranked_order {env : Fp.Env} {l : List (Nat × Nat)}
    (hl : ((s.candidates f e g j).map (s.valued f e)).foldl (fun l p => insertBy (larger 0 (dW (e.name 1)) env) p l) [] = l) :
    Ranked s f e g j t (((l[t]?).map fun p => p.1 - j * g).getD (2 ^ dW (e.name 0) - 1)) := by
  have hperm : l.Perm ((s.candidates f e g j).map (s.valued f e)) := by
    rw [← hl]
    simpa using foldl_insertBy_perm (larger 0 (dW (e.name 1)) env) ((s.candidates f e g j).map (s.valued f e)) []
  have hrise : ((s.candidates f e g j).map (s.valued f e)).Pairwise fun p q => p.1 < q.1 :=
    List.pairwise_map.mpr ((activesFrom_sorted s f e).filter _)
  have hsorted : l.Pairwise fun p q => precedes (dW (e.name 1)) p q = true := by
    rw [← hl]
    exact foldl_insertBy_sorted hrise List.Pairwise.nil fun _ _ _ hq => absurd hq List.not_mem_nil
  cases ht : l[t]? with
  | none =>
    refine .inl ⟨?_, rfl⟩
    have hlen := hperm.length_eq
    rw [List.length_map] at hlen
    rw [← hlen]
    exact List.getElem?_eq_none_iff.mp ht
  | some p =>
    obtain ⟨c, hc, rfl⟩ := List.mem_map.mp (hperm.mem_iff.mp (List.mem_of_getElem? ht))
    refine .inr ⟨c, hc, ?_, rfl⟩
    have hcount := (hperm.filter fun q => precedes (dW (e.name 1)) q (s.valued f e c)).length_eq
    rw [length_filter_precedes hsorted ht, List.filter_map, List.length_map] at hcount
    rw [hcount]
    exact congrArg List.length (List.filter_congr fun q _ => (precedes_valued q c).symm)

/-- An output of VTOPK on integers. -/
theorem ranked_topkOuts {i : Nat} (hw : dW (e.name 1) = dW (e.name 0)) (hi : i < e.vl / topkG (e.scal 0) e.vl * topkK (e.scal 0)) :
    Ranked s f e (topkG (e.scal 0) e.vl) (i / topkK (e.scal 0)) (i % topkK (e.scal 0)) ((s.topkOuts f e 0).getD i 0) := by
  have hk : 0 < topkK (e.scal 0) := Nat.pos_of_ne_zero fun h => by rw [h] at hi; omega
  have hmine (j g : Nat) : (s.valuesFrom f e 1).filter
      (fun p => decide (j * g ≤ p.1 ∧ p.1 < j * g + g) && !(topkNaN 0 (dW (e.name 1)) e.env p.2).1) =
      (s.candidates f e g j).map (s.valued f e) := by
    rw [State.valuesFrom, List.filter_map]
    exact congrArg _ (List.filter_congr fun i _ => Bool.and_true _)
  rw [State.topkOuts, getD_flatMap_range (length_topkGroup _ _ _ _ _ _) hi, topkGroup, ← hw, hmine, List.getD_eq_getElem?_getD, List.getElem?_map,
    List.getElem?_range (Nat.mod_lt _ hk), Option.map_some, Option.getD_some]
  have h := ranked_order (s := s) (f := f) (e := e) (g := topkG (e.scal 0) e.vl) (j := i / topkK (e.scal 0)) (t := i % topkK (e.scal 0)) (env := e.env) rfl
  rw [← hw] at h
  exact h

/-- Integers raise no flag. -/
theorem topkFlags_int : s.topkFlags f e 0 = 0 := List.foldl_fixed' (fun _ => Nat.zero_or _) _

theorem length_topkOuts : (s.topkOuts f e ty).length = e.vl / topkG (e.scal 0) e.vl * topkK (e.scal 0) := by
  simp [State.topkOuts, List.length_flatMap, length_topkGroup]

/-- Elements from 0 on written with one tag each. -/
theorem forUp_putTagged {n tag : Nat} (v : Nat → Nat) (hdw : dEw (e.name 0) ≠ 7) (hd : s.dstClean f e) (hn : n ≤ 256) :
    ∃ t, forUp n 0 (fun i => putTagged f e.cap.first (e.name 0) i (v i) tag) s = .ok ((), t) ∧
      Chain (fun i p q => ElemPut p f e.cap.first (e.name 0) i (v i) (e.dstTags i tag) q) n 0 s t :=
  forUp_runs (I := fun _ u => u.dstClean f e) (fun i _ _ hi hu =>
    ⟨_, putTagged_clean (hu i (by omega)) _ _, elemPut_tagged (.inl hdw), hu.putAt _ _⟩) hd

theorem topk_runs (hrun : runOf e f = topkRun ty e f) (hlt : e.start < e.vl) (hdw : dEw (e.name 0) ≠ 7) (hd : s.dstClean f e)
    (hlen : e.vl / topkG (e.scal 0) e.vl * topkK (e.scal 0) ≤ 256)
    (hclean : s.sourceClean f e 1) (hok : s.sourcePasses f e 1 (tyOk ty (dW (e.name 0)))) :
    RunsWhole e f s fun t => ∃ u, Chain (fun i p q => ElemPut p f e.cap.first (e.name 0) i ((s.topkOuts f e ty).getD i 0)
      (e.dstTags i (uintTag (dW (e.name 0)))) q) (s.topkOuts f e ty).length 0 s u ∧ Noted f e 0 false (s.topkFlags f e ty) u t := by
  obtain ⟨u, hu, hc⟩ := forUp_putTagged (tag := uintTag (dW (e.name 0))) (fun i => (s.topkOuts f e ty).getD i 0) hdw hd (length_topkOuts.trans_le hlen)
  refine runsWhole_result (t := u.flagged f (s.topkFlags f e ty)) hrun hlt ?_ ⟨u, hc, (noted_self u f e 0).flagged _⟩
  rw [bind_of_ok (wholeSource_ok hclean hok)]
  refine (bind_of_ok hu).trans ?_
  rw [State.valuesFrom, List.foldl_map]
  exact orFlagsM_eq _ _ _

end

end Sys2Proof.Machine
end

section
/-! PROOFS. VHIST (R195), and the results of the cross-lane instructions (O55). -/

namespace Sys2Proof.Machine

/-! ### Offender bits of a list (R66) -/

/-- The state with the offender bits of some elements set, where the entry asks for it. -/
def State.offendedAll (s : State) (f : Nat) (e : QEntry) (l : List Nat) : State := l.foldl (fun u i => u.offended f e i) s

section
variable {s t : State} {f : Nat} {e : QEntry}

theorem offendAll_eq (s : State) (f : Nat) (e : QEntry) (l : List Nat) : offendAll f e l s = .ok ((), s.offendedAll f e l) := by
  induction l generalizing s with
  | nil => rfl
  | cons i r ih =>
    rw [offendAll, bind_of_ok (offend_eq s f e i)]
    exact ih _

/-- What an element notes without flags changes its masks alone. -/
theorem Noted.front_masks {i : Nat} {off : Bool} (h : Noted f e i off 0 s t) : { t.front f with masks := [] } = { s.front f with masks := [] } := by
  have hflags : (t.front f).fflags = (s.front f).fflags := h.fflags.trans BitVec.or_zero
  have hfront := congrArg (fun x : Front => { x with fflags := (s.front f).fflags }) h.front
  rw [← hflags] at hfront
  exact hfront.trans (by rw [hflags])

/-- Nothing but the offender mask of the front has changed: the bits of the elements listed are set in it, where the entry asks for it. -/
theorem offendedAll_masks (s : State) (f : Nat) (e : QEntry) (l : List Nat) :
    OnlyFront f s (s.offendedAll f e l) ∧ { (s.offendedAll f e l).front f with masks := [] } = { s.front f with masks := [] } ∧
      ∀ m q, q < 256 → (((s.offendedAll f e l).front f).mask m).getLsbD q =
        (((s.front f).mask m).getLsbD q || (e.offen && m == e.off && l.any fun j => j == q)) := by
  induction l generalizing s with
  | nil => exact ⟨.refl f s, rfl, fun m q _ => by simp [State.offendedAll]⟩
  | cons i r ih =>
    obtain ⟨honly, hfront, hmask⟩ := ih (s.offended f e i)
    have hone := noted_offended s f e i
    refine ⟨hone.rest.trans honly, hfront.trans hone.front_masks, fun m q hq => ?_⟩
    have h := hmask m q hq
    rw [hone.masks m q hq] at h
    rw [State.offendedAll, List.foldl_cons, ← State.offendedAll, h, List.any_cons, Bool.true_and, Bool.or_assoc, ← Bool.and_or_distrib_left,
      BEq.comm (a := q)]

end

/-! ### VHIST (R195) -/

section
variable {s : State} {f : Nat} {e : QEntry}

theorem hist_runs (hrun : runOf e f = histRun e f) (hlt : e.start < e.vl) (hdw : dEw (e.name 0) ≠ 7) (hd : s.dstClean f e)
    (hbins : (e.scal 0).toNat ≤ 256)
    (hclean : s.sourceClean f e 1) (hok : s.sourcePasses f e 1 (isIntTag (dW (e.name 0)))) :
    RunsWhole e f s fun t => ∃ u, Chain (fun i p q => ElemPut p f e.cap.first (e.name 0) i
        ((s.activesFrom f e).filter fun j => s.srcElem f e 1 j == i).length (e.dstTags i (uintTag (dW (e.name 0)))) q) (e.scal 0).toNat 0 s u ∧
      OnlyFront f u t ∧ { t.front f with masks := [] } = { u.front f with masks := [] } ∧
      ∀ m q, q < 256 → ((t.front f).mask m).getLsbD q = (((u.front f).mask m).getLsbD q ||
        (e.offen && m == e.off && (s.activesFrom f e).any fun j => j == q && decide ((e.scal 0).toNat ≤ s.srcElem f e 1 j))) := by
  let big := (s.activesFrom f e).filter fun j => decide ((e.scal 0).toNat ≤ s.srcElem f e 1 j)
  have hcount (b : Nat) : ((s.valuesFrom f e 1).filter fun p => p.2 == b).length =
      ((s.activesFrom f e).filter fun j => s.srcElem f e 1 j == b).length := by
    rw [State.valuesFrom, List.filter_map, List.length_map]
    rfl
  have hbig : (((s.valuesFrom f e 1).filter fun p => decide ((e.scal 0).toNat ≤ p.2)).map (·.1)) = big := by
    rw [State.valuesFrom, List.filter_map, List.map_map]
    exact List.map_id _
  obtain ⟨u, hu, hc⟩ := forUp_putTagged (tag := uintTag (dW (e.name 0)))
    (fun b => ((s.activesFrom f e).filter fun j => s.srcElem f e 1 j == b).length % 2 ^ dW (e.name 0)) hdw hd hbins
  obtain ⟨honly, hfront, hmask⟩ := offendedAll_masks u f e big
  refine runsWhole_result (t := u.offendedAll f e big) hrun hlt ?_
    ⟨u, hc.imp fun _ _ _ h => h.congr (Nat.mod_mod _ _), honly, hfront, fun m q hq => ?_⟩
  · rw [bind_of_ok (wholeSource_ok hclean hok)]
    simp only [← hcount] at hu
    refine (bind_of_ok hu).trans ?_
    rw [← hbig]
    exact offendAll_eq u f e _
  · rw [hmask m q hq, List.any_filter]
    simp only [Bool.and_comm]

end

/-! ### The results (O55) -/

/-- A reduction writes what the tree gives: of integers a value as `v` says, with no flag. -/
theorem reduced {s : State} {f : Nat} {e : QEntry} {op : RedOp} {ty : BitVec 2} {v : Nat → Prop} (hrun : runOf e f = redRun op ty e f)
    (hlt : e.start < e.vl) (hdw : dEw (e.name 0) ≠ 7) (hd : s.dstClean f e)
    (hclean : s.sourceClean f e 1) (hok : s.sourcePasses f e 1 (tyOk ty (dW (e.name 1))))
    (hv : v ((s.redTree f e op 0).1.getD 0)) :
    RunsWhole e f s fun t => ∃ q fl, ElemResult s f e (e.name 0) 0 q (e.dstTags 0 (tyTag ty (dW (e.name 1)))) false fl t ∧ (ty = 0 → v q ∧ fl = 0) ∧
      (ty ≠ 0 → q = (s.redTree f e op ty).1.getD 0 ∧ fl = (s.redTree f e op ty).2 ||| s.redFlags f e ty) := by
  obtain ⟨m, t, hm, hok, hres⟩ := reduce_runs hrun hlt hdw hd hclean hok
  refine ⟨m, t, hm, hok, _, _, hres, ?_, fun _ => ⟨rfl, rfl⟩⟩
  rintro rfl
  exact ⟨hv, tree_flags_int⟩

/-- Settles O55: a movement's bodies write one source element each; the others read their source whole, and then write what the list of its active
elements gives: the tree of a reduction and the fold of a scan by induction on them, VTOPK's order by insertion. -/
theorem laneResults : Obligations.LaneResults := by
  unfold Obligations.LaneResults
  intro s f e vd va vb r n ty
  dsimp only
  intro hdw hwa hd ha hvl
  have hclean : s.sourceClean f e 1 := fun i hi => ha i (mem_activesFrom.mp hi).2.1
  refine ⟨fun hw => ⟨?up, ?down, ?upImm, ?downImm, ?bcast, ?perm, ?permFormat, ?compress, ?expand⟩, fun hlt hw _ hsrc => ?reductions, ?scan, ?topkInt,
    ?topkFloat, ?hist, ?format⟩
  case up => exact fun h hp => slide_runs (src := slideUp (e.scal 0).toNat) hdw hw.symm ha hd hvl (by rw [runOf, h]) hp
  case down => exact fun h hp => slide_runs (src := slideDown (e.scal 0).toNat) hdw hw.symm ha hd hvl (by rw [runOf, h]) hp
  case upImm => exact fun h hp => slide_runs (src := slideUp n.toNat) hdw hw.symm ha hd hvl (by rw [runOf, h]) hp
  case downImm => exact fun h hp => slide_runs (src := slideDown n.toNat) hdw hw.symm ha hd hvl (by rw [runOf, h]) hp
  case bcast => exact fun h hp => slide_runs (src := fun _ => some (e.scal 0).toNat) hdw hw.symm ha hd hvl (by rw [runOf, h]) hp
  case perm =>
    rintro h - rfl hix
    refine perm_runs hdw hw.symm ha hd hvl (by rw [runOf, h]) (fun i hi => (hix i hi).1) fun i hi => ?_
    rw [hw]
    exact (srcPasses_tyOk (ty := 0) hwa).mpr (hix i hi).2
  case permFormat =>
    rintro h - rfl hc i hi hbefore hbad
    have hok : isIntTag (dW (e.name 0)) = tyOk 0 (dW (e.name 1)) := congrArg isIntTag hw
    exact stopsWhole_source (by rw [runOf, h, permRun, hok]) hc (firstBad_tyOk (ty := 0) hwa hi hbefore hbad)
  case compress => exact fun h => compress_runs hdw hw.symm ha hd hvl (by rw [runOf, h])
  case expand => exact fun h => expand_runs hdw hw.symm ha hd hvl (by rw [runOf, h])
  case reductions =>
    have hok : s.sourcePasses f e 1 (tyOk ty (dW (e.name 1))) := fun i hi => (srcPasses_tyOk hwa).mpr (hsrc i hi)
    exact ⟨fun h => reduced (by rw [runOf, h]) hlt hdw hd hclean hok (tree_sum hvl), fun h => reduced (by rw [runOf, h]) hlt hdw hd hclean hok (tree_max hvl),
      fun h => reduced (by rw [runOf, h]) hlt hdw hd hclean hok (tree_min hvl)⟩
  case scan =>
    exact fun h _ _ hsrc hp hle haux hq => scan_runs hdw hwa (by rw [runOf, h]) hd hvl hp hle ⟨e, hq, haux⟩ hclean fun i hi =>
      (srcPasses_tyOk hwa).mpr (hsrc i hi)
  case topkInt =>
    rintro h hlt hw - - hlen hsrc rfl
    obtain ⟨m, t, hrun, hm, u, hc, hn⟩ := topk_runs (ty := 0) (by rw [runOf, h]) hlt hdw hd hlen hclean fun i hi => by
      rw [← hw]
      exact (srcPasses_tyOk hwa).mpr (hsrc i hi)
    rw [length_topkOuts] at hc
    rw [topkFlags_int] at hn
    exact ⟨m, t, hrun, hm, u, hc.imp_of_lt fun i _ _ _ hi hput => ⟨_, ranked_topkOuts hw (by rwa [Nat.zero_add] at hi), hput⟩, hn⟩
  case topkFloat =>
    intro h hlt hw _ hlen hsrc _
    rw [hw] at hsrc ⊢
    exact topk_runs (by rw [runOf, h]) hlt hdw hd hlen hclean fun i hi => (srcPasses_tyOk hdw).mpr (hsrc i hi)
  case hist =>
    rintro h hlt hw hbins rfl hsrc
    rw [hw] at hsrc ⊢
    exact hist_runs (by rw [runOf, h]) hlt hdw hd hbins hclean fun i hi => (srcPasses_tyOk (ty := 0) hdw).mpr (hsrc i hi)
  case format =>
    intro hlt hw _ i hi hbefore hbad hins
    have hstops {ok : Nat → Bool} {g : List (Nat × Nat) → M Unit} (hok : ok = tyOk ty (dW (e.name 1)))
        (hrun : runOf e f = wholeResult e (wholeSource f e (e.name 1) ok >>= g)) : StopsWhole e f s ⟨5, 0, e.start, i, 0⟩ := by
      subst hok
      exact stopsWhole_source hrun hclean (firstBad_tyOk hwa hi hbefore hbad)
    rcases hins with h | h | h | h | ⟨rfl, h⟩
    · exact hstops rfl (by rw [runOf, h]; rfl)
    · exact hstops rfl (by rw [runOf, h]; rfl)
    · exact hstops rfl (by rw [runOf, h]; rfl)
    · exact hstops (congrArg (tyOk ty) hw.symm) (by rw [runOf, h]; rfl)
    · exact hstops (congrArg isIntTag hw.symm) (by rw [runOf, h]; rfl)

end Sys2Proof.Machine
end

section
/-! PROOFS. What wakes a front (O34): the monitor, the timeout, the recheck, TAKE, SETVL's lanes, and the start of a BOUND front. -/

namespace Sys2Proof.Machine

section
variable {s : State} {f : Nat}

/-- An event in a package that has not tripped ends in the state that its step makes. -/
theorem ends_event_of_not_tripped {i : Instr} {g : State → State} {P : State → Prop} (hp : s.pkg.tripped = false) (hx : exec i s = event g s)
    (h : P (g s)) : Ends i s P :=
  ⟨g s, by rw [hx, event, hp, if_neg Bool.false_ne_true], h⟩

/-! ### WAITW (R304, R305) -/

theorem monitorFire_of_fired {m : Monitor} (hm : m ∈ s.monitors) (hf : m.fid = f) (hfired : m.fired = true) : monitorFire s f = s.disarm f :=
  if_pos (List.any_eq_true.mpr ⟨m, hm, by simp [hf, hfired]⟩)

theorem waitOver_iff {span : Nat × Nat} {clock : Nat} : waitOver span clock = true ↔ span.2 ≠ 2 ^ 64 - 1 ∧ span.1 + span.2 ≤ clock := by
  rw [waitOver, Bool.and_eq_true, bne_iff_ne, decide_eq_true_iff]

theorem waitTimeout_of_over {st lim : Nat} (hw : (s.front f).wait = .waitw st lim) (hover : waitOver (st, lim) s.clock = true) :
    waitTimeout s f = s.disarm f := by
  rw [waitTimeout, hw]
  exact if_pos hover

/-! ### TAKE and SETVL (R203, R346) -/

/-- The front with its wait cleared. -/
def State.unblocked (s : State) (f : Nat) : State := s.modFront f fun x => { x with wait := .no }

theorem takeWake_of_woken (hw : (s.front f).wait = .woken) : takeWake s f = s.unblocked f := if_pos hw

theorem laneTake_of_lanes (hw : (s.front f).wait = .lanes) (hn : (s.core (f / 2)).newOwn f ≠ 0) : laneTake s f = s.unblocked f := if_pos ⟨hw, hn⟩

theorem unblocked_goesOn (s : State) (f : Nat) : OnlyFront f s (s.unblocked f) ∧ (s.unblocked f).front f = { s.front f with wait := .no } :=
  ⟨onlyFront_modFront _ _ _, front_modFront_self _ _ _⟩

/-- A front can own columns that its share holds and its partner does not. -/
theorem newOwn_ne_zero {x : Core} (hshare : 0 < if f % 2 = 0 then x.target else 64 - x.target)
    (hfree : 64 - (if f % 2 = 0 then x.own1 else x.own0) ≠ 0) : x.newOwn f ≠ 0 := by
  rw [newOwn_eq]
  by_cases hf : f % 2 = 0
  · simp only [if_pos hf] at hshare hfree ⊢
    omega
  · simp only [if_neg hf] at hshare hfree ⊢
    omega

/-! ### The start of a BOUND front (R228, R337) -/

theorem startIfOwned_of_owned (hb : (s.slot f).state = 1) (ho : (s.core (f / 2)).share f ≤ (s.core (f / 2)).own f) : startIfOwned s f = s.started f := by
  rw [startIfOwned_eq, coreOf, if_pos ⟨hb, ho⟩]

theorem slot_started_self (s : State) (f : Nat) : (s.started f).slot f = { s.slot f with state := 2 } := by
  rw [State.started, slot_modFront, slot_setLaunch, slot_setSlot_self]

theorem slot_started_other (s : State) {f g : Nat} (h : g ≠ f) : (s.started f).slot g = s.slot g := by
  rw [State.started, slot_modFront, slot_setLaunch, slot_setSlot_other s _ h]

theorem launch_started (s : State) (f : Nat) : (s.started f).launch (s.slot f).lid =
    { s.launch (s.slot f).lid with started := (s.launch (s.slot f).lid).started + 1 } := by
  rw [State.started, launch_modFront, launch_setLaunch_self]

theorem front_started_self (s : State) (f : Nat) : (s.started f).front f = { s.front f with trapvec := (s.die (f / 128)).kvec } :=
  front_modFront_self _ _ _

theorem front_started_other (s : State) {f g : Nat} (h : g ≠ f) : (s.started f).front g = s.front g := front_modFront_other _ _ h

theorem started_rest (s : State) (f : Nat) : { s.started f with slots := s.slots, launches := s.launches, fronts := s.fronts } = s := rfl

end

/-- Settles O34: under its condition each event makes the step that the statement describes, which drops the front's monitors, clears its wait or
starts it. -/
theorem wakes : Obligations.Wakes := by
  unfold Obligations.Wakes
  intro s f hp x k own share off goes
  refine ⟨fun m hm hf hfired => ?monitor, fun st lim hw hlim hle => ?timeout, ?recheck, fun hw => ?take, fun hw hshare hfree => ?lanes,
    fun hb ho => ?start⟩
  case monitor => exact ends_event_of_not_tripped (g := fun s => monitorFire s f) hp rfl (monitorFire_of_fired hm hf hfired)
  case timeout =>
    exact ends_event_of_not_tripped (g := fun s => waitTimeout s f) hp rfl (waitTimeout_of_over hw (waitOver_iff.mpr ⟨hlim, hle⟩))
  case recheck => exact ends_event_of_not_tripped (g := fun s => s.disarm f) hp rfl rfl
  case take =>
    refine ends_event_of_not_tripped (g := fun s => takeWake s f) hp rfl ?_
    rw [takeWake_of_woken hw]
    exact unblocked_goesOn s f
  case lanes =>
    refine ends_event_of_not_tripped (g := fun s => laneTake s f) hp rfl ?_
    rw [laneTake_of_lanes hw (newOwn_ne_zero hshare hfree)]
    exact unblocked_goesOn s f
  case start =>
    refine ends_event_of_not_tripped (g := fun s => startIfOwned s f) hp rfl ?_
    rw [startIfOwned_of_owned hb ho]
    exact ⟨slot_started_self s f, launch_started s f, front_started_self s f,
      fun g hg => ⟨front_started_other s hg, slot_started_other s hg⟩, started_rest s f⟩

end Sys2Proof.Machine
end

section
/-! PROOFS. The package after reset (O59): what its units read as where nothing is listed. -/

namespace Sys2Proof.Machine

/-! ### Units after reset (R199, R334, R413) -/

@[simp] theorem core_reset (k : Nat) : State.reset.core k = Core.reset := rfl
@[simp] theorem tlb2_reset (k : Nat) : State.reset.tlb2 k = [] := rfl
@[simp] theorem queue_reset (q : Nat) : State.reset.queue q = WorkQueue.reset := rfl
@[simp] theorem slot_reset (f : Nat) : State.reset.slot f = SlotRec.reset := rfl
@[simp] theorem byte_reset (a : Nat) : State.reset.byte a = 0 := rfl

/-- Only a front whose slot record is RESIDENT runs. -/
theorem runs_of_slot_ne {s : State} {f : Nat} (h : (s.slot f).state ≠ 2) : s.runs f = false := by
  rw [State.runs, beq_eq_false_iff_ne.mpr h, Bool.false_and, Bool.false_and]

theorem runs_reset (f : Nat) : State.reset.runs f = false := runs_of_slot_ne (by rw [slot_reset]; decide)

theorem cells_reset (c : Nat) : Core.reset.cell c = 0 ∧ Core.reset.tag c = 0 ∧ Core.reset.car c = 0 := ⟨rfl, rfl, rfl⟩

/-- Settles O59: nothing is listed after reset, so each unit reads as its own reset value, and no slot record lets its front run. -/
theorem resetState : Obligations.ResetState := by
  unfold Obligations.ResetState
  intro s
  refine ⟨rfl, rfl, rfl, rfl, rfl, rfl, wf_reset, fun k => ⟨?utlb, tlb2_reset k⟩, queue_reset, fun f => ⟨slot_reset f, runs_reset f⟩, fun k c => ?cells,
    fun a _ => byte_reset a, rfl, rfl⟩
  case utlb => rw [core_reset]; rfl
  case cells => rw [core_reset]; exact cells_reset c

end Sys2Proof.Machine
end

section
/-! PROOFS. Values of the carafe (R214): one read, one written, and sweeps that write many; MZERO, MRD and MWR (R222, R223, R363). -/

namespace Sys2Proof.Machine

/-! ### One value -/

section
variable {s : State} {f first m n : Nat}

/-- A carafe value replaced; it then holds no error (R374). -/
def Core.setCar (x : Core) (key v : Nat) : Core :=
  { x with carafe := spSet 0 x.carafe key (BitVec.ofNat 32 v), badCarafe := spSet false x.badCarafe key false }

/-- The state with a carafe value of the front's core written, and the front's carafe flag set (R363). -/
def State.carPut (s : State) (f key v : Nat) : State :=
  (s.modCore (f / 2) fun x => x.setCar key v).modFront f fun y => { y with cdirty := true }

theorem putCar_eq (s : State) (f first m n v : Nat) : putCar f first m n v s = .ok ((), s.carPut f (m * 64 + first + n) v) := rfl

theorem getCar_clean (h : spGet false (s.core (f / 2)).badCarafe (m * 64 + first + n) = false) :
    getCar f first m n s = .ok (((s.core (f / 2)).car (m * 64 + first + n)).toNat, s) := by
  rw [getCar, bind_of_ok (a := s) (t := s) rfl]
  exact congrFun (if_neg (Bool.eq_false_iff.mp h)) s

theorem car_setCar (x : Core) (key v q : Nat) : (x.setCar key v).car q = if q = key then BitVec.ofNat 32 v else x.car q := spGet_spSet _ _ _ _ _
theorem badCar_setCar (x : Core) (key v q : Nat) :
    spGet false (x.setCar key v).badCarafe q = if q = key then false else spGet false x.badCarafe q :=
  spGet_spSet false x.badCarafe key q false

theorem core_carPut (s : State) (f key v : Nat) : (s.carPut f key v).core (f / 2) = (s.core (f / 2)).setCar key v := by simp [State.carPut]
theorem front_carPut (s : State) (f key v : Nat) : (s.carPut f key v).front f = { s.front f with cdirty := true } := by simp [State.carPut]
theorem front_carPut_other {g : Nat} (key v : Nat) (h : g ≠ f) : (s.carPut f key v).front g = s.front g := by
  rw [State.carPut, front_modFront_other _ _ h, front_modCore]

end

/-! ### Values written one after another -/

/-- One carafe value written: its key, the value, and the flags that it adds. -/
structure CarWrite where
  key   : Nat
  value : Nat
  flags : Nat

/-- The value at `q` of the carafe of front `f`'s core, and whether it holds an error, are as before. -/
def CarKept (f : Nat) (s t : State) (q : Nat) : Prop :=
  (t.core (f / 2)).car q = (s.core (f / 2)).car q ∧ spGet false (t.core (f / 2)).badCarafe q = spGet false (s.core (f / 2)).badCarafe q

/-- The writes `l` of front `f` to its core's carafe, and nothing else. -/
structure Swept (f : Nat) (l : List CarWrite) (s t : State) : Prop where
  values : ∀ w ∈ l, (t.core (f / 2)).car w.key = BitVec.ofNat 32 w.value
  others : ∀ q, (∀ w ∈ l, q ≠ w.key) → CarKept f s t q
  plane  : (t.core (f / 2)).plane = (s.core (f / 2)).plane
  tags   : (t.core (f / 2)).tags = (s.core (f / 2)).tags
  front  : { t.front f with fflags := 0, cdirty := true } = { s.front f with fflags := 0, cdirty := true }
  fflags : ∀ q, q < 64 → (t.front f).fflags.getLsbD q = ((s.front f).fflags.getLsbD q || l.any fun w => w.flags.testBit q)
  cdirty : (t.front f).cdirty = ((s.front f).cdirty || !l.isEmpty)
  fronts : ∀ g, g ≠ f → t.front g = s.front g
  mem    : SameBytes s t

theorem getLsbD_word (n : Nat) {q : Nat} (h : q < 64) : (word n).getLsbD q = n.testBit q := by
  rw [word, BitVec.getLsbD_ofNat, decide_eq_true h, Bool.true_and]

section
variable {s t u : State} {f : Nat} {l l' : List CarWrite}

theorem swept_nil (f : Nat) (s : State) : Swept f [] s s where
  values := nofun
  others _ _ := ⟨rfl, rfl⟩
  plane := rfl
  tags := rfl
  front := rfl
  fflags := by simp
  cdirty := by simp
  fronts _ _ := rfl
  mem _ := rfl

/-- A write that adds no flags. -/
theorem swept_put (s : State) (f key v : Nat) : Swept f [⟨key, v, 0⟩] s (s.carPut f key v) where
  values w hw := by rw [List.mem_singleton.mp hw, core_carPut, car_setCar, if_pos rfl]
  others q hq := by
    have hne : q ≠ key := hq _ (List.mem_singleton_self _)
    rw [CarKept, core_carPut, car_setCar, badCar_setCar, if_neg hne, if_neg hne]
    exact ⟨rfl, rfl⟩
  plane := by rw [core_carPut]; rfl
  tags := by rw [core_carPut]; rfl
  front := by rw [front_carPut]
  fflags := by simp [front_carPut]
  cdirty := by simp [front_carPut]
  fronts g hg := front_carPut_other key v hg
  mem _ := rfl

/-- One that adds flags. -/
theorem swept_putFlagged (s : State) (f key v fl : Nat) : Swept f [⟨key, v, fl⟩] s ((s.carPut f key v).flagged f fl) := by
  have h := swept_put s f key v
  have hself : ((s.carPut f key v).flagged f fl).front f = ((s.carPut f key v).front f).orFlags fl := front_modFront_self _ f _
  exact
    { h with
      values := fun w hw => by rw [List.mem_singleton.mp hw]; exact h.values ⟨key, v, 0⟩ (List.mem_singleton_self _)
      others := fun q hq => h.others q fun w hw => by rw [List.mem_singleton.mp hw]; exact hq ⟨key, v, fl⟩ (List.mem_singleton_self _)
      front := by rw [hself]; exact h.front
      fflags := fun q hq => by
        rw [hself, front_carPut, Front.orFlags, BitVec.getLsbD_or, getLsbD_word _ hq, List.any_cons, List.any_nil, Bool.or_false]
      cdirty := by rw [hself]; exact h.cdirty
      fronts := fun g hg => (front_modFront_other _ _ hg).trans (h.fronts g hg) }

/-- Writes after other writes, to other places. -/
theorem Swept.append (h : Swept f l s u) (h' : Swept f l' u t) (hne : ∀ w ∈ l, ∀ w' ∈ l', w.key ≠ w'.key) : Swept f (l ++ l') s t where
  values w hw := by
    rcases List.mem_append.mp hw with hw | hw
    · rw [(h'.others _ (hne w hw)).1]
      exact h.values w hw
    · exact h'.values w hw
  others q hq := by
    obtain ⟨hcar, hbad⟩ := h.others q fun w hw => hq w (List.mem_append_left _ hw)
    obtain ⟨hcar', hbad'⟩ := h'.others q fun w hw => hq w (List.mem_append_right _ hw)
    exact ⟨hcar'.trans hcar, hbad'.trans hbad⟩
  plane := h'.plane.trans h.plane
  tags := h'.tags.trans h.tags
  front := h'.front.trans h.front
  fflags q hq := by rw [h'.fflags q hq, h.fflags q hq, List.any_append, Bool.or_assoc]
  cdirty := by rw [h'.cdirty, h.cdirty]; cases l <;> simp
  fronts g hg := (h'.fronts g hg).trans (h.fronts g hg)
  mem a := (h'.mem a).trans (h.mem a)

/-- Bodies of which each makes its own writes, at places that no earlier one has written. -/
theorem forUp_sweeps {n : Nat} {body : Nat → M Unit} {L : Nat → List CarWrite} (hne : ∀ i j, i < j → ∀ w ∈ L i, ∀ w' ∈ L j, w.key ≠ w'.key)
    (step : ∀ j a, j < n → (∀ w ∈ L j, CarKept f s a w.key) → ∃ b, body j a = .ok ((), b) ∧ Swept f (L j) a b) :
    ∃ t, forUp n 0 body s = .ok ((), t) ∧ Swept f ((List.range n).flatMap L) s t := by
  suffices hmore : ∀ k i a, i + k = n → Swept f ((List.range i).flatMap L) s a →
      ∃ t, forUp k i body a = .ok ((), t) ∧ Swept f ((List.range n).flatMap L) s t from hmore n 0 s (Nat.zero_add n) (swept_nil f s)
  intro k
  induction k with
  | zero => exact fun i a hi ha => ⟨a, rfl, hi ▸ ha⟩
  | succ k ih =>
    intro i a hi ha
    have hearlier : ∀ w ∈ (List.range i).flatMap L, ∀ w' ∈ L i, w.key ≠ w'.key := fun w hw w' hw' => by
      obtain ⟨j, hj, hw⟩ := List.mem_flatMap.mp hw
      exact hne j i (List.mem_range.mp hj) w hw w' hw'
    obtain ⟨b, hb, hsw⟩ := step i a (by omega) fun w' hw' => ha.others _ fun w hw => (hearlier w hw w' hw').symm
    have hnext : Swept f ((List.range (i + 1)).flatMap L) s b := by
      rw [List.range_succ, List.flatMap_append, List.flatMap_singleton]
      exact ha.append hsw hearlier
    obtain ⟨t, ht, hall⟩ := ih (i + 1) b (by omega) hnext
    exact ⟨t, (bind_of_ok hb).trans ht, hall⟩

end

/-! ### Rows and columns of a window -/

/-- The writes `v r c` to C(r, c), row by row, of `m` rows and `n` columns of a window that starts at `first` (R214). -/
def gridWrites (first m n : Nat) (v : Nat → Nat → Nat × Nat) : List CarWrite :=
  (List.range m).flatMap fun r => (List.range n).map fun c => ⟨r * 64 + first + c, (v r c).1, (v r c).2⟩

section
variable {s t : State} {f first m n : Nat} {v : Nat → Nat → Nat × Nat}

theorem mem_gridWrites {w : CarWrite} :
    w ∈ gridWrites first m n v ↔ ∃ r c, r < m ∧ c < n ∧ w = ⟨r * 64 + first + c, (v r c).1, (v r c).2⟩ := by
  simp only [gridWrites, List.mem_flatMap, List.mem_map, List.mem_range]
  constructor
  · rintro ⟨r, hr, c, hc, rfl⟩
    exact ⟨r, c, hr, hc, rfl⟩
  · rintro ⟨r, c, hr, hc, rfl⟩
    exact ⟨r, hr, c, hc, rfl⟩

theorem gridWrites_congr {v' : Nat → Nat → Nat × Nat} (h : ∀ r c, r < m → c < n → v r c = v' r c) :
    gridWrites first m n v = gridWrites first m n v' :=
  List.flatMap_congr fun r hr => List.map_congr_left fun c hc => by rw [h r c (List.mem_range.mp hr) (List.mem_range.mp hc)]

/-- A loop over rows and columns, each of whose bodies writes its own place, which still is as it was at the start. -/
theorem forUp_grid {body : Nat → Nat → M Unit} (hn : first + n ≤ 64)
    (step : ∀ r c a, r < m → c < n → CarKept f s a (r * 64 + first + c) →
      ∃ b, body r c a = .ok ((), b) ∧ Swept f [⟨r * 64 + first + c, (v r c).1, (v r c).2⟩] a b) :
    ∃ t, (forUp m 0 fun r => forUp n 0 (body r)) s = .ok ((), t) ∧ Swept f (gridWrites first m n v) s t := by
  refine forUp_sweeps (fun i j hij w hw w' hw' => ?rows) fun r a hr ha => ?row
  case rows =>
    simp only [List.mem_map, List.mem_range] at hw hw'
    obtain ⟨c, hc, rfl⟩ := hw
    obtain ⟨c', hc', rfl⟩ := hw'
    dsimp only
    omega
  case row =>
    have hrow := forUp_sweeps (f := f) (s := a) (n := n) (body := body r) (L := fun c => [⟨r * 64 + first + c, (v r c).1, (v r c).2⟩])
    rw [← List.map_eq_flatMap] at hrow
    refine hrow (fun i j hij w hw w' hw' => ?_) fun c b hc hb => step r c b hr hc ?_
    · rw [List.mem_singleton.mp hw, List.mem_singleton.mp hw']
      dsimp only
      omega
    · obtain ⟨hcar, hbad⟩ := hb _ (List.mem_singleton_self _)
      obtain ⟨hcar', hbad'⟩ := ha _ (List.mem_map.mpr ⟨c, List.mem_range.mpr hc, rfl⟩)
      exact ⟨hcar.trans hcar', hbad.trans hbad'⟩

/-- A sweep of rows and columns, in the terms of the statement. -/
theorem Swept.grid (h : Swept f (gridWrites first m n v) s t) :
    (∀ r c, r < m → c < n → (t.core (f / 2)).car (r * 64 + first + c) = BitVec.ofNat 32 (v r c).1) ∧
    (∀ q, (∀ r c, r < m → c < n → q ≠ r * 64 + first + c) → (t.core (f / 2)).car q = (s.core (f / 2)).car q) ∧
    (t.core (f / 2)).plane = (s.core (f / 2)).plane ∧ (t.core (f / 2)).tags = (s.core (f / 2)).tags ∧
    (∀ q, q < 64 → (t.front f).fflags.getLsbD q = ((s.front f).fflags.getLsbD q ||
      (List.range m).any fun r => (List.range n).any fun c => (v r c).2.testBit q)) ∧
    { t.front f with fflags := 0, cdirty := true } = { s.front f with fflags := 0, cdirty := true } ∧
    (0 < m → 0 < n → (t.front f).cdirty = true) ∧ (∀ g, g ≠ f → t.front g = s.front g) ∧ SameBytes s t := by
  refine ⟨fun r c hr hc => h.values _ (mem_gridWrites.mpr ⟨r, c, hr, hc, rfl⟩), fun q hq => ?others, h.plane, h.tags, fun q hq => ?flags, h.front,
    fun hm hn => ?dirty, h.fronts, h.mem⟩
  case others =>
    refine (h.others q fun w hw => ?_).1
    obtain ⟨r, c, hr, hc, rfl⟩ := mem_gridWrites.mp hw
    exact hq r c hr hc
  case flags =>
    rw [h.fflags q hq, gridWrites, List.any_flatMap]
    simp only [List.any_map, Function.comp_def]
  case dirty =>
    have hne : gridWrites first m n v ≠ [] := List.ne_nil_of_mem (mem_gridWrites.mpr ⟨0, 0, hm, hn, rfl⟩)
    rw [h.cdirty, List.isEmpty_eq_false_iff.mpr hne, Bool.not_false, Bool.or_true]

end

/-! ### MZERO (R222) -/

section
variable {s t : State} {f i : Nat} {e : QEntry}

/-- The front's carafe flag cleared (R363). -/
def State.carCleared (s : State) (f : Nat) : State := s.modFront f fun x => { x with cdirty := false }

/-- Writes that add no flags change nothing of the front but its carafe flag. -/
theorem Swept.front_noFlags {l : List CarWrite} (h : Swept f l s t) (h0 : ∀ w ∈ l, w.flags = 0) :
    { t.front f with cdirty := false } = { s.front f with cdirty := false } := by
  have hflags : (t.front f).fflags = (s.front f).fflags := BitVec.eq_of_getLsbD_eq fun q hq => by
    have hnone : (l.any fun w => w.flags.testBit q) = false := List.any_eq_false.mpr fun w hw => by simp [h0 w hw]
    rw [h.fflags q hq, hnone, Bool.or_false]
  calc { t.front f with cdirty := false }
    _ = { ({ t.front f with fflags := 0, cdirty := true } : Front) with fflags := (t.front f).fflags, cdirty := false } := rfl
    _ = { s.front f with cdirty := false } := by rw [h.front, hflags]

theorem mzero_runs (h : e.instr = .mzero) (hw : e.cap.first + e.cap.width ≤ 64) : RunsWhole e f s fun t =>
    ∃ u, Swept f (gridWrites e.cap.first 128 e.cap.width fun _ _ => (0, 0)) s u ∧ t = u.carCleared f := by
  obtain ⟨u, hu, hsw⟩ := forUp_grid (f := f) (s := s) (m := 128) (v := fun _ _ => (0, 0)) (body := fun m n => putCar f e.cap.first m n 0) hw
    fun r c a _ _ _ => ⟨_, putCar_eq a f e.cap.first r c 0, swept_put a f _ 0⟩
  exact ⟨_, _, by rw [runOf, h]; rfl, bind_of_ok hu, u, hsw, rfl⟩

/-- A carafe that has been swept with zeros, read by row and column. -/
theorem car_zeroed {first width m n : Nat} (h : Swept f (gridWrites first 128 width fun _ _ => (0, 0)) s t) (hw : first + width ≤ 64) (hm : m < 128)
    (hn : n < 64) : (t.core (f / 2)).car (m * 64 + n) = if first ≤ n ∧ n < first + width then 0 else (s.core (f / 2)).car (m * 64 + n) := by
  obtain ⟨hin, hout, -⟩ := h.grid
  split
  · next hcol =>
    have hkey : m * 64 + first + (n - first) = m * 64 + n := by omega
    rw [← hkey]
    exact hin m (n - first) hm (by omega)
  · next hcol => exact hout _ fun r c _ hc => by omega

/-! ### MRD and MWR (R223) -/

/-- The key of the carafe value that stands for element `i` (R223). -/
def QEntry.carKey (e : QEntry) (i : Nat) : Nat := (carOf (e.scal 0) i).1 * 64 + e.cap.first + (carOf (e.scal 0) i).2

theorem dEw_ne_of_mmFmt {d : Word} {n : Nat} (h : dW d = Fp.width (mmFmt n)) : dEw d ≠ 7 := by
  refine dEw_ne_of_float (h ▸ ?_)
  unfold mmFmt
  split
  · decide
  · split <;> decide

section
variable {va : VName} {r : SReg} {fm : BitVec 4}

theorem mrd_active (h : e.instr = .mrd va r fm) (hact : activeIn e.mode ((s.front f).mask e.act) i = true) (hdw : dEw (e.name 0) ≠ 7)
    (hd : s.srcClean f e 0 i) (hbad : spGet false (s.core (f / 2)).badCarafe (e.carKey i) = false) :
    let out := Fp.round (mmFmt fm.toNat) e.env i 0 (Fp.decode .fp32 ((s.core (f / 2)).car (e.carKey i)).toNat)
    RunsElem e f i s (ElemResult s f e (e.name 0) i out.1 (e.dstTags i (fpTag (mmFmt fm.toNat))) false out.2) := by
  intro out
  have hrun : runOf e f = mrdRun fm e f := by rw [runOf, h]
  refine ⟨_, _, hrun, ?_, _, elemPut_tagged (.inl hdw), (noted_self _ f e i).flagged out.2⟩
  exact (bind_of_ok (isActive_eq true hact)).trans ((bind_of_ok (getCar_clean hbad)).trans (putFlagged_clean hd out _))

section
variable (h : e.instr = .mwr va r fm)
include h

theorem mwr_active (hact : activeIn e.mode ((s.front f).mask e.act) i = true) (hd : s.srcClean f e 0 i)
    (htag : s.srcTag f e 0 i (fpTag (mmFmt fm.toNat))) :
    let inp := Fp.round .fp32 Fp.rneEnv 0 0 (arg (mmFmt fm.toNat) e.env (s.srcElem f e 0 i))
    RunsElem e f i s (Swept f [⟨e.carKey i, inp.1, inp.2⟩] s) := by
  intro inp
  have hrun : runOf e f = mwrRun fm e f := by rw [runOf, h]
  refine ⟨_, _, hrun, ?_, swept_putFlagged s f (e.carKey i) inp.1 inp.2⟩
  exact (bind_of_ok (isActive_eq true hact)).trans ((bind_of_ok (checkTag_pass hd htag)).trans ((bind_of_ok (srcElem_clean hd)).trans
    ((bind_of_ok (putCar_eq s f _ _ _ _)).trans (orFlagsM_eq _ f _))))

theorem mwr_format (hact : activeIn e.mode ((s.front f).mask e.act) i = true) (hd : s.srcClean f e 0 i)
    (htag : ¬ s.srcTag f e 0 i (fpTag (mmFmt fm.toNat))) : StopsElem e f i s ⟨5, 0, i, 0, 0⟩ := by
  have hrun : runOf e f = mwrRun fm e f := by rw [runOf, h]
  exact ⟨_, hrun, (bind_of_ok (isActive_eq true hact)).trans (bind_of_error (checkTag_fail hd htag))⟩

theorem mwr_idle (hact : activeIn e.mode ((s.front f).mask e.act) i = false) :
    (e.mode ≠ 2 → RunsElem e f i s fun t => t = s) ∧ (e.mode = 2 → RunsElem e f i s (Swept f [⟨e.carKey i, 0, 0⟩] s)) := by
  have hrun : runOf e f = mwrRun fm e f := by rw [runOf, h]
  refine ⟨fun hm => ⟨_, s, hrun, ?_, rfl⟩, fun hm => ⟨_, _, hrun, ?_, swept_put s f (e.carKey i) 0⟩⟩
  · exact (bind_of_ok (isActive_eq false hact)).trans (congrFun (if_neg hm) s)
  · exact (bind_of_ok (isActive_eq false hact)).trans (congrFun (if_pos hm) s)

end

end

/-- One value written, in the terms of the statement. -/
theorem Swept.single {key v fl : Nat} (h : Swept f [⟨key, v, fl⟩] s t) :
    (t.core (f / 2)).car key = BitVec.ofNat 32 v ∧ (∀ q, q ≠ key → (t.core (f / 2)).car q = (s.core (f / 2)).car q) ∧
    (t.core (f / 2)).plane = (s.core (f / 2)).plane ∧ (t.core (f / 2)).tags = (s.core (f / 2)).tags ∧
    { t.front f with cdirty := false, fflags := 0 } = { s.front f with cdirty := false, fflags := 0 } ∧ (t.front f).cdirty = true ∧
    (t.front f).fflags = (s.front f).fflags ||| word fl ∧ (∀ g, g ≠ f → t.front g = s.front g) ∧ SameBytes s t := by
  refine ⟨h.values _ (List.mem_singleton_self _), fun q hq => (h.others q fun w hw => ?_).1, h.plane, h.tags, ?front, ?dirty, ?flags, h.fronts, h.mem⟩
  · rw [List.mem_singleton.mp hw]
    exact hq
  case front => exact congrArg (fun x : Front => { x with cdirty := false }) h.front
  case dirty => simp [h.cdirty]
  case flags =>
    refine BitVec.eq_of_getLsbD_eq fun q hq => ?_
    rw [h.fflags q hq, BitVec.getLsbD_or, getLsbD_word _ hq, List.any_cons, List.any_nil, Bool.or_false]

end

end Sys2Proof.Machine
end

section
/-! PROOFS. Products (R95, R215, R220, R221): the operands of a group of k-steps, what it adds to the carafe, and the results on the carafe (O54). -/

namespace Sys2Proof.Machine

/-! ### Values read at rising places -/

section
variable {α : Type} {g : Nat → M α} {s : State} {n i : Nat}

theorem readRun_eq {v : Nat → α} (h : ∀ q, i ≤ q → q < i + n → g q s = .ok (v q, s)) : readRun n i g s = .ok ((List.range' i n).map v, s) := by
  induction n generalizing i with
  | zero => rfl
  | succ n ih =>
    have hrest := ih (i := i + 1) fun q h1 h2 => h q (by omega) (by omega)
    rw [readRun, bind_of_ok (h i (Nat.le_refl i) (by omega)), bind_of_ok hrest]
    rfl

theorem readRun_error {x : Stop} (hn : 0 < n) (h : g i s = .error x) : readRun n i g s = .error x := by
  obtain ⟨k, rfl⟩ := Nat.exists_eq_add_of_lt hn
  exact bind_of_error h

theorem getD_map_range' (v : Nat → α) (d : α) {j : Nat} (h : j < n) : ((List.range' i n).map v).getD j d = v (i + j) := by
  rw [List.getD_eq_getElem?_getD, List.getElem?_map, List.getElem?_range' h, Nat.one_mul]
  rfl

end

/-! ### Operands (R220, R221) -/

section
variable {s : State} {f first i t loc : Nat} {e : QEntry} {d : Word}

theorem mmTag_pass (h : (s.core (f / 2)).tagged first d i t) : mmTag f first d i (· == t) loc s = .ok ((), s) := by
  rw [mmTag, bind_of_ok (getTags_clean h.1), if_pos (by simpa using h.2)]
  rfl

theorem mmTag_fail (h : (s.core (f / 2)).clean d first i) (ht : ∃ c ∈ elemCells d first i, ((s.core (f / 2)).tag c).toNat ≠ t) :
    mmTag f first d i (· == t) loc s = .error (.trap ⟨FORMAT, 0, 0, loc, 0⟩) := by
  rw [mmTag, bind_of_ok (getTags_clean h), if_neg (by simpa using ht)]
  rfl

theorem mmFloat_tagged {fmt : FFmt} {o : Nat} (h : (s.core (f / 2)).tagged e.cap.first d i (fpTag fmt)) :
    mmFloat fmt e f o d i s = .ok (arg fmt e.env ((s.core (f / 2)).elem d e.cap.first i), s) :=
  (bind_of_ok (mmTag_pass h)).trans (bind_of_ok (getElem'_clean h.1))

theorem mmPlaneTags_pass {n o p : Nat} {ps : List (Word × PlaneShape)} (h : (s.core (f / 2)).planesTagged first n ps i) :
    mmPlaneTags f first n o i p ps s = .ok ((), s) := by
  induction ps generalizing p with
  | nil => rfl
  | cons q r ih =>
    obtain ⟨w, wd, lo, part⟩ := q
    exact (bind_of_ok (mmTag_pass (h _ List.mem_cons_self))).trans (ih fun q hq => h q (List.mem_cons_of_mem _ hq))

theorem mmNarrow_tagged {n : Slot} {o : Nat} {v : Fp.Val} (h : (s.core (f / 2)).planesTagged e.cap.first n.toNat (e.planes o) i)
    (hv : nDecode e.cap.fmt ((s.core (f / 2)).joined e.cap.first (e.planes o) i) = some v) : mmNarrow n e f o i s = .ok (v, s) := by
  rw [mmNarrow, bind_of_ok (mmPlaneTags_pass h), bind_of_ok (getPlanes_clean fun p hp => (h p hp).1), hv]
  rfl

theorem mmScale_tagged (h : (s.core (f / 2)).tagged e.cap.first (e.name 2) i 13) (hff : (s.core (f / 2)).elem (e.name 2) e.cap.first i ≠ 0xFF) :
    mmScale e f i s = .ok (((s.core (f / 2)).elem (e.name 2) e.cap.first i : Int) - 127, s) := by
  refine (bind_of_ok (mmTag_pass h)).trans ((bind_of_ok (getElem'_clean h.1)).trans ?_)
  exact congrFun (if_neg hff) s

end

/-! ### One group of k-steps (R95, R220) -/

/-- What `steps` k-steps from `ks` on add to C(r, c), with its flags: A has `m` values and B has `n` in each k-step, and the sum is scaled by
2 to the power of `shift r c`. -/
def QEntry.product (e : QEntry) (x : Core) (m n ks steps : Nat) (A B : Nat → Fp.Val) (shift : Nat → Nat → Int) (r c : Nat) : Nat × Nat :=
  let sum := dot ((List.range steps).map fun q => (A ((ks + q) * m + r), B ((ks + q) * n + c)))
  accumulate e.env (x.car (r * 64 + e.cap.first + c)).toNat (scaleVal sum.1 (shift r c), sum.2)

section
variable {s : State} {f m n ks steps : Nat} {e : QEntry} {A B : Nat → Fp.Val} {shift : Nat → Nat → Int}

/-- An operand's value of a k-step of the group, in the list that the group has read. -/
theorem getD_operand (V : Nat → Fp.Val) {len q r : Nat} (hq : q < steps) (hr : r < len) :
    ((List.range' (ks * len) (steps * len)).map V).getD (q * len + r) (Fp.zero false) = V ((ks + q) * len + r) := by
  have hlt : q * len + r < steps * len :=
    calc q * len + r
      _ < (q + 1) * len := by rw [Nat.succ_mul]; exact Nat.add_lt_add_left hr _
      _ ≤ steps * len := Nat.mul_le_mul_right _ hq
  rw [getD_map_range' _ _ hlt, Nat.add_mul, Nat.add_assoc]

theorem applyGroup_sweeps {sa sb : List Int} (hn : e.cap.first + n ≤ 64)
    (hbad : ∀ r c, r < m → c < n → spGet false (s.core (f / 2)).badCarafe (r * 64 + e.cap.first + c) = false)
    (hshift : ∀ r c, r < m → c < n → sa.getD r 0 + sb.getD c 0 = shift r c) :
    ∃ t, applyGroup e f m n steps ((List.range' (ks * m) (steps * m)).map A) ((List.range' (ks * n) (steps * n)).map B) sa sb s = .ok ((), t) ∧
      Swept f (gridWrites e.cap.first m n (e.product (s.core (f / 2)) m n ks steps A B shift)) s t := by
  refine forUp_grid hn fun r c a hr hc ⟨hcar, hkept⟩ => ?_
  have hdot : ((List.range steps).map fun q => (((List.range' (ks * m) (steps * m)).map A).getD (q * m + r) (Fp.zero false),
      ((List.range' (ks * n) (steps * n)).map B).getD (q * n + c) (Fp.zero false))) =
      (List.range steps).map fun q => (A ((ks + q) * m + r), B ((ks + q) * n + c)) :=
    List.map_congr_left fun q hq => by rw [getD_operand A (List.mem_range.mp hq) hr, getD_operand B (List.mem_range.mp hq) hc]
  refine ⟨_, ?_, swept_putFlagged a f _ _ _⟩
  rw [hdot, hshift r c hr hc, QEntry.product, ← hcar]
  exact (bind_of_ok (getCar_clean (hkept.trans (hbad r c hr hc)))).trans ((bind_of_ok (putCar_eq a f _ _ _ _)).trans (orFlagsM_eq _ f _))

end

/-! ### A body of a product -/

section
variable {s : State} {f ks g : Nat} {e : QEntry} {a b : Word} {elem : Nat → Nat → M Fp.Val} {A B : Nat → Fp.Val}

/-- The k-steps of the group that begins at `ks`. -/
def QEntry.steps (e : QEntry) (g ks : Nat) : Nat := min (ks + g) e.vl - ks

section
variable (hg : ks % g = 0) (hn : e.cap.first + extent b e.vl ≤ 64)
  (hbad : ∀ r c, r < extent a e.vl → c < extent b e.vl → spGet false (s.core (f / 2)).badCarafe (r * 64 + e.cap.first + c) = false)
  (hA : ∀ q, ks * extent a e.vl ≤ q → q < (ks + e.steps g ks) * extent a e.vl → elem 0 q s = .ok (A q, s))
  (hB : ∀ q, ks * extent b e.vl ≤ q → q < (ks + e.steps g ks) * extent b e.vl → elem 1 q s = .ok (B q, s))
include hg hn hbad hA hB

/-- A group without block scales. -/
theorem product_runs (hrun : runOf e f = productRun g a b elem none e f) : RunsBody e f e.vl g ks s (Swept f (gridWrites e.cap.first
    (extent a e.vl) (extent b e.vl) (e.product (s.core (f / 2)) (extent a e.vl) (extent b e.vl) ks (e.steps g ks) A B fun _ _ => 0)) s) := by
  obtain ⟨t, ht, hsw⟩ := applyGroup_sweeps (ks := ks) (steps := e.steps g ks) (A := A) (B := B) (sa := []) (sb := []) hn hbad fun _ _ _ _ => rfl
  refine ⟨_, t, hrun, ?_, hsw⟩
  dsimp only
  rw [Nat.div_mul_cancel (Nat.dvd_of_mod_eq_zero hg)]
  rw [Nat.add_mul] at hA hB
  exact (bind_of_ok (readRun_eq hA)).trans ((bind_of_ok (readRun_eq hB)).trans ht)

/-- A group in blocks of `len` k-steps, whose scales `E` stand in the name of scales: those of A's rows by block, and those of B's columns after
them (R217, R220). -/
theorem product_scaled {len : Nat} {E : Nat → Int} (hrun : runOf e f = productRun g a b elem (some len) e f)
    (hE : ∀ r, r < extent a e.vl → mmScale e f (ks / len * extent a e.vl + r) s = .ok (E (ks / len * extent a e.vl + r), s))
    (hE' : ∀ c, c < extent b e.vl → mmScale e f (ceilDiv e.vl len * extent a e.vl + ks / len * extent b e.vl + c) s =
      .ok (E (ceilDiv e.vl len * extent a e.vl + ks / len * extent b e.vl + c), s)) :
    RunsBody e f e.vl g ks s (Swept f (gridWrites e.cap.first (extent a e.vl) (extent b e.vl)
      (e.product (s.core (f / 2)) (extent a e.vl) (extent b e.vl) ks (e.steps g ks) A B fun r c =>
        E (ks / len * extent a e.vl + r) + E (ceilDiv e.vl len * extent a e.vl + ks / len * extent b e.vl + c))) s) := by
  obtain ⟨t, ht, hsw⟩ := applyGroup_sweeps (ks := ks) (steps := e.steps g ks) (A := A) (B := B)
    (sa := (List.range' (ks / len * extent a e.vl) (extent a e.vl)).map E)
    (sb := (List.range' (ceilDiv e.vl len * extent a e.vl + ks / len * extent b e.vl) (extent b e.vl)).map E) hn hbad
    fun r c hr hc => by rw [getD_map_range' _ _ hr, getD_map_range' _ _ hc]
  have hsa := readRun_eq (g := mmScale e f) (v := E) (i := ks / len * extent a e.vl) (n := extent a e.vl) fun q h1 h2 => by
    obtain ⟨r, rfl⟩ := Nat.exists_eq_add_of_le h1
    exact hE r (by omega)
  have hsb := readRun_eq (g := mmScale e f) (v := E) (i := ceilDiv e.vl len * extent a e.vl + ks / len * extent b e.vl) (n := extent b e.vl)
    fun q h1 h2 => by
      obtain ⟨c, rfl⟩ := Nat.exists_eq_add_of_le h1
      exact hE' c (by omega)
  refine ⟨_, t, hrun, ?_, hsw⟩
  dsimp only
  rw [Nat.div_mul_cancel (Nat.dvd_of_mod_eq_zero hg)]
  rw [Nat.add_mul] at hA hB
  exact (bind_of_ok (readRun_eq hA)).trans ((bind_of_ok (readRun_eq hB)).trans ((bind_of_ok hsa).trans ((bind_of_ok hsb).trans ht)))

end

/-- A wrong tag of the first element that a product of one k-step reads (R221). -/
theorem mma_format {va vb : VName} {fm : BitVec 4} (h : e.instr = .mma va vb fm) (hks : ks < e.vl) (hm : 0 < extent (e.name 0) e.vl)
    (hclean : s.srcClean f e 0 (ks * extent (e.name 0) e.vl))
    (htag : ∃ c ∈ elemCells (e.name 0) e.cap.first (ks * extent (e.name 0) e.vl), ((s.core (f / 2)).tag c).toNat ≠ fpTag (mmFmt fm.toNat)) :
    StopsBody e f e.vl 1 ks s ⟨5, 0, 0, ks * extent (e.name 0) e.vl, 0⟩ := by
  have hrun : runOf e f = mmaRun fm e f := by rw [runOf, h]
  have hsteps : 0 < (min (ks + 1) e.vl - ks) * extent (e.name 0) e.vl := Nat.mul_pos (by omega) hm
  refine ⟨_, hrun, ?_⟩
  dsimp only
  rw [Nat.div_one, Nat.mul_one]
  exact bind_of_error (readRun_error hsteps (bind_of_error (mmTag_fail hclean htag)))

end

theorem RunsBody.imp {e : QEntry} {f stop unit i : Nat} {s : State} {P Q : State → Prop} (h : RunsBody e f stop unit i s P) (hq : ∀ t, P t → Q t) :
    RunsBody e f stop unit i s Q := by
  obtain ⟨body, t, hrun, hbody, ht⟩ := h
  exact ⟨body, t, hrun, hbody, hq t ht⟩

theorem RunsElem.imp {e : QEntry} {f i : Nat} {s : State} {P Q : State → Prop} (h : RunsElem e f i s P) (hq : ∀ t, P t → Q t) : RunsElem e f i s Q :=
  RunsBody.imp h hq

/-- Settles O54: an element of MRD and MWR moves one value; a product reads its operands and then writes the rows and columns of its window, as MZERO
does with zeros. -/
theorem carafe : Obligations.Carafe := by
  unfold Obligations.Carafe
  refine ⟨?values, ?products⟩
  case values =>
    intro s f i e va r fm k d o fmt b nc key env out inp tags active CarPut
    refine ⟨fun h hw => ?mzero, fun _ hdw hd => ?elements⟩
    case mzero =>
      obtain ⟨m, t, hrun, hm, u, hsw, rfl⟩ := mzero_runs (s := s) (f := f) h hw
      have hfront : (u.carCleared f).front f = { u.front f with cdirty := false } := front_modFront_self u f _
      refine ⟨m, _, hrun, hm, fun m n hm hn => car_zeroed (t := u) hsw hw hm hn, hsw.plane, by rw [hfront], ?_, hsw.mem⟩
      rw [hfront]
      refine hsw.front_noFlags fun w hw => ?_
      obtain ⟨r, c, -, -, rfl⟩ := mem_gridWrites.mp hw
      rfl
    case elements =>
      have hdw' : dEw (e.name 0) ≠ 7 := dEw_ne_of_mmFmt hdw
      have mrdIdle (h : e.instr = .mrd va r fm) (hact) := sameTag_idle (f := f) (by rw [runOf, h]; rfl) hact hdw' hd
      refine ⟨fun hact hbad h => mrd_active h hact hdw' hd hbad, fun hact htag h => (mwr_active h hact hd htag).imp fun _ => Swept.single,
        fun hact ⟨c, hc, hne⟩ h => mwr_format h hact hd fun hok => hne (hok c hc), fun hact hm h => ?idle,
        fun hact hm => ⟨fun h => ?mrdZero, fun h => ?mwrZero⟩⟩
      case idle => exact h.elim (fun h => (mrdIdle h hact).1 hm) fun h => (mwr_idle h hact).1 hm
      case mrdZero => exact (mrdIdle h hact).2 hm
      case mwrZero => exact ((mwr_idle h hact).2 hm).imp fun _ => Swept.single
  case products =>
    intro s f ks e va vb vc fm n A B k o steps_ M_ N_ env key Product fmt G In wide narrow len sa sb scale exp hks hn hbad
    have hwide {o_ l : Nat} {V : Nat → Fp.Val} (h : ∀ q, In l 1 q → wide o_ V q) (q : Nat) (h1 : ks * l ≤ q) (h2 : q < (ks + e.steps 1 ks) * l) :
        mmFloat fmt e f o_ (e.name o_) q s = .ok (V q, s) := by
      obtain ⟨htag, hv⟩ := h q ⟨h1, h2⟩
      exact hv ▸ mmFloat_tagged htag
    have hnarrow {o_ l : Nat} {V : Nat → Fp.Val} (h : ∀ q, In l G q → narrow o_ V q) (q : Nat) (h1 : ks * l ≤ q) (h2 : q < (ks + e.steps G ks) * l) :
        mmNarrow n e f o_ q s = .ok (V q, s) := by
      obtain ⟨htag, hv⟩ := h q ⟨h1, h2⟩
      exact mmNarrow_tagged htag hv
    have hscale {q : Nat} (h : scale q) : mmScale e f q s = .ok (exp q, s) := mmScale_tagged h.1 h.2
    refine ⟨fun h hA hB => ?mma, fun h hm hclean htag => mma_format h hks hm hclean htag,
      fun hg hA hB => ⟨fun h => ?mman, fun h hE hE' => ?mmas⟩⟩
    case mma =>
      have hrun : runOf e f = mmaRun fm e f := by rw [runOf, h]
      exact (product_runs (Nat.mod_one ks) hn hbad (hwide hA) (hwide hB) hrun).imp fun _ => Swept.grid
    case mman =>
      have hrun : runOf e f = mmanRun n e f := by rw [runOf, h]
      exact (product_runs hg hn hbad (hnarrow hA) (hnarrow hB) hrun).imp fun _ => Swept.grid
    case mmas =>
      have hrun : runOf e f = mmasRun n e f := by rw [runOf, h]
      exact (product_scaled hg hn hbad (hnarrow hA) (hnarrow hB) hrun (fun r hr => hscale (hE r hr)) fun c hc => hscale (hE' c hc)).imp
        fun _ => Swept.grid

end Sys2Proof.Machine
end

section
/-! PROOFS. Translation (O6): the scratchpad window, the bound, and the checks of a leaf (R234, R236, R238). -/

namespace Sys2Proof.Machine

/-! ### The checks of a leaf (R238) -/

section
variable {s : State} {user : Bool} {need : Need} {e : Tlb} {va : Nat}

theorem leafCheck_unreadable (hn : need = .read ∨ need = .both) (h : bit e.leaf 2 = false) : leafCheck s user need e va = .error 2 := by
  rcases hn with rfl | rfl <;> simp [leafCheck, h]

theorem leafCheck_unwritable (hn : need = .write ∨ need = .both ∧ bit e.leaf 2 = true) (h : bit e.leaf 3 = false) :
    leafCheck s user need e va = .error 3 := by
  rcases hn with rfl | ⟨rfl, hr⟩
  · simp [leafCheck, h]
  · simp [leafCheck, h, hr]

theorem leafCheck_unfetchable (h : bit e.leaf 4 = false) : leafCheck s user .fetch e va = .error 4 := by simp [leafCheck, h]

section
variable (hr : bit e.leaf 2 = true) (hw : bit e.leaf 3 = true) (hx : bit e.leaf 4 = true)
include hr hw hx

theorem leafCheck_kernelOnly (hk : bit e.leaf 5 = true) : leafCheck s true need e va = .error 5 := by
  simp [leafCheck, hr, hw, hx, hk]

/-- No other range holds an address of the vaults, which are served at each level. -/
theorem leafCheck_vault (hk : bit e.leaf 5 = false ∨ user = false) (hp : bits e.leaf 9 8 = 0) {pa : Nat} (hv : inVault pa = true)
    (hpa : bits e.leaf 49 16 * 2 ^ 16 / pageBytes e.size * pageBytes e.size + va % pageBytes e.size = pa) :
    leafCheck s user need e va = .ok (.mem pa) := by
  have hrange : 0x6000000000 ≤ pa ∧ pa < 0x6080000000 := of_decide_eq_true hv
  have hbm : inHbm pa = false := decide_eq_false (by omega)
  have hcxl : inCxl pa = false := decide_eq_false (by omega)
  have hdev : inDevice pa = false := decide_eq_false (by omega)
  have hscratch : inScratch pa = false := by rw [inScratch, decide_eq_false (by omega), Bool.false_and]
  have hkern : (user && bit e.leaf 5) = false := by rcases hk with h | h <;> simp [h]
  simp only [leafCheck, hpa, isMapped, hr, hw, hx, hp, hv, hbm, hcxl, hdev, hscratch, hkern, -Nat.reducePow]
  simp

end

end

/-! ### Translation (R234, R236) -/

section
variable {s : State} {c : Ctx} {va : Nat} {need : Need}

theorem translate_window (h : c.spbase ≤ va ∧ va < c.spbase + 327680) :
    translate c va need s = .ok (.mem (0x6100000000 + c.fid / 2 * 0x80000 + (va - c.spbase)), s) := by
  rw [translate, if_pos h]
  rfl

theorem tlbFor_utlb {e : Tlb} (he : (s.core (c.fid / 2)).utlb.find? (fun x => x.hit c.asid va) = some e) : tlbFor s c.fid c.asid va = .ok (e, s) := by
  rw [tlbFor, coreOf, he]

section
variable (hout : ¬ (c.spbase ≤ va ∧ va < c.spbase + 327680))
include hout

theorem translate_beyond (h : 2 ^ 52 ≤ va) : translate c va need s = .error (.trap ⟨9, 1, 0, va, 0⟩) := by
  rw [translate, if_neg hout, if_pos h]
  rfl

variable (hva : va < 2 ^ 52) {e : Tlb} (he : (s.core (c.fid / 2)).utlb.find? (fun x => x.hit c.asid va) = some e)
include hva he

theorem translate_refused {sub : Nat} (h : leafCheck s c.user need e va = .error sub) :
    translate c va need s = .error (.trap ⟨9, sub, 0, va, 0⟩) := by
  rw [translate, if_neg hout, if_neg (Nat.not_le.mpr hva), get_bind, tlbFor_utlb he]
  refine (bind_of_ok (a := ()) (t := s) rfl).trans ?_
  rw [h]
  rfl

theorem translate_held {l : Loc} (h : leafCheck s c.user need e va = .ok l) : translate c va need s = .ok (l, s) := by
  rw [translate, if_neg hout, if_neg (Nat.not_le.mpr hva), get_bind, tlbFor_utlb he]
  refine (bind_of_ok (a := ()) (t := s) rfl).trans ?_
  rw [h]
  rfl

end

end

/-- Settles O6: the window and the bound are checked before any page, and a page that the micro-TLB holds is checked against its leaf alone. -/
theorem addressTranslation : Obligations.AddressTranslation := by
  unfold Obligations.AddressTranslation
  intro s c va need
  refine ⟨fun hlo hhi => translate_window ⟨hlo, hhi⟩, translate_beyond, fun e hout hva he => ?_⟩
  intro rd wr ex ko pa
  have refused {sub : Nat} := translate_refused (need := need) (sub := sub) hout hva he
  refine ⟨fun hn h => refused (leafCheck_unreadable hn h), fun hn h => refused (leafCheck_unwritable (.inl hn) h),
    fun hn hr h => refused (leafCheck_unwritable (.inr ⟨hn, hr⟩) h), ?fetch, ?kernelOnly,
    fun hr hw hx hk hp hv => translate_held hout hva he (leafCheck_vault hr hw hx hk hp hv rfl)⟩
  case fetch =>
    rintro rfl h
    exact refused (leafCheck_unfetchable h)
  case kernelOnly =>
    intro hr hw hx hk hu
    exact refused (hu ▸ leafCheck_kernelOnly hr hw hx hk)

end Sys2Proof.Machine
end

section
/-! PROOFS. Error records and hotness records (R245, R376): what they change, and when a walk makes none. -/

namespace Sys2Proof.Machine

/-! ### What records change (R245, R376) -/

/-- Nothing differs but memory, its errors, marks and monitors, and the dies, whose waiting walks are the same. -/
structure RecordsOnly (s t : State) : Prop where
  rest  : { t with mem := [], memErr := [], badBlk := [], monitors := [], dies := [] } =
    { s with mem := [], memErr := [], badBlk := [], monitors := [], dies := [] }
  walks : ∀ d, (t.die d).walks = (s.die d).walks

namespace RecordsOnly
variable {s t u : State}

theorem refl (s : State) : RecordsOnly s s := ⟨rfl, fun _ => rfl⟩
theorem trans (h : RecordsOnly s t) (k : RecordsOnly t u) : RecordsOnly s u :=
  ⟨k.rest.trans h.rest, fun d => (k.walks d).trans (h.walks d)⟩

theorem fronts (h : RecordsOnly s t) : t.fronts = s.fronts := (congrArg State.fronts h.rest : _)
theorem slots (h : RecordsOnly s t) : t.slots = s.slots := (congrArg State.slots h.rest : _)
theorem cores (h : RecordsOnly s t) : t.cores = s.cores := (congrArg State.cores h.rest : _)
theorem l2 (h : RecordsOnly s t) : t.l2 = s.l2 := (congrArg State.l2 h.rest : _)
theorem jobs (h : RecordsOnly s t) : t.jobs = s.jobs := (congrArg State.jobs h.rest : _)
theorem pkg (h : RecordsOnly s t) : t.pkg = s.pkg := (congrArg State.pkg h.rest : _)
theorem core (h : RecordsOnly s t) (k : Nat) : t.core k = s.core k := by rw [State.core, h.cores, State.core]
theorem tlb2 (h : RecordsOnly s t) (c : Nat) : t.tlb2 c = s.tlb2 c := by rw [State.tlb2, h.l2, State.tlb2]

end RecordsOnly

section
variable (s : State)

theorem recordsOnly_write (a : Nat) (bs : List Byte) : RecordsOnly s (s.write a bs) := ⟨rfl, fun _ => rfl⟩

theorem recordsOnly_modDie (d : Nat) {g : Die → Die} (hg : (g (s.die d)).walks = (s.die d).walks) : RecordsOnly s (s.modDie d g) where
  rest := rfl
  walks e := by
    rw [die_modDie]
    split
    · next h => rw [hg, h]
    · rfl

theorem recordsOnly_ringAppend (r : RecRing) (rec : List Byte) : RecordsOnly s (ringAppend s r rec).1 := by
  unfold ringAppend
  dsimp only
  split
  · exact .refl s
  · split
    · exact recordsOnly_write s _ _
    · exact .refl s

theorem recordsOnly_errAppend (d : Nat) (rec : List Byte) : RecordsOnly s (errAppend s d rec) :=
  (recordsOnly_ringAppend s _ rec).trans (recordsOnly_modDie _ d (g := fun x => { x with err := (ringAppend s (s.die d).err rec).2 }) rfl)

theorem recordsOnly_hotAppend (d : Nat) (rec : List Byte) : RecordsOnly s (hotAppend s d rec) :=
  (recordsOnly_ringAppend s _ rec).trans (recordsOnly_modDie _ d (g := fun x => { x with hot := (ringAppend s (s.die d).hot rec).2 }) rfl)

theorem recordsOnly_errRecord (d va phys asid kind core front seq : Nat) : RecordsOnly s (errRecord s d va phys asid kind core front seq) :=
  recordsOnly_errAppend s d _

theorem recordsOnly_dropTlb2 (c : Nat) (e : Tlb) : RecordsOnly s (dropTlb2 s c e) := by
  unfold dropTlb2
  split
  · exact .refl s
  · exact recordsOnly_hotAppend s _ _

theorem recordsOnly_walked (f asid va : Nat) : RecordsOnly s (s.walked f asid va) := by
  unfold State.walked logWalk
  refine List.foldlRecOn (motive := RecordsOnly s) _ _ (.refl s) fun t ht a _ => ?_
  split
  · exact ht.trans (recordsOnly_errRecord ..)
  · split
    · exact ht.trans (recordsOnly_errRecord ..)
    · exact ht

end

/-- A walk that reads no doubleword in error, and none of a bad block, makes no record. -/
theorem walked_of_clean {s : State} {f asid va : Nat} (h : ∀ a ∈ walkReads s asid va, s.cleanAt a 8) : s.walked f asid va = s := by
  unfold State.walked logWalk
  refine List.foldlRecOn (motive := fun t => t = s) _ _ rfl fun t ht a ha => ?_
  obtain ⟨he, hb⟩ := h a ha
  rw [he, hb]
  exact ht

end Sys2Proof.Machine
end

section
/-! PROOFS. Walks and fills (O35): what a walk brings into the TLBs, and the rows that a filler fills (R237 to R240, R266, R271, R380). -/

namespace Sys2Proof.Machine

/-! ### The walk reads memory and the package alone (R238) -/

section
variable (s : State) (d : Nat) (g : Die → Die)

theorem walkFrom_modDie (asid va lvl table fuel : Nat) : walkFrom (s.modDie d g) asid va lvl table fuel = walkFrom s asid va lvl table fuel := by
  induction fuel generalizing lvl table with
  | zero => rfl
  | succ n ih => simp only [walkFrom, ih]; rfl

theorem walk_modDie (asid va : Nat) : walk (s.modDie d g) asid va = walk s asid va := by
  simp only [walk, walkFrom_modDie]
  rfl

theorem tableReads_modDie (va lvl table fuel : Nat) : tableReads (s.modDie d g) va lvl table fuel = tableReads s va lvl table fuel := by
  induction fuel generalizing lvl table with
  | zero => rfl
  | succ n ih => simp only [tableReads, ih]; rfl

theorem walkReads_modDie (asid va : Nat) : walkReads (s.modDie d g) asid va = walkReads s asid va := by
  simp only [walkReads, tableReads_modDie]
  rfl

end

/-! ### A page that no TLB holds (R240) -/

section
variable {s : State} {k asid va n : Nat} {t : Tlb}

theorem coreOf_two_mul (k : Nat) : coreOf (2 * k) = k := Nat.mul_div_cancel_left k (by decide)
theorem clusterOf_two_mul (k : Nat) : clusterOf (2 * k) = k / 8 := Nat.mul_div_mul_left k 8 (by decide)

theorem fillTlb2_room {c : Nat} (h : (s.tlb2 c).length < 2048) : fillTlb2 s c t = s.setTlb2 c (s.tlb2 c ++ [t]) := by
  unfold fillTlb2
  split
  · next hc => rw [hc]; rfl
  · next o r hc =>
    rw [hc] at h ⊢
    exact if_pos h

theorem fillUtlb_room (h : (s.core k).utlb.length < 48) : fillUtlb s k t = s.setCore k { s.core k with utlb := (s.core k).utlb ++ [t] } := by
  rw [fillUtlb, State.modCore, if_pos h]

/-- A page comes into both TLBs where they have room. -/
theorem fills_room (h48 : (s.core k).utlb.length < 48) (h2048 : (s.tlb2 (k / 8)).length < 2048) :
    let u := fillUtlb (fillTlb2 s (k / 8) t) k t
    (u.core k).utlb = (s.core k).utlb ++ [t] ∧ u.tlb2 (k / 8) = s.tlb2 (k / 8) ++ [t] ∧ { u with cores := s.cores, l2 := s.l2 } = s := by
  rw [fillTlb2_room h2048, fillUtlb_room (by rwa [core_setTlb2])]
  exact ⟨by rw [core_setCore_self, core_setTlb2], by rw [tlb2_setCore, tlb2_setTlb2_self], rfl⟩

variable (hu : (s.core k).utlb.find? (fun t => t.hit asid va) = none) (h2 : (s.tlb2 (k / 8)).find? (fun t => t.hit asid va) = none)
include hu h2

theorem usedEntry_miss : usedEntry s (2 * k) asid va = none := by
  rw [usedEntry, coreOf_two_mul, clusterOf_two_mul, hu, h2]
  rfl

theorem tlbFor_walk_ok (h : walk s asid va = .ok t) :
    tlbFor s (2 * k) asid va = .ok (t, fillUtlb (fillTlb2 (s.walked (2 * k) asid va) (k / 8) t) k t) := by
  simp only [tlbFor, coreOf_two_mul, clusterOf_two_mul, hu, h2, h]

theorem tlbFor_walk_fault (h : walk s asid va = .error n) : tlbFor s (2 * k) asid va = .error n := by
  simp only [tlbFor, coreOf_two_mul, clusterOf_two_mul, hu, h2, h]

end

/-! ### A queued walk (R240, R380) -/

section
variable {s : State} {d : Nat} {w : Walk} {r : List Walk}

/-- The state in which the oldest waiting walk of a die is made: the others wait on. -/
def State.walking (s : State) (d : Nat) (r : List Walk) : State := s.modDie d fun x => { x with walks := r }

theorem walks_walking : ((s.walking d r).die d).walks = r := by rw [State.walking, die_modDie_self]

variable (hq : (s.die d).walks = w :: r)
include hq

theorem pageWalk_fills {t : Tlb} {u : State} {l : Loc} (ht : tlbFor (s.walking d r) (2 * w.core) w.asid w.va = .ok (t, u))
    (hl : leafCheck (s.walking d r) w.user (needOf w.rd w.wr) t w.va = .ok l) : pageWalk s d = u := by
  simp only [pageWalk, hq]
  rw [State.walking] at ht hl
  simp only [ht, hl]
  rfl

theorem pageWalk_refused {t : Tlb} {u : State} {n : Nat} (ht : tlbFor (s.walking d r) (2 * w.core) w.asid w.va = .ok (t, u))
    (hl : leafCheck (s.walking d r) w.user (needOf w.rd w.wr) t w.va = .error n) (hm : usedEntry (s.walking d r) (2 * w.core) w.asid w.va = none) :
    pageWalk s d = (s.walking d r).walked (2 * w.core) w.asid w.va := by
  simp only [pageWalk, hq]
  rw [State.walking] at ht hl hm
  simp only [ht, hl, hm]
  rfl

theorem pageWalk_faults {n : Nat} (ht : tlbFor (s.walking d r) (2 * w.core) w.asid w.va = .error n) :
    pageWalk s d = (s.walking d r).walked (2 * w.core) w.asid w.va := by
  simp only [pageWalk, hq]
  rw [State.walking] at ht
  simp only [ht]
  rfl

end

/-! ### The filler of a binding (R266, R271) -/

section
variable {s t : State} {f k : Nat} {b : Binding}

/-- The context in which the filler of a binding reads. -/
def Binding.ctx (b : Binding) (s : State) (f k : Nat) : Ctx := ⟨.filler f k, f, (s.front f).asid, !b.kern, b.spbase.field 51 20 * 2 ^ 20⟩

/-- Position `p` of a pattern, filled with zero bits beyond its end, or as it is read. -/
theorem fillBody_ok {c : Ctx} {p v : Nat} {a u z : State}
    (hv : (recLen b.record ≤ p ∧ v = 0 ∧ u = a) ∨
      (p < recLen b.record ∧ elemRead c false 0 (dW b.ring / 8) (placeAt b.base b.record p) a = .ok (v, u)))
    (hz : putKeep f b.first b.ring (p / dNelem b.ring % dRows b.ring * dNelem b.ring + p % dNelem b.ring) v u = .ok ((), z)) :
    fillBody f b c p a = .ok ((), z) := by
  unfold fillBody
  rcases hv with ⟨hp, rfl, rfl⟩ | ⟨hp, hread⟩
  · rw [if_neg (Nat.not_lt.mpr hp)]
    exact hz
  · rw [if_pos hp]
    exact (bind_of_ok hread).trans hz

theorem fillBody_trap {c : Ctx} {p : Nat} {q : TrapRec} {a : State} (hp : p < recLen b.record)
    (hread : elemRead c false 0 (dW b.ring / 8) (placeAt b.base b.record p) a = .error (.trap q)) : fillBody f b c p a = .error (.trap q) := by
  unfold fillBody
  rw [if_pos hp]
  exact bind_of_error hread

/-- The front whose filler stands at position `q`, with the fault that it has met. -/
def Front.filled (k : Nat) (b : Binding) (q : Nat) (fault : Option TrapRec) (x : Front) : Front :=
  (x.addCounter 12 (q / dNelem b.ring - b.fillPos / dNelem b.ring)).modBind k fun b => { b with fillPos := q, fault := fault }

section
variable (hb : (s.front f).binds.find? (fun p => p.1 == k) = some (k, b)) (hf : (s.front f).fillable k b = true)
include hb hf

theorem streamFillStep_whole {q : Nat}
    (h : bodyLoop false 1 (fillBody f b (b.ctx s f k)) (dNelem b.ring - b.fillPos % dNelem b.ring) b.fillPos s = (t, q, none)) :
    streamFillStep s f k = t.modFront f (Front.filled k b q none) := by
  simp only [streamFillStep, hb, hf, Option.map_some]
  rw [Binding.ctx] at h
  simp only [h]
  rfl

theorem streamFillStep_trap {q : Nat} {r : TrapRec}
    (h : bodyLoop false 1 (fillBody f b (b.ctx s f k)) (dNelem b.ring - b.fillPos % dNelem b.ring) b.fillPos s = (t, q, some (.trap r))) :
    streamFillStep s f k = (logTrap t f { r with elem := q % dNelem b.ring } ((s.front f).popper k (q / dNelem b.ring))).modFront f
      (Front.filled k b q (some { r with elem := q % dNelem b.ring })) := by
  simp only [streamFillStep, hb, hf, Option.map_some]
  rw [Binding.ctx] at h
  simp only [h]
  rfl

end

/-- What the step of a filler leaves of its front, and that it changes nothing else. -/
theorem filled_modFront (t : State) (q : Nat) (fault : Option TrapRec) :
    let u := t.modFront f (Front.filled k b q fault)
    OnlyFront f t u ∧
      (u.front f).binds = (t.front f).binds.map (fun p => if p.1 = k then (p.1, { p.2 with fillPos := q, fault := fault }) else p) ∧
      (u.front f).counter 12 = (t.front f).counter 12 + word (q / dNelem b.ring - b.fillPos / dNelem b.ring) ∧
      { u.front f with binds := [], counters := [] } = { t.front f with binds := [], counters := [] } := by
  intro u
  have hu : u.front f = Front.filled k b q fault (t.front f) := front_modFront_self t f _
  refine ⟨onlyFront_modFront _ _ _, ?_, ?_, ?_⟩
  · rw [hu]; rfl
  · rw [hu]; exact addCounter_counter _ _ _
  · rw [hu]; rfl

/-- A position of a row is of the same row as one that stands before it in the row. -/
theorem row_of_lt {n p j : Nat} (hj : j < n - p % n) : (p + j) / n = p / n := by
  have hn : 0 < n := by omega
  have hsum : p + j = p % n + j + p / n * n := by rw [Nat.mul_comm]; have := Nat.mod_add_div p n; omega
  rw [hsum, Nat.add_mul_div_right _ _ hn, Nat.div_eq_of_lt (by omega), Nat.zero_add]

end

/-- Settles O35: the walk's page comes into both TLBs where they have room, or only the walk's records are made; a filler makes its bodies one after
another, up to the end of the row or the first that a fault stops. -/
theorem walksAndFills : Obligations.WalksAndFills := by
  unfold Obligations.WalksAndFills
  refine ⟨?walks, ?fills⟩
  case walks =>
    intro s d w r htrip hq hu h2 need y Nothing
    have hrec : RecordsOnly (s.walking d r) y := recordsOnly_walked ..
    have ends {P : State → Prop} : P (pageWalk s d) → Ends (.pageWalk d) s P := ends_event_of_not_tripped (g := fun s => pageWalk s d) htrip rfl
    have found {t : Tlb} (hw : walk s w.asid w.va = .ok t) := tlbFor_walk_ok (s := s.walking d r) hu h2 ((walk_modDie ..).trans hw)
    refine ⟨fun t l hw hl h48 h2048 => ends ?found, fun t n hw hl => ends ?refused, fun n hw => ends ?faults,
      (hrec.walks d).trans walks_walking, fun hc => ?clean⟩
    case found =>
      have hcore : y.core w.core = s.core w.core := hrec.core _
      have htlb : y.tlb2 (w.core / 8) = s.tlb2 (w.core / 8) := hrec.tlb2 _
      rw [pageWalk_fills hq (found hw) hl, ← hcore, ← htlb]
      exact fills_room (hcore ▸ h48) (htlb ▸ h2048)
    case refused => exact pageWalk_refused hq (found hw) hl (usedEntry_miss hu h2)
    case faults => exact pageWalk_faults hq (tlbFor_walk_fault hu h2 ((walk_modDie ..).trans hw))
    case clean => exact walked_of_clean fun a ha => hc a (walkReads_modDie s d _ _ _ ▸ ha)
  case fills =>
    intro s f k b hr hb hf n c read Fill At
    have ends {P : State → Prop} (h : P (streamFillStep s f k)) : Ends (.streamFill f k) s P :=
      ends_event (g := fun s => if s.runs f then streamFillStep s f k else s) hr rfl (by rwa [if_pos hr])
    have bodies {m : Nat} {t : State} (h : Chain (fun j => Fill (b.fillPos + j)) m 0 s t) :
        Chain (fun j a z => fillBody f b c (b.fillPos + j * 1) a = .ok ((), z)) m 0 s t :=
      h.imp fun j a z ⟨v, u, hv, hz⟩ => by rw [Nat.mul_one]; exact fillBody_ok hv hz
    refine ⟨fun t h => ends ?whole, fun j t q hj h hp hread => ?stops⟩
    case whole =>
      have hloop := bodyLoop_ok (own := false) (bodies h)
      rw [Nat.mul_one] at hloop
      rw [streamFillStep_whole hb hf hloop]
      exact filled_modFront t _ none
    case stops =>
      refine ends ?_
      have hloop := bodyLoop_trap (own := false) (bodies h) hj (st := .trap q) (by rw [Nat.mul_one]; exact fillBody_trap hp hread)
      rw [Nat.mul_one] at hloop
      rw [streamFillStep_trap hb hf hloop, row_of_lt hj]
      exact filled_modFront _ _ _

end Sys2Proof.Machine
end

section
/-! PROOFS. TLB invalidation (O42): what a write of TINVC starts, what its end waits for, and the entries that it drops (R241, R245). -/

namespace Sys2Proof.Machine

/-! ### Values of a sparse map changed, and its defaults dropped -/

section
variable {α : Type} {d : α} {m : List (Nat × α)}

theorem spGet_map_value {g : α → α} (hg : g d = d) (k : Nat) : spGet d (m.map fun p => (p.1, g p.2)) k = g (spGet d m k) := by
  induction m with
  | nil => exact hg.symm
  | cons p r ih =>
    simp only [List.map_cons, spGet, ih]
    split <;> rfl

theorem spGet_of_not_mem {k : Nat} (h : ∀ p ∈ m, p.1 ≠ k) : spGet d m k = d := by
  induction m with
  | nil => rfl
  | cons p r ih =>
    rw [spGet, if_neg (h p (by simp))]
    exact ih fun q hq => h q (by simp [hq])

/-- No key stands twice, so a default that is dropped hides no other value. -/
theorem spGet_filter_default [DecidableEq α] (hm : m.Pairwise fun p q => p.1 < q.1) (k : Nat) :
    spGet d (m.filter fun p => p.2 != d) k = spGet d m k := by
  induction m with
  | nil => rfl
  | cons p r ih =>
    obtain ⟨hp, hr⟩ := List.pairwise_cons.mp hm
    by_cases hd : p.2 = d
    · rw [List.filter_cons_of_neg (by simp [hd]), ih hr, spGet]
      split
      · next hk => rw [spGet_of_not_mem fun q hq => hk ▸ (hp q hq).ne', hd]
      · rfl
    · rw [List.filter_cons_of_pos (by simpa using hd), spGet, spGet, ih hr]

end

/-! ### A write of TINVC (R241) -/

section
variable {s : State} {n scope : Nat}

/-- The package with the fields of TINVC written. -/
def Package.tinvFields (p : Package) (n scope : Nat) : Package := { p with tinvAsid := n, tinvScope := scope }

theorem tinvGo_busy (hb : s.pkg.tinvBusy = true) (hn : n < 2 ^ 14) (hs : scope < 3) :
    tinvGo s n scope = { s with pkg := s.pkg.tinvFields n scope } := by
  have hscope : scope % 4 = scope := by omega
  have hasid : n % 16384 = n := Nat.mod_eq_of_lt hn
  simp [tinvGo, tinvPut, State.modPkg, Package.tinvFields, hasid, hscope, hb]

theorem tinvGo_idle (hb : s.pkg.tinvBusy = false) (hn : n < 2 ^ 14) (hs : scope < 3) : tinvGo s n scope = { s with pkg :=
    { s.pkg.tinvFields n scope with goVa := s.pkg.tinva.field 51 0, goAsid := n, goScope := scope, tinvBusy := true } } := by
  have hscope : scope % 4 = scope := by omega
  have hvalid : scope ≠ 3 := by omega
  have hasid : n % 16384 = n := Nat.mod_eq_of_lt hn
  simp [tinvGo, tinvPut, State.modPkg, Package.tinvFields, hasid, hscope, hvalid, hb]

/-- An event that is a write of a register, in a package that has not tripped. -/
theorem rings_event {a : Nat} {i : Instr} {g : State → State} {P : State → Prop} (ht : s.pkg.tripped = false)
    (hx : exec i s = event (fun s => (g s).woken a) s) (h : P (g s)) : Rings a i s P :=
  ⟨g s, by rw [hx, event, ht, if_neg Bool.false_ne_true], h⟩

end

/-! ### The entries covered (R241) -/

section
variable (p : Package)

theorem tinvCovers_eq (e : Tlb) : tinvCovers p e = if p.goScope = 0 then e.hit p.goAsid p.goVa else p.goScope != 1 || e.asid == p.goAsid := by
  unfold tinvCovers
  split
  · rfl
  · split <;> simp [*]

/-- A core without the covered entries of its micro-TLB. -/
def Core.purged (x : Core) : Core := { x with utlb := x.utlb.filter fun e => !tinvCovers p e }

/-- The cores without them; one that is as after reset is not listed. -/
def purgedCores (m : List (Nat × Core)) : List (Nat × Core) := (m.map fun q => (q.1, q.2.purged p)).filter fun q => q.2 != Core.reset

theorem spGet_purgedCores {m : List (Nat × Core)} (hm : spWf Core.reset m = true) (k : Nat) :
    spGet Core.reset (purgedCores p m) k = (spGet Core.reset m k).purged p := by
  have hrising := ((spWf_iff _ _).mp hm).1
  rw [purgedCores, spGet_filter_default (m := m.map fun q => (q.1, q.2.purged p)) (List.pairwise_map.mpr hrising), spGet_map_value rfl]

/-- The translations that a job keeps are not covered. -/
theorem not_covers_of_purged {j : Job} {q : Plan} (h : (j.purged p).plan = some q) {e : Tlb} (he : e ∈ q.pages) : tinvCovers p e = false := by
  obtain ⟨r, -, rfl⟩ := Option.map_eq_some_iff.mp h
  simpa using (List.mem_filter.mp he).2

end

/-! ### The second-level TLBs (R241, R245) -/

section
variable {s t : State} {n : Nat}

theorem RecordsOnly.withL2 (h : RecordsOnly s t) (l : List (Nat × List Tlb)) : RecordsOnly { s with l2 := l } { t with l2 := l } :=
  ⟨congrArg (fun x : State => { x with l2 := l }) h.rest, h.walks⟩

/-- The TLBs of the first `n` clusters have lost their covered entries; of the rest, records alone have been made. -/
structure Purged (n : Nat) (s t : State) : Prop where
  rest : RecordsOnly s { t with l2 := s.l2 }
  tlb2 : ∀ c, t.tlb2 c = if c < n then (s.tlb2 c).filter fun e => !tinvCovers s.pkg e else s.tlb2 c

theorem purgeTlb2_eq (s : State) (c : Nat) :
    ∃ u, RecordsOnly s u ∧ purgeTlb2 s c = u.setTlb2 c ((s.tlb2 c).filter fun e => !tinvCovers s.pkg e) :=
  ⟨_, List.foldlRecOn (motive := RecordsOnly s) _ _ (.refl s) fun _ ht e _ => ht.trans (recordsOnly_dropTlb2 _ c e), rfl⟩

theorem Purged.succ (h : Purged n s t) : Purged (n + 1) s (purgeTlb2 t n) := by
  obtain ⟨u, hu, heq⟩ := purgeTlb2_eq t n
  have hpkg : t.pkg = s.pkg := h.rest.pkg
  rw [heq]
  refine ⟨h.rest.trans (hu.withL2 s.l2), fun c => ?_⟩
  by_cases hc : c = n
  · subst hc
    rw [tlb2_setTlb2_self, h.tlb2, hpkg, if_neg (Nat.lt_irrefl c), if_pos (Nat.lt_succ_self c)]
  · rw [tlb2_setTlb2_other _ _ hc, hu.tlb2, h.tlb2]
    simp only [show c < n + 1 ↔ c < n by omega]

theorem purged_foldl (n : Nat) (s : State) : Purged n s ((List.range n).foldl purgeTlb2 s) := by
  induction n with
  | zero => exact ⟨.refl s, fun c => rfl⟩
  | succ n ih =>
    rw [List.range_succ, List.foldl_append]
    exact ih.succ

end

/-! ### The end of an invalidation (R241) -/

section
variable {s : State}

theorem tinvEnd_idle (hb : s.pkg.tinvBusy = false) : tinvEnd s = s := by simp [tinvEnd, hb]

theorem tinvEnd_waits (h : s.peersQuiet = false ∨ ∃ j ∈ s.jobs, j.pairHeld s.pkg = true) : tinvEnd s = s := by
  refine if_pos ?_
  rcases h with h | h
  · simp [h]
  · simp [List.any_eq_true.mpr h]

theorem tinvEnd_ends (hb : s.pkg.tinvBusy = true) (hq : s.peersQuiet = true) (hj : ∀ j ∈ s.jobs, j.pairHeld s.pkg = false) :
    ∃ u, Purged 64 s u ∧ tinvEnd s = { u with
      cores := purgedCores u.pkg u.cores, jobs := u.jobs.map (Job.purged u.pkg), pkg := { u.pkg with tinvBusy := false } } := by
  have hany : s.jobs.any (Job.pairHeld s.pkg) = false := List.any_eq_false.mpr fun j h => by simp [hj j h]
  refine ⟨_, purged_foldl 64 s, ?_⟩
  rw [tinvEnd, if_neg (by simp [hb, hq, hany])]
  generalize (List.range 64).foldl purgeTlb2 s = u
  rfl

end

/-- Settles O42: a write of TINVC sets its fields and starts an invalidation unless one runs; its end waits, or purges each TLB and each job once. -/
theorem tlbInvalidation : Obligations.TlbInvalidation := by
  unfold Obligations.TlbInvalidation
  intro s asid ht p Pkg fields starts covers page holds
  have hcovers : covers = tinvCovers p := funext fun e => (tinvCovers_eq p e).symm
  have hholds : holds = Job.pairHeld p := funext fun j => by simp only [holds, page, hcovers]; rfl
  have go {i : Instr} {n scope : Nat} {q : Package} (hx : exec i s = event (fun s => (tinvGo s n scope).woken 0x62F0000010) s)
      (h : tinvGo s n scope = { s with pkg := q }) : Rings 0x62F0000010 i s (Pkg q) :=
    rings_event (g := fun s => tinvGo s n scope) ht hx h
  have goAll {q : Package} (h : tinvGo s p.tinvAsid 2 = { s with pkg := q }) : Rings 0x62F0000010 .tinvcAll s (Pkg q) :=
    rings_event (g := fun s => tinvGo s s.pkg.tinvAsid 2) ht rfl h
  have done {P : State → Prop} : P (tinvEnd s) → Ends .tinvcDone s P := ends_event_of_not_tripped ht rfl
  refine ⟨fun hb => ⟨go rfl (tinvGo_idle hb asid.isLt (by decide)), go rfl (tinvGo_idle hb asid.isLt (by decide)),
      fun hn => goAll (tinvGo_idle hb hn (by decide)), done (tinvEnd_idle hb)⟩,
    fun hb => ⟨go rfl (tinvGo_busy hb asid.isLt (by decide)), go rfl (tinvGo_busy hb asid.isLt (by decide)),
      fun hn => goAll (tinvGo_busy hb hn (by decide)), fun h => done (tinvEnd_waits (hholds ▸ h)), fun hq hj => done ?ends⟩⟩
  case ends =>
    obtain ⟨u, hu, heq⟩ := tinvEnd_ends hb hq (hholds ▸ hj)
    have hpkg : u.pkg = p := hu.rest.pkg
    have hcores : u.cores = s.cores := hu.rest.cores
    rw [heq, hpkg, hcores, hcovers]
    refine ⟨rfl, hu.rest.fronts, hu.rest.slots, fun hwf k => ?cores, fun j hmem q hq e he => ?jobs, fun c hc => ?tlb2⟩
    case cores => exact congrArg Core.utlb (spGet_purgedCores p hwf k)
    case jobs =>
      obtain ⟨k, -, rfl⟩ := List.mem_map.mp hmem
      exact not_covers_of_purged p hq he
    case tlb2 => exact (hu.tlb2 c).trans (if_pos hc)

end Sys2Proof.Machine
end

section
/-! PROOFS. What a message may reach (O49): a read of a doubleword in error that the record of the error itself mends (R305, R374, R376). -/

namespace Sys2Proof.Machine

/-- The error ring of die 0 stands in a vault, and its next record is to stand where a doubleword is in error. -/
def ringOverError : State :=
  { State.reset.modDie 0 fun x => { x with err := { x.err with base := 0x6000000000, ctl := 1 } } with memErr := [(0x6000000000 / 8, true)] }

/-- The read of that doubleword by package 7. -/
def readUnderRing : Msg := ⟨1, 0, 8, 0x6000000000, zeros 8, 7, false⟩

/-- The read fails, and the write of its record clears the error (R374): the check-and-arm then reads a good doubleword, and arms a monitor. -/
theorem readUnderRing_arms : (deliverRead ringOverError (anyLink ringOverError) readUnderRing).monitors =
    [⟨1024 + 7, 0x6000000000 / 8, false⟩] := by
  decide

/-- The record and the answer alone arm none. -/
theorem record_arms_none : (errRecord ringOverError (homeDie 0x6000000000) 0 0x6000000000 0 1 0 0 0).monitors = [] := by
  decide

/-- Refutes O49: a read that fails is answered with no data, but where its error record overwrites the doubleword in error it also arms a monitor. -/
theorem not_memoryMessages : ¬ Obligations.MemoryMessages := by
  unfold Obligations.MemoryMessages
  intro h
  obtain ⟨hmem, -⟩ := h ringOverError readUnderRing rfl (by decide) rfl
  obtain ⟨-, -, -, -, -, hfailed, -⟩ := hmem (by decide)
  obtain ⟨t, hx, ht⟩ := hfailed (by decide) (by decide)
  obtain rfl : deliverRead ringOverError (anyLink ringOverError) readUnderRing = t := Host.Outcome.next.inj hx
  have hnone : (deliverRead ringOverError (anyLink ringOverError) readUnderRing).monitors = [] := (congrArg State.monitors ht).trans record_arms_none
  rw [readUnderRing_arms] at hnone
  exact absurd hnone (List.cons_ne_nil _ _)

end Sys2Proof.Machine
end

section
/-! PROOFS. Scalar atomics (O5): where the access goes, what its location answers, and what the instruction leaves (R259, R260, R356). -/

namespace Sys2Proof.Machine

/-! ### A translation leaves the requests to peers (R385) -/

section
variable {s t : State} {c : Ctx} {va : Nat} {need : Need} {l : Loc}

theorem RecordsOnly.remotes (h : RecordsOnly s t) : t.remotes = s.remotes := (congrArg State.remotes h.rest : _)

theorem remotes_fillTlb2 (s : State) (k : Nat) (e : Tlb) : (fillTlb2 s k e).remotes = s.remotes := by
  unfold fillTlb2
  split
  · rfl
  · split
    · rfl
    · exact (recordsOnly_dropTlb2 ..).remotes

theorem remotes_tlbFor {f asid : Nat} {e : Tlb} (h : tlbFor s f asid va = .ok (e, t)) : t.remotes = s.remotes := by
  unfold tlbFor at h
  split at h
  · cases h; rfl
  · split at h
    · cases h; rfl
    · split at h
      · cases h
        exact (remotes_fillTlb2 ..).trans (recordsOnly_walked ..).remotes
      · cases h

theorem remotes_translate (h : translate c va need s = .ok (l, t)) : t.remotes = s.remotes := by
  rcases translate_ok h with rfl | ⟨e, he⟩
  · rfl
  · exact remotes_tlbFor he

end

/-! ### The place of the access (R356) -/

/-- An agent's request for an atomic access of a peer: it has one at a time. -/
def State.askedAtomic (s : State) (agent : Agent) : Option Remote := s.remotes.find? fun r => r.agent == agent && r.cls == 3

section
variable {s t : State} {q : Remote} {va : Nat}

theorem askedAtomic_of_noAtomic (h : s.noAtomic) : s.askedAtomic (.front s.cur) = none := by
  rw [State.askedAtomic, List.find?_eq_none]
  intro r hr hall
  simp only [Bool.and_eq_true, beq_iff_eq] at hall
  exact h r hr hall.1 hall.2

/-- One that has no answer yet, or an answer with data, goes on where it was sent, without a translation. -/
theorem atomicPlace_underWay (h : s.atomicAsked q) (ha : q.answer ≠ some []) :
    atomicPlace s.ctx va s = .ok (.peer q.pkg q.addr, s) := by
  obtain ⟨hq, before, after, hlist, hbefore⟩ := List.find?_eq_some_iff_append.mp h
  have hfind : s.remotes.find? (fun r => r.agent == s.ctx.agent && r.cls == 3 && r.answer != some []) = some q := by
    refine List.find?_eq_some_iff_append.mpr ⟨?_, before, after, hlist, fun r hr => ?_⟩
    · simpa [ha, State.ctx, Front.ctx] using hq
    · have hother : (r.agent == s.ctx.agent && r.cls == 3) = false := Bool.not_eq_true' _ ▸ hbefore r hr
      rw [hother]
      rfl
  rw [atomicPlace, get_bind, State.asking, hfind]
  rfl

/-- One that the peer has refused is translated again. -/
theorem atomicPlace_refused (h : s.inAtomic (.front s.cur) = false) : atomicPlace s.ctx va s = translate s.ctx va .both s := by
  have hasking : s.asking s.ctx.agent = none := by
    rw [State.asking, Option.map_eq_none_iff, List.find?_eq_none]
    exact List.any_eq_false.mp h
  rw [atomicPlace, get_bind, hasking]

end

/-! ### What the peer answers (R385, R386, R388) -/

section
variable {t : State} {agent : Agent} {d a n va : Nat} {data b : List Byte} {q : Remote}

/-- An atomic is looked for by its agent alone: its operands may have changed since (R356). -/
theorem find_askedAtomic : t.remotes.find? (fun r => r.agent == agent && r.cls == 3 &&
    (r.cls == 3 || r.pkg == d && r.addr == a && r.len == n && r.data == data)) = t.askedAtomic agent := by
  refine congrFun (congrArg List.find? (funext fun r => ?_)) _
  by_cases hr : r.cls = 3 <;> simp [hr]

theorem askAtomic_answered (h : t.askedAtomic agent = some q) (ha : q.answer = some b) (hb : b ≠ []) :
    askPeer agent d a n 3 va data t = .ok (b, { t with remotes := t.remotes.erase q }) := by
  have he : (!b.isEmpty) = true := by simpa using hb
  rw [askPeer, get_bind, find_askedAtomic, h]
  dsimp only
  rw [ha]
  dsimp only
  rw [if_pos he]
  rfl

theorem askAtomic_unanswered (h : t.askedAtomic agent = some q) (ha : q.answer = none) :
    askPeer agent d a n 3 va data t = .error (.wait none) := by
  rw [askPeer, get_bind, find_askedAtomic, h]
  dsimp only
  rw [ha]
  rfl

theorem askAtomic_empty (h : t.askedAtomic agent = some q) (ha : q.answer = some []) :
    askPeer agent d a n 3 va data t =
      .error (.trap (if inHbm a || inVault a then ⟨INTEGRITY, 0, 0, va, a⟩ else ⟨ACCESS, 6, 0, va, 0⟩)) := by
  rw [askPeer, get_bind, find_askedAtomic, h]
  dsimp only
  rw [ha]
  dsimp only [List.isEmpty_nil]
  rw [if_neg (by decide)]
  split <;> rfl

theorem askAtomic_unreachable (h : t.askedAtomic agent = none) (hl : t.liveLinks d = []) :
    askPeer agent d a n 3 va data t = .error (.trap ⟨ACCESS, 8, 0, va, 0⟩) := by
  rw [askPeer, get_bind, find_askedAtomic, h]
  dsimp only
  rw [if_pos (by rw [hl]; rfl)]
  rfl

theorem askAtomic_asks {tag : Nat} (h : t.askedAtomic agent = none) (hl : t.liveLinks d ≠ []) (ht : t.freeTag = some tag) :
    askPeer agent d a n 3 va data t = .error (.wait (some ⟨agent, tag, d, a, n, 3, data, none⟩)) := by
  rw [askPeer, get_bind, find_askedAtomic, h]
  dsimp only
  rw [if_neg (by simpa using hl), ht]
  rfl

theorem askAtomic_noTag (h : t.askedAtomic agent = none) (hl : t.liveLinks d ≠ []) (ht : t.freeTag = none) :
    askPeer agent d a n 3 va data t = .error (.wait none) := by
  rw [askPeer, get_bind, find_askedAtomic, h]
  dsimp only
  rw [if_neg (by simpa using hl), ht]
  rfl

end

/-! ### The access at its location (R259, R260) -/

/-- A write that covers a unit or a block in part also meets it, so a clean word is read and written without an error (R374, R378). -/
theorem partErr_of_errAt {t : State} {p n : Nat} (h : t.errAt p n = false) : t.partErr p n = false := by
  rw [State.errAt, List.any_eq_false] at h
  rw [State.partErr, List.any_eq_false]
  exact fun u hu hall => h u hu (Bool.and_eq_true_iff.mp hall).1

theorem partBad_of_badAt {t : State} {p n : Nat} (h : t.badAt p n = false) : t.partBad p n = false := by
  rw [State.badAt, List.any_eq_false] at h
  rw [State.partBad, List.any_eq_false]
  exact fun u hu hall => h u hu (Bool.and_eq_true_iff.mp hall).1

/-- The word that an atomic of `n` bytes makes of the old one, if any, with its operands as they stand in `s`. -/
def State.newWord (s : State) (g : Nat → Nat → Nat → Nat → Option Nat) (d b : SReg) (n old : Nat) : Option Nat :=
  g (8 * n) old ((s.reg b).toNat % 256 ^ n) ((s.reg d).toNat % 256 ^ n)

/-- What a peer is told of it (log 9). -/
def State.atomicData (s : State) (code : Nat) (d b : SReg) (n : Nat) : List Byte :=
  Config.atomicPayload code n ((s.reg b).toNat % 256 ^ n + (s.reg d).toNat % 256 ^ n * 2 ^ 64)

/-- Its access at a location. -/
def State.atomicAt (s : State) (code : Nat) (g : Nat → Nat → Nat → Nat → Option Nat) (d a b : SReg) (n : Nat) (l : Loc) : M Nat :=
  atomicLoc (.front s.cur) l n (s.reg a).toNat code ((s.reg b).toNat % 256 ^ n + (s.reg d).toNat % 256 ^ n * 2 ^ 64) (s.newWord g d b n)

section
variable {s t u : State} {code : Nat} {g : Nat → Nat → Nat → Nat → Option Nat} {d a b : SReg} {p pkg n : Nat} {bs : List Byte} {r : Stop}

theorem atomicAt_mem (he : t.errAt p n = false) (hb : t.badAt p n = false) : s.atomicAt code g d a b n (.mem p) t =
    .ok (t.read p n, (s.newWord g d b n (t.read p n)).elim t fun v => t.write p (leBytes n v)) := by
  refine (bind_of_ok (readMem_clean he hb)).trans ?_
  cases s.newWord g d b n (t.read p n) with
  | none => rfl
  | some v => exact bind_of_ok (writeMem_clean (partErr_of_errAt he) (partBad_of_badAt hb))

theorem atomicAt_mem_stops (h : checkRead p n (s.reg a).toNat t = .error r) : s.atomicAt code g d a b n (.mem p) t = .error r :=
  bind_of_error (bind_of_error h)

theorem atomicAt_dev : s.atomicAt code g d a b n (.dev p) t =
    .ok (devRead t p n, (s.newWord g d b n (devRead t p n)).elim t fun v => devWrite t .kernel p n v) := by
  refine (get_bind _).trans ?_
  dsimp only
  cases s.newWord g d b n (devRead t p n) <;> rfl

theorem atomicAt_peer (h : askPeer (.front s.cur) pkg p n 3 (s.reg a).toNat (s.atomicData code d b n) t = .ok (bs, u)) :
    s.atomicAt code g d a b n (.peer pkg p) t = .ok (leNat bs, u) := bind_of_ok h

theorem atomicAt_peer_stops (h : askPeer (.front s.cur) pkg p n 3 (s.reg a).toNat (s.atomicData code d b n) t = .error r) :
    s.atomicAt code g d a b n (.peer pkg p) t = .error r := bind_of_error h

end

/-! ### The instruction -/

section
variable {s t u : State} {i j : Instr} {code old : Nat} {g : Nat → Nat → Nat → Nat → Option Nat} {d a b : SReg} {w64 : Bool} {l : Loc} {r : Stop}

theorem atomic_misaligned (ha : (s.reg a).toNat % (if w64 then 8 else 4) ≠ 0) :
    atomic j code g d a b w64 s = trapAt ALIGN 0 (s.reg a).toNat s := if_pos ha

theorem atomic_aligned (ha : (s.reg a).toNat % (if w64 then 8 else 4) = 0) :
    atomic j code g d a b w64 s = atFrontIn (.atomic j) (do
      let l ← atomicPlace s.ctx (s.reg a).toNat
      let old ← s.atomicAt code g d a b (if w64 then 8 else 4) l
      modify fun s => (s.setReg d (sxNat (8 * (if w64 then 8 else 4)) old)).advance) s := if_neg (not_not_intro ha)

theorem exec_atomic (hx : exec i s = atomic j code g d a b w64 s) (ha : (s.reg a).toNat % (if w64 then 8 else 4) = 0)
    (hp : atomicPlace s.ctx (s.reg a).toNat s = .ok (l, t)) (hl : s.atomicAt code g d a b (if w64 then 8 else 4) l t = .ok (old, u)) :
    exec i s = .next (u.setReg d (sxNat (8 * (if w64 then 8 else 4)) old)).advance := by
  rw [hx, atomic_aligned ha]
  exact atFrontIn_ok _ ((bind_of_ok hp).trans (bind_of_ok hl))

/-- What its location answers instead stops it: a trap, or a wait, with or without a request. -/
theorem exec_atomic_stops (hx : exec i s = atomic j code g d a b w64 s) (ha : (s.reg a).toNat % (if w64 then 8 else 4) = 0)
    (hp : atomicPlace s.ctx (s.reg a).toNat s = .ok (l, t)) (hl : s.atomicAt code g d a b (if w64 then 8 else 4) l t = .error r) :
    exec i s = atFrontIn (.atomic j) (fun _ => .error r) s := by
  rw [hx, atomic_aligned ha, atFrontIn, (bind_of_ok hp).trans (bind_of_error hl)]
  rfl

/-- One that has its old word completes with it in its destination, in the state that the access leaves (R132). -/
theorem ends_atomic (hx : exec i s = atomic j code g d a b w64 s) (ha : (s.reg a).toNat % (if w64 then 8 else 4) = 0)
    (hp : atomicPlace s.ctx (s.reg a).toNat s = .ok (l, t)) (hl : s.atomicAt code g d a b (if w64 then 8 else 4) l t = .ok (old, u)) :
    Ends i s (Writes u d ((BitVec.ofNat (8 * (if w64 then 8 else 4)) old).signExtend 64) (u.me.pc + 4)) := by
  have hpc : (u.setReg d (sxNat (8 * (if w64 then 8 else 4)) old)).me.pc = u.me.pc := by simp
  refine ⟨_, exec_atomic hx ha hp hl, ?_⟩
  rw [State.advance, hpc]
  exact writes_completeAt u d _ _

end

/-! ### What it leaves -/

theorem SameBytes.read {s t : State} (h : SameBytes s t) (p n : Nat) : t.read p n = s.read p n := by
  rw [State.read, State.bytes, List.map_congr_left fun i _ => h (p + i), State.read, State.bytes]

theorem frontAndMemory_write (t : State) (f p : Nat) (bs : List Byte) : FrontAndMemory f t (t.write p bs) := ⟨rfl, fun _ _ => rfl⟩

theorem FrontAndMemory.trans_onlyFront {f : Nat} {s t u : State} (h : FrontAndMemory f s t) (k : OnlyFront f t u) : FrontAndMemory f s u where
  rest := (congrArg (fun x : State => { x with mem := [], memErr := [], badBlk := [], monitors := [] }) k.rest).trans h.rest
  others g hg := (k.others g hg).trans (h.others g hg)

/-- Both write nothing, or they write words with the same `n` low bytes. -/
def SameWord (n : Nat) (v w : Option Nat) : Prop := Option.Rel (fun x y => x % 256 ^ n = y % 256 ^ n) v w

section
variable {t : State} {p n : Nat} {v w : Option Nat}

theorem SameWord.of_eq (h : v = w) : SameWord n v w := by
  subst h
  cases v with
  | none => exact .none
  | some x => exact .some rfl

theorem SameWord.mod (n x : Nat) : SameWord n (some (x % 2 ^ (8 * n))) (some x) := by
  refine .some ?_
  rw [show 256 ^ n = 2 ^ (8 * n) from (Nat.pow_mul 2 8 n).symm, Nat.mod_mod]

/-- The word written, if any, and then the old one in the destination. -/
theorem atomic_update {d : SReg} {z : State} (h : SameWord n v w)
    (hz : let u := v.elim t fun x => t.write p (leBytes n x)
      Writes u d ((BitVec.ofNat (8 * n) (t.read p n)).signExtend 64) (u.me.pc + 4) z) : Atomic t d p n w z := by
  obtain ⟨hdest, hdone, hrest, hbytes⟩ := hz
  cases h with
  | none => exact ⟨hbytes, hdest, hdone, FrontAndMemory.trans_onlyFront ⟨rfl, fun _ _ => rfl⟩ hrest⟩
  | @some x y hxy =>
    refine ⟨⟨?_, fun j hj => ?_⟩, ⟨hdest.dest, hdest.regs⟩, ⟨hdone.pc, hdone.wait, hdone.step, hdone.kept⟩,
      (frontAndMemory_write t t.cur p _).trans_onlyFront hrest⟩
    · rw [hbytes.read]
      exact (read_write_self t p n x).trans hxy
    · exact (hbytes j).trans (byte_write_outside t p j _ (by rw [leBytes_length]; omega))

/-- A device register takes the low bytes of the word alone (R423). -/
theorem devWrite_mod (t : State) (src : Src) (p n x : Nat) : devWrite t src p n (x % 256 ^ n) = devWrite t src p n x := by
  unfold devWrite
  split
  · next h =>
    have hword : word (x % 256 ^ n) = word x := by
      apply BitVec.eq_of_toNat_eq
      rw [word, word, BitVec.toNat_ofNat, BitVec.toNat_ofNat, h]
      exact Nat.mod_mod_of_dvd x (by norm_num)
    rw [hword]
  · rfl

theorem devWrite_sameWord (src : Src) (h : SameWord n v w) :
    (v.elim t fun x => devWrite t src p n x) = w.elim t fun y => devWrite t src p n (y % 256 ^ n) := by
  cases h with
  | none => simp only [Option.elim]
  | @some x y hxy => exact (devWrite_mod t src p n x).symm.trans (congrArg (devWrite t src p n) hxy)

end

/-! ### The operations (R259) -/

/-- The words compared as the operation reads them: unsigned, or as two's complement integers of `w` bits. -/
def lessWord (uns : Bool) (w x y : Nat) : Bool :=
  if uns then decide (x < y) else decide ((BitVec.ofNat w x).toInt < (BitVec.ofNat w y).toInt)

theorem signedOf_eq (w v : Nat) : signedOf w v = (BitVec.ofNat w v).toInt := by
  rw [← signedOf_toNat, BitVec.toNat_ofNat, signedOf, signedOf, Nat.mod_mod]

theorem pickWord_eq (uns isMax : Bool) (w x y : Nat) : pickWord uns isMax w x y = if lessWord uns w x y != isMax then x else y := by
  rw [pickWord, signedOf_eq, signedOf_eq]
  rfl

theorem pickWord_min (uns : Bool) (w x y : Nat) : pickWord uns false w x y = if lessWord uns w x y then x else y := by
  rw [pickWord_eq, Bool.bne_false]

theorem pickWord_max (uns : Bool) (w x y : Nat) : pickWord uns true w x y = if lessWord uns w x y then y else x := by
  rw [pickWord_eq]
  cases lessWord uns w x y <;> rfl

section
variable {s : State} {d a b : SReg} {w64 uns : Bool}

theorem exec_amoadd : exec (.amoadd d a b w64) s =
    atomic (.amoadd d a b w64) 0 (fun w o x _ => some ((o + x) % 2 ^ w)) d a b w64 s := rfl
theorem exec_amomin : exec (.amomin d a b w64 uns) s =
    atomic (.amomin d a b w64 uns) (1 + if uns then 8 else 0) (fun w o x _ => some (pickWord uns false w o x)) d a b w64 s := by cases uns <;> rfl
theorem exec_amomax : exec (.amomax d a b w64 uns) s =
    atomic (.amomax d a b w64 uns) (2 + if uns then 8 else 0) (fun w o x _ => some (pickWord uns true w o x)) d a b w64 s := by cases uns <;> rfl
theorem exec_amoand : exec (.amoand d a b w64) s =
    atomic (.amoand d a b w64) 3 (fun _ o x _ => some (Nat.land o x)) d a b w64 s := rfl
theorem exec_amoor : exec (.amoor d a b w64) s =
    atomic (.amoor d a b w64) 4 (fun _ o x _ => some (Nat.lor o x)) d a b w64 s := rfl
theorem exec_amoxor : exec (.amoxor d a b w64) s =
    atomic (.amoxor d a b w64) 5 (fun _ o x _ => some (Nat.xor o x)) d a b w64 s := rfl
theorem exec_amoswap : exec (.amoswap d a b w64) s =
    atomic (.amoswap d a b w64) 6 (fun _ _ x _ => some x) d a b w64 s := rfl
theorem exec_amocas : exec (.amocas d a b w64) s =
    atomic (.amocas d a b w64) 7 (fun _ o x y => if o = y then some x else none) d a b w64 s := rfl

end

/-- Settles O5: each operation makes its access at the place that its address, or the request under way, gives, and the location's answer is how it
ends. -/
theorem atomics : Obligations.Atomics := by
  unfold Obligations.Atomics
  intro s t d a b w64 uns p pkg bs q n ea bv dv less mark back goes Am
  have am {i : Instr} {code : Nat} {g : Nat → Nat → Nat → Nat → Option Nat} {new : Nat → Option Nat} (hx : exec i s = atomic i code g d a b w64 s)
      (hg : ∀ old, SameWord n (g (8 * n) old bv dv) (new old)) : Am i code new := by
    have place {l : Loc} (h : goes l) : ea % n = 0 ∧ atomicPlace s.ctx ea s = .ok (l, t) ∧ t.askedAtomic (.front s.cur) = none := by
      obtain ⟨ha, hn, ht⟩ := h
      refine ⟨ha, (atomicPlace_of_noAtomic hn).trans ht, ?_⟩
      rw [State.askedAtomic, remotes_translate ht]
      exact askedAtomic_of_noAtomic hn
    refine ⟨fun h he hb => ?memory, fun h hr => ⟨fun he => ?unit, fun he hb => ?block⟩, fun h => ?device,
      fun h => ⟨fun hlive tag htag => ?asks, fun hlive htag => ?noTag, fun hlive hr => ?unreachable⟩,
      fun ha hq => ⟨fun hans hne => ?answered, fun hans => ?waits, fun hans hin ht hr => ?refused⟩, fun ha hr => ?misaligned⟩
    case memory =>
      obtain ⟨ha, hp, -⟩ := place h
      obtain ⟨z, hz, hw⟩ := ends_atomic hx ha hp (atomicAt_mem he hb)
      exact ⟨z, hz, atomic_update (hg _) hw⟩
    case unit =>
      obtain ⟨ha, hp, -⟩ := place h
      exact ends_memErr (exec_atomic_stops hx ha hp (atomicAt_mem_stops (checkRead_err he))) hr
    case block =>
      obtain ⟨ha, hp, -⟩ := place h
      exact ends_integrity (exec_atomic_stops hx ha hp (atomicAt_mem_stops (checkRead_bad he hb))) (by decide) hr (by decide)
    case device =>
      obtain ⟨ha, hp, -⟩ := place h
      have hends := ends_atomic hx ha hp atomicAt_dev
      have hnew (old : Nat) : SameWord n (s.newWord g d b n old) (new old) := hg old
      rw [devWrite_sameWord .kernel (hnew _)] at hends
      intro old u
      have hu : u = (new old).elim t fun v => devWrite t .kernel p n (v % 256 ^ n) := by
        simp only [u]
        cases new old <;> rfl
      rw [hu]
      exact hends
    case asks =>
      obtain ⟨ha, hp, hask⟩ := place h
      exact ⟨_, exec_atomic_stops hx ha hp (atomicAt_peer_stops (askAtomic_asks hask hlive htag)), rfl⟩
    case noTag =>
      obtain ⟨ha, hp, hask⟩ := place h
      exact ⟨_, exec_atomic_stops hx ha hp (atomicAt_peer_stops (askAtomic_noTag hask hlive htag)), waits_blocked s _⟩
    case unreachable =>
      obtain ⟨ha, hp, hask⟩ := place h
      exact ends_access (exec_atomic_stops hx ha hp (atomicAt_peer_stops (askAtomic_unreachable hask hlive))) (by decide) (by decide) hr
    case answered =>
      have hp := atomicPlace_underWay (va := ea) hq (by rw [hans]; simpa using hne)
      exact ends_atomic hx ha hp (atomicAt_peer (askAtomic_answered hq hans hne))
    case waits =>
      have hp := atomicPlace_underWay (va := ea) hq (by rw [hans]; exact nofun)
      exact ⟨_, exec_atomic_stops hx ha hp (atomicAt_peer_stops (askAtomic_unanswered hq hans)), waits_blocked s _⟩
    case refused =>
      have hask : t.askedAtomic (.front s.cur) = some q := by
        rw [State.askedAtomic, remotes_translate ht]
        exact hq
      have hrun := exec_atomic_stops hx ha ((atomicPlace_refused hin).trans ht) (atomicAt_peer_stops (askAtomic_empty hask hans))
      split at hrun
      next hserved => rw [if_pos hserved]; exact ends_integrity hrun (by decide) hr (by decide)
      next hserved => rw [if_neg hserved]; exact ends_access hrun (by decide) (by decide) hr
    case misaligned => exact ends_align (hx.trans (atomic_misaligned ha)) (by decide) hr
  clear_value Am
  refine ⟨?add, ?min, ?max, ?and, ?or, ?xor, ?swap, ?cas⟩
  case add => exact am exec_amoadd fun old => .mod n _
  case min => exact am exec_amomin fun old => .of_eq (congrArg some (pickWord_min ..))
  case max => exact am exec_amomax fun old => .of_eq (congrArg some (pickWord_max ..))
  case and => exact am exec_amoand fun old => .of_eq rfl
  case or => exact am exec_amoor fun old => .of_eq rfl
  case xor => exact am exec_amoxor fun old => .of_eq rfl
  case swap => exact am exec_amoswap fun old => .of_eq rfl
  case cas => exact am exec_amocas fun old => .of_eq rfl

end Sys2Proof.Machine
end

section
/-! PROOFS. SBIND and SUNBIND (O20): a push that also opens or closes a binding (R264, R265, R268). -/

namespace Sys2Proof.Machine

/-! ### Checks that pass -/

theorem firstFail_last_none {l : List (Option TrapRec)} {o m : Option TrapRec} (h : firstFail (l ++ [o, m]) = none) : o = none := by
  rw [firstFail_append] at h
  cases hl : firstFail l with
  | some r => simp [hl] at h
  | none =>
    cases o with
    | none => rfl
    | some r => simp [hl] at h

/-- Where no check of a push fails, the entry's own does not. -/
theorem own_of_pushCheck {x : Front} {c : Capture} {p : PushSpec} (h : x.pushCheck c p = none) : p.own c = none := firstFail_last_none h

/-- A name that SBIND may bind is not bound (R264). -/
theorem bindOf_of_sbind {x : Front} {win : Nat × Nat} {vd vx : VName} {a : SReg}
    (h : x.pushCheck (x.capture win (sbindSpec x vd a vx)) (sbindSpec x vd a vx) = none) : x.bindOf vd.toNat = none := by
  have hown := own_of_pushCheck h
  cases hb : x.bindOf vd.toNat with
  | none => rfl
  | some q => simp [sbindSpec, pushTrap, sbindBad, hb] at hown

/-- With fewer than four bindings a number is free. -/
theorem freeBind_some {x : Front} (h : x.binds.length < 4) : ∃ k, k < 4 ∧ x.freeBind = some k := by
  cases hf : x.freeBind with
  | some k => exact ⟨k, List.mem_range.mp (List.mem_of_find?_eq_some hf), rfl⟩
  | none =>
    have hall : List.range 4 ⊆ x.binds.map (·.1) := by
      intro k hk
      have htaken := List.find?_eq_none.mp hf k hk
      simp only [Bool.not_eq_true', Bool.not_eq_false, List.any_eq_true, beq_iff_eq] at htaken
      exact List.mem_map.mpr htaken
    have hlen := (List.nodup_range.subperm hall).length_le
    rw [List.length_range, List.length_map] at hlen
    omega

/-! ### A push that changes bindings too -/

/-- An instruction more is queued, and nothing else has changed but the bindings of the front (R69, R70). -/
structure Queued (s t : State) : Prop where
  vsn    : t.me.vsn = s.me.vsn + 1
  vstart : t.me.vstart = 0
  length : t.me.queue.length = s.me.queue.length + 1
  done   : Completed s (s.me.pc + 4) (fun x => { x with queue := [], vsn := 0, vstart := 0, binds := [] }) t
  regs   : ∀ r, t.reg r = s.reg r
  rest   : OnlyFront s.cur s t
  mem    : SameBytes s t

theorem me_setFront_cur (s : State) (x : Front) : (s.setFront s.cur x).me = x := by simp [State.me]

theorem Pushed.queued {s t : State} {i : Instr} {names regs : List Word} (h : Pushed s i names regs t) : Queued s t where
  vsn := h.vsn
  vstart := h.vstart
  length := by
    obtain ⟨e, he, -⟩ := h.entry
    rw [he, List.length_append, List.length_singleton]
  done := h.done
  regs := h.regs
  rest := h.rest
  mem := h.mem

/-- A front that differs from the one pushed in its bindings and in what its queued entries hold. -/
theorem queued_setFront {s : State} {y z : Front} (h : Queued s (s.setFront s.cur y))
    (hz : ∃ q b, z = { y with queue := q, binds := b } ∧ q.length = y.queue.length) : Queued s (s.setFront s.cur z) := by
  obtain ⟨q, b, rfl, hq⟩ := hz
  obtain ⟨hvsn, hvstart, hlen, ⟨hpc, hwait, hstep, hkept⟩, hregs, -, -⟩ := h
  simp only [State.reg, me_setFront_cur] at hvsn hvstart hlen hpc hwait hstep hkept hregs
  refine ⟨?_, ?_, ?length, ⟨?_, ?_, ?_, ?_⟩, ?_, onlyFront_setFront _ _ _, (onlyFront_setFront s s.cur _).sameBytes⟩
  all_goals simp only [State.reg, me_setFront_cur]
  case length => rw [hq, hlen]
  all_goals assumption

theorem queued_push (s : State) (i : Instr) (p : PushSpec) :
    Queued s (s.setFront s.cur (s.me.pushed i s.clock (s.me.capture (s.window s.cur) p))) := (pushed_setFront s i p).queued

theorem Queued.bound {s : State} {y : Front} (h : Queued s (s.setFront s.cur y)) (k : Nat) (vd : VName) (store : Bool) (c : Capture) :
    Queued s (s.setFront s.cur (y.bound k vd store c)) := queued_setFront h ⟨_, _, rfl, List.length_map ..⟩

theorem Queued.unbinding {s : State} {y : Front} (h : Queued s (s.setFront s.cur y)) (k : Nat) :
    Queued s (s.setFront s.cur (y.unbinding k)) := queued_setFront h ⟨_, _, rfl, List.length_map ..⟩

/-! ### SBIND (R264, R265) -/

section
variable {s : State} {vd vx : VName} {a : SReg} {store : Bool} {k : Nat}

theorem exec_sbind_binds (hq : s.me.queue.length < 64)
    (hc : s.me.pushCheck (s.me.capture (s.window s.cur) (sbindSpec s.me vd a vx)) (sbindSpec s.me vd a vx) = none) (hk : s.me.freeBind = some k) :
    exec (.sbind vd a vx store) s =
      let c := s.me.capture (s.window s.cur) (sbindSpec s.me vd a vx)
      .next (s.setFront s.cur ((s.me.pushed (.sbind vd a vx store) s.clock c).bound k vd store c)) := by
  show execSbind vd a vx store s = _
  simp only [execSbind, hk, hc, Option.isSome_none, Bool.false_eq_true, or_false, if_neg (Nat.not_le.mpr hq)]

/-- The new binding of a front: its base and ring are the first operands captured. -/
theorem exists_mem_bound (x : Front) (k : Nat) (vd : VName) (store : Bool) (c : Capture) : ∃ b, (k, b) ∈ (x.bound k vd store c).binds ∧
    b.name = vd.toNat ∧ b.store = store ∧ b.count = 0 ∧ b.pos = 0 ∧ b.fillPos = 0 ∧ b.base = c.scalars.getD 0 0 ∧
    b.ring = c.names.getD 0 0 ∧ b.closing = false :=
  ⟨_, List.mem_append_left _ (List.mem_append_right _ List.mem_cons_self), rfl, rfl, rfl, rfl, rfl, rfl, rfl, rfl⟩

/-- The entry captured for a name that is not bound is its carve entry. -/
theorem ring_of_sbind (h : s.me.bindOf vd.toNat = none) :
    (s.me.capture (s.window s.cur) (sbindSpec s.me vd a vx)).names.getD 0 0 = s.me.entry vd.toNat := by
  show s.me.operandEntry (asNone vd) = _
  simp only [Front.operandEntry, Front.effective, asNone, h, Option.map_none, Option.getD_none]

theorem ends_sbind (hq : s.me.queue.length < 64) (hlen : s.me.binds.length < 4)
    (hc : s.me.pushCheck (s.me.capture (s.window s.cur) (sbindSpec s.me vd a vx)) (sbindSpec s.me vd a vx) = none) :
    Ends (.sbind vd a vx store) s fun t => Queued s t ∧ ∃ k, k < 4 ∧ ∃ b, (k, b) ∈ t.me.binds ∧ b.name = vd.toNat ∧ b.store = store ∧
      b.count = 0 ∧ b.pos = 0 ∧ b.fillPos = 0 ∧ b.base = s.reg a ∧ b.ring = s.me.entry vd.toNat ∧ b.closing = false := by
  obtain ⟨k, hk4, hk⟩ := freeBind_some hlen
  refine ⟨_, exec_sbind_binds hq hc hk, (queued_push s _ _).bound .., k, hk4, ?_⟩
  rw [me_setFront_cur, ← ring_of_sbind (vx := vx) (a := a) (bindOf_of_sbind hc)]
  exact exists_mem_bound ..

end

/-! ### SUNBIND (R268) -/

/-- The push checks of SUNBIND. -/
def sunbindSpec (vd : VName) : PushSpec := { PushSpec.plain [asNone vd] [] with width := fun c => firstWidth [narrowEw c] }

section
variable {s : State} {vd : VName} {k : Nat} {b : Binding}

theorem exec_sunbind_unbound (hb : s.me.bindOf vd.toNat = none) : exec (.sunbind vd) s = push (.sunbind vd) (sunbindSpec vd) s := by
  show execSunbind vd s = _
  simp only [execSunbind, hb]
  rfl

theorem exec_sunbind_bound (hb : s.me.bindOf vd.toNat = some (k, b)) (hq : s.me.queue.length < 64)
    (hc : s.me.pushCheck (s.me.capture (s.window s.cur) (sunbindSpec vd)) (sunbindSpec vd) = none) :
    exec (.sunbind vd) s = .next (s.setFront s.cur
      ((s.me.pushed (.sunbind vd) s.clock (s.me.capture (s.window s.cur) (sunbindSpec vd))).unbinding k)) := by
  rw [sunbindSpec] at hc ⊢
  show execSunbind vd s = _
  simp only [execSunbind, hb, hc, Option.isSome_none, Bool.false_eq_true, or_false, if_neg (Nat.not_le.mpr hq)]

/-- A push that pops no binding and appends to none leaves them all (R265). -/
theorem binds_pushed_of_nil {x : Front} {i : Instr} {clock : Nat} {c : Capture} (hp : c.pops = []) (hs : c.stores = []) :
    (x.pushed i clock c).binds = x.binds := by
  simp only [Front.pushed, Front.complete, Front.advanceBinds, hp, hs, List.foldl_nil]

theorem binds_pushed_sunbind {x : Front} {clock : Nat} {win : Nat × Nat} (hb : x.bindOf vd.toNat = none) :
    (x.pushed (.sunbind vd) clock (x.capture win (sunbindSpec vd))).binds = x.binds := by
  refine binds_pushed_of_nil ?_ ?_ <;>
    simp [Front.capture, Front.allUses, PushSpec.further, sunbindSpec, PushSpec.plain, asNone, hb]

theorem closing_of_mem_unbinding {x : Front} {y : Binding} (h : (k, y) ∈ (x.unbinding k).binds) : y.closing = true := by
  obtain ⟨⟨j, z⟩, -, hz⟩ := List.mem_map.mp h
  split at hz
  · cases hz; rfl
  · next hne => cases hz; exact absurd rfl hne

theorem ends_sunbind_unbound (hb : s.me.bindOf vd.toNat = none) (hq : s.me.queue.length < 64)
    (hc : s.me.pushCheck (s.me.capture (s.window s.cur) (sunbindSpec vd)) (sunbindSpec vd) = none) :
    Ends (.sunbind vd) s fun t => Queued s t ∧ t.me.binds = s.me.binds := by
  refine ⟨_, (exec_sunbind_unbound hb).trans (push_ok _ _ hq hc), queued_push s _ _, ?_⟩
  rw [me_setFront_cur]
  exact binds_pushed_sunbind hb

theorem ends_sunbind_bound (hb : s.me.bindOf vd.toNat = some (k, b)) (hq : s.me.queue.length < 64)
    (hc : s.me.pushCheck (s.me.capture (s.window s.cur) (sunbindSpec vd)) (sunbindSpec vd) = none) :
    Ends (.sunbind vd) s fun t => Queued s t ∧ ∀ y, (k, y) ∈ t.me.binds → y.closing = true := by
  refine ⟨_, exec_sunbind_bound hb hq hc, (queued_push s _ _).unbinding k, fun y hy => ?_⟩
  rw [me_setFront_cur] at hy
  exact closing_of_mem_unbinding hy

end

/-- Settles O20: SBIND and SUNBIND are pushes, to which a free binding is added, or of which the name's binding is closed. -/
theorem streamPushes : Obligations.StreamPushes := by
  unfold Obligations.StreamPushes
  intro s vd vx a store hroom p c q
  refine ⟨fun hlen hc => ?sbind, fun hc => ?sunbind⟩
  case sbind =>
    obtain ⟨t, hx, h, hbinding⟩ := ends_sbind (store := store) hroom hlen hc
    exact ⟨t, hx, h.vsn, h.vstart, h.length, h.done, h.regs, h.rest, h.mem, hbinding⟩
  case sunbind =>
    cases hb : s.me.bindOf vd.toNat with
    | none =>
      obtain ⟨t, hx, h, hbinds⟩ := ends_sunbind_unbound hb hroom hc
      exact ⟨t, hx, h.vsn, h.vstart, h.length, h.done, h.regs, h.rest, h.mem, fun _ => hbinds, nofun⟩
    | some r =>
      obtain ⟨t, hx, h, hclosed⟩ := ends_sunbind_bound hb hroom hc
      refine ⟨t, hx, h.vsn, h.vstart, h.length, h.done, h.regs, h.rest, h.mem, nofun, ?_⟩
      rintro k x ⟨⟩
      exact hclosed

end Sys2Proof.Machine
end
